-- ==== Sys2Proof/Word.lean ====
section
/-!
DEFINITION. The word types of the Omvar Beysko and the type of sparse tables.
-/

namespace Sys2Proof

/-- A scalar, address or control register (03 R75, 01 R26). -/
abbrev W64 := BitVec 64

/-- One vector lane, an FP32 or INT32 value (07 R162, R163). -/
abbrev W32 := BitVec 32

/-- One byte of memory (00 R6). -/
abbrev Byte := BitVec 8

/-- 512 bytes: a vector register, an interval register, a queue entry or an accumulator row (07 R162, 03 R84, 05 R126). -/
abbrev Vec := BitVec 4096

/-- A predicate, one bit per lane (07 R162). -/
abbrev Pred := BitVec 128

/-- A sparse table: pairs of a key and a value, keys strictly rising, no pair holding the value that an
absent key reads as. Machine/Table.lean gives reading and writing. -/
abbrev Tab (α : Type) := List (Nat × α)

end Sys2Proof
end

