-- ==== Sys2Proof/Machine/Float.lean ====
section
/-!
DEFINITION. Exact numbers, rounding to a floating-point layout and FP32 arithmetic (03 R79–R81, 06 R141, R153–R155,
07 R167). A finite value is kept exactly as a sign, a natural magnitude and a power of two; every operation computes
exactly and rounds once.
-/

namespace Sys2Proof.Machine

/-- An exact value: a NaN, an infinity, or (−1)^neg × m × 2^e. A zero keeps its sign. -/
inductive Num where
  | nan
  | inf (neg : Bool)
  | fin (neg : Bool) (m : Nat) (e : Int)
deriving DecidableEq, Repr

/-- x × 2^k as a pair (numerator, denominator). -/
def shiftRat (n d : Nat) (k : Int) : Nat × Nat :=
  match k with
  | .ofNat j => (n <<< j, d)
  | .negSucc j => (n, d <<< (j + 1))

/-- floor(log2 (n / d)) for n, d > 0. -/
def ilog2 (n d : Nat) : Int :=
  let k : Int := (Nat.log2 n : Int) - (Nat.log2 d : Int)
  let (a, b) := shiftRat n d (-k)
  if a < b then k - 1 else k

/-- The code of the neighbour of smaller magnitude of n / d in a layout with `m` fraction bits whose subnormals are multiples
of 2^q, the exponent unbounded above, with the distance to it as a fraction of the spacing (06 R153). -/
def floorCode (m : Nat) (q : Int) (n d : Nat) : Nat × Nat × Nat :=
  if n = 0 then (0, 0, 1) else
    let p := max q (ilog2 n d - m)
    let (a, b) := shiftRat n d (-p)
    (((p - q).toNat <<< m) + a / b, a % b, b)

/-- The five rounding modes (06 R153). `rv` is the 32-bit number that RSR compares (R154). -/
inductive RMode where
  | rne
  | rtz
  | rdn
  | rup
  | rsr (rv : Nat)
deriving DecidableEq, Repr

/-- Choose between code `a` and code `a + 1` when the value lies r / d of the way between them (06 R153, R154). -/
def pickCode (mode : RMode) (neg : Bool) (a r d : Nat) : Nat :=
  if r = 0 then a else
    match mode with
    | .rne => if 2 * r < d then a else if d < 2 * r then a + 1 else a + a % 2
    | .rtz => a
    | .rdn => if neg then a + 1 else a
    | .rup => if neg then a else a + 1
    | .rsr rv => if rv < (r <<< 32) / d then a + 1 else a

/-- The magnitude code of n / d rounded into a layout. -/
def roundCode (mode : RMode) (m : Nat) (q : Int) (neg : Bool) (n d : Nat) : Nat :=
  let (a, r, b) := floorCode m q n d
  pickCode mode neg a r b

/-- The magnitude of a finite value as a fraction. -/
def magRat (m : Nat) (e : Int) : Nat × Nat := shiftRat m 1 e

/-! ## FP32 -/

/-- The canonical NaN (06 R141). -/
def f32NaN : W32 := 0x7FC00000#32

/-- An infinity of the given sign. -/
def f32Inf (neg : Bool) : W32 := if neg then 0xFF800000#32 else 0x7F800000#32

/-- A zero of the given sign. -/
def f32Zero (neg : Bool) : W32 := if neg then 0x80000000#32 else 0#32

/-- The largest finite value of the given sign. -/
def f32Max (neg : Bool) : W32 := if neg then 0xFF7FFFFF#32 else 0x7F7FFFFF#32

/-- The FP32 code of magnitude code `c`. -/
def f32Code (neg : Bool) (c : Nat) : W32 := BitVec.ofNat 32 (c + if neg then 0x80000000 else 0)

/-- The value of an FP32 code (06 R141). -/
def f32Num (x : W32) : Num :=
  let n := x.toNat
  let neg := decide (0x80000000 ≤ n)
  let e := n / 0x800000 % 256
  let f := n % 0x800000
  if e = 255 then (if f = 0 then .inf neg else .nan)
  else if e = 0 then .fin neg f (-149)
  else .fin neg (0x800000 + f) ((e : Int) - 150)

/-- round(±n / d, FP32) under `mode`, overflow included as R181 and R79 give it: to nearest an overflow is an infinity; toward
zero, or toward the side where the largest finite value lies, it is that value. -/
def f32Round (mode : RMode) (neg : Bool) (n d : Nat) : W32 :=
  let c := roundCode mode 23 (-149) neg n d
  if c < 0x7F800000 then f32Code neg c
  else match mode with
    | .rne => f32Inf neg
    | .rtz => f32Max neg
    | .rdn => if neg then f32Inf neg else f32Max neg
    | .rup => if neg then f32Max neg else f32Inf neg
    | .rsr _ => f32Inf neg

/-- A signed exact value k × 2^e, rounded; `zneg` is the sign of an exact zero. -/
def f32OfInt (mode : RMode) (zneg : Bool) (k : Int) (e : Int) : W32 :=
  if k = 0 then f32Zero zneg else
    let (n, d) := magRat k.natAbs e
    f32Round mode (decide (k < 0)) n d

/-- The signed integer of a sign and a magnitude. -/
def signInt (neg : Bool) (m : Nat) : Int := if neg then -(m : Int) else m

/-- Two finite values over one power of two. -/
def align (a : Bool) (m : Nat) (e : Int) (b : Bool) (n : Nat) (f : Int) : Int × Int × Int :=
  let g := min e f
  (signInt a (m <<< (e - g).toNat), signInt b (n <<< (f - g).toNat), g)

/-- Exact sum of two values, with the sign that an exact zero takes under rounding to nearest (03 R79, 07 R167). -/
def numAdd (x y : Num) : Num :=
  match x, y with
  | .nan, _ => .nan
  | _, .nan => .nan
  | .inf a, .inf b => if a = b then .inf a else .nan
  | .inf a, .fin _ _ _ => .inf a
  | .fin _ _ _, .inf b => .inf b
  | .fin a m e, .fin b n f =>
    let (p, r, g) := align a m e b n f
    let k := p + r
    if k = 0 then .fin (a && b) 0 g else .fin (decide (k < 0)) k.natAbs g

/-- Sign change. -/
def numNeg : Num → Num
  | .nan => .nan
  | .inf a => .inf (!a)
  | .fin a m e => .fin (!a) m e

/-- Exact product: 0 × infinity is a NaN. -/
def numMul (x y : Num) : Num :=
  match x, y with
  | .nan, _ => .nan
  | _, .nan => .nan
  | .inf a, .inf b => .inf (a != b)
  | .inf a, .fin b n _ => if n = 0 then .nan else .inf (a != b)
  | .fin a m _, .inf b => if m = 0 then .nan else .inf (a != b)
  | .fin a m e, .fin b n f => .fin (a != b) (m * n) (e + f)

/-- round_rne of an exact value into FP32. -/
def numF32 (mode : RMode) (x : Num) : W32 :=
  match x with
  | .nan => f32NaN
  | .inf a => f32Inf a
  | .fin a m e => if m = 0 then f32Zero a else let (n, d) := magRat m e; f32Round mode a n d

/-- FADD, VADD, AACC (03 R79, 05 R135). -/
def f32Add (x y : W32) : W32 := numF32 .rne (numAdd (f32Num x) (f32Num y))

/-- FSUB, VSUB. -/
def f32Sub (x y : W32) : W32 := numF32 .rne (numAdd (f32Num x) (numNeg (f32Num y)))

/-- FMUL, VMUL. -/
def f32Mul (x y : W32) : W32 := numF32 .rne (numMul (f32Num x) (f32Num y))

/-- round_rne(d + a × b), one rounding of the exact value (07 R167). -/
def f32Fma (d a b : W32) : W32 := numF32 .rne (numAdd (f32Num d) (numMul (f32Num a) (f32Num b)))

/-- round_rne(d − a × b). -/
def f32Fms (d a b : W32) : W32 := numF32 .rne (numAdd (f32Num d) (numNeg (numMul (f32Num a) (f32Num b))))

/-- Quotient of two values, rounded (03 R79). -/
def f32DivMode (mode : RMode) (x y : W32) : W32 :=
  match f32Num x, f32Num y with
  | .nan, _ => f32NaN
  | _, .nan => f32NaN
  | .inf _, .inf _ => f32NaN
  | .inf a, .fin b _ _ => f32Inf (a != b)
  | .fin a _ _, .inf b => f32Zero (a != b)
  | .fin a m e, .fin b n f =>
    if n = 0 then (if m = 0 then f32NaN else f32Inf (a != b))
    else if m = 0 then f32Zero (a != b)
    else let (p, q) := shiftRat m n (e - f); f32Round mode (a != b) p q

/-- FDIV, VDIV. -/
def f32Div (x y : W32) : W32 := f32DivMode .rne x y

/-- A NaN of any payload. -/
def f32IsNaN (x : W32) : Bool := match f32Num x with | .nan => true | _ => false

/-- The order key of an FP32 code that is no NaN: −infinity < … < −0 < +0 < … < +infinity. -/
def f32Key (x : W32) : Int :=
  let n := x.toNat
  if 0x80000000 ≤ n then -((n : Int) - 0x80000000) - 1 else n

/-- The same order with the two zeros equal (03 R80). -/
def f32Cmp (x y : W32) : Ordering :=
  let k (z : W32) : Int := if f32Key z = -1 then 0 else f32Key z
  compare (k x) (k y)

/-- FMIN, VMIN: −0 below +0; a NaN operand gives the canonical NaN. -/
def f32Min (x y : W32) : W32 :=
  if f32IsNaN x || f32IsNaN y then f32NaN else if f32Key x ≤ f32Key y then x else y

/-- FMAX, VMAX. -/
def f32MaxOf (x y : W32) : W32 :=
  if f32IsNaN x || f32IsNaN y then f32NaN else if f32Key x ≤ f32Key y then y else x

/-- FCMP.EQ, VCMPEQ (03 R80). -/
def f32Eq (x y : W32) : Bool := !f32IsNaN x && !f32IsNaN y && f32Cmp x y == .eq

/-- FCMP.LT, VCMPLT. -/
def f32Lt (x y : W32) : Bool := !f32IsNaN x && !f32IsNaN y && f32Cmp x y == .lt

/-- FCMP.LE, VCMPLE. -/
def f32Le (x y : W32) : Bool := !f32IsNaN x && !f32IsNaN y && f32Cmp x y != .gt

/-- FCMP.UN, VCMPUN. -/
def f32Un (x y : W32) : Bool := f32IsNaN x || f32IsNaN y

/-- The integer square root of `n`, bit `k` down to bit 0, on top of the root found so far. -/
def isqrtFrom (n : Nat) : Nat → Nat → Nat
  | 0, r => if (r + 1) * (r + 1) ≤ n then r + 1 else r
  | k + 1, r =>
    let c := r + (1 <<< (k + 1))
    isqrtFrom n k (if c * c ≤ n then c else r)

/-- floor(√n). -/
def isqrt (n : Nat) : Nat := isqrtFrom n (Nat.log2 n / 2) 0

/-- √(n / d) as a fraction that rounds as the root does: at least 100 bits of it, and a sticky bit when it goes on (07 R168). -/
def sqrtRat (n d : Nat) : Nat × Nat :=
  let k := Nat.log2 d + 100
  let y := n <<< (2 * k)
  let s := isqrt (y / d)
  if s * s * d = y then (s, 1 <<< k) else (2 * s + 1, 1 <<< (k + 1))

/-- √x (07 R168). -/
def f32Sqrt (x : W32) : W32 :=
  match f32Num x with
  | .nan => f32NaN
  | .inf a => if a then f32NaN else f32Inf false
  | .fin a m e =>
    if m = 0 then f32Zero a else if a then f32NaN
    else let (n, d) := magRat m e; let (p, q) := sqrtRat n d; f32Round .rne false p q

/-- 1 / x (07 R168). -/
def f32Rcp (x : W32) : W32 :=
  match f32Num x with
  | .nan => f32NaN
  | .inf a => f32Zero a
  | .fin a m e => if m = 0 then f32Inf a else let (n, d) := magRat m e; f32Round .rne a d n

/-- 1 / √x (07 R168). -/
def f32Rsq (x : W32) : W32 :=
  match f32Num x with
  | .nan => f32NaN
  | .inf a => if a then f32NaN else f32Zero false
  | .fin a m e =>
    if m = 0 then f32Inf a else if a then f32NaN
    else let (n, d) := magRat m e; let (p, q) := sqrtRat d n; f32Round .rne false p q

/-- FCVT.F2I (03 R81). -/
def f32ToI64 (x : W32) : W64 :=
  match f32Num x with
  | .nan => 0
  | .inf a => if a then BitVec.ofInt 64 (-(2 ^ 63)) else BitVec.ofInt 64 (2 ^ 63 - 1)
  | .fin a m e =>
    let (n, d) := magRat m e
    let k := signInt a (n / d)
    BitVec.ofInt 64 (max (-(2 ^ 63)) (min (2 ^ 63 - 1) k))

/-- FCVT.I2F (03 R81). -/
def i64ToF32 (x : W64) : W32 := f32OfInt .rne false x.toInt 0

/-- FCVT.F2BF (03 R81): BF16, rounded to nearest even. -/
def f32ToBf16 (x : W32) : BitVec 16 :=
  match f32Num x with
  | .nan => 0x7FC0#16
  | .inf a => if a then 0xFF80#16 else 0x7F80#16
  | .fin a m e =>
    let (n, d) := magRat m e
    let c := roundCode .rne 7 (-133) a n d
    BitVec.ofNat 16 (min c 0x7F80 + if a then 0x8000 else 0)

/-- FCVT.BF2F (03 R81). -/
def bf16ToF32 (x : BitVec 16) : W32 :=
  let y : W32 := x ++ 0#16
  if f32IsNaN y then f32NaN else y

end Sys2Proof.Machine
end

