-- ==== Sys2Proof/Machine/Format.lean ====
section
/-!
DEFINITION. Format codes, rounding and saturation of every conversion, wide cells (06_number_formats.md).
-/

namespace Sys2Proof.Machine

/-! ## Codes (R139, R160) -/

/-- A binary8 code: 0x10 to 0x2E but for the unassigned 0x17, 0x1F, 0x27 (R139). -/
def isBinary8 (f : Byte) : Bool :=
  decide (0x10 ≤ f.toNat) && decide (f.toNat < 0x30) && decide (f.toNat % 8 < 7)

/-- The width in bits of an element; 0 for a code that is no format (R139). -/
def fmtBits (f : Byte) : Nat :=
  if f = 0x00 || f = 0x03 then 32
  else if f = 0x01 then 16
  else if f = 0x02 || f = 0x04 || f = 0x31 || f = 0x32 then 8
  else if f = 0x30 then 4
  else if isBinary8 f then 8 else 0

/-- Whether family `fam` accepts the code (R160). -/
def famAccepts (fam : BitVec 3) (v : Byte) : Bool :=
  let n := v.toNat
  match fam.toNat with
  | 0 => n == 0x01 || isBinary8 v || n == 0x30 || n == 0x31
  | 1 => n == 0x01 || isBinary8 v || n == 0x30
  | 2 => n == 0x00 || n == 0x01 || n == 0x02 || n == 0x04 || isBinary8 v || n == 0x30 || n == 0x31
  | 3 => decide (n ≤ 4) || isBinary8 v || n == 0x30 || n == 0x31 || n == 0x32
  | 4 => decide (n ≤ 4) || isBinary8 v || n == 0x30 || n == 0x31
  | 5 => decide (n % 8 ≤ 4) && decide (n / 8 ≤ 2)
  | _ => false

/-- The formats of a wide-cell add: FP32, BF16, binary8 (R35, R151). -/
def isWideFmt (f : Byte) : Bool := f == 0x00 || f == 0x01 || isBinary8 f

/-- Precision, sign and range of a binary8 code (R139). -/
def b8P (f : Byte) : Nat := f.toNat % 8 + 1
def b8Signed (f : Byte) : Bool := decide (f.toNat < 0x20)
def b8Extended (f : Byte) : Bool := decide (f.toNat / 8 % 2 = 0)

/-- The bias b of R143. -/
def b8Bias (f : Byte) : Nat := if b8Signed f then 1 <<< (7 - b8P f) else 1 <<< (8 - b8P f)

/-! ## Decoding (R141–R149) -/

/-- The value of a binary8 code (R143). -/
def b8Num (f : Byte) (c : Nat) : Num :=
  let m := b8P f - 1
  let sg := b8Signed f
  let s := sg && decide (0x80 ≤ c)
  let mag := if sg then c % 0x80 else c
  if (sg && c == 0x80) || (!sg && c == 0xFF) then .nan
  else if b8Extended f && ((sg && mag == 0x7F) || (!sg && c == 0xFE)) then .inf s
  else
    let e := mag >>> m
    let fr := mag % (1 <<< m)
    if mag = 0 then .fin false 0 0
    else if e = 0 then .fin s fr (1 - (b8Bias f : Int) - m)
    else .fin s ((1 <<< m) + fr) ((e : Int) - b8Bias f - m)

/-- The value of an E2M1 code (R147). -/
def e2m1Num (c : Nat) : Num :=
  let s := decide (8 ≤ c)
  let e := c / 2 % 4
  let fr := c % 2
  if e = 0 then .fin s fr (-1) else .fin s (2 + fr) ((e : Int) - 2)

/-- The value of a pexp2 code (R149). -/
def pexp2Num (c : Nat) : Num :=
  if c / 4 = 63 then .fin false 0 0 else .fin false (4 + c % 4) (-(c / 4 : Nat) - 2)

/-- The value of an E8M0 code (R147). -/
def e8m0Num (c : Nat) : Num := if c = 0xFF then .nan else .fin false 1 ((c : Int) - 127)

/-- A two's-complement code of `w` bits. -/
def intNum (w c : Nat) : Num :=
  if c < 2 ^ (w - 1) then .fin false c 0 else .fin true (2 ^ w - c) 0

/-- The value of code `c` in format `f` (R141–R149). -/
def fmtNum (f : Byte) (c : Nat) : Num :=
  if f = 0x00 then f32Num (BitVec.ofNat 32 c)
  else if f = 0x01 then f32Num (BitVec.ofNat 32 (c <<< 16))
  else if f = 0x02 then intNum 8 c
  else if f = 0x03 then intNum 32 c
  else if f = 0x04 then .fin false c 0
  else if f = 0x30 then e2m1Num c
  else if f = 0x31 then pexp2Num c
  else if f = 0x32 then e8m0Num c
  else b8Num f c

/-! ## Encoding (R149, R153–R156) -/

/-- The 32-bit number of R154 for seed, rank, element and counter. -/
def rsrNumber (seed : W64) (k j n : Nat) : Nat :=
  let z : W64 := seed ^^^ BitVec.ofNat 64 (k <<< 56) ^^^ BitVec.ofNat 64 (j <<< 48) ^^^ BitVec.ofNat 64 n
  let z := z + 0x9E3779B97F4A7C15#64
  let z := (z ^^^ (z >>> 30)) * 0xBF58476D1CE4E5B9#64
  let z := (z ^^^ (z >>> 27)) * 0x94D049BB133111EB#64
  let z := z ^^^ (z >>> 31)
  z.toNat >>> 32

/-- The rounding mode of an RND value for element `j` (R153, R154, R159). -/
def rndMode (rnd : Byte) (seed : W64) (k j n : Nat) : RMode :=
  match rnd.toNat % 8 with
  | 0 => .rne
  | 1 => .rtz
  | 2 => .rdn
  | 3 => .rup
  | _ => .rsr (rsrNumber seed k j n)

/-- The saturation field of an RND value (R155, R159). -/
def rndSat (rnd : Byte) : Nat := rnd.toNat / 8 % 4

/-- Conversion to pexp2, whatever RND holds (R149). -/
def toPexp2 (x : Num) : Nat :=
  match x with
  | .nan => 0xFC
  | .inf neg => if neg then 0xFC else 0x03
  | .fin neg m e =>
    if neg || m = 0 then 0xFC else
      let (n, d) := magRat m e
      -- x ≤ 2^−62, x ≥ 15/8
      if n <<< 62 ≤ d then 0xFC
      else if 15 * d ≤ 8 * n then 0x03
      else
        let k := (-(ilog2 n d)).toNat
        -- x × 2^k lies in [1, 2); x ≥ 1 gives k = 0
        let a := (n <<< k) * 4 - 4 * d
        let f := pickCode .rne false (a / d) (a % d) d
        if f = 4 then 4 * (k - 1) else 4 * k + f

/-- The code of an out-of-range or infinite result of sign `neg` in a layout with these codes (R155). -/
def satCode (sat : Nat) (neg : Bool) (maxFin infinity nan signBit : Nat) : Nat :=
  if sat = 2 then nan
  else (if sat = 1 then infinity else maxFin) + if neg then signBit else 0

/-- Round into a sign-and-magnitude layout with `m` fraction bits, spacing exponent `q`, and largest finite magnitude code
`maxFin`. -/
def toFloatCode (mode : RMode) (sat : Nat) (m : Nat) (q : Int) (maxFin infinity nan signBit : Nat) (x : Num) : Nat :=
  match x with
  | .nan => nan
  | .inf neg => satCode sat neg maxFin infinity nan signBit
  | .fin neg a e =>
    let (n, d) := magRat a e
    let c := roundCode mode m q neg n d
    if maxFin < c then satCode sat neg maxFin infinity nan signBit
    else c + if neg then signBit else 0

/-- Conversion to a binary8 format (R143, R155, R156). -/
def toBinary8 (f : Byte) (mode : RMode) (sat : Nat) (x : Num) : Nat :=
  let m := b8P f - 1
  let q : Int := 1 - (b8Bias f : Int) - m
  let ext := b8Extended f
  if b8Signed f then
    let maxFin := if ext then 0x7E else 0x7F
    let inff := if ext then 0x7F else 0x7F
    let c := toFloatCode mode sat m q maxFin inff 0x80 0x80 x
    -- a negative result that rounds to zero is +0, unless it is the NaN code
    match x with
    | .fin true a e =>
      let (n, d) := magRat a e
      if roundCode mode m q true n d = 0 then 0 else c
    | _ => c
  else
    match x with
    | .nan => 0xFF
    | .inf true => 0
    | .fin true _ _ => 0
    | _ =>
      let maxFin := if ext then 0xFD else 0xFE
      toFloatCode mode sat m q maxFin 0xFE 0xFF 0 x

/-- Conversion to an integer range (R155, R156): rounds to an integer and clamps; a NaN gives 0. -/
def toInteger (mode : RMode) (lo hi : Int) (w : Nat) (x : Num) : Nat :=
  match x with
  | .nan => 0
  | .inf neg => (BitVec.ofInt w (if neg then lo else hi)).toNat
  | .fin neg a e =>
    let (n, d) := magRat a e
    let k := signInt neg (pickCode mode neg (n / d) (n % d) d)
    (BitVec.ofInt w (max lo (min hi k))).toNat

/-- The code of an exact value in format `f` (R149, R153–R156). -/
def toFmt (f : Byte) (mode : RMode) (sat : Nat) (x : Num) : Nat :=
  if f = 0x00 then toFloatCode mode sat 23 (-149) 0x7F7FFFFF 0x7F800000 0x7FC00000 0x80000000 x
  else if f = 0x01 then toFloatCode mode sat 7 (-133) 0x7F7F 0x7F80 0x7FC0 0x8000 x
  else if f = 0x02 then toInteger mode (-128) 127 8 x
  else if f = 0x03 then toInteger mode (-(2 ^ 31)) (2 ^ 31 - 1) 32 x
  else if f = 0x04 then toInteger mode 0 255 8 x
  else if f = 0x30 then
    match x with
    | .nan => 0
    | x => toFloatCode mode 0 1 (-1) 7 7 0 8 x
  else if f = 0x31 then toPexp2 x
  else toBinary8 f mode sat x

/-- One conversion (R156). -/
def convert (src dst : Byte) (mode : RMode) (sat : Nat) (c : Nat) : Nat := toFmt dst mode sat (fmtNum src c)

/-! ## Wide cells (R150–R152) -/

/-- V and status of a wide cell. -/
structure Wide where
  v : BitVec 512
  st : Byte
deriving DecidableEq, Repr

/-- A wide-cell add of a value (R151). -/
def Wide.add (c : Wide) (x : Num) : Wide :=
  match x with
  | .nan => { c with st := c.st ||| 2 }
  | .inf neg => { c with st := c.st ||| if neg then 8 else 4 }
  | .fin neg m e =>
    let (n, d) := magRat m (e + 192)
    let w : Int := c.v.toInt + signInt neg (n / d)
    if w > 2 ^ 511 - 1 then { v := BitVec.ofInt 512 (2 ^ 511 - 1), st := c.st ||| 1 }
    else if w < -(2 ^ 511) then { v := BitVec.ofInt 512 (-(2 ^ 511)), st := c.st ||| 1 }
    else { c with v := BitVec.ofInt 512 w }

/-- The FP32 reading of a wide cell (R152). -/
def Wide.read (c : Wide) : W32 :=
  let ovf := c.st.getLsbD 0
  let nan := c.st.getLsbD 1
  let pinf := c.st.getLsbD 2
  let ninf := c.st.getLsbD 3
  if nan || ovf || (pinf && ninf) then f32NaN
  else if pinf then f32Inf false
  else if ninf then f32Inf true
  else f32OfInt .rne false c.v.toInt (-192)

end Sys2Proof.Machine
end

