-- ==== Sys2Proof/Syntax.lean ====
section
/-!
DEFINITION. Syntax of the Omvar Beysko: one constructor per row of spec/opcode_table.json.
A slot word keeps every field of its encoding at its own width (01 R20, R22); `iq` is the iteration qualifier.
The rows without a word are the machine's own steps and the commands of the outside (95_what_each_step_holds.md);
their arguments name the agent, queue, pitch, task set or interface that the step acts on.
-/

namespace Sys2Proof

/-- What a depart move (10 R228, M4 and M7) sends on its route: the head of an agent's far load queue or far store queue, or access
number `j` of those that its engine operation on context `c` has still to make. -/
inductive DepartOf where
  | load
  | store
  | element (c : BitVec 3) (j : Nat)
deriving DecidableEq, Repr

/-- A row group whose timestamp is looked at, with its die's temperature in degrees (14 R310, 23 R370). -/
structure RefreshAt where
  group : Nat
  celsius : Nat
deriving DecidableEq, Repr

/-- What a host access does (04 R114): read, or write these bytes; `cached` asks for a cacheable copy of the lines. -/
inductive HostOp where
  | read (cached : Bool)
  | write (bytes : List (BitVec 8)) (cached : Bool)
deriving DecidableEq, Repr

/-- The host's new answer for a range of pages (14 R306, R307): refused, or the host frames from that of `phys` on. -/
inductive AtsAnswer where
  | refused
  | frames (phys : BitVec 64)
deriving DecidableEq, Repr

/-- Where a received work entry comes from (16 R337): the oldest unreceived entry handed to a LOOP queue pair,
or an entry, with its data, that another node sends to local queue pair `qp`. -/
inductive ReceiveFrom where
  | loop (qp : BitVec 10)
  | node (qp : BitVec 10) (entry : BitVec 512) (data : List (BitVec 8))
deriving DecidableEq, Repr

/-- The rows of spec/opcode_table.json. UIRET, ERET, HALT and MSWB, whose words hold nothing but the qualifier, have one constructor per
qualifier, without a field: compiled Lean can build at most 244 constructors with fields (log 11). -/
inductive Instr where
  -- slot 0: control (01 R25)
  | br (iq : BitVec 2) (disp : BitVec 24)
  | bc (iq : BitVec 2) (cond : BitVec 4) (s : BitVec 5) (disp : BitVec 15)
  | bpany (iq : BitVec 2) (p : BitVec 3) (disp : BitVec 15)
  | bpnone (iq : BitVec 2) (p : BitVec 3) (disp : BitVec 15)
  | call (iq : BitVec 2) (disp : BitVec 24)
  | jr (iq : BitVec 2) (s : BitVec 5)
  | ret (iq : BitVec 2)
  | loop (iq : BitVec 2) (lvl : BitVec 3) (s : BitVec 5) (len : BitVec 16)
  | loopi (iq : BitVec 2) (lvl : BitVec 3) (cnt : BitVec 13) (len : BitVec 8)
  | loops (iq : BitVec 2) (lvl : BitVec 3) (bs : BitVec 5) (len : BitVec 16)
  | lbreak (iq : BitVec 2) (lvl : BitVec 3)
  | lstride (iq : BitVec 2) (lvl : BitVec 3) (a : BitVec 4) (s : BitVec 5)
  | lidx (iq : BitVec 2) (d : BitVec 5) (lvl : BitVec 3)
  | ckpt (iq : BitVec 2)
  | ckptl (iq : BitVec 2)
  | fmt (iq : BitVec 2) (fam : BitVec 3) (val : BitVec 8)
  | fmts (iq : BitVec 2) (fam : BitVec 3) (s : BitVec 5)
  | wfe (iq : BitVec 2)
  | sev (iq : BitVec 2) (s : BitVec 5)
  | waitt (iq : BitVec 2) (s : BitVec 5)
  | qwait (iq : BitVec 2) (q n : BitVec 4)
  | qalign (iq : BitVec 2) (far near : BitVec 1)
  | fence (iq : BitVec 2) (scope : BitVec 3) (kind : BitVec 2)
  | uimask (iq : BitVec 2) (m : BitVec 1)
  | trap (iq : BitVec 2) (imm : BitVec 16)
  | csrr (iq : BitVec 2) (d : BitVec 5) (csr : BitVec 12)
  | csrw (iq : BitVec 2) (s : BitVec 5) (csr : BitVec 12)
  | brk (iq : BitVec 2) (imm : BitVec 16)
  | twait (iq : BitVec 2) (c : BitVec 3) (s : BitVec 5)
  | twaita (iq : BitVec 2) (a : BitVec 4) (s : BitVec 5)
  | sleepc (iq : BitVec 2) (s : BitVec 5)
  -- slots 1 and 2: scalar (01 R28)
  | add (iq : BitVec 2) (d a b : BitVec 5)
  | sub (iq : BitVec 2) (d a b : BitVec 5)
  | addi (iq : BitVec 2) (d a : BitVec 5) (imm : BitVec 14)
  | mul (iq : BitVec 2) (d a b : BitVec 5)
  | mulh (iq : BitVec 2) (d a b : BitVec 5)
  | mulhu (iq : BitVec 2) (d a b : BitVec 5)
  | div (iq : BitVec 2) (d a b : BitVec 5)
  | divu (iq : BitVec 2) (d a b : BitVec 5)
  | rem (iq : BitVec 2) (d a b : BitVec 5)
  | remu (iq : BitVec 2) (d a b : BitVec 5)
  | and (iq : BitVec 2) (d a b : BitVec 5)
  | or (iq : BitVec 2) (d a b : BitVec 5)
  | xor (iq : BitVec 2) (d a b : BitVec 5)
  | andi (iq : BitVec 2) (d a : BitVec 5) (imm : BitVec 14)
  | ori (iq : BitVec 2) (d a : BitVec 5) (imm : BitVec 14)
  | xori (iq : BitVec 2) (d a : BitVec 5) (imm : BitVec 14)
  | sll (iq : BitVec 2) (d a b : BitVec 5)
  | srl (iq : BitVec 2) (d a b : BitVec 5)
  | sra (iq : BitVec 2) (d a b : BitVec 5)
  | slli (iq : BitVec 2) (d a : BitVec 5) (sh : BitVec 6)
  | srli (iq : BitVec 2) (d a : BitVec 5) (sh : BitVec 6)
  | srai (iq : BitVec 2) (d a : BitVec 5) (sh : BitVec 6)
  | slt (iq : BitVec 2) (d a b : BitVec 5)
  | sltu (iq : BitVec 2) (d a b : BitVec 5)
  | slti (iq : BitVec 2) (d a : BitVec 5) (imm : BitVec 14)
  | min (iq : BitVec 2) (d a b : BitVec 5)
  | max (iq : BitVec 2) (d a b : BitVec 5)
  | minu (iq : BitVec 2) (d a b : BitVec 5)
  | maxu (iq : BitVec 2) (d a b : BitVec 5)
  | clz (iq : BitVec 2) (d a : BitVec 5)
  | popc (iq : BitVec 2) (d a : BitVec 5)
  | cmov (iq : BitVec 2) (d a b : BitVec 5)
  | li (iq : BitVec 2) (d : BitVec 5) (imm : BitVec 19)
  | lui (iq : BitVec 2) (d : BitVec 5) (imm : BitVec 19)
  | adds (iq : BitVec 2) (d a b : BitVec 5)
  | subs (iq : BitVec 2) (d a b : BitVec 5)
  | amov (iq : BitVec 2) (d : BitVec 4) (a : BitVec 5)
  | aget (iq : BitVec 2) (d : BitVec 5) (a : BitVec 4)
  | aadd (iq : BitVec 2) (d a : BitVec 4) (b : BitVec 5)
  | aaddi (iq : BitVec 2) (d a : BitVec 4) (imm : BitVec 14)
  | agen (iq : BitVec 2) (d : BitVec 4) (a b : BitVec 5) (layer : BitVec 8)
  | fadd (iq : BitVec 2) (d a b : BitVec 5)
  | fsub (iq : BitVec 2) (d a b : BitVec 5)
  | fmul (iq : BitVec 2) (d a b : BitVec 5)
  | fdiv (iq : BitVec 2) (d a b : BitVec 5)
  | fmin (iq : BitVec 2) (d a b : BitVec 5)
  | fmax (iq : BitVec 2) (d a b : BitVec 5)
  | fcmpEq (iq : BitVec 2) (d a b : BitVec 5)
  | fcmpLt (iq : BitVec 2) (d a b : BitVec 5)
  | fcmpLe (iq : BitVec 2) (d a b : BitVec 5)
  | fcmpUn (iq : BitVec 2) (d a b : BitVec 5)
  | fcvtF2i (iq : BitVec 2) (d a : BitVec 5)
  | fcvtI2f (iq : BitVec 2) (d a : BitVec 5)
  | fcvtF2bf (iq : BitVec 2) (d a : BitVec 5)
  | fcvtBf2f (iq : BitVec 2) (d a : BitVec 5)
  | qpops (iq : BitVec 2) (d : BitVec 5) (q : BitVec 4) (pk : BitVec 1) (w : BitVec 6)
  | qpushs (iq : BitVec 2) (q : BitVec 4) (a : BitVec 5)
  | shw (iq slot h : BitVec 2) (a : BitVec 5) (field : BitVec 9)
  | shr (iq : BitVec 2) (d : BitVec 5) (slot h : BitVec 2) (field : BitVec 9)
  | rdrankRank (iq : BitVec 2) (d : BitVec 5)
  | rdrankLoom (iq : BitVec 2) (d : BitVec 5)
  | rdrankDie (iq : BitVec 2) (d : BitVec 5)
  | rdrankCore (iq : BitVec 2) (d : BitVec 5)
  -- slot 3: near store (01 R30)
  | nld (iq : BitVec 2) (q a : BitVec 4) (pi : BitVec 1) (off : BitVec 15)
  | nldh (iq : BitVec 2) (q a : BitVec 4) (pi : BitVec 1) (off : BitVec 15)
  | nldb (iq : BitVec 2) (q a : BitVec 4) (pi : BitVec 1) (off : BitVec 15)
  | nldx (iq : BitVec 2) (q a : BitVec 4) (pi : BitVec 1) (s : BitVec 5) (off : BitVec 10)
  | nst (iq : BitVec 2) (q a : BitVec 4) (pi : BitVec 1) (off : BitVec 15)
  | nsth (iq : BitVec 2) (q a : BitVec 4) (pi : BitVec 1) (off : BitVec 15)
  | nstx (iq : BitVec 2) (q a : BitVec 4) (pi : BitVec 1) (s : BitVec 5) (off : BitVec 10)
  -- slot 4: accumulator store (01 R31)
  | ard (iq : BitVec 2) (q t a : BitVec 4) (pi : BitVec 1) (row : BitVec 7)
  | ardc (iq : BitVec 2) (q t a : BitVec 4) (pi : BitVec 1) (row : BitVec 7)
  | awr (iq : BitVec 2) (q t a : BitVec 4) (pi : BitVec 1) (row : BitVec 7)
  | aacc (iq : BitVec 2) (q t a : BitVec 4) (pi : BitVec 1) (row : BitVec 7)
  | azero (iq : BitVec 2) (t a : BitVec 4) (pi : BitVec 1) (row : BitVec 7)
  | ascl (iq : BitVec 2) (q t : BitVec 4)
  | ardt (iq : BitVec 2) (q t a : BitVec 4) (pi : BitVec 1) (row : BitVec 7)
  -- slot 5: vector, predicate, interval (01 R32, R33)
  | vadd (iq : BitVec 2) (vd va vb : BitVec 5) (ma mb : BitVec 2) (pg : BitVec 3) (md : BitVec 2)
  | vsub (iq : BitVec 2) (vd va vb : BitVec 5) (ma mb : BitVec 2) (pg : BitVec 3) (md : BitVec 2)
  | vmul (iq : BitVec 2) (vd va vb : BitVec 5) (ma mb : BitVec 2) (pg : BitVec 3) (md : BitVec 2)
  | vfma (iq : BitVec 2) (vd va vb : BitVec 5) (ma mb : BitVec 2) (pg : BitVec 3)
  | vfms (iq : BitVec 2) (vd va vb : BitVec 5) (ma mb : BitVec 2) (pg : BitVec 3)
  | vmin (iq : BitVec 2) (vd va vb : BitVec 5) (ma mb : BitVec 2) (pg : BitVec 3) (md : BitVec 2)
  | vmax (iq : BitVec 2) (vd va vb : BitVec 5) (ma mb : BitVec 2) (pg : BitVec 3) (md : BitVec 2)
  | vabs (iq : BitVec 2) (vd va : BitVec 5) (ma : BitVec 2) (pg : BitVec 3) (md : BitVec 2)
  | vneg (iq : BitVec 2) (vd va : BitVec 5) (ma : BitVec 2) (pg : BitVec 3) (md : BitVec 2)
  | vrcp (iq : BitVec 2) (vd va : BitVec 5) (ma : BitVec 2) (pg : BitVec 3) (md : BitVec 2)
  | vrsq (iq : BitVec 2) (vd va : BitVec 5) (ma : BitVec 2) (pg : BitVec 3) (md : BitVec 2)
  | vsqrt (iq : BitVec 2) (vd va : BitVec 5) (ma : BitVec 2) (pg : BitVec 3) (md : BitVec 2)
  | vdiv (iq : BitVec 2) (vd va vb : BitVec 5) (ma mb : BitVec 2) (pg : BitVec 3) (md : BitVec 2)
  | vexp2 (iq : BitVec 2) (vd va : BitVec 5) (ma : BitVec 2) (pg : BitVec 3) (md : BitVec 2)
  | vexp (iq : BitVec 2) (vd va : BitVec 5) (ma : BitVec 2) (pg : BitVec 3) (md : BitVec 2)
  | vlog2 (iq : BitVec 2) (vd va : BitVec 5) (ma : BitVec 2) (pg : BitVec 3) (md : BitVec 2)
  | vsig (iq : BitVec 2) (vd va : BitVec 5) (ma : BitVec 2) (pg : BitVec 3) (md : BitVec 2)
  | vtanh (iq : BitVec 2) (vd va : BitVec 5) (ma : BitVec 2) (pg : BitVec 3) (md : BitVec 2)
  | vcvt (iq : BitVec 2) (vd va : BitVec 5) (ma : BitVec 2) (pg : BitVec 3) (md : BitVec 2)
  | vpexp (iq : BitVec 2) (vd va vb : BitVec 5) (ma mb : BitVec 2) (pg : BitVec 3) (md : BitVec 2)
  | vpmac (iq : BitVec 2) (vd va vb : BitVec 5) (ma mb : BitVec 2) (pg : BitVec 3)
  | vcmpeq (iq : BitVec 2) (pd : BitVec 3) (va vb : BitVec 5) (ma mb : BitVec 2) (pg : BitVec 3)
  | vcmplt (iq : BitVec 2) (pd : BitVec 3) (va vb : BitVec 5) (ma mb : BitVec 2) (pg : BitVec 3)
  | vcmple (iq : BitVec 2) (pd : BitVec 3) (va vb : BitVec 5) (ma mb : BitVec 2) (pg : BitVec 3)
  | vcmpun (iq : BitVec 2) (pd : BitVec 3) (va vb : BitVec 5) (ma mb : BitVec 2) (pg : BitVec 3)
  | viadd (iq : BitVec 2) (vd va vb : BitVec 5) (ma mb : BitVec 2) (pg : BitVec 3) (md : BitVec 2)
  | visub (iq : BitVec 2) (vd va vb : BitVec 5) (ma mb : BitVec 2) (pg : BitVec 3) (md : BitVec 2)
  | vimul (iq : BitVec 2) (vd va vb : BitVec 5) (ma mb : BitVec 2) (pg : BitVec 3) (md : BitVec 2)
  | vimin (iq : BitVec 2) (vd va vb : BitVec 5) (ma mb : BitVec 2) (pg : BitVec 3) (md : BitVec 2)
  | vimax (iq : BitVec 2) (vd va vb : BitVec 5) (ma mb : BitVec 2) (pg : BitVec 3) (md : BitVec 2)
  | vand (iq : BitVec 2) (vd va vb : BitVec 5) (ma mb : BitVec 2) (pg : BitVec 3) (md : BitVec 2)
  | vor (iq : BitVec 2) (vd va vb : BitVec 5) (ma mb : BitVec 2) (pg : BitVec 3) (md : BitVec 2)
  | vxor (iq : BitVec 2) (vd va vb : BitVec 5) (ma mb : BitVec 2) (pg : BitVec 3) (md : BitVec 2)
  | vnot (iq : BitVec 2) (vd va : BitVec 5) (ma : BitVec 2) (pg : BitVec 3) (md : BitVec 2)
  | vshl (iq : BitVec 2) (vd va vb : BitVec 5) (ma mb : BitVec 2) (pg : BitVec 3) (md : BitVec 2)
  | vshr (iq : BitVec 2) (vd va vb : BitVec 5) (ma mb : BitVec 2) (pg : BitVec 3) (md : BitVec 2)
  | vsra (iq : BitVec 2) (vd va vb : BitVec 5) (ma mb : BitVec 2) (pg : BitVec 3) (md : BitVec 2)
  | vdot4 (iq : BitVec 2) (vd va vb : BitVec 5) (ma mb : BitVec 2) (pg : BitVec 3) (md : BitVec 2)
  | vicmpeq (iq : BitVec 2) (pd : BitVec 3) (va vb : BitVec 5) (ma mb : BitVec 2) (pg : BitVec 3)
  | vicmplt (iq : BitVec 2) (pd : BitVec 3) (va vb : BitVec 5) (ma mb : BitVec 2) (pg : BitVec 3)
  | vmov (iq : BitVec 2) (vd va : BitVec 5) (ma : BitVec 2) (pg : BitVec 3) (md : BitVec 2)
  | vsel (iq : BitVec 2) (vd va vb : BitVec 5) (ma mb : BitVec 2) (pg : BitVec 3) (md : BitVec 2)
  | vperm (iq : BitVec 2) (vd va vb : BitVec 5) (ma mb : BitVec 2) (pg : BitVec 3) (md : BitVec 2)
  | vrot (iq : BitVec 2) (vd va vb : BitVec 5) (ma mb : BitVec 2) (pg : BitVec 3) (md : BitVec 2)
  | viota (iq : BitVec 2) (vd : BitVec 5) (pg : BitVec 3) (md : BitVec 2)
  | vpack (iq : BitVec 2) (vd va vb : BitVec 5) (ma mb : BitVec 2) (pg : BitVec 3) (md : BitVec 2)
  | vunpk (iq : BitVec 2) (vd va : BitVec 5) (ma : BitVec 2) (pg : BitVec 3) (md : BitVec 2)
  | vrsum (iq : BitVec 2) (vd va : BitVec 5) (ma : BitVec 2) (pg : BitVec 3) (md : BitVec 2)
  | vrmax (iq : BitVec 2) (vd va : BitVec 5) (ma : BitVec 2) (pg : BitVec 3) (md : BitVec 2)
  | vrmin (iq : BitVec 2) (vd va : BitVec 5) (ma : BitVec 2) (pg : BitVec 3) (md : BitVec 2)
  | vmaxi (iq : BitVec 2) (vd va : BitVec 5) (ma : BitVec 2) (pg : BitVec 3) (md : BitVec 2)
  | vmini (iq : BitVec 2) (vd va : BitVec 5) (ma : BitVec 2) (pg : BitVec 3) (md : BitVec 2)
  | vscan (iq : BitVec 2) (vd va : BitVec 5) (ma : BitVec 2) (pg : BitVec 3) (md : BitVec 2)
  | pand (iq : BitVec 2) (pd pa pb : BitVec 3)
  | por (iq : BitVec 2) (pd pa pb : BitVec 3)
  | pxor (iq : BitVec 2) (pd pa pb : BitVec 3)
  | pnot (iq : BitVec 2) (pd pa : BitVec 3)
  | pcnt (iq : BitVec 2) (d : BitVec 5) (pa : BitVec 3)
  | pset (iq : BitVec 2) (pd : BitVec 3) (s : BitVec 5)
  | iadd (iq : BitVec 2) (id ia ib : BitVec 4)
  | isub (iq : BitVec 2) (id ia ib : BitVec 4)
  | imul (iq : BitVec 2) (id ia ib : BitVec 4)
  | idiv (iq : BitVec 2) (id ia ib : BitVec 4)
  | isqr (iq : BitVec 2) (id ia : BitVec 4)
  | isqrt (iq : BitVec 2) (id ia : BitVec 4)
  | iexp (iq : BitVec 2) (id ia : BitVec 4)
  | ilog (iq : BitVec 2) (id ia : BitVec 4)
  | imin (iq : BitVec 2) (id ia ib : BitVec 4)
  | imax (iq : BitVec 2) (id ia ib : BitVec 4)
  | iabs (iq : BitVec 2) (id ia : BitVec 4)
  | iaddB (iq : BitVec 2) (id ia ib : BitVec 4)
  | isubB (iq : BitVec 2) (id ia ib : BitVec 4)
  | imulB (iq : BitVec 2) (id ia ib : BitVec 4)
  | idivB (iq : BitVec 2) (id ia ib : BitVec 4)
  | isqrB (iq : BitVec 2) (id ia : BitVec 4)
  | isqrtB (iq : BitVec 2) (id ia : BitVec 4)
  | iexpB (iq : BitVec 2) (id ia : BitVec 4)
  | ilogB (iq : BitVec 2) (id ia : BitVec 4)
  | iminB (iq : BitVec 2) (id ia ib : BitVec 4)
  | imaxB (iq : BitVec 2) (id ia ib : BitVec 4)
  | iabsB (iq : BitVec 2) (id ia : BitVec 4)
  | ihull (iq : BitVec 2) (id ia ib : BitVec 4)
  | imeet (iq : BitVec 2) (id ia ib : BitVec 4)
  | isplit (iq : BitVec 2) (id ia ib : BitVec 4)
  | ifrom (iq : BitVec 2) (id ia ib : BitVec 4)
  | itolo (iq : BitVec 2) (id ia : BitVec 4)
  | itohi (iq : BitVec 2) (id ia : BitVec 4)
  | imid (iq : BitVec 2) (id ia : BitVec 4)
  | iwid (iq : BitVec 2) (id ia : BitVec 4)
  | icmplt (iq : BitVec 2) (ia ib : BitVec 4) (tp : BitVec 3)
  | icmple (iq : BitVec 2) (ia ib : BitVec 4) (tp : BitVec 3)
  | icmpeq (iq : BitVec 2) (ia ib : BitVec 4) (tp : BitVec 3)
  | isubset (iq : BitVec 2) (ia ib : BitVec 4) (tp : BitVec 3)
  | idisj (iq : BitVec 2) (ia ib : BitVec 4) (tp : BitVec 3)
  -- slot 6: matrix array (01 R34)
  | mldb (iq : BitVec 2) (a : BitVec 4) (off : BitVec 20)
  | mma (iq : BitVec 2) (t q : BitVec 4) (pk : BitVec 1) (rows : BitVec 7)
  | mmaz (iq : BitVec 2) (t q : BitVec 4) (pk : BitVec 1) (rows : BitVec 7)
  | mrep (iq : BitVec 2) (n : BitVec 8)
  | mdrain (iq : BitVec 2) (t : BitVec 4)
  | mldbl (iq : BitVec 2) (a : BitVec 4) (off : BitVec 20)
  -- slot 7: engine port (01 R35)
  | fld (iq c h : BitVec 2) (sw : BitVec 1)
  | flds (iq c : BitVec 2) (s : BitVec 5)
  | fst (iq h : BitVec 2) (sw : BitVec 1) (q : BitVec 4)
  | fsts (iq : BitVec 2) (s : BitVec 5) (q : BitVec 4)
  | amadd (iq : BitVec 2) (s s2 : BitVec 5) (wd : BitVec 2)
  | amaddF (iq c : BitVec 2) (s s2 : BitVec 5) (wd : BitVec 2)
  | ammax (iq : BitVec 2) (s s2 : BitVec 5) (wd : BitVec 2)
  | ammaxF (iq c : BitVec 2) (s s2 : BitVec 5) (wd : BitVec 2)
  | ammin (iq : BitVec 2) (s s2 : BitVec 5) (wd : BitVec 2)
  | amminF (iq c : BitVec 2) (s s2 : BitVec 5) (wd : BitVec 2)
  | amxchg (iq c : BitVec 2) (s s2 : BitVec 5) (wd : BitVec 2)
  | amcas (iq c : BitVec 2) (s : BitVec 5) (s2 : BitVec 4) (wd : BitVec 2)
  | wcadd (iq : BitVec 2) (s s2 : BitVec 5) (code : BitVec 8)
  | wcaddv (iq : BitVec 2) (s : BitVec 5) (q : BitVec 4) (code : BitVec 8)
  | wcread (iq c : BitVec 2) (s : BitVec 5)
  | xcopy (iq c h : BitVec 2) (sw : BitVec 1) (hsrc : BitVec 2)
  | xgather (iq c h : BitVec 2) (sw : BitVec 1) (s s2 : BitVec 5) (hsrc : BitVec 2)
  | xscatter (iq c h : BitVec 2) (sw : BitVec 1) (s s2 : BitVec 5) (hsrc : BitVec 2)
  | xfill (iq c h : BitVec 2) (sw : BitVec 1) (s : BitVec 5)
  | wstream (iq h : BitVec 2) (sw enc : BitVec 1) (hsrc : BitVec 2)
  | xsplice (iq c h : BitVec 2) (sw : BitVec 1) (s s2 : BitVec 5)
  | xdarn (iq c h : BitVec 2) (sw : BitVec 1) (s s2 : BitVec 5)
  | xdarnc (iq c : BitVec 2) (s : BitVec 5)
  | xnote (iq : BitVec 2) (s : BitVec 5) (c : BitVec 3)
  | tread (iq : BitVec 2) (s : BitVec 5) (c : BitVec 3)
  | xqp (iq : BitVec 2) (s s2 : BitVec 5)
  | xmbox (iq : BitVec 2) (s s2 : BitVec 5)
  | xarm (iq : BitVec 2) (s s2 : BitVec 5)
  | xlaunch (iq : BitVec 2) (s s2 : BitVec 5)
  | rent (iq : BitVec 2) (s s2 : BitVec 5) (att tier : BitVec 3)
  | renew (iq : BitVec 2) (s s2 : BitVec 5) (tier : BitVec 3)
  | prepay (iq : BitVec 2) (s s2 : BitVec 5) (tier : BitVec 3)
  | sublet (iq : BitVec 2) (s s2 : BitVec 5) (rw : BitVec 1) (tier : BitVec 3)
  | vacate (iq : BitVec 2) (s s2 : BitVec 5) (tier : BitVec 3)
  | rentq (iq : BitVec 2) (s s2 : BitVec 5) (tier : BitVec 3)
  | allowq (iq : BitVec 2) (s : BitVec 5)
  -- steps of the machine and commands from outside (95_what_each_step_holds.md)
  | istatRead (iq : BitVec 2) (d : BitVec 5)
  | srseedWrite (iq : BitVec 2) (s : BitVec 5)
  | skewWrite (iq : BitVec 2) (s : BitVec 5)
  | rateWrite (iq : BitVec 2) (s : BitVec 5) (tier : BitVec 3)
  | sliceWrite (iq : BitVec 2) (s : BitVec 5)
  | evcntWrite (iq : BitVec 2) (s : BitVec 5) (k : BitVec 3)
  | genayReply (n : BitVec 9) (base : BitVec 57)
  | resultLanding (n : BitVec 9)
  | nearPerform (n : BitVec 9)
  | planeLoadLand (n : BitVec 9)
  | partialSumAdd (n : BitVec 9)
  | scoreboardStallEnd (n : BitVec 9)
  | mdrainEnd (n : BitVec 9)
  | checkpointComplete (n : BitVec 9)
  | waittEnd (n : BitVec 9)
  | sleepcEnd (n : BitVec 9)
  | qwaitEnd (n : BitVec 9)
  | twaitEnd (n : BitVec 9)
  | twaitaPoll (n : BitVec 9)
  | wfeWake (n : BitVec 9)
  | depart (n : BitVec 9) (what : DepartOf)
  | hop (k : Nat)
  | perform (k : Nat)
  | arrive (k : Nat)
  | start (n : BitVec 9) (c : BitVec 3)
  | darncStart (n : BitVec 9) (c : BitVec 3)
  | tileLaunchStart (n : BitVec 9)
  | complete (n : BitVec 9) (c : BitVec 3)
  | workEntryComplete (qp : BitVec 10) (cc : BitVec 8)
  | fabricReceive (src : ReceiveFrom)
  | rentCommit (n : BitVec 9)
  | rentClockTick
  | pitchExpiry (k : Nat)
  | overstayTick (k : Nat)
  | scrubStart (k : Nat)
  | scrubDone (k : Nat)
  | rentScrubWait (n : BitVec 9) (base : BitVec 57)
  | rowGroupRefresh (r : RefreshAt)
  | patrolScrub (line : Nat)
  | quarantine (unit : BitVec 8) (pc : BitVec 16)
  | powerSample (watts : Nat) (amps : Nat)
  | thermalThrottle (celsius : Nat)
  | thermalTrip (celsius : Nat)
  | packageReset
  | taskPlacement (part : BitVec 5)
  | taskStart (ts : Nat) (j : Nat)
  | dependenceMet (ts : Nat)
  | sliceExpiry (ts : Nat) (j : Nat)
  | watchdogExpiry (ts : Nat)
  | drainForceStop (n : BitVec 9)
  | taskSetCompletion (ts : Nat)
  | msixTimer (q : BitVec 6)
  | notifyTail (q : BitVec 6) (v : BitVec 64)
  | notifyPrio (q : BitVec 6) (v : BitVec 64)
  | notifyInvalidWrite (q : BitVec 6) (off : BitVec 12) (size : Nat)
  | launch (q : BitVec 6)
  | barrier (q : BitVec 6)
  | credit (q : BitVec 6)
  | report (q : BitVec 6)
  | account (q : BitVec 6)
  | partition (q : BitVec 6)
  | queue (q : BitVec 6)
  | pasidrevRevoke (q : BitVec 6)
  | pasidrevRestore (q : BitVec 6)
  | pageUnmap (q : BitVec 6)
  | pageReadonly (q : BitVec 6)
  | pageWritable (q : BitVec 6)
  | pageDemote (q : BitVec 6)
  | pageShare (q : BitVec 6)
  | desc (q : BitVec 6)
  | status (q : BitVec 6)
  | debugStop (q : BitVec 6)
  | debugResume (q : BitVec 6)
  | saveioRead (q : BitVec 6)
  | saveioWrite (q : BitVec 6)
  | fwpatch (q : BitVec 6)
  | fwstage (q : BitVec 6)
  | fwupdate (q : BitVec 6)
  | qpRecordWrite (qp : BitVec 10) (rec : BitVec 512)
  | hostMemoryAccess (addr : BitVec 64) (len : Nat) (op : HostOp)
  | atsInvalidation (pasid : BitVec 20) (addr len : BitVec 64) (answer : AtsAnswer) (readOnly : Bool)
  | pasidStop (pasid : BitVec 20)
  | tdispMessage (q : BitVec 6) (st : BitVec 2)
  | spdmMessage (q : BitVec 6) (index : BitVec 8)
  | fabricLaunch (node : BitVec 16) (hdr : BitVec 512) (image : BitVec 64) (len : BitVec 64)
  | fwupdateTimeout
  | entryRead (n : BitVec 9)
  | linkFailure (qp : BitVec 10)
  -- words without an operand: NOP, and UIRET, ERET, HALT and MSWB with no qualifier, .first and .last
  | nop
  | uiret
  | uiretFirst
  | uiretLast
  | eret
  | eretFirst
  | eretLast
  | halt
  | haltFirst
  | haltLast
  | mswb
  | mswbFirst
  | mswbLast
deriving DecidableEq, Repr

end Sys2Proof
end

