-- ==== Sys2Proof/WellFormed.lean ====
section
/-!
DEFINITION. Well-formed instructions: the field limits of 01 R20 to R35. The decoder refuses every other word.
-/

namespace Sys2Proof

/-- A CSR number that R26 lists; 0x210 to 0x22F exist in loom controllers only (R27). -/
def csrListed (c : BitVec 12) : Bool :=
  let k := c.toNat
  decide (k ≤ 0x006) || decide (0x010 ≤ k ∧ k ≤ 0x017) || decide (0x020 ≤ k ∧ k ≤ 0x023) || decide (k = 0x030 ∨ k = 0x031) ||
    decide (0x040 ≤ k ∧ k ≤ 0x045) || k == 0x100 || decide (0x102 ≤ k ∧ k ≤ 0x105) || decide (0x140 ≤ k ∧ k ≤ 0x145) ||
    decide (0x200 ≤ k ∧ k ≤ 0x22F)

/-- A vector source that names a queue names one of q0–q15 (R22, R23). -/
def sourceOk (mode : BitVec 2) (f : BitVec 5) : Bool := mode == 0 || mode == 3 || decide (f.toNat ≤ 15)

/-- A vector destination: md 00 a register, 01 a queue q0–q15; 10 and 11 are illegal (R22, R23). -/
def destOk (md : BitVec 2) (f : BitVec 5) : Bool := md == 0 || (md == 1 && decide (f.toNat ≤ 15))

/-- Attributes of a RENT: none in tiers 0–2, SYNC alone in tier 3 (04 R115). -/
def attrOk (tier att : BitVec 3) : Bool := decide (4 ≤ tier.toNat) || att == 0 || (tier == 3 && att == 1)

/-- The limits of each instruction. An agent number is below 312 (03 R83); a word's qualifier is not 11 (R21). -/
def Instr.wf : Instr → Bool
  | .br iq _ => decide (iq ≠ 3)
  | .bc iq cond _ _ => decide (iq ≠ 3) && decide (cond.toNat ≤ 5)
  | .bpany iq _ _ => decide (iq ≠ 3)
  | .bpnone iq _ _ => decide (iq ≠ 3)
  | .call iq _ => decide (iq ≠ 3)
  | .jr iq _ => decide (iq ≠ 3)
  | .ret iq => decide (iq ≠ 3)
  | .loop iq lvl _ len => decide (iq ≠ 3) && decide (lvl.toNat ≤ 5) && decide (len ≠ 0)
  | .loopi iq lvl _ len => decide (iq ≠ 3) && decide (lvl.toNat ≤ 5) && decide (len ≠ 0)
  | .loops iq lvl bs len => decide (iq ≠ 3) && decide (lvl.toNat ≤ 5) && decide (len ≠ 0) && decide (bs.toNat ≤ 12)
  | .lbreak iq lvl => decide (iq ≠ 3) && decide (lvl.toNat ≤ 5)
  | .lstride iq lvl _ _ => decide (iq ≠ 3) && decide (lvl.toNat ≤ 5)
  | .lidx iq _ lvl => decide (iq ≠ 3) && decide (lvl.toNat ≤ 5)
  | .ckpt iq => decide (iq ≠ 3)
  | .ckptl iq => decide (iq ≠ 3)
  | .fmt iq fam val => decide (iq ≠ 3) && Machine.famAccepts fam val
  | .fmts iq fam _ => decide (iq ≠ 3) && decide (fam.toNat ≤ 5)
  | .wfe iq => decide (iq ≠ 3)
  | .sev iq _ => decide (iq ≠ 3)
  | .waitt iq _ => decide (iq ≠ 3)
  | .qwait iq q n => decide (iq ≠ 3) && decide (12 ≤ q.toNat) && decide (1 ≤ n.toNat) && decide (n.toNat ≤ 8)
  | .qalign iq far near => decide (iq ≠ 3) && decide (far ≠ 0 ∨ near ≠ 0)
  | .fence iq scope kind => decide (iq ≠ 3) && decide (scope.toNat ≤ 4) && decide (kind ≠ 0)
  | .uimask iq _ => decide (iq ≠ 3)
  | .trap iq _ => decide (iq ≠ 3)
  | .csrr iq _ csr => decide (iq ≠ 3) && csrListed csr
  | .csrw iq _ csr => decide (iq ≠ 3) && csrListed csr
  | .brk iq _ => decide (iq ≠ 3)
  | .twait iq c _ => decide (iq ≠ 3) && decide (c.toNat ≤ 6)
  | .twaita iq _ _ => decide (iq ≠ 3)
  | .sleepc iq _ => decide (iq ≠ 3)
  | .add iq _ _ _ => decide (iq ≠ 3)
  | .sub iq _ _ _ => decide (iq ≠ 3)
  | .addi iq _ _ _ => decide (iq ≠ 3)
  | .mul iq _ _ _ => decide (iq ≠ 3)
  | .mulh iq _ _ _ => decide (iq ≠ 3)
  | .mulhu iq _ _ _ => decide (iq ≠ 3)
  | .div iq _ _ _ => decide (iq ≠ 3)
  | .divu iq _ _ _ => decide (iq ≠ 3)
  | .rem iq _ _ _ => decide (iq ≠ 3)
  | .remu iq _ _ _ => decide (iq ≠ 3)
  | .and iq _ _ _ => decide (iq ≠ 3)
  | .or iq _ _ _ => decide (iq ≠ 3)
  | .xor iq _ _ _ => decide (iq ≠ 3)
  | .andi iq _ _ _ => decide (iq ≠ 3)
  | .ori iq _ _ _ => decide (iq ≠ 3)
  | .xori iq _ _ _ => decide (iq ≠ 3)
  | .sll iq _ _ _ => decide (iq ≠ 3)
  | .srl iq _ _ _ => decide (iq ≠ 3)
  | .sra iq _ _ _ => decide (iq ≠ 3)
  | .slli iq _ _ _ => decide (iq ≠ 3)
  | .srli iq _ _ _ => decide (iq ≠ 3)
  | .srai iq _ _ _ => decide (iq ≠ 3)
  | .slt iq _ _ _ => decide (iq ≠ 3)
  | .sltu iq _ _ _ => decide (iq ≠ 3)
  | .slti iq _ _ _ => decide (iq ≠ 3)
  | .min iq _ _ _ => decide (iq ≠ 3)
  | .max iq _ _ _ => decide (iq ≠ 3)
  | .minu iq _ _ _ => decide (iq ≠ 3)
  | .maxu iq _ _ _ => decide (iq ≠ 3)
  | .clz iq _ _ => decide (iq ≠ 3)
  | .popc iq _ _ => decide (iq ≠ 3)
  | .cmov iq _ _ _ => decide (iq ≠ 3)
  | .li iq _ _ => decide (iq ≠ 3)
  | .lui iq _ _ => decide (iq ≠ 3)
  | .adds iq _ _ _ => decide (iq ≠ 3)
  | .subs iq _ _ _ => decide (iq ≠ 3)
  | .amov iq _ _ => decide (iq ≠ 3)
  | .aget iq _ _ => decide (iq ≠ 3)
  | .aadd iq _ _ _ => decide (iq ≠ 3)
  | .aaddi iq _ _ _ => decide (iq ≠ 3)
  | .agen iq _ _ _ _ => decide (iq ≠ 3)
  | .fadd iq _ _ _ => decide (iq ≠ 3)
  | .fsub iq _ _ _ => decide (iq ≠ 3)
  | .fmul iq _ _ _ => decide (iq ≠ 3)
  | .fdiv iq _ _ _ => decide (iq ≠ 3)
  | .fmin iq _ _ _ => decide (iq ≠ 3)
  | .fmax iq _ _ _ => decide (iq ≠ 3)
  | .fcmpEq iq _ _ _ => decide (iq ≠ 3)
  | .fcmpLt iq _ _ _ => decide (iq ≠ 3)
  | .fcmpLe iq _ _ _ => decide (iq ≠ 3)
  | .fcmpUn iq _ _ _ => decide (iq ≠ 3)
  | .fcvtF2i iq _ _ => decide (iq ≠ 3)
  | .fcvtI2f iq _ _ => decide (iq ≠ 3)
  | .fcvtF2bf iq _ _ => decide (iq ≠ 3)
  | .fcvtBf2f iq _ _ => decide (iq ≠ 3)
  | .qpops iq _ _ _ _ => decide (iq ≠ 3)
  | .qpushs iq _ _ => decide (iq ≠ 3)
  | .shw iq slot _ _ field => decide (iq ≠ 3) && decide (slot ≠ 0) && decide (field.toNat ≤ 16)
  | .shr iq _ slot _ field => decide (iq ≠ 3) && decide (slot ≠ 0) && decide (field.toNat ≤ 16)
  | .rdrankRank iq _ => decide (iq ≠ 3)
  | .rdrankLoom iq _ => decide (iq ≠ 3)
  | .rdrankDie iq _ => decide (iq ≠ 3)
  | .rdrankCore iq _ => decide (iq ≠ 3)
  | .nld iq _ _ _ _ => decide (iq ≠ 3)
  | .nldh iq _ _ _ _ => decide (iq ≠ 3)
  | .nldb iq _ _ _ _ => decide (iq ≠ 3)
  | .nldx iq _ _ _ _ _ => decide (iq ≠ 3)
  | .nst iq _ _ _ _ => decide (iq ≠ 3)
  | .nsth iq _ _ _ _ => decide (iq ≠ 3)
  | .nstx iq _ _ _ _ _ => decide (iq ≠ 3)
  | .ard iq _ t _ _ _ => decide (iq ≠ 3) && decide (t.toNat ≤ 11)
  | .ardc iq _ t _ _ _ => decide (iq ≠ 3) && decide (t.toNat ≤ 11)
  | .awr iq _ t _ _ _ => decide (iq ≠ 3) && decide (t.toNat ≤ 11)
  | .aacc iq _ t _ _ _ => decide (iq ≠ 3) && decide (t.toNat ≤ 11)
  | .azero iq t _ _ _ => decide (iq ≠ 3) && decide (t.toNat ≤ 11)
  | .ascl iq _ t => decide (iq ≠ 3) && decide (t.toNat ≤ 11)
  | .ardt iq _ t _ _ _ => decide (iq ≠ 3) && decide (t.toNat ≤ 11)
  | .vadd iq vd va vb ma mb _ md => decide (iq ≠ 3) && sourceOk ma va && sourceOk mb vb && destOk md vd
  | .vsub iq vd va vb ma mb _ md => decide (iq ≠ 3) && sourceOk ma va && sourceOk mb vb && destOk md vd
  | .vmul iq vd va vb ma mb _ md => decide (iq ≠ 3) && sourceOk ma va && sourceOk mb vb && destOk md vd
  | .vfma iq _ va vb ma mb _ => decide (iq ≠ 3) && sourceOk ma va && sourceOk mb vb
  | .vfms iq _ va vb ma mb _ => decide (iq ≠ 3) && sourceOk ma va && sourceOk mb vb
  | .vmin iq vd va vb ma mb _ md => decide (iq ≠ 3) && sourceOk ma va && sourceOk mb vb && destOk md vd
  | .vmax iq vd va vb ma mb _ md => decide (iq ≠ 3) && sourceOk ma va && sourceOk mb vb && destOk md vd
  | .vabs iq vd va ma _ md => decide (iq ≠ 3) && sourceOk ma va && destOk md vd
  | .vneg iq vd va ma _ md => decide (iq ≠ 3) && sourceOk ma va && destOk md vd
  | .vrcp iq vd va ma _ md => decide (iq ≠ 3) && sourceOk ma va && destOk md vd
  | .vrsq iq vd va ma _ md => decide (iq ≠ 3) && sourceOk ma va && destOk md vd
  | .vsqrt iq vd va ma _ md => decide (iq ≠ 3) && sourceOk ma va && destOk md vd
  | .vdiv iq vd va vb ma mb _ md => decide (iq ≠ 3) && sourceOk ma va && sourceOk mb vb && destOk md vd
  | .vexp2 iq vd va ma _ md => decide (iq ≠ 3) && sourceOk ma va && destOk md vd
  | .vexp iq vd va ma _ md => decide (iq ≠ 3) && sourceOk ma va && destOk md vd
  | .vlog2 iq vd va ma _ md => decide (iq ≠ 3) && sourceOk ma va && destOk md vd
  | .vsig iq vd va ma _ md => decide (iq ≠ 3) && sourceOk ma va && destOk md vd
  | .vtanh iq vd va ma _ md => decide (iq ≠ 3) && sourceOk ma va && destOk md vd
  | .vcvt iq vd va ma _ md => decide (iq ≠ 3) && sourceOk ma va && destOk md vd
  | .vpexp iq vd va vb ma mb _ md => decide (iq ≠ 3) && sourceOk ma va && sourceOk mb vb && destOk md vd
  | .vpmac iq _ va vb ma mb _ => decide (iq ≠ 3) && sourceOk ma va && sourceOk mb vb
  | .vcmpeq iq pd va vb ma mb _ => decide (iq ≠ 3) && sourceOk ma va && sourceOk mb vb && decide (pd ≠ 0)
  | .vcmplt iq pd va vb ma mb _ => decide (iq ≠ 3) && sourceOk ma va && sourceOk mb vb && decide (pd ≠ 0)
  | .vcmple iq pd va vb ma mb _ => decide (iq ≠ 3) && sourceOk ma va && sourceOk mb vb && decide (pd ≠ 0)
  | .vcmpun iq pd va vb ma mb _ => decide (iq ≠ 3) && sourceOk ma va && sourceOk mb vb && decide (pd ≠ 0)
  | .viadd iq vd va vb ma mb _ md => decide (iq ≠ 3) && sourceOk ma va && sourceOk mb vb && destOk md vd
  | .visub iq vd va vb ma mb _ md => decide (iq ≠ 3) && sourceOk ma va && sourceOk mb vb && destOk md vd
  | .vimul iq vd va vb ma mb _ md => decide (iq ≠ 3) && sourceOk ma va && sourceOk mb vb && destOk md vd
  | .vimin iq vd va vb ma mb _ md => decide (iq ≠ 3) && sourceOk ma va && sourceOk mb vb && destOk md vd
  | .vimax iq vd va vb ma mb _ md => decide (iq ≠ 3) && sourceOk ma va && sourceOk mb vb && destOk md vd
  | .vand iq vd va vb ma mb _ md => decide (iq ≠ 3) && sourceOk ma va && sourceOk mb vb && destOk md vd
  | .vor iq vd va vb ma mb _ md => decide (iq ≠ 3) && sourceOk ma va && sourceOk mb vb && destOk md vd
  | .vxor iq vd va vb ma mb _ md => decide (iq ≠ 3) && sourceOk ma va && sourceOk mb vb && destOk md vd
  | .vnot iq vd va ma _ md => decide (iq ≠ 3) && sourceOk ma va && destOk md vd
  | .vshl iq vd va vb ma mb _ md => decide (iq ≠ 3) && sourceOk ma va && sourceOk mb vb && destOk md vd
  | .vshr iq vd va vb ma mb _ md => decide (iq ≠ 3) && sourceOk ma va && sourceOk mb vb && destOk md vd
  | .vsra iq vd va vb ma mb _ md => decide (iq ≠ 3) && sourceOk ma va && sourceOk mb vb && destOk md vd
  | .vdot4 iq vd va vb ma mb _ md => decide (iq ≠ 3) && sourceOk ma va && sourceOk mb vb && destOk md vd
  | .vicmpeq iq pd va vb ma mb _ => decide (iq ≠ 3) && sourceOk ma va && sourceOk mb vb && decide (pd ≠ 0)
  | .vicmplt iq pd va vb ma mb _ => decide (iq ≠ 3) && sourceOk ma va && sourceOk mb vb && decide (pd ≠ 0)
  | .vmov iq vd va ma _ md => decide (iq ≠ 3) && sourceOk ma va && destOk md vd
  | .vsel iq vd va vb ma mb _ md => decide (iq ≠ 3) && sourceOk ma va && sourceOk mb vb && destOk md vd
  | .vperm iq vd va vb ma mb _ md => decide (iq ≠ 3) && sourceOk ma va && sourceOk mb vb && destOk md vd
  | .vrot iq vd va vb ma mb _ md => decide (iq ≠ 3) && sourceOk ma va && sourceOk mb vb && destOk md vd
  | .viota iq vd _ md => decide (iq ≠ 3) && destOk md vd
  | .vpack iq vd va vb ma mb _ md => decide (iq ≠ 3) && sourceOk ma va && sourceOk mb vb && destOk md vd
  | .vunpk iq vd va ma _ md => decide (iq ≠ 3) && sourceOk ma va && destOk md vd
  | .vrsum iq vd va ma _ md => decide (iq ≠ 3) && sourceOk ma va && destOk md vd
  | .vrmax iq vd va ma _ md => decide (iq ≠ 3) && sourceOk ma va && destOk md vd
  | .vrmin iq vd va ma _ md => decide (iq ≠ 3) && sourceOk ma va && destOk md vd
  | .vmaxi iq vd va ma _ md => decide (iq ≠ 3) && sourceOk ma va && destOk md vd
  | .vmini iq vd va ma _ md => decide (iq ≠ 3) && sourceOk ma va && destOk md vd
  | .vscan iq vd va ma _ md => decide (iq ≠ 3) && sourceOk ma va && destOk md vd
  | .pand iq pd _ _ => decide (iq ≠ 3) && decide (pd ≠ 0)
  | .por iq pd _ _ => decide (iq ≠ 3) && decide (pd ≠ 0)
  | .pxor iq pd _ _ => decide (iq ≠ 3) && decide (pd ≠ 0)
  | .pnot iq pd _ => decide (iq ≠ 3) && decide (pd ≠ 0)
  | .pcnt iq _ _ => decide (iq ≠ 3)
  | .pset iq pd _ => decide (iq ≠ 3) && decide (pd ≠ 0)
  | .iadd iq _ _ _ => decide (iq ≠ 3)
  | .isub iq _ _ _ => decide (iq ≠ 3)
  | .imul iq _ _ _ => decide (iq ≠ 3)
  | .idiv iq _ _ _ => decide (iq ≠ 3)
  | .isqr iq _ _ => decide (iq ≠ 3)
  | .isqrt iq _ _ => decide (iq ≠ 3)
  | .iexp iq _ _ => decide (iq ≠ 3)
  | .ilog iq _ _ => decide (iq ≠ 3)
  | .imin iq _ _ _ => decide (iq ≠ 3)
  | .imax iq _ _ _ => decide (iq ≠ 3)
  | .iabs iq _ _ => decide (iq ≠ 3)
  | .iaddB iq _ _ _ => decide (iq ≠ 3)
  | .isubB iq _ _ _ => decide (iq ≠ 3)
  | .imulB iq _ _ _ => decide (iq ≠ 3)
  | .idivB iq _ _ _ => decide (iq ≠ 3)
  | .isqrB iq _ _ => decide (iq ≠ 3)
  | .isqrtB iq _ _ => decide (iq ≠ 3)
  | .iexpB iq _ _ => decide (iq ≠ 3)
  | .ilogB iq _ _ => decide (iq ≠ 3)
  | .iminB iq _ _ _ => decide (iq ≠ 3)
  | .imaxB iq _ _ _ => decide (iq ≠ 3)
  | .iabsB iq _ _ => decide (iq ≠ 3)
  | .ihull iq _ _ _ => decide (iq ≠ 3)
  | .imeet iq _ _ _ => decide (iq ≠ 3)
  | .isplit iq id _ ib => decide (iq ≠ 3) && decide (id ≠ ib)
  | .ifrom iq _ _ _ => decide (iq ≠ 3)
  | .itolo iq _ _ => decide (iq ≠ 3)
  | .itohi iq _ _ => decide (iq ≠ 3)
  | .imid iq _ _ => decide (iq ≠ 3)
  | .iwid iq _ _ => decide (iq ≠ 3)
  | .icmplt iq _ _ tp => decide (iq ≠ 3) && decide (1 ≤ tp.toNat) && decide (tp.toNat ≤ 3)
  | .icmple iq _ _ tp => decide (iq ≠ 3) && decide (1 ≤ tp.toNat) && decide (tp.toNat ≤ 3)
  | .icmpeq iq _ _ tp => decide (iq ≠ 3) && decide (1 ≤ tp.toNat) && decide (tp.toNat ≤ 3)
  | .isubset iq _ _ tp => decide (iq ≠ 3) && decide (1 ≤ tp.toNat) && decide (tp.toNat ≤ 3)
  | .idisj iq _ _ tp => decide (iq ≠ 3) && decide (1 ≤ tp.toNat) && decide (tp.toNat ≤ 3)
  | .mldb iq _ _ => decide (iq ≠ 3)
  | .mma iq t _ _ _ => decide (iq ≠ 3) && decide (t.toNat ≤ 11)
  | .mmaz iq t _ _ _ => decide (iq ≠ 3) && decide (t.toNat ≤ 11)
  | .mrep iq n => decide (iq ≠ 3) && decide (n ≠ 0)
  | .mdrain iq t => decide (iq ≠ 3) && decide (t.toNat ≤ 11)
  | .mldbl iq _ _ => decide (iq ≠ 3)
  | .fld iq _ _ _ => decide (iq ≠ 3)
  | .flds iq _ _ => decide (iq ≠ 3)
  | .fst iq _ _ _ => decide (iq ≠ 3)
  | .fsts iq _ _ => decide (iq ≠ 3)
  | .amadd iq _ _ wd => decide (iq ≠ 3) && decide (wd.toNat ≤ 1)
  | .amaddF iq _ _ _ wd => decide (iq ≠ 3) && decide (wd.toNat ≤ 1)
  | .ammax iq _ _ wd => decide (iq ≠ 3) && decide (wd.toNat ≤ 1)
  | .ammaxF iq _ _ _ wd => decide (iq ≠ 3) && decide (wd.toNat ≤ 1)
  | .ammin iq _ _ wd => decide (iq ≠ 3) && decide (wd.toNat ≤ 1)
  | .amminF iq _ _ _ wd => decide (iq ≠ 3) && decide (wd.toNat ≤ 1)
  | .amxchg iq _ _ _ wd => decide (iq ≠ 3) && decide (wd.toNat ≤ 1)
  | .amcas iq _ _ _ wd => decide (iq ≠ 3) && decide (wd.toNat ≤ 1)
  | .wcadd iq _ _ code => decide (iq ≠ 3) && Machine.isWideFmt code
  | .wcaddv iq _ _ code => decide (iq ≠ 3) && Machine.isWideFmt code
  | .wcread iq _ _ => decide (iq ≠ 3)
  | .xcopy iq _ h _ hsrc => decide (iq ≠ 3) && decide (h ≠ hsrc)
  | .xgather iq _ h _ _ _ hsrc => decide (iq ≠ 3) && decide (h ≠ hsrc)
  | .xscatter iq _ h _ _ _ hsrc => decide (iq ≠ 3) && decide (h ≠ hsrc)
  | .xfill iq _ _ _ _ => decide (iq ≠ 3)
  | .wstream iq h _ _ hsrc => decide (iq ≠ 3) && decide (h ≠ hsrc)
  | .xsplice iq c _ _ _ _ => decide (iq ≠ 3) && decide (c.toNat ≤ 1)
  | .xdarn iq c _ _ _ _ => decide (iq ≠ 3) && decide (c.toNat ≤ 1)
  | .xdarnc iq c _ => decide (iq ≠ 3) && decide (c.toNat ≤ 1)
  | .xnote iq _ c => decide (iq ≠ 3) && decide (c.toNat ≤ 6)
  | .tread iq _ c => decide (iq ≠ 3) && decide (c.toNat ≤ 6)
  | .xqp iq _ _ => decide (iq ≠ 3)
  | .xmbox iq _ _ => decide (iq ≠ 3)
  | .xarm iq _ _ => decide (iq ≠ 3)
  | .xlaunch iq _ _ => decide (iq ≠ 3)
  | .rent iq _ _ att tier => decide (iq ≠ 3) && decide (tier.toNat ≤ 5) && attrOk tier att
  | .renew iq _ _ tier => decide (iq ≠ 3) && decide (tier.toNat ≤ 5)
  | .prepay iq _ _ tier => decide (iq ≠ 3) && decide (tier.toNat ≤ 5)
  | .sublet iq _ _ _ tier => decide (iq ≠ 3) && decide (tier.toNat ≤ 5)
  | .vacate iq _ _ tier => decide (iq ≠ 3) && decide (tier.toNat ≤ 5)
  | .rentq iq _ _ tier => decide (iq ≠ 3) && decide (tier.toNat ≤ 5)
  | .allowq iq _ => decide (iq ≠ 3)
  | .istatRead iq _ => decide (iq ≠ 3)
  | .srseedWrite iq _ => decide (iq ≠ 3)
  | .skewWrite iq _ => decide (iq ≠ 3)
  | .rateWrite iq _ tier => decide (iq ≠ 3) && decide (tier.toNat ≤ 5)
  | .sliceWrite iq _ => decide (iq ≠ 3)
  | .evcntWrite iq _ _ => decide (iq ≠ 3)
  | .genayReply n _ => decide (n.toNat < 312)
  | .resultLanding n => decide (n.toNat < 312)
  | .nearPerform n => decide (n.toNat < 312)
  | .planeLoadLand n => decide (n.toNat < 312)
  | .partialSumAdd n => decide (n.toNat < 312)
  | .scoreboardStallEnd n => decide (n.toNat < 312)
  | .mdrainEnd n => decide (n.toNat < 312)
  | .checkpointComplete n => decide (n.toNat < 312)
  | .waittEnd n => decide (n.toNat < 312)
  | .sleepcEnd n => decide (n.toNat < 312)
  | .qwaitEnd n => decide (n.toNat < 312)
  | .twaitEnd n => decide (n.toNat < 312)
  | .twaitaPoll n => decide (n.toNat < 312)
  | .wfeWake n => decide (n.toNat < 312)
  | .depart n _ => decide (n.toNat < 312)
  | .hop _ => true
  | .perform _ => true
  | .arrive _ => true
  | .start n c => decide (n.toNat < 312) && decide (c.toNat ≤ 7)
  | .darncStart n c => decide (n.toNat < 312) && decide (c.toNat ≤ 6)
  | .tileLaunchStart n => decide (n.toNat < 312)
  | .complete n c => decide (n.toNat < 312) && decide (c.toNat ≤ 6)
  | .workEntryComplete _ _ => true
  | .fabricReceive _ => true
  | .rentCommit n => decide (n.toNat < 312)
  | .rentClockTick => true
  | .pitchExpiry _ => true
  | .overstayTick _ => true
  | .scrubStart _ => true
  | .scrubDone _ => true
  | .rentScrubWait n _ => decide (n.toNat < 312)
  | .rowGroupRefresh _ => true
  | .patrolScrub _ => true
  | .quarantine _ _ => true
  | .powerSample _ _ => true
  | .thermalThrottle _ => true
  | .thermalTrip _ => true
  | .packageReset => true
  | .taskPlacement part => decide (part.toNat < 24)
  | .taskStart _ _ => true
  | .dependenceMet _ => true
  | .sliceExpiry _ _ => true
  | .watchdogExpiry _ => true
  | .drainForceStop n => decide (n.toNat < 312)
  | .taskSetCompletion _ => true
  | .msixTimer _ => true
  | .notifyTail _ _ => true
  | .notifyPrio _ _ => true
  | .notifyInvalidWrite _ _ _ => true
  | .launch _ => true
  | .barrier _ => true
  | .credit _ => true
  | .report _ => true
  | .account _ => true
  | .partition _ => true
  | .queue _ => true
  | .pasidrevRevoke _ => true
  | .pasidrevRestore _ => true
  | .pageUnmap _ => true
  | .pageReadonly _ => true
  | .pageWritable _ => true
  | .pageDemote _ => true
  | .pageShare _ => true
  | .desc _ => true
  | .status _ => true
  | .debugStop _ => true
  | .debugResume _ => true
  | .saveioRead _ => true
  | .saveioWrite _ => true
  | .fwpatch _ => true
  | .fwstage _ => true
  | .fwupdate _ => true
  | .qpRecordWrite _ _ => true
  | .hostMemoryAccess _ _ _ => true
  | .atsInvalidation _ _ _ _ _ => true
  | .pasidStop _ => true
  | .tdispMessage _ _ => true
  | .spdmMessage _ _ => true
  | .fabricLaunch _ _ _ _ => true
  | .fwupdateTimeout => true
  | .entryRead n => decide (n.toNat < 312)
  | .linkFailure _ => true
  | .nop => true
  | .uiret => true
  | .uiretFirst => true
  | .uiretLast => true
  | .eret => true
  | .eretFirst => true
  | .eretLast => true
  | .halt => true
  | .haltFirst => true
  | .haltLast => true
  | .mswb => true
  | .mswbFirst => true
  | .mswbLast => true

end Sys2Proof
end

