-- ==== Sys2Proof/Decode.lean ====
section
/-!
DEFINITION. The decoder of slot words, total on any bits and rejecting by name, and after it the encoder (01 R17–R36 and the
encodings of the chapters). The decoder reads the fields of the row that slot, OP and function code name; a word whose reserved
bits are not zero is not what its row encodes, and is refused.
-/

namespace Sys2Proof

/-- Why a slot word is an illegal encoding (R36). -/
inductive Reject where
  /-- IQ = 11. -/
  | iqReserved
  /-- An OP, or OP and function code, unassigned in the slot; OP = 0 with another bit set. -/
  | unassigned
  /-- A nonzero reserved bit. -/
  | reservedBits
  /-- A field beyond a limit of R23 to R35. -/
  | limit
deriving DecidableEq, Repr

/-- `n` bits of a word from bit `lo`. -/
def fld (w : BitVec 32) (lo n : Nat) : BitVec n := w.extractLsb' lo n

/-- The row that a word of slot 0 names: control (R25). -/
def row0 (w : BitVec 32) : Option Instr :=
  match (fld w 24 6).toNat with
  | 0x01 => some (.br (fld w 30 2) (fld w 0 24))
  | 0x02 => some (.bc (fld w 30 2) (fld w 20 4) (fld w 15 5) (fld w 0 15))
  | 0x03 => some (.bpany (fld w 30 2) (fld w 15 3) (fld w 0 15))
  | 0x04 => some (.bpnone (fld w 30 2) (fld w 15 3) (fld w 0 15))
  | 0x05 => some (.call (fld w 30 2) (fld w 0 24))
  | 0x06 => some (.jr (fld w 30 2) (fld w 14 5))
  | 0x07 => some (.ret (fld w 30 2))
  | 0x08 => some (.loop (fld w 30 2) (fld w 21 3) (fld w 16 5) (fld w 0 16))
  | 0x09 => some (.loopi (fld w 30 2) (fld w 21 3) (fld w 8 13) (fld w 0 8))
  | 0x0A => some (.loops (fld w 30 2) (fld w 21 3) (fld w 16 5) (fld w 0 16))
  | 0x0B => some (.lbreak (fld w 30 2) (fld w 21 3))
  | 0x0C => some (.lstride (fld w 30 2) (fld w 21 3) (fld w 17 4) (fld w 12 5))
  | 0x0D => some (.lidx (fld w 30 2) (fld w 19 5) (fld w 16 3))
  | 0x0E => some (.ckpt (fld w 30 2))
  | 0x0F => some (.ckptl (fld w 30 2))
  | 0x10 => some (.fmt (fld w 30 2) (fld w 21 3) (fld w 0 8))
  | 0x11 => some (.fmts (fld w 30 2) (fld w 21 3) (fld w 14 5))
  | 0x12 => some (.wfe (fld w 30 2))
  | 0x13 => some (.sev (fld w 30 2) (fld w 14 5))
  | 0x14 => some (.waitt (fld w 30 2) (fld w 14 5))
  | 0x15 => some (.qwait (fld w 30 2) (fld w 20 4) (fld w 16 4))
  | 0x16 => some (.qalign (fld w 30 2) (fld w 23 1) (fld w 22 1))
  | 0x17 => some (.fence (fld w 30 2) (fld w 21 3) (fld w 19 2))
  | 0x18 => some (if fld w 30 2 = 0 then .uiret else if fld w 30 2 = 1 then .uiretFirst else .uiretLast)
  | 0x19 => some (.uimask (fld w 30 2) (fld w 0 1))
  | 0x1A => some (.trap (fld w 30 2) (fld w 0 16))
  | 0x1B => some (if fld w 30 2 = 0 then .eret else if fld w 30 2 = 1 then .eretFirst else .eretLast)
  | 0x1C => some (.csrr (fld w 30 2) (fld w 19 5) (fld w 0 12))
  | 0x1D => some (.csrw (fld w 30 2) (fld w 14 5) (fld w 0 12))
  | 0x1E => some (.brk (fld w 30 2) (fld w 0 16))
  | 0x1F => some (if fld w 30 2 = 0 then .halt else if fld w 30 2 = 1 then .haltFirst else .haltLast)
  | 0x20 => some (.twait (fld w 30 2) (fld w 21 3) (fld w 14 5))
  | 0x21 => some (.twaita (fld w 30 2) (fld w 20 4) (fld w 14 5))
  | 0x22 => some (.sleepc (fld w 30 2) (fld w 14 5))
  | _ => none

/-- The row that a word of slot 1 names: scalar (R28). -/
def row1 (w : BitVec 32) : Option Instr :=
  match (fld w 24 6).toNat with
  | 0x01 => some (.add (fld w 30 2) (fld w 19 5) (fld w 14 5) (fld w 9 5))
  | 0x02 => some (.sub (fld w 30 2) (fld w 19 5) (fld w 14 5) (fld w 9 5))
  | 0x03 => some (.addi (fld w 30 2) (fld w 19 5) (fld w 14 5) (fld w 0 14))
  | 0x04 => some (.mul (fld w 30 2) (fld w 19 5) (fld w 14 5) (fld w 9 5))
  | 0x05 => some (.mulh (fld w 30 2) (fld w 19 5) (fld w 14 5) (fld w 9 5))
  | 0x06 => some (.mulhu (fld w 30 2) (fld w 19 5) (fld w 14 5) (fld w 9 5))
  | 0x07 => some (.div (fld w 30 2) (fld w 19 5) (fld w 14 5) (fld w 9 5))
  | 0x08 => some (.divu (fld w 30 2) (fld w 19 5) (fld w 14 5) (fld w 9 5))
  | 0x09 => some (.rem (fld w 30 2) (fld w 19 5) (fld w 14 5) (fld w 9 5))
  | 0x0A => some (.remu (fld w 30 2) (fld w 19 5) (fld w 14 5) (fld w 9 5))
  | 0x0B => some (.and (fld w 30 2) (fld w 19 5) (fld w 14 5) (fld w 9 5))
  | 0x0C => some (.or (fld w 30 2) (fld w 19 5) (fld w 14 5) (fld w 9 5))
  | 0x0D => some (.xor (fld w 30 2) (fld w 19 5) (fld w 14 5) (fld w 9 5))
  | 0x0E => some (.andi (fld w 30 2) (fld w 19 5) (fld w 14 5) (fld w 0 14))
  | 0x0F => some (.ori (fld w 30 2) (fld w 19 5) (fld w 14 5) (fld w 0 14))
  | 0x10 => some (.xori (fld w 30 2) (fld w 19 5) (fld w 14 5) (fld w 0 14))
  | 0x11 => some (.sll (fld w 30 2) (fld w 19 5) (fld w 14 5) (fld w 9 5))
  | 0x12 => some (.srl (fld w 30 2) (fld w 19 5) (fld w 14 5) (fld w 9 5))
  | 0x13 => some (.sra (fld w 30 2) (fld w 19 5) (fld w 14 5) (fld w 9 5))
  | 0x14 => some (.slli (fld w 30 2) (fld w 19 5) (fld w 14 5) (fld w 0 6))
  | 0x15 => some (.srli (fld w 30 2) (fld w 19 5) (fld w 14 5) (fld w 0 6))
  | 0x16 => some (.srai (fld w 30 2) (fld w 19 5) (fld w 14 5) (fld w 0 6))
  | 0x17 => some (.slt (fld w 30 2) (fld w 19 5) (fld w 14 5) (fld w 9 5))
  | 0x18 => some (.sltu (fld w 30 2) (fld w 19 5) (fld w 14 5) (fld w 9 5))
  | 0x19 => some (.slti (fld w 30 2) (fld w 19 5) (fld w 14 5) (fld w 0 14))
  | 0x1A => some (.min (fld w 30 2) (fld w 19 5) (fld w 14 5) (fld w 9 5))
  | 0x1B => some (.max (fld w 30 2) (fld w 19 5) (fld w 14 5) (fld w 9 5))
  | 0x1C => some (.minu (fld w 30 2) (fld w 19 5) (fld w 14 5) (fld w 9 5))
  | 0x1D => some (.maxu (fld w 30 2) (fld w 19 5) (fld w 14 5) (fld w 9 5))
  | 0x1E => some (.clz (fld w 30 2) (fld w 19 5) (fld w 14 5))
  | 0x1F => some (.popc (fld w 30 2) (fld w 19 5) (fld w 14 5))
  | 0x20 => some (.cmov (fld w 30 2) (fld w 19 5) (fld w 14 5) (fld w 9 5))
  | 0x21 => some (.li (fld w 30 2) (fld w 19 5) (fld w 0 19))
  | 0x22 => some (.lui (fld w 30 2) (fld w 19 5) (fld w 0 19))
  | 0x23 => some (.adds (fld w 30 2) (fld w 19 5) (fld w 14 5) (fld w 9 5))
  | 0x24 => some (.subs (fld w 30 2) (fld w 19 5) (fld w 14 5) (fld w 9 5))
  | 0x25 => some (.amov (fld w 30 2) (fld w 19 4) (fld w 14 5))
  | 0x26 => some (.aget (fld w 30 2) (fld w 19 5) (fld w 14 4))
  | 0x27 => some (.aadd (fld w 30 2) (fld w 19 4) (fld w 14 4) (fld w 9 5))
  | 0x28 => some (.aaddi (fld w 30 2) (fld w 19 4) (fld w 14 4) (fld w 0 14))
  | 0x29 => some (.agen (fld w 30 2) (fld w 19 4) (fld w 14 5) (fld w 9 5) (fld w 0 8))
  | 0x2A => some (.fadd (fld w 30 2) (fld w 19 5) (fld w 14 5) (fld w 9 5))
  | 0x2B => some (.fsub (fld w 30 2) (fld w 19 5) (fld w 14 5) (fld w 9 5))
  | 0x2C => some (.fmul (fld w 30 2) (fld w 19 5) (fld w 14 5) (fld w 9 5))
  | 0x2D => some (.fdiv (fld w 30 2) (fld w 19 5) (fld w 14 5) (fld w 9 5))
  | 0x2E => some (.fmin (fld w 30 2) (fld w 19 5) (fld w 14 5) (fld w 9 5))
  | 0x2F => some (.fmax (fld w 30 2) (fld w 19 5) (fld w 14 5) (fld w 9 5))
  | 0x30 =>
    match (fld w 0 9).toNat with
    | 0 => some (.fcmpEq (fld w 30 2) (fld w 19 5) (fld w 14 5) (fld w 9 5))
    | 1 => some (.fcmpLt (fld w 30 2) (fld w 19 5) (fld w 14 5) (fld w 9 5))
    | 2 => some (.fcmpLe (fld w 30 2) (fld w 19 5) (fld w 14 5) (fld w 9 5))
    | 3 => some (.fcmpUn (fld w 30 2) (fld w 19 5) (fld w 14 5) (fld w 9 5))
    | _ => none
  | 0x31 =>
    match (fld w 0 9).toNat with
    | 0 => some (.fcvtF2i (fld w 30 2) (fld w 19 5) (fld w 14 5))
    | 1 => some (.fcvtI2f (fld w 30 2) (fld w 19 5) (fld w 14 5))
    | 2 => some (.fcvtF2bf (fld w 30 2) (fld w 19 5) (fld w 14 5))
    | 3 => some (.fcvtBf2f (fld w 30 2) (fld w 19 5) (fld w 14 5))
    | _ => none
  | 0x32 => some (.qpops (fld w 30 2) (fld w 19 5) (fld w 14 4) (fld w 6 1) (fld w 0 6))
  | 0x33 => some (.qpushs (fld w 30 2) (fld w 19 4) (fld w 14 5))
  | 0x34 => some (.shw (fld w 30 2) (fld w 22 2) (fld w 20 2) (fld w 14 5) (fld w 0 9))
  | 0x35 => some (.shr (fld w 30 2) (fld w 19 5) (fld w 17 2) (fld w 15 2) (fld w 0 9))
  | 0x36 =>
    match (fld w 0 9).toNat with
    | 0 => some (.rdrankRank (fld w 30 2) (fld w 19 5))
    | 1 => some (.rdrankLoom (fld w 30 2) (fld w 19 5))
    | 2 => some (.rdrankDie (fld w 30 2) (fld w 19 5))
    | 3 => some (.rdrankCore (fld w 30 2) (fld w 19 5))
    | _ => none
  | _ => none

/-- The row that a word of slot 3 names: near (R30). -/
def row3 (w : BitVec 32) : Option Instr :=
  match (fld w 24 6).toNat with
  | 0x01 => some (.nld (fld w 30 2) (fld w 20 4) (fld w 16 4) (fld w 15 1) (fld w 0 15))
  | 0x02 => some (.nldh (fld w 30 2) (fld w 20 4) (fld w 16 4) (fld w 15 1) (fld w 0 15))
  | 0x03 => some (.nldb (fld w 30 2) (fld w 20 4) (fld w 16 4) (fld w 15 1) (fld w 0 15))
  | 0x04 => some (.nldx (fld w 30 2) (fld w 20 4) (fld w 16 4) (fld w 15 1) (fld w 10 5) (fld w 0 10))
  | 0x05 => some (.nst (fld w 30 2) (fld w 20 4) (fld w 16 4) (fld w 15 1) (fld w 0 15))
  | 0x06 => some (.nsth (fld w 30 2) (fld w 20 4) (fld w 16 4) (fld w 15 1) (fld w 0 15))
  | 0x07 => some (.nstx (fld w 30 2) (fld w 20 4) (fld w 16 4) (fld w 15 1) (fld w 10 5) (fld w 0 10))
  | _ => none

/-- The row that a word of slot 4 names: accumulator (R31). -/
def row4 (w : BitVec 32) : Option Instr :=
  match (fld w 24 6).toNat with
  | 0x01 => some (.ard (fld w 30 2) (fld w 20 4) (fld w 16 4) (fld w 12 4) (fld w 11 1) (fld w 4 7))
  | 0x02 => some (.ardc (fld w 30 2) (fld w 20 4) (fld w 16 4) (fld w 12 4) (fld w 11 1) (fld w 4 7))
  | 0x03 => some (.awr (fld w 30 2) (fld w 20 4) (fld w 16 4) (fld w 12 4) (fld w 11 1) (fld w 4 7))
  | 0x04 => some (.aacc (fld w 30 2) (fld w 20 4) (fld w 16 4) (fld w 12 4) (fld w 11 1) (fld w 4 7))
  | 0x05 => some (.azero (fld w 30 2) (fld w 16 4) (fld w 12 4) (fld w 11 1) (fld w 4 7))
  | 0x06 => some (.ascl (fld w 30 2) (fld w 20 4) (fld w 16 4))
  | 0x07 => some (.ardt (fld w 30 2) (fld w 20 4) (fld w 16 4) (fld w 12 4) (fld w 11 1) (fld w 4 7))
  | _ => none

/-- The row that a word of slot 5 names: vector, predicate and interval (R32, R33). -/
def row5 (w : BitVec 32) : Option Instr :=
  match (fld w 24 6).toNat with
  | 0x01 => some (.vadd (fld w 30 2) (fld w 19 5) (fld w 14 5) (fld w 9 5) (fld w 7 2) (fld w 5 2) (fld w 2 3) (fld w 0 2))
  | 0x02 => some (.vsub (fld w 30 2) (fld w 19 5) (fld w 14 5) (fld w 9 5) (fld w 7 2) (fld w 5 2) (fld w 2 3) (fld w 0 2))
  | 0x03 => some (.vmul (fld w 30 2) (fld w 19 5) (fld w 14 5) (fld w 9 5) (fld w 7 2) (fld w 5 2) (fld w 2 3) (fld w 0 2))
  | 0x04 => some (.vfma (fld w 30 2) (fld w 19 5) (fld w 14 5) (fld w 9 5) (fld w 7 2) (fld w 5 2) (fld w 2 3))
  | 0x05 => some (.vfms (fld w 30 2) (fld w 19 5) (fld w 14 5) (fld w 9 5) (fld w 7 2) (fld w 5 2) (fld w 2 3))
  | 0x06 => some (.vmin (fld w 30 2) (fld w 19 5) (fld w 14 5) (fld w 9 5) (fld w 7 2) (fld w 5 2) (fld w 2 3) (fld w 0 2))
  | 0x07 => some (.vmax (fld w 30 2) (fld w 19 5) (fld w 14 5) (fld w 9 5) (fld w 7 2) (fld w 5 2) (fld w 2 3) (fld w 0 2))
  | 0x08 => some (.vabs (fld w 30 2) (fld w 19 5) (fld w 14 5) (fld w 7 2) (fld w 2 3) (fld w 0 2))
  | 0x09 => some (.vneg (fld w 30 2) (fld w 19 5) (fld w 14 5) (fld w 7 2) (fld w 2 3) (fld w 0 2))
  | 0x0A => some (.vrcp (fld w 30 2) (fld w 19 5) (fld w 14 5) (fld w 7 2) (fld w 2 3) (fld w 0 2))
  | 0x0B => some (.vrsq (fld w 30 2) (fld w 19 5) (fld w 14 5) (fld w 7 2) (fld w 2 3) (fld w 0 2))
  | 0x0C => some (.vsqrt (fld w 30 2) (fld w 19 5) (fld w 14 5) (fld w 7 2) (fld w 2 3) (fld w 0 2))
  | 0x0D => some (.vdiv (fld w 30 2) (fld w 19 5) (fld w 14 5) (fld w 9 5) (fld w 7 2) (fld w 5 2) (fld w 2 3) (fld w 0 2))
  | 0x0E => some (.vexp2 (fld w 30 2) (fld w 19 5) (fld w 14 5) (fld w 7 2) (fld w 2 3) (fld w 0 2))
  | 0x0F => some (.vexp (fld w 30 2) (fld w 19 5) (fld w 14 5) (fld w 7 2) (fld w 2 3) (fld w 0 2))
  | 0x10 => some (.vlog2 (fld w 30 2) (fld w 19 5) (fld w 14 5) (fld w 7 2) (fld w 2 3) (fld w 0 2))
  | 0x11 => some (.vsig (fld w 30 2) (fld w 19 5) (fld w 14 5) (fld w 7 2) (fld w 2 3) (fld w 0 2))
  | 0x12 => some (.vtanh (fld w 30 2) (fld w 19 5) (fld w 14 5) (fld w 7 2) (fld w 2 3) (fld w 0 2))
  | 0x13 => some (.vcvt (fld w 30 2) (fld w 19 5) (fld w 14 5) (fld w 7 2) (fld w 2 3) (fld w 0 2))
  | 0x14 => some (.vpexp (fld w 30 2) (fld w 19 5) (fld w 14 5) (fld w 9 5) (fld w 7 2) (fld w 5 2) (fld w 2 3) (fld w 0 2))
  | 0x15 => some (.vpmac (fld w 30 2) (fld w 19 5) (fld w 14 5) (fld w 9 5) (fld w 7 2) (fld w 5 2) (fld w 2 3))
  | 0x16 => some (.vcmpeq (fld w 30 2) (fld w 19 3) (fld w 14 5) (fld w 9 5) (fld w 7 2) (fld w 5 2) (fld w 2 3))
  | 0x17 => some (.vcmplt (fld w 30 2) (fld w 19 3) (fld w 14 5) (fld w 9 5) (fld w 7 2) (fld w 5 2) (fld w 2 3))
  | 0x18 => some (.vcmple (fld w 30 2) (fld w 19 3) (fld w 14 5) (fld w 9 5) (fld w 7 2) (fld w 5 2) (fld w 2 3))
  | 0x19 => some (.vcmpun (fld w 30 2) (fld w 19 3) (fld w 14 5) (fld w 9 5) (fld w 7 2) (fld w 5 2) (fld w 2 3))
  | 0x1A => some (.viadd (fld w 30 2) (fld w 19 5) (fld w 14 5) (fld w 9 5) (fld w 7 2) (fld w 5 2) (fld w 2 3) (fld w 0 2))
  | 0x1B => some (.visub (fld w 30 2) (fld w 19 5) (fld w 14 5) (fld w 9 5) (fld w 7 2) (fld w 5 2) (fld w 2 3) (fld w 0 2))
  | 0x1C => some (.vimul (fld w 30 2) (fld w 19 5) (fld w 14 5) (fld w 9 5) (fld w 7 2) (fld w 5 2) (fld w 2 3) (fld w 0 2))
  | 0x1D => some (.vimin (fld w 30 2) (fld w 19 5) (fld w 14 5) (fld w 9 5) (fld w 7 2) (fld w 5 2) (fld w 2 3) (fld w 0 2))
  | 0x1E => some (.vimax (fld w 30 2) (fld w 19 5) (fld w 14 5) (fld w 9 5) (fld w 7 2) (fld w 5 2) (fld w 2 3) (fld w 0 2))
  | 0x1F => some (.vand (fld w 30 2) (fld w 19 5) (fld w 14 5) (fld w 9 5) (fld w 7 2) (fld w 5 2) (fld w 2 3) (fld w 0 2))
  | 0x20 => some (.vor (fld w 30 2) (fld w 19 5) (fld w 14 5) (fld w 9 5) (fld w 7 2) (fld w 5 2) (fld w 2 3) (fld w 0 2))
  | 0x21 => some (.vxor (fld w 30 2) (fld w 19 5) (fld w 14 5) (fld w 9 5) (fld w 7 2) (fld w 5 2) (fld w 2 3) (fld w 0 2))
  | 0x22 => some (.vnot (fld w 30 2) (fld w 19 5) (fld w 14 5) (fld w 7 2) (fld w 2 3) (fld w 0 2))
  | 0x23 => some (.vshl (fld w 30 2) (fld w 19 5) (fld w 14 5) (fld w 9 5) (fld w 7 2) (fld w 5 2) (fld w 2 3) (fld w 0 2))
  | 0x24 => some (.vshr (fld w 30 2) (fld w 19 5) (fld w 14 5) (fld w 9 5) (fld w 7 2) (fld w 5 2) (fld w 2 3) (fld w 0 2))
  | 0x25 => some (.vsra (fld w 30 2) (fld w 19 5) (fld w 14 5) (fld w 9 5) (fld w 7 2) (fld w 5 2) (fld w 2 3) (fld w 0 2))
  | 0x26 => some (.vdot4 (fld w 30 2) (fld w 19 5) (fld w 14 5) (fld w 9 5) (fld w 7 2) (fld w 5 2) (fld w 2 3) (fld w 0 2))
  | 0x27 => some (.vicmpeq (fld w 30 2) (fld w 19 3) (fld w 14 5) (fld w 9 5) (fld w 7 2) (fld w 5 2) (fld w 2 3))
  | 0x28 => some (.vicmplt (fld w 30 2) (fld w 19 3) (fld w 14 5) (fld w 9 5) (fld w 7 2) (fld w 5 2) (fld w 2 3))
  | 0x29 => some (.vmov (fld w 30 2) (fld w 19 5) (fld w 14 5) (fld w 7 2) (fld w 2 3) (fld w 0 2))
  | 0x2A => some (.vsel (fld w 30 2) (fld w 19 5) (fld w 14 5) (fld w 9 5) (fld w 7 2) (fld w 5 2) (fld w 2 3) (fld w 0 2))
  | 0x2B => some (.vperm (fld w 30 2) (fld w 19 5) (fld w 14 5) (fld w 9 5) (fld w 7 2) (fld w 5 2) (fld w 2 3) (fld w 0 2))
  | 0x2C => some (.vrot (fld w 30 2) (fld w 19 5) (fld w 14 5) (fld w 9 5) (fld w 7 2) (fld w 5 2) (fld w 2 3) (fld w 0 2))
  | 0x2D => some (.viota (fld w 30 2) (fld w 19 5) (fld w 2 3) (fld w 0 2))
  | 0x2E => some (.vpack (fld w 30 2) (fld w 19 5) (fld w 14 5) (fld w 9 5) (fld w 7 2) (fld w 5 2) (fld w 2 3) (fld w 0 2))
  | 0x2F => some (.vunpk (fld w 30 2) (fld w 19 5) (fld w 14 5) (fld w 7 2) (fld w 2 3) (fld w 0 2))
  | 0x30 => some (.vrsum (fld w 30 2) (fld w 19 5) (fld w 14 5) (fld w 7 2) (fld w 2 3) (fld w 0 2))
  | 0x31 => some (.vrmax (fld w 30 2) (fld w 19 5) (fld w 14 5) (fld w 7 2) (fld w 2 3) (fld w 0 2))
  | 0x32 => some (.vrmin (fld w 30 2) (fld w 19 5) (fld w 14 5) (fld w 7 2) (fld w 2 3) (fld w 0 2))
  | 0x33 => some (.vmaxi (fld w 30 2) (fld w 19 5) (fld w 14 5) (fld w 7 2) (fld w 2 3) (fld w 0 2))
  | 0x34 => some (.vmini (fld w 30 2) (fld w 19 5) (fld w 14 5) (fld w 7 2) (fld w 2 3) (fld w 0 2))
  | 0x35 => some (.vscan (fld w 30 2) (fld w 19 5) (fld w 14 5) (fld w 7 2) (fld w 2 3) (fld w 0 2))
  | 0x36 => some (.pand (fld w 30 2) (fld w 19 3) (fld w 14 3) (fld w 9 3))
  | 0x37 => some (.por (fld w 30 2) (fld w 19 3) (fld w 14 3) (fld w 9 3))
  | 0x38 => some (.pxor (fld w 30 2) (fld w 19 3) (fld w 14 3) (fld w 9 3))
  | 0x39 => some (.pnot (fld w 30 2) (fld w 19 3) (fld w 14 3))
  | 0x3A => some (.pcnt (fld w 30 2) (fld w 19 5) (fld w 14 3))
  | 0x3B => some (.pset (fld w 30 2) (fld w 19 3) (fld w 14 5))
  | 0x3C =>
    if fld w 11 1 = 0 then
      match (fld w 0 8).toNat with
      | 0 => some (.iadd (fld w 30 2) (fld w 20 4) (fld w 16 4) (fld w 12 4))
      | 1 => some (.isub (fld w 30 2) (fld w 20 4) (fld w 16 4) (fld w 12 4))
      | 2 => some (.imul (fld w 30 2) (fld w 20 4) (fld w 16 4) (fld w 12 4))
      | 3 => some (.idiv (fld w 30 2) (fld w 20 4) (fld w 16 4) (fld w 12 4))
      | 4 => some (.isqr (fld w 30 2) (fld w 20 4) (fld w 16 4))
      | 5 => some (.isqrt (fld w 30 2) (fld w 20 4) (fld w 16 4))
      | 6 => some (.iexp (fld w 30 2) (fld w 20 4) (fld w 16 4))
      | 7 => some (.ilog (fld w 30 2) (fld w 20 4) (fld w 16 4))
      | 8 => some (.imin (fld w 30 2) (fld w 20 4) (fld w 16 4) (fld w 12 4))
      | 9 => some (.imax (fld w 30 2) (fld w 20 4) (fld w 16 4) (fld w 12 4))
      | 10 => some (.iabs (fld w 30 2) (fld w 20 4) (fld w 16 4))
      | _ => none
    else
      match (fld w 0 8).toNat with
      | 0 => some (.iaddB (fld w 30 2) (fld w 20 4) (fld w 16 4) (fld w 12 4))
      | 1 => some (.isubB (fld w 30 2) (fld w 20 4) (fld w 16 4) (fld w 12 4))
      | 2 => some (.imulB (fld w 30 2) (fld w 20 4) (fld w 16 4) (fld w 12 4))
      | 3 => some (.idivB (fld w 30 2) (fld w 20 4) (fld w 16 4) (fld w 12 4))
      | 4 => some (.isqrB (fld w 30 2) (fld w 20 4) (fld w 16 4))
      | 5 => some (.isqrtB (fld w 30 2) (fld w 20 4) (fld w 16 4))
      | 6 => some (.iexpB (fld w 30 2) (fld w 20 4) (fld w 16 4))
      | 7 => some (.ilogB (fld w 30 2) (fld w 20 4) (fld w 16 4))
      | 8 => some (.iminB (fld w 30 2) (fld w 20 4) (fld w 16 4) (fld w 12 4))
      | 9 => some (.imaxB (fld w 30 2) (fld w 20 4) (fld w 16 4) (fld w 12 4))
      | 10 => some (.iabsB (fld w 30 2) (fld w 20 4) (fld w 16 4))
      | _ => none
  | 0x3D =>
    match (fld w 0 8).toNat with
    | 0 => some (.ihull (fld w 30 2) (fld w 20 4) (fld w 16 4) (fld w 12 4))
    | 1 => some (.imeet (fld w 30 2) (fld w 20 4) (fld w 16 4) (fld w 12 4))
    | 2 => some (.isplit (fld w 30 2) (fld w 20 4) (fld w 16 4) (fld w 12 4))
    | 3 => some (.ifrom (fld w 30 2) (fld w 20 4) (fld w 16 4) (fld w 12 4))
    | 4 => some (.itolo (fld w 30 2) (fld w 20 4) (fld w 16 4))
    | 5 => some (.itohi (fld w 30 2) (fld w 20 4) (fld w 16 4))
    | 6 => some (.imid (fld w 30 2) (fld w 20 4) (fld w 16 4))
    | 7 => some (.iwid (fld w 30 2) (fld w 20 4) (fld w 16 4))
    | _ => none
  | 0x3E =>
    match (fld w 0 8).toNat with
    | 0 => some (.icmplt (fld w 30 2) (fld w 16 4) (fld w 12 4) (fld w 8 3))
    | 1 => some (.icmple (fld w 30 2) (fld w 16 4) (fld w 12 4) (fld w 8 3))
    | 2 => some (.icmpeq (fld w 30 2) (fld w 16 4) (fld w 12 4) (fld w 8 3))
    | 3 => some (.isubset (fld w 30 2) (fld w 16 4) (fld w 12 4) (fld w 8 3))
    | 4 => some (.idisj (fld w 30 2) (fld w 16 4) (fld w 12 4) (fld w 8 3))
    | _ => none
  | _ => none

/-- The row that a word of slot 6 names: matrix (R34). -/
def row6 (w : BitVec 32) : Option Instr :=
  match (fld w 24 6).toNat with
  | 0x01 => some (.mldb (fld w 30 2) (fld w 20 4) (fld w 0 20))
  | 0x02 => some (if fld w 30 2 = 0 then .mswb else if fld w 30 2 = 1 then .mswbFirst else .mswbLast)
  | 0x03 => some (.mma (fld w 30 2) (fld w 20 4) (fld w 16 4) (fld w 15 1) (fld w 8 7))
  | 0x04 => some (.mmaz (fld w 30 2) (fld w 20 4) (fld w 16 4) (fld w 15 1) (fld w 8 7))
  | 0x05 => some (.mrep (fld w 30 2) (fld w 0 8))
  | 0x06 => some (.mdrain (fld w 30 2) (fld w 20 4))
  | 0x07 => some (.mldbl (fld w 30 2) (fld w 20 4) (fld w 0 20))
  | _ => none

/-- The row that a word of slot 7 names: engine (R35). -/
def row7 (w : BitVec 32) : Option Instr :=
  match (fld w 24 6).toNat with
  | 0x01 => some (.fld (fld w 30 2) (fld w 22 2) (fld w 20 2) (fld w 19 1))
  | 0x02 => some (.flds (fld w 30 2) (fld w 22 2) (fld w 14 5))
  | 0x03 => some (.fst (fld w 30 2) (fld w 20 2) (fld w 19 1) (fld w 9 4))
  | 0x04 => some (.fsts (fld w 30 2) (fld w 14 5) (fld w 9 4))
  | 0x05 =>
    match (fld w 0 1).toNat with
    | 0 => some (.amadd (fld w 30 2) (fld w 14 5) (fld w 9 5) (fld w 1 2))
    | 1 => some (.amaddF (fld w 30 2) (fld w 22 2) (fld w 14 5) (fld w 9 5) (fld w 1 2))
    | _ => none
  | 0x06 =>
    match (fld w 0 1).toNat with
    | 0 => some (.ammax (fld w 30 2) (fld w 14 5) (fld w 9 5) (fld w 1 2))
    | 1 => some (.ammaxF (fld w 30 2) (fld w 22 2) (fld w 14 5) (fld w 9 5) (fld w 1 2))
    | _ => none
  | 0x07 =>
    match (fld w 0 1).toNat with
    | 0 => some (.ammin (fld w 30 2) (fld w 14 5) (fld w 9 5) (fld w 1 2))
    | 1 => some (.amminF (fld w 30 2) (fld w 22 2) (fld w 14 5) (fld w 9 5) (fld w 1 2))
    | _ => none
  | 0x08 => some (.amxchg (fld w 30 2) (fld w 22 2) (fld w 14 5) (fld w 9 5) (fld w 1 2))
  | 0x09 => some (.amcas (fld w 30 2) (fld w 22 2) (fld w 14 5) (fld w 10 4) (fld w 1 2))
  | 0x0A => some (.wcadd (fld w 30 2) (fld w 14 5) (fld w 9 5) (fld w 0 8))
  | 0x0B => some (.wcaddv (fld w 30 2) (fld w 14 5) (fld w 9 4) (fld w 0 8))
  | 0x0C => some (.wcread (fld w 30 2) (fld w 22 2) (fld w 14 5))
  | 0x10 => some (.xcopy (fld w 30 2) (fld w 22 2) (fld w 20 2) (fld w 19 1) (fld w 0 2))
  | 0x11 => some (.xgather (fld w 30 2) (fld w 22 2) (fld w 20 2) (fld w 19 1) (fld w 14 5) (fld w 9 5) (fld w 0 2))
  | 0x12 => some (.xscatter (fld w 30 2) (fld w 22 2) (fld w 20 2) (fld w 19 1) (fld w 14 5) (fld w 9 5) (fld w 0 2))
  | 0x13 => some (.xfill (fld w 30 2) (fld w 22 2) (fld w 20 2) (fld w 19 1) (fld w 14 5))
  | 0x14 => some (.wstream (fld w 30 2) (fld w 20 2) (fld w 19 1) (fld w 2 1) (fld w 0 2))
  | 0x15 => some (.xsplice (fld w 30 2) (fld w 22 2) (fld w 20 2) (fld w 19 1) (fld w 14 5) (fld w 9 5))
  | 0x16 => some (.xdarn (fld w 30 2) (fld w 22 2) (fld w 20 2) (fld w 19 1) (fld w 14 5) (fld w 9 5))
  | 0x17 => some (.xdarnc (fld w 30 2) (fld w 22 2) (fld w 14 5))
  | 0x18 => some (.xnote (fld w 30 2) (fld w 14 5) (fld w 0 3))
  | 0x19 => some (.tread (fld w 30 2) (fld w 14 5) (fld w 0 3))
  | 0x1B => some (.xqp (fld w 30 2) (fld w 14 5) (fld w 9 5))
  | 0x1C => some (.xmbox (fld w 30 2) (fld w 14 5) (fld w 9 5))
  | 0x1D => some (.xarm (fld w 30 2) (fld w 14 5) (fld w 9 5))
  | 0x1E => some (.xlaunch (fld w 30 2) (fld w 14 5) (fld w 9 5))
  | 0x20 => some (.rent (fld w 30 2) (fld w 14 5) (fld w 9 5) (fld w 3 3) (fld w 0 3))
  | 0x21 => some (.renew (fld w 30 2) (fld w 14 5) (fld w 9 5) (fld w 0 3))
  | 0x22 => some (.prepay (fld w 30 2) (fld w 14 5) (fld w 9 5) (fld w 0 3))
  | 0x23 => some (.sublet (fld w 30 2) (fld w 14 5) (fld w 9 5) (fld w 3 1) (fld w 0 3))
  | 0x24 => some (.vacate (fld w 30 2) (fld w 14 5) (fld w 9 5) (fld w 0 3))
  | 0x25 => some (.rentq (fld w 30 2) (fld w 14 5) (fld w 9 5) (fld w 0 3))
  | 0x26 => some (.allowq (fld w 30 2) (fld w 14 5))
  | _ => none

/-- The row that a word names in a slot; slots 1 and 2 share one map (R19). -/
def rowOf (slot : Nat) (w : BitVec 32) : Option Instr :=
  match slot with
  | 0 => row0 w
  | 1 => row1 w
  | 2 => row1 w
  | 3 => row3 w
  | 4 => row4 w
  | 5 => row5 w
  | 6 => row6 w
  | 7 => row7 w
  | _ => none

/-- The word of an instruction, field by field from bit 31 down; steps and commands have none. -/
def encode : Instr → BitVec 32
  | .br iq disp => iq ++ 0x1#6 ++ disp
  | .bc iq cond s disp => iq ++ 0x2#6 ++ cond ++ s ++ disp
  | .bpany iq p disp => iq ++ 0xC0#12 ++ p ++ disp
  | .bpnone iq p disp => iq ++ 0x100#12 ++ p ++ disp
  | .call iq disp => iq ++ 0x5#6 ++ disp
  | .jr iq s => iq ++ 0xC0#11 ++ s ++ 0x0#14
  | .ret iq => iq ++ 0x7000000#30
  | .loop iq lvl s len => iq ++ 0x8#6 ++ lvl ++ s ++ len
  | .loopi iq lvl cnt len => iq ++ 0x9#6 ++ lvl ++ cnt ++ len
  | .loops iq lvl bs len => iq ++ 0xA#6 ++ lvl ++ bs ++ len
  | .lbreak iq lvl => iq ++ 0xB#6 ++ lvl ++ 0x0#21
  | .lstride iq lvl a s => iq ++ 0xC#6 ++ lvl ++ a ++ s ++ 0x0#12
  | .lidx iq d lvl => iq ++ 0xD#6 ++ d ++ lvl ++ 0x0#16
  | .ckpt iq => iq ++ 0xE000000#30
  | .ckptl iq => iq ++ 0xF000000#30
  | .fmt iq fam val => iq ++ 0x10#6 ++ fam ++ 0x0#13 ++ val
  | .fmts iq fam s => iq ++ 0x11#6 ++ fam ++ 0x0#2 ++ s ++ 0x0#14
  | .wfe iq => iq ++ 0x12000000#30
  | .sev iq s => iq ++ 0x260#11 ++ s ++ 0x0#14
  | .waitt iq s => iq ++ 0x280#11 ++ s ++ 0x0#14
  | .qwait iq q n => iq ++ 0x15#6 ++ q ++ n ++ 0x0#16
  | .qalign iq far near => iq ++ 0x16#6 ++ far ++ near ++ 0x0#22
  | .fence iq scope kind => iq ++ 0x17#6 ++ scope ++ kind ++ 0x0#19
  | .uimask iq m => iq ++ 0xC800000#29 ++ m
  | .trap iq imm => iq ++ 0x1A00#14 ++ imm
  | .csrr iq d csr => iq ++ 0x1C#6 ++ d ++ 0x0#7 ++ csr
  | .csrw iq s csr => iq ++ 0x3A0#11 ++ s ++ 0x0#2 ++ csr
  | .brk iq imm => iq ++ 0x1E00#14 ++ imm
  | .twait iq c s => iq ++ 0x20#6 ++ c ++ 0x0#2 ++ s ++ 0x0#14
  | .twaita iq a s => iq ++ 0x21#6 ++ a ++ 0x0#1 ++ s ++ 0x0#14
  | .sleepc iq s => iq ++ 0x440#11 ++ s ++ 0x0#14
  | .add iq d a b => iq ++ 0x1#6 ++ d ++ a ++ b ++ 0x0#9
  | .sub iq d a b => iq ++ 0x2#6 ++ d ++ a ++ b ++ 0x0#9
  | .addi iq d a imm => iq ++ 0x3#6 ++ d ++ a ++ imm
  | .mul iq d a b => iq ++ 0x4#6 ++ d ++ a ++ b ++ 0x0#9
  | .mulh iq d a b => iq ++ 0x5#6 ++ d ++ a ++ b ++ 0x0#9
  | .mulhu iq d a b => iq ++ 0x6#6 ++ d ++ a ++ b ++ 0x0#9
  | .div iq d a b => iq ++ 0x7#6 ++ d ++ a ++ b ++ 0x0#9
  | .divu iq d a b => iq ++ 0x8#6 ++ d ++ a ++ b ++ 0x0#9
  | .rem iq d a b => iq ++ 0x9#6 ++ d ++ a ++ b ++ 0x0#9
  | .remu iq d a b => iq ++ 0xA#6 ++ d ++ a ++ b ++ 0x0#9
  | .and iq d a b => iq ++ 0xB#6 ++ d ++ a ++ b ++ 0x0#9
  | .or iq d a b => iq ++ 0xC#6 ++ d ++ a ++ b ++ 0x0#9
  | .xor iq d a b => iq ++ 0xD#6 ++ d ++ a ++ b ++ 0x0#9
  | .andi iq d a imm => iq ++ 0xE#6 ++ d ++ a ++ imm
  | .ori iq d a imm => iq ++ 0xF#6 ++ d ++ a ++ imm
  | .xori iq d a imm => iq ++ 0x10#6 ++ d ++ a ++ imm
  | .sll iq d a b => iq ++ 0x11#6 ++ d ++ a ++ b ++ 0x0#9
  | .srl iq d a b => iq ++ 0x12#6 ++ d ++ a ++ b ++ 0x0#9
  | .sra iq d a b => iq ++ 0x13#6 ++ d ++ a ++ b ++ 0x0#9
  | .slli iq d a sh => iq ++ 0x14#6 ++ d ++ a ++ 0x0#8 ++ sh
  | .srli iq d a sh => iq ++ 0x15#6 ++ d ++ a ++ 0x0#8 ++ sh
  | .srai iq d a sh => iq ++ 0x16#6 ++ d ++ a ++ 0x0#8 ++ sh
  | .slt iq d a b => iq ++ 0x17#6 ++ d ++ a ++ b ++ 0x0#9
  | .sltu iq d a b => iq ++ 0x18#6 ++ d ++ a ++ b ++ 0x0#9
  | .slti iq d a imm => iq ++ 0x19#6 ++ d ++ a ++ imm
  | .min iq d a b => iq ++ 0x1A#6 ++ d ++ a ++ b ++ 0x0#9
  | .max iq d a b => iq ++ 0x1B#6 ++ d ++ a ++ b ++ 0x0#9
  | .minu iq d a b => iq ++ 0x1C#6 ++ d ++ a ++ b ++ 0x0#9
  | .maxu iq d a b => iq ++ 0x1D#6 ++ d ++ a ++ b ++ 0x0#9
  | .clz iq d a => iq ++ 0x1E#6 ++ d ++ a ++ 0x0#14
  | .popc iq d a => iq ++ 0x1F#6 ++ d ++ a ++ 0x0#14
  | .cmov iq d a b => iq ++ 0x20#6 ++ d ++ a ++ b ++ 0x0#9
  | .li iq d imm => iq ++ 0x21#6 ++ d ++ imm
  | .lui iq d imm => iq ++ 0x22#6 ++ d ++ imm
  | .adds iq d a b => iq ++ 0x23#6 ++ d ++ a ++ b ++ 0x0#9
  | .subs iq d a b => iq ++ 0x24#6 ++ d ++ a ++ b ++ 0x0#9
  | .amov iq d a => iq ++ 0x4A#7 ++ d ++ a ++ 0x0#14
  | .aget iq d a => iq ++ 0x26#6 ++ d ++ 0x0#1 ++ a ++ 0x0#14
  | .aadd iq d a b => iq ++ 0x4E#7 ++ d ++ 0x0#1 ++ a ++ b ++ 0x0#9
  | .aaddi iq d a imm => iq ++ 0x50#7 ++ d ++ 0x0#1 ++ a ++ imm
  | .agen iq d a b layer => iq ++ 0x52#7 ++ d ++ a ++ b ++ 0x0#1 ++ layer
  | .fadd iq d a b => iq ++ 0x2A#6 ++ d ++ a ++ b ++ 0x0#9
  | .fsub iq d a b => iq ++ 0x2B#6 ++ d ++ a ++ b ++ 0x0#9
  | .fmul iq d a b => iq ++ 0x2C#6 ++ d ++ a ++ b ++ 0x0#9
  | .fdiv iq d a b => iq ++ 0x2D#6 ++ d ++ a ++ b ++ 0x0#9
  | .fmin iq d a b => iq ++ 0x2E#6 ++ d ++ a ++ b ++ 0x0#9
  | .fmax iq d a b => iq ++ 0x2F#6 ++ d ++ a ++ b ++ 0x0#9
  | .fcmpEq iq d a b => iq ++ 0x30#6 ++ d ++ a ++ b ++ 0x0#9
  | .fcmpLt iq d a b => iq ++ 0x30#6 ++ d ++ a ++ b ++ 0x1#9
  | .fcmpLe iq d a b => iq ++ 0x30#6 ++ d ++ a ++ b ++ 0x2#9
  | .fcmpUn iq d a b => iq ++ 0x30#6 ++ d ++ a ++ b ++ 0x3#9
  | .fcvtF2i iq d a => iq ++ 0x31#6 ++ d ++ a ++ 0x0#14
  | .fcvtI2f iq d a => iq ++ 0x31#6 ++ d ++ a ++ 0x1#14
  | .fcvtF2bf iq d a => iq ++ 0x31#6 ++ d ++ a ++ 0x2#14
  | .fcvtBf2f iq d a => iq ++ 0x31#6 ++ d ++ a ++ 0x3#14
  | .qpops iq d q pk w => iq ++ 0x32#6 ++ d ++ 0x0#1 ++ q ++ 0x0#7 ++ pk ++ w
  | .qpushs iq q a => iq ++ 0x66#7 ++ q ++ a ++ 0x0#14
  | .shw iq slot h a field => iq ++ 0x34#6 ++ slot ++ h ++ 0x0#1 ++ a ++ 0x0#5 ++ field
  | .shr iq d slot h field => iq ++ 0x35#6 ++ d ++ slot ++ h ++ 0x0#6 ++ field
  | .rdrankRank iq d => iq ++ 0x36#6 ++ d ++ 0x0#19
  | .rdrankLoom iq d => iq ++ 0x36#6 ++ d ++ 0x1#19
  | .rdrankDie iq d => iq ++ 0x36#6 ++ d ++ 0x2#19
  | .rdrankCore iq d => iq ++ 0x36#6 ++ d ++ 0x3#19
  | .nld iq q a pi off => iq ++ 0x1#6 ++ q ++ a ++ pi ++ off
  | .nldh iq q a pi off => iq ++ 0x2#6 ++ q ++ a ++ pi ++ off
  | .nldb iq q a pi off => iq ++ 0x3#6 ++ q ++ a ++ pi ++ off
  | .nldx iq q a pi s off => iq ++ 0x4#6 ++ q ++ a ++ pi ++ s ++ off
  | .nst iq q a pi off => iq ++ 0x5#6 ++ q ++ a ++ pi ++ off
  | .nsth iq q a pi off => iq ++ 0x6#6 ++ q ++ a ++ pi ++ off
  | .nstx iq q a pi s off => iq ++ 0x7#6 ++ q ++ a ++ pi ++ s ++ off
  | .ard iq q t a pi row => iq ++ 0x1#6 ++ q ++ t ++ a ++ pi ++ row ++ 0x0#4
  | .ardc iq q t a pi row => iq ++ 0x2#6 ++ q ++ t ++ a ++ pi ++ row ++ 0x0#4
  | .awr iq q t a pi row => iq ++ 0x3#6 ++ q ++ t ++ a ++ pi ++ row ++ 0x0#4
  | .aacc iq q t a pi row => iq ++ 0x4#6 ++ q ++ t ++ a ++ pi ++ row ++ 0x0#4
  | .azero iq t a pi row => iq ++ 0x50#10 ++ t ++ a ++ pi ++ row ++ 0x0#4
  | .ascl iq q t => iq ++ 0x6#6 ++ q ++ t ++ 0x0#16
  | .ardt iq q t a pi row => iq ++ 0x7#6 ++ q ++ t ++ a ++ pi ++ row ++ 0x0#4
  | .vadd iq vd va vb ma mb pg md => iq ++ 0x1#6 ++ vd ++ va ++ vb ++ ma ++ mb ++ pg ++ md
  | .vsub iq vd va vb ma mb pg md => iq ++ 0x2#6 ++ vd ++ va ++ vb ++ ma ++ mb ++ pg ++ md
  | .vmul iq vd va vb ma mb pg md => iq ++ 0x3#6 ++ vd ++ va ++ vb ++ ma ++ mb ++ pg ++ md
  | .vfma iq vd va vb ma mb pg => iq ++ 0x4#6 ++ vd ++ va ++ vb ++ ma ++ mb ++ pg ++ 0x0#2
  | .vfms iq vd va vb ma mb pg => iq ++ 0x5#6 ++ vd ++ va ++ vb ++ ma ++ mb ++ pg ++ 0x0#2
  | .vmin iq vd va vb ma mb pg md => iq ++ 0x6#6 ++ vd ++ va ++ vb ++ ma ++ mb ++ pg ++ md
  | .vmax iq vd va vb ma mb pg md => iq ++ 0x7#6 ++ vd ++ va ++ vb ++ ma ++ mb ++ pg ++ md
  | .vabs iq vd va ma pg md => iq ++ 0x8#6 ++ vd ++ va ++ 0x0#5 ++ ma ++ 0x0#2 ++ pg ++ md
  | .vneg iq vd va ma pg md => iq ++ 0x9#6 ++ vd ++ va ++ 0x0#5 ++ ma ++ 0x0#2 ++ pg ++ md
  | .vrcp iq vd va ma pg md => iq ++ 0xA#6 ++ vd ++ va ++ 0x0#5 ++ ma ++ 0x0#2 ++ pg ++ md
  | .vrsq iq vd va ma pg md => iq ++ 0xB#6 ++ vd ++ va ++ 0x0#5 ++ ma ++ 0x0#2 ++ pg ++ md
  | .vsqrt iq vd va ma pg md => iq ++ 0xC#6 ++ vd ++ va ++ 0x0#5 ++ ma ++ 0x0#2 ++ pg ++ md
  | .vdiv iq vd va vb ma mb pg md => iq ++ 0xD#6 ++ vd ++ va ++ vb ++ ma ++ mb ++ pg ++ md
  | .vexp2 iq vd va ma pg md => iq ++ 0xE#6 ++ vd ++ va ++ 0x0#5 ++ ma ++ 0x0#2 ++ pg ++ md
  | .vexp iq vd va ma pg md => iq ++ 0xF#6 ++ vd ++ va ++ 0x0#5 ++ ma ++ 0x0#2 ++ pg ++ md
  | .vlog2 iq vd va ma pg md => iq ++ 0x10#6 ++ vd ++ va ++ 0x0#5 ++ ma ++ 0x0#2 ++ pg ++ md
  | .vsig iq vd va ma pg md => iq ++ 0x11#6 ++ vd ++ va ++ 0x0#5 ++ ma ++ 0x0#2 ++ pg ++ md
  | .vtanh iq vd va ma pg md => iq ++ 0x12#6 ++ vd ++ va ++ 0x0#5 ++ ma ++ 0x0#2 ++ pg ++ md
  | .vcvt iq vd va ma pg md => iq ++ 0x13#6 ++ vd ++ va ++ 0x0#5 ++ ma ++ 0x0#2 ++ pg ++ md
  | .vpexp iq vd va vb ma mb pg md => iq ++ 0x14#6 ++ vd ++ va ++ vb ++ ma ++ mb ++ pg ++ md
  | .vpmac iq vd va vb ma mb pg => iq ++ 0x15#6 ++ vd ++ va ++ vb ++ ma ++ mb ++ pg ++ 0x0#2
  | .vcmpeq iq pd va vb ma mb pg => iq ++ 0x58#8 ++ pd ++ va ++ vb ++ ma ++ mb ++ pg ++ 0x0#2
  | .vcmplt iq pd va vb ma mb pg => iq ++ 0x5C#8 ++ pd ++ va ++ vb ++ ma ++ mb ++ pg ++ 0x0#2
  | .vcmple iq pd va vb ma mb pg => iq ++ 0x60#8 ++ pd ++ va ++ vb ++ ma ++ mb ++ pg ++ 0x0#2
  | .vcmpun iq pd va vb ma mb pg => iq ++ 0x64#8 ++ pd ++ va ++ vb ++ ma ++ mb ++ pg ++ 0x0#2
  | .viadd iq vd va vb ma mb pg md => iq ++ 0x1A#6 ++ vd ++ va ++ vb ++ ma ++ mb ++ pg ++ md
  | .visub iq vd va vb ma mb pg md => iq ++ 0x1B#6 ++ vd ++ va ++ vb ++ ma ++ mb ++ pg ++ md
  | .vimul iq vd va vb ma mb pg md => iq ++ 0x1C#6 ++ vd ++ va ++ vb ++ ma ++ mb ++ pg ++ md
  | .vimin iq vd va vb ma mb pg md => iq ++ 0x1D#6 ++ vd ++ va ++ vb ++ ma ++ mb ++ pg ++ md
  | .vimax iq vd va vb ma mb pg md => iq ++ 0x1E#6 ++ vd ++ va ++ vb ++ ma ++ mb ++ pg ++ md
  | .vand iq vd va vb ma mb pg md => iq ++ 0x1F#6 ++ vd ++ va ++ vb ++ ma ++ mb ++ pg ++ md
  | .vor iq vd va vb ma mb pg md => iq ++ 0x20#6 ++ vd ++ va ++ vb ++ ma ++ mb ++ pg ++ md
  | .vxor iq vd va vb ma mb pg md => iq ++ 0x21#6 ++ vd ++ va ++ vb ++ ma ++ mb ++ pg ++ md
  | .vnot iq vd va ma pg md => iq ++ 0x22#6 ++ vd ++ va ++ 0x0#5 ++ ma ++ 0x0#2 ++ pg ++ md
  | .vshl iq vd va vb ma mb pg md => iq ++ 0x23#6 ++ vd ++ va ++ vb ++ ma ++ mb ++ pg ++ md
  | .vshr iq vd va vb ma mb pg md => iq ++ 0x24#6 ++ vd ++ va ++ vb ++ ma ++ mb ++ pg ++ md
  | .vsra iq vd va vb ma mb pg md => iq ++ 0x25#6 ++ vd ++ va ++ vb ++ ma ++ mb ++ pg ++ md
  | .vdot4 iq vd va vb ma mb pg md => iq ++ 0x26#6 ++ vd ++ va ++ vb ++ ma ++ mb ++ pg ++ md
  | .vicmpeq iq pd va vb ma mb pg => iq ++ 0x9C#8 ++ pd ++ va ++ vb ++ ma ++ mb ++ pg ++ 0x0#2
  | .vicmplt iq pd va vb ma mb pg => iq ++ 0xA0#8 ++ pd ++ va ++ vb ++ ma ++ mb ++ pg ++ 0x0#2
  | .vmov iq vd va ma pg md => iq ++ 0x29#6 ++ vd ++ va ++ 0x0#5 ++ ma ++ 0x0#2 ++ pg ++ md
  | .vsel iq vd va vb ma mb pg md => iq ++ 0x2A#6 ++ vd ++ va ++ vb ++ ma ++ mb ++ pg ++ md
  | .vperm iq vd va vb ma mb pg md => iq ++ 0x2B#6 ++ vd ++ va ++ vb ++ ma ++ mb ++ pg ++ md
  | .vrot iq vd va vb ma mb pg md => iq ++ 0x2C#6 ++ vd ++ va ++ vb ++ ma ++ mb ++ pg ++ md
  | .viota iq vd pg md => iq ++ 0x2D#6 ++ vd ++ 0x0#14 ++ pg ++ md
  | .vpack iq vd va vb ma mb pg md => iq ++ 0x2E#6 ++ vd ++ va ++ vb ++ ma ++ mb ++ pg ++ md
  | .vunpk iq vd va ma pg md => iq ++ 0x2F#6 ++ vd ++ va ++ 0x0#5 ++ ma ++ 0x0#2 ++ pg ++ md
  | .vrsum iq vd va ma pg md => iq ++ 0x30#6 ++ vd ++ va ++ 0x0#5 ++ ma ++ 0x0#2 ++ pg ++ md
  | .vrmax iq vd va ma pg md => iq ++ 0x31#6 ++ vd ++ va ++ 0x0#5 ++ ma ++ 0x0#2 ++ pg ++ md
  | .vrmin iq vd va ma pg md => iq ++ 0x32#6 ++ vd ++ va ++ 0x0#5 ++ ma ++ 0x0#2 ++ pg ++ md
  | .vmaxi iq vd va ma pg md => iq ++ 0x33#6 ++ vd ++ va ++ 0x0#5 ++ ma ++ 0x0#2 ++ pg ++ md
  | .vmini iq vd va ma pg md => iq ++ 0x34#6 ++ vd ++ va ++ 0x0#5 ++ ma ++ 0x0#2 ++ pg ++ md
  | .vscan iq vd va ma pg md => iq ++ 0x35#6 ++ vd ++ va ++ 0x0#5 ++ ma ++ 0x0#2 ++ pg ++ md
  | .pand iq pd pa pb => iq ++ 0xD8#8 ++ pd ++ 0x0#2 ++ pa ++ 0x0#2 ++ pb ++ 0x0#9
  | .por iq pd pa pb => iq ++ 0xDC#8 ++ pd ++ 0x0#2 ++ pa ++ 0x0#2 ++ pb ++ 0x0#9
  | .pxor iq pd pa pb => iq ++ 0xE0#8 ++ pd ++ 0x0#2 ++ pa ++ 0x0#2 ++ pb ++ 0x0#9
  | .pnot iq pd pa => iq ++ 0xE4#8 ++ pd ++ 0x0#2 ++ pa ++ 0x0#14
  | .pcnt iq d pa => iq ++ 0x3A#6 ++ d ++ 0x0#2 ++ pa ++ 0x0#14
  | .pset iq pd s => iq ++ 0xEC#8 ++ pd ++ s ++ 0x180#14
  | .iadd iq id ia ib => iq ++ 0x3C#6 ++ id ++ ia ++ ib ++ 0x0#12
  | .isub iq id ia ib => iq ++ 0x3C#6 ++ id ++ ia ++ ib ++ 0x1#12
  | .imul iq id ia ib => iq ++ 0x3C#6 ++ id ++ ia ++ ib ++ 0x2#12
  | .idiv iq id ia ib => iq ++ 0x3C#6 ++ id ++ ia ++ ib ++ 0x3#12
  | .isqr iq id ia => iq ++ 0x3C#6 ++ id ++ ia ++ 0x4#16
  | .isqrt iq id ia => iq ++ 0x3C#6 ++ id ++ ia ++ 0x5#16
  | .iexp iq id ia => iq ++ 0x3C#6 ++ id ++ ia ++ 0x6#16
  | .ilog iq id ia => iq ++ 0x3C#6 ++ id ++ ia ++ 0x7#16
  | .imin iq id ia ib => iq ++ 0x3C#6 ++ id ++ ia ++ ib ++ 0x8#12
  | .imax iq id ia ib => iq ++ 0x3C#6 ++ id ++ ia ++ ib ++ 0x9#12
  | .iabs iq id ia => iq ++ 0x3C#6 ++ id ++ ia ++ 0xA#16
  | .iaddB iq id ia ib => iq ++ 0x3C#6 ++ id ++ ia ++ ib ++ 0x800#12
  | .isubB iq id ia ib => iq ++ 0x3C#6 ++ id ++ ia ++ ib ++ 0x801#12
  | .imulB iq id ia ib => iq ++ 0x3C#6 ++ id ++ ia ++ ib ++ 0x802#12
  | .idivB iq id ia ib => iq ++ 0x3C#6 ++ id ++ ia ++ ib ++ 0x803#12
  | .isqrB iq id ia => iq ++ 0x3C#6 ++ id ++ ia ++ 0x804#16
  | .isqrtB iq id ia => iq ++ 0x3C#6 ++ id ++ ia ++ 0x805#16
  | .iexpB iq id ia => iq ++ 0x3C#6 ++ id ++ ia ++ 0x806#16
  | .ilogB iq id ia => iq ++ 0x3C#6 ++ id ++ ia ++ 0x807#16
  | .iminB iq id ia ib => iq ++ 0x3C#6 ++ id ++ ia ++ ib ++ 0x808#12
  | .imaxB iq id ia ib => iq ++ 0x3C#6 ++ id ++ ia ++ ib ++ 0x809#12
  | .iabsB iq id ia => iq ++ 0x3C#6 ++ id ++ ia ++ 0x80A#16
  | .ihull iq id ia ib => iq ++ 0x3D#6 ++ id ++ ia ++ ib ++ 0x0#12
  | .imeet iq id ia ib => iq ++ 0x3D#6 ++ id ++ ia ++ ib ++ 0x1#12
  | .isplit iq id ia ib => iq ++ 0x3D#6 ++ id ++ ia ++ ib ++ 0x2#12
  | .ifrom iq id ia ib => iq ++ 0x3D#6 ++ id ++ ia ++ ib ++ 0x3#12
  | .itolo iq id ia => iq ++ 0x3D#6 ++ id ++ ia ++ 0x4#16
  | .itohi iq id ia => iq ++ 0x3D#6 ++ id ++ ia ++ 0x5#16
  | .imid iq id ia => iq ++ 0x3D#6 ++ id ++ ia ++ 0x6#16
  | .iwid iq id ia => iq ++ 0x3D#6 ++ id ++ ia ++ 0x7#16
  | .icmplt iq ia ib tp => iq ++ 0x3E0#10 ++ ia ++ ib ++ 0x0#1 ++ tp ++ 0x0#8
  | .icmple iq ia ib tp => iq ++ 0x3E0#10 ++ ia ++ ib ++ 0x0#1 ++ tp ++ 0x1#8
  | .icmpeq iq ia ib tp => iq ++ 0x3E0#10 ++ ia ++ ib ++ 0x0#1 ++ tp ++ 0x2#8
  | .isubset iq ia ib tp => iq ++ 0x3E0#10 ++ ia ++ ib ++ 0x0#1 ++ tp ++ 0x3#8
  | .idisj iq ia ib tp => iq ++ 0x3E0#10 ++ ia ++ ib ++ 0x0#1 ++ tp ++ 0x4#8
  | .mldb iq a off => iq ++ 0x1#6 ++ a ++ off
  | .mma iq t q pk rows => iq ++ 0x3#6 ++ t ++ q ++ pk ++ rows ++ 0x0#8
  | .mmaz iq t q pk rows => iq ++ 0x4#6 ++ t ++ q ++ pk ++ rows ++ 0x0#8
  | .mrep iq n => iq ++ 0x50000#22 ++ n
  | .mdrain iq t => iq ++ 0x6#6 ++ t ++ 0x0#20
  | .mldbl iq a off => iq ++ 0x7#6 ++ a ++ off
  | .fld iq c h sw => iq ++ 0x1#6 ++ c ++ h ++ sw ++ 0x0#19
  | .flds iq c s => iq ++ 0x2#6 ++ c ++ 0x0#3 ++ s ++ 0x0#14
  | .fst iq h sw q => iq ++ 0xC#8 ++ h ++ sw ++ 0x0#6 ++ q ++ 0x0#9
  | .fsts iq s q => iq ++ 0x80#11 ++ s ++ 0x0#1 ++ q ++ 0x0#9
  | .amadd iq s s2 wd => iq ++ 0xA0#11 ++ s ++ s2 ++ 0x0#6 ++ wd ++ 0x0#1
  | .amaddF iq c s s2 wd => iq ++ 0x5#6 ++ c ++ 0x0#3 ++ s ++ s2 ++ 0x0#6 ++ wd ++ 0x1#1
  | .ammax iq s s2 wd => iq ++ 0xC0#11 ++ s ++ s2 ++ 0x0#6 ++ wd ++ 0x0#1
  | .ammaxF iq c s s2 wd => iq ++ 0x6#6 ++ c ++ 0x0#3 ++ s ++ s2 ++ 0x0#6 ++ wd ++ 0x1#1
  | .ammin iq s s2 wd => iq ++ 0xE0#11 ++ s ++ s2 ++ 0x0#6 ++ wd ++ 0x0#1
  | .amminF iq c s s2 wd => iq ++ 0x7#6 ++ c ++ 0x0#3 ++ s ++ s2 ++ 0x0#6 ++ wd ++ 0x1#1
  | .amxchg iq c s s2 wd => iq ++ 0x8#6 ++ c ++ 0x0#3 ++ s ++ s2 ++ 0x0#6 ++ wd ++ 0x1#1
  | .amcas iq c s s2 wd => iq ++ 0x9#6 ++ c ++ 0x0#3 ++ s ++ s2 ++ 0x0#7 ++ wd ++ 0x1#1
  | .wcadd iq s s2 code => iq ++ 0x140#11 ++ s ++ s2 ++ 0x0#1 ++ code
  | .wcaddv iq s q code => iq ++ 0x160#11 ++ s ++ 0x0#1 ++ q ++ 0x0#1 ++ code
  | .wcread iq c s => iq ++ 0xC#6 ++ c ++ 0x0#3 ++ s ++ 0x0#14
  | .xcopy iq c h sw hsrc => iq ++ 0x10#6 ++ c ++ h ++ sw ++ 0x0#17 ++ hsrc
  | .xgather iq c h sw s s2 hsrc => iq ++ 0x11#6 ++ c ++ h ++ sw ++ s ++ s2 ++ 0x0#7 ++ hsrc
  | .xscatter iq c h sw s s2 hsrc => iq ++ 0x12#6 ++ c ++ h ++ sw ++ s ++ s2 ++ 0x0#7 ++ hsrc
  | .xfill iq c h sw s => iq ++ 0x13#6 ++ c ++ h ++ sw ++ s ++ 0x0#14
  | .wstream iq h sw enc hsrc => iq ++ 0x50#8 ++ h ++ sw ++ 0x0#16 ++ enc ++ hsrc
  | .xsplice iq c h sw s s2 => iq ++ 0x15#6 ++ c ++ h ++ sw ++ s ++ s2 ++ 0x0#9
  | .xdarn iq c h sw s s2 => iq ++ 0x16#6 ++ c ++ h ++ sw ++ s ++ s2 ++ 0x0#9
  | .xdarnc iq c s => iq ++ 0x17#6 ++ c ++ 0x0#3 ++ s ++ 0x0#14
  | .xnote iq s c => iq ++ 0x300#11 ++ s ++ 0x0#11 ++ c
  | .tread iq s c => iq ++ 0x320#11 ++ s ++ 0x0#11 ++ c
  | .xqp iq s s2 => iq ++ 0x360#11 ++ s ++ s2 ++ 0x0#9
  | .xmbox iq s s2 => iq ++ 0x380#11 ++ s ++ s2 ++ 0x0#9
  | .xarm iq s s2 => iq ++ 0x3A0#11 ++ s ++ s2 ++ 0x0#9
  | .xlaunch iq s s2 => iq ++ 0x3C0#11 ++ s ++ s2 ++ 0x0#9
  | .rent iq s s2 att tier => iq ++ 0x400#11 ++ s ++ s2 ++ 0x0#3 ++ att ++ tier
  | .renew iq s s2 tier => iq ++ 0x420#11 ++ s ++ s2 ++ 0x0#6 ++ tier
  | .prepay iq s s2 tier => iq ++ 0x440#11 ++ s ++ s2 ++ 0x0#6 ++ tier
  | .sublet iq s s2 rw tier => iq ++ 0x460#11 ++ s ++ s2 ++ 0x0#5 ++ rw ++ tier
  | .vacate iq s s2 tier => iq ++ 0x480#11 ++ s ++ s2 ++ 0x0#6 ++ tier
  | .rentq iq s s2 tier => iq ++ 0x4A0#11 ++ s ++ s2 ++ 0x0#6 ++ tier
  | .allowq iq s => iq ++ 0x4C0#11 ++ s ++ 0x0#14
  | .istatRead _ _ => 0
  | .srseedWrite _ _ => 0
  | .skewWrite _ _ => 0
  | .rateWrite _ _ _ => 0
  | .sliceWrite _ _ => 0
  | .evcntWrite _ _ _ => 0
  | .genayReply _ _ => 0
  | .resultLanding _ => 0
  | .nearPerform _ => 0
  | .planeLoadLand _ => 0
  | .partialSumAdd _ => 0
  | .scoreboardStallEnd _ => 0
  | .mdrainEnd _ => 0
  | .checkpointComplete _ => 0
  | .waittEnd _ => 0
  | .sleepcEnd _ => 0
  | .qwaitEnd _ => 0
  | .twaitEnd _ => 0
  | .twaitaPoll _ => 0
  | .wfeWake _ => 0
  | .depart _ _ => 0
  | .hop _ => 0
  | .perform _ => 0
  | .arrive _ => 0
  | .start _ _ => 0
  | .darncStart _ _ => 0
  | .tileLaunchStart _ => 0
  | .complete _ _ => 0
  | .workEntryComplete _ _ => 0
  | .fabricReceive _ => 0
  | .rentCommit _ => 0
  | .rentClockTick => 0
  | .pitchExpiry _ => 0
  | .overstayTick _ => 0
  | .scrubStart _ => 0
  | .scrubDone _ => 0
  | .rentScrubWait _ _ => 0
  | .rowGroupRefresh _ => 0
  | .patrolScrub _ => 0
  | .quarantine _ _ => 0
  | .powerSample _ _ => 0
  | .thermalThrottle _ => 0
  | .thermalTrip _ => 0
  | .packageReset => 0
  | .taskPlacement _ => 0
  | .taskStart _ _ => 0
  | .dependenceMet _ => 0
  | .sliceExpiry _ _ => 0
  | .watchdogExpiry _ => 0
  | .drainForceStop _ => 0
  | .taskSetCompletion _ => 0
  | .msixTimer _ => 0
  | .notifyTail _ _ => 0
  | .notifyPrio _ _ => 0
  | .notifyInvalidWrite _ _ _ => 0
  | .launch _ => 0
  | .barrier _ => 0
  | .credit _ => 0
  | .report _ => 0
  | .account _ => 0
  | .partition _ => 0
  | .queue _ => 0
  | .pasidrevRevoke _ => 0
  | .pasidrevRestore _ => 0
  | .pageUnmap _ => 0
  | .pageReadonly _ => 0
  | .pageWritable _ => 0
  | .pageDemote _ => 0
  | .pageShare _ => 0
  | .desc _ => 0
  | .status _ => 0
  | .debugStop _ => 0
  | .debugResume _ => 0
  | .saveioRead _ => 0
  | .saveioWrite _ => 0
  | .fwpatch _ => 0
  | .fwstage _ => 0
  | .fwupdate _ => 0
  | .qpRecordWrite _ _ => 0
  | .hostMemoryAccess _ _ _ => 0
  | .atsInvalidation _ _ _ _ _ => 0
  | .pasidStop _ => 0
  | .tdispMessage _ _ => 0
  | .spdmMessage _ _ => 0
  | .fabricLaunch _ _ _ _ => 0
  | .fwupdateTimeout => 0
  | .entryRead _ => 0
  | .linkFailure _ => 0
  | .nop => 0x0#32
  | .uiret => 0#2 ++ 0x18000000#30
  | .uiretFirst => 1#2 ++ 0x18000000#30
  | .uiretLast => 2#2 ++ 0x18000000#30
  | .eret => 0#2 ++ 0x1B000000#30
  | .eretFirst => 1#2 ++ 0x1B000000#30
  | .eretLast => 2#2 ++ 0x1B000000#30
  | .halt => 0#2 ++ 0x1F000000#30
  | .haltFirst => 1#2 ++ 0x1F000000#30
  | .haltLast => 2#2 ++ 0x1F000000#30
  | .mswb => 0#2 ++ 0x2000000#30
  | .mswbFirst => 1#2 ++ 0x2000000#30
  | .mswbLast => 2#2 ++ 0x2000000#30

/-- The slot whose map holds an instruction: 1 stands for the scalar slots 1 and 2; none for a step or command. -/
def Instr.slot : Instr → Option Nat
  | .br _ _ => some 0
  | .bc _ _ _ _ => some 0
  | .bpany _ _ _ => some 0
  | .bpnone _ _ _ => some 0
  | .call _ _ => some 0
  | .jr _ _ => some 0
  | .ret _ => some 0
  | .loop _ _ _ _ => some 0
  | .loopi _ _ _ _ => some 0
  | .loops _ _ _ _ => some 0
  | .lbreak _ _ => some 0
  | .lstride _ _ _ _ => some 0
  | .lidx _ _ _ => some 0
  | .ckpt _ => some 0
  | .ckptl _ => some 0
  | .fmt _ _ _ => some 0
  | .fmts _ _ _ => some 0
  | .wfe _ => some 0
  | .sev _ _ => some 0
  | .waitt _ _ => some 0
  | .qwait _ _ _ => some 0
  | .qalign _ _ _ => some 0
  | .fence _ _ _ => some 0
  | .uimask _ _ => some 0
  | .trap _ _ => some 0
  | .csrr _ _ _ => some 0
  | .csrw _ _ _ => some 0
  | .brk _ _ => some 0
  | .twait _ _ _ => some 0
  | .twaita _ _ _ => some 0
  | .sleepc _ _ => some 0
  | .add _ _ _ _ => some 1
  | .sub _ _ _ _ => some 1
  | .addi _ _ _ _ => some 1
  | .mul _ _ _ _ => some 1
  | .mulh _ _ _ _ => some 1
  | .mulhu _ _ _ _ => some 1
  | .div _ _ _ _ => some 1
  | .divu _ _ _ _ => some 1
  | .rem _ _ _ _ => some 1
  | .remu _ _ _ _ => some 1
  | .and _ _ _ _ => some 1
  | .or _ _ _ _ => some 1
  | .xor _ _ _ _ => some 1
  | .andi _ _ _ _ => some 1
  | .ori _ _ _ _ => some 1
  | .xori _ _ _ _ => some 1
  | .sll _ _ _ _ => some 1
  | .srl _ _ _ _ => some 1
  | .sra _ _ _ _ => some 1
  | .slli _ _ _ _ => some 1
  | .srli _ _ _ _ => some 1
  | .srai _ _ _ _ => some 1
  | .slt _ _ _ _ => some 1
  | .sltu _ _ _ _ => some 1
  | .slti _ _ _ _ => some 1
  | .min _ _ _ _ => some 1
  | .max _ _ _ _ => some 1
  | .minu _ _ _ _ => some 1
  | .maxu _ _ _ _ => some 1
  | .clz _ _ _ => some 1
  | .popc _ _ _ => some 1
  | .cmov _ _ _ _ => some 1
  | .li _ _ _ => some 1
  | .lui _ _ _ => some 1
  | .adds _ _ _ _ => some 1
  | .subs _ _ _ _ => some 1
  | .amov _ _ _ => some 1
  | .aget _ _ _ => some 1
  | .aadd _ _ _ _ => some 1
  | .aaddi _ _ _ _ => some 1
  | .agen _ _ _ _ _ => some 1
  | .fadd _ _ _ _ => some 1
  | .fsub _ _ _ _ => some 1
  | .fmul _ _ _ _ => some 1
  | .fdiv _ _ _ _ => some 1
  | .fmin _ _ _ _ => some 1
  | .fmax _ _ _ _ => some 1
  | .fcmpEq _ _ _ _ => some 1
  | .fcmpLt _ _ _ _ => some 1
  | .fcmpLe _ _ _ _ => some 1
  | .fcmpUn _ _ _ _ => some 1
  | .fcvtF2i _ _ _ => some 1
  | .fcvtI2f _ _ _ => some 1
  | .fcvtF2bf _ _ _ => some 1
  | .fcvtBf2f _ _ _ => some 1
  | .qpops _ _ _ _ _ => some 1
  | .qpushs _ _ _ => some 1
  | .shw _ _ _ _ _ => some 1
  | .shr _ _ _ _ _ => some 1
  | .rdrankRank _ _ => some 1
  | .rdrankLoom _ _ => some 1
  | .rdrankDie _ _ => some 1
  | .rdrankCore _ _ => some 1
  | .nld _ _ _ _ _ => some 3
  | .nldh _ _ _ _ _ => some 3
  | .nldb _ _ _ _ _ => some 3
  | .nldx _ _ _ _ _ _ => some 3
  | .nst _ _ _ _ _ => some 3
  | .nsth _ _ _ _ _ => some 3
  | .nstx _ _ _ _ _ _ => some 3
  | .ard _ _ _ _ _ _ => some 4
  | .ardc _ _ _ _ _ _ => some 4
  | .awr _ _ _ _ _ _ => some 4
  | .aacc _ _ _ _ _ _ => some 4
  | .azero _ _ _ _ _ => some 4
  | .ascl _ _ _ => some 4
  | .ardt _ _ _ _ _ _ => some 4
  | .vadd _ _ _ _ _ _ _ _ => some 5
  | .vsub _ _ _ _ _ _ _ _ => some 5
  | .vmul _ _ _ _ _ _ _ _ => some 5
  | .vfma _ _ _ _ _ _ _ => some 5
  | .vfms _ _ _ _ _ _ _ => some 5
  | .vmin _ _ _ _ _ _ _ _ => some 5
  | .vmax _ _ _ _ _ _ _ _ => some 5
  | .vabs _ _ _ _ _ _ => some 5
  | .vneg _ _ _ _ _ _ => some 5
  | .vrcp _ _ _ _ _ _ => some 5
  | .vrsq _ _ _ _ _ _ => some 5
  | .vsqrt _ _ _ _ _ _ => some 5
  | .vdiv _ _ _ _ _ _ _ _ => some 5
  | .vexp2 _ _ _ _ _ _ => some 5
  | .vexp _ _ _ _ _ _ => some 5
  | .vlog2 _ _ _ _ _ _ => some 5
  | .vsig _ _ _ _ _ _ => some 5
  | .vtanh _ _ _ _ _ _ => some 5
  | .vcvt _ _ _ _ _ _ => some 5
  | .vpexp _ _ _ _ _ _ _ _ => some 5
  | .vpmac _ _ _ _ _ _ _ => some 5
  | .vcmpeq _ _ _ _ _ _ _ => some 5
  | .vcmplt _ _ _ _ _ _ _ => some 5
  | .vcmple _ _ _ _ _ _ _ => some 5
  | .vcmpun _ _ _ _ _ _ _ => some 5
  | .viadd _ _ _ _ _ _ _ _ => some 5
  | .visub _ _ _ _ _ _ _ _ => some 5
  | .vimul _ _ _ _ _ _ _ _ => some 5
  | .vimin _ _ _ _ _ _ _ _ => some 5
  | .vimax _ _ _ _ _ _ _ _ => some 5
  | .vand _ _ _ _ _ _ _ _ => some 5
  | .vor _ _ _ _ _ _ _ _ => some 5
  | .vxor _ _ _ _ _ _ _ _ => some 5
  | .vnot _ _ _ _ _ _ => some 5
  | .vshl _ _ _ _ _ _ _ _ => some 5
  | .vshr _ _ _ _ _ _ _ _ => some 5
  | .vsra _ _ _ _ _ _ _ _ => some 5
  | .vdot4 _ _ _ _ _ _ _ _ => some 5
  | .vicmpeq _ _ _ _ _ _ _ => some 5
  | .vicmplt _ _ _ _ _ _ _ => some 5
  | .vmov _ _ _ _ _ _ => some 5
  | .vsel _ _ _ _ _ _ _ _ => some 5
  | .vperm _ _ _ _ _ _ _ _ => some 5
  | .vrot _ _ _ _ _ _ _ _ => some 5
  | .viota _ _ _ _ => some 5
  | .vpack _ _ _ _ _ _ _ _ => some 5
  | .vunpk _ _ _ _ _ _ => some 5
  | .vrsum _ _ _ _ _ _ => some 5
  | .vrmax _ _ _ _ _ _ => some 5
  | .vrmin _ _ _ _ _ _ => some 5
  | .vmaxi _ _ _ _ _ _ => some 5
  | .vmini _ _ _ _ _ _ => some 5
  | .vscan _ _ _ _ _ _ => some 5
  | .pand _ _ _ _ => some 5
  | .por _ _ _ _ => some 5
  | .pxor _ _ _ _ => some 5
  | .pnot _ _ _ => some 5
  | .pcnt _ _ _ => some 5
  | .pset _ _ _ => some 5
  | .iadd _ _ _ _ => some 5
  | .isub _ _ _ _ => some 5
  | .imul _ _ _ _ => some 5
  | .idiv _ _ _ _ => some 5
  | .isqr _ _ _ => some 5
  | .isqrt _ _ _ => some 5
  | .iexp _ _ _ => some 5
  | .ilog _ _ _ => some 5
  | .imin _ _ _ _ => some 5
  | .imax _ _ _ _ => some 5
  | .iabs _ _ _ => some 5
  | .iaddB _ _ _ _ => some 5
  | .isubB _ _ _ _ => some 5
  | .imulB _ _ _ _ => some 5
  | .idivB _ _ _ _ => some 5
  | .isqrB _ _ _ => some 5
  | .isqrtB _ _ _ => some 5
  | .iexpB _ _ _ => some 5
  | .ilogB _ _ _ => some 5
  | .iminB _ _ _ _ => some 5
  | .imaxB _ _ _ _ => some 5
  | .iabsB _ _ _ => some 5
  | .ihull _ _ _ _ => some 5
  | .imeet _ _ _ _ => some 5
  | .isplit _ _ _ _ => some 5
  | .ifrom _ _ _ _ => some 5
  | .itolo _ _ _ => some 5
  | .itohi _ _ _ => some 5
  | .imid _ _ _ => some 5
  | .iwid _ _ _ => some 5
  | .icmplt _ _ _ _ => some 5
  | .icmple _ _ _ _ => some 5
  | .icmpeq _ _ _ _ => some 5
  | .isubset _ _ _ _ => some 5
  | .idisj _ _ _ _ => some 5
  | .mldb _ _ _ => some 6
  | .mma _ _ _ _ _ => some 6
  | .mmaz _ _ _ _ _ => some 6
  | .mrep _ _ => some 6
  | .mdrain _ _ => some 6
  | .mldbl _ _ _ => some 6
  | .fld _ _ _ _ => some 7
  | .flds _ _ _ => some 7
  | .fst _ _ _ _ => some 7
  | .fsts _ _ _ => some 7
  | .amadd _ _ _ _ => some 7
  | .amaddF _ _ _ _ _ => some 7
  | .ammax _ _ _ _ => some 7
  | .ammaxF _ _ _ _ _ => some 7
  | .ammin _ _ _ _ => some 7
  | .amminF _ _ _ _ _ => some 7
  | .amxchg _ _ _ _ _ => some 7
  | .amcas _ _ _ _ _ => some 7
  | .wcadd _ _ _ _ => some 7
  | .wcaddv _ _ _ _ => some 7
  | .wcread _ _ _ => some 7
  | .xcopy _ _ _ _ _ => some 7
  | .xgather _ _ _ _ _ _ _ => some 7
  | .xscatter _ _ _ _ _ _ _ => some 7
  | .xfill _ _ _ _ _ => some 7
  | .wstream _ _ _ _ _ => some 7
  | .xsplice _ _ _ _ _ _ => some 7
  | .xdarn _ _ _ _ _ _ => some 7
  | .xdarnc _ _ _ => some 7
  | .xnote _ _ _ => some 7
  | .tread _ _ _ => some 7
  | .xqp _ _ _ => some 7
  | .xmbox _ _ _ => some 7
  | .xarm _ _ _ => some 7
  | .xlaunch _ _ _ => some 7
  | .rent _ _ _ _ _ => some 7
  | .renew _ _ _ _ => some 7
  | .prepay _ _ _ _ => some 7
  | .sublet _ _ _ _ _ => some 7
  | .vacate _ _ _ _ => some 7
  | .rentq _ _ _ _ => some 7
  | .allowq _ _ => some 7
  | .istatRead _ _ => none
  | .srseedWrite _ _ => none
  | .skewWrite _ _ => none
  | .rateWrite _ _ _ => none
  | .sliceWrite _ _ => none
  | .evcntWrite _ _ _ => none
  | .genayReply _ _ => none
  | .resultLanding _ => none
  | .nearPerform _ => none
  | .planeLoadLand _ => none
  | .partialSumAdd _ => none
  | .scoreboardStallEnd _ => none
  | .mdrainEnd _ => none
  | .checkpointComplete _ => none
  | .waittEnd _ => none
  | .sleepcEnd _ => none
  | .qwaitEnd _ => none
  | .twaitEnd _ => none
  | .twaitaPoll _ => none
  | .wfeWake _ => none
  | .depart _ _ => none
  | .hop _ => none
  | .perform _ => none
  | .arrive _ => none
  | .start _ _ => none
  | .darncStart _ _ => none
  | .tileLaunchStart _ => none
  | .complete _ _ => none
  | .workEntryComplete _ _ => none
  | .fabricReceive _ => none
  | .rentCommit _ => none
  | .rentClockTick => none
  | .pitchExpiry _ => none
  | .overstayTick _ => none
  | .scrubStart _ => none
  | .scrubDone _ => none
  | .rentScrubWait _ _ => none
  | .rowGroupRefresh _ => none
  | .patrolScrub _ => none
  | .quarantine _ _ => none
  | .powerSample _ _ => none
  | .thermalThrottle _ => none
  | .thermalTrip _ => none
  | .packageReset => none
  | .taskPlacement _ => none
  | .taskStart _ _ => none
  | .dependenceMet _ => none
  | .sliceExpiry _ _ => none
  | .watchdogExpiry _ => none
  | .drainForceStop _ => none
  | .taskSetCompletion _ => none
  | .msixTimer _ => none
  | .notifyTail _ _ => none
  | .notifyPrio _ _ => none
  | .notifyInvalidWrite _ _ _ => none
  | .launch _ => none
  | .barrier _ => none
  | .credit _ => none
  | .report _ => none
  | .account _ => none
  | .partition _ => none
  | .queue _ => none
  | .pasidrevRevoke _ => none
  | .pasidrevRestore _ => none
  | .pageUnmap _ => none
  | .pageReadonly _ => none
  | .pageWritable _ => none
  | .pageDemote _ => none
  | .pageShare _ => none
  | .desc _ => none
  | .status _ => none
  | .debugStop _ => none
  | .debugResume _ => none
  | .saveioRead _ => none
  | .saveioWrite _ => none
  | .fwpatch _ => none
  | .fwstage _ => none
  | .fwupdate _ => none
  | .qpRecordWrite _ _ => none
  | .hostMemoryAccess _ _ _ => none
  | .atsInvalidation _ _ _ _ _ => none
  | .pasidStop _ => none
  | .tdispMessage _ _ => none
  | .spdmMessage _ _ => none
  | .fabricLaunch _ _ _ _ => none
  | .fwupdateTimeout => none
  | .entryRead _ => none
  | .linkFailure _ => none
  | .nop => some 0
  | .uiret => some 0
  | .uiretFirst => some 0
  | .uiretLast => some 0
  | .eret => some 0
  | .eretFirst => some 0
  | .eretLast => some 0
  | .halt => some 0
  | .haltFirst => some 0
  | .haltLast => some 0
  | .mswb => some 6
  | .mswbFirst => some 6
  | .mswbLast => some 6

/-- Decode a word of a slot (R36): the zero word is NOP in every slot. -/
def decodeSlot (slot : Nat) (w : BitVec 32) : Except Reject Instr :=
  if w = 0 then .ok .nop
  else if fld w 30 2 = 3 then .error .iqReserved
  else
    match rowOf slot w with
    | none => .error .unassigned
    | some i => if encode i ≠ w then .error .reservedBits else if i.wf then .ok i else .error .limit

/-- Slot word `k` of a bundle of 256 bits (R17). -/
def slotWord (b : BitVec 256) (k : Nat) : BitVec 32 := b.extractLsb' (32 * k) 32

/-- The bundle that holds one word in a slot and NOP in the others. -/
def bundleOf (slot : Nat) (w : BitVec 32) : BitVec 256 := w.setWidth 256 <<< (32 * slot)

/-- The slots in which the table's words are looked up: the lowest whose map accepts the word (log 10). -/
def tableSlot (w : BitVec 32) : Option Nat :=
  [0, 1, 3, 4, 5, 6, 7].find? (fun k => match decodeSlot k w with | .ok _ => true | .error _ => false)

/-- The instruction that the decoder reads from a word of the opcode table: a slot word of 32 bits, read in the lowest slot whose
map accepts it, for the table gives no slot and the words of different slots coincide (R19; log 10). -/
def decodeTableWord (_nbits w : Nat) : Option Instr :=
  let x := BitVec.ofNat 32 w
  match tableSlot x with
  | some k => (decodeSlot k x).toOption
  | none => none

end Sys2Proof
end

