-- ==== Sys2Proof/Config.lean ====
section
/-!
DEFINITION. The device's fixed limit and the values that the manual
leaves open: opaque constants without a body, so that no proof can lean on one of their values.
-/

namespace Sys2Proof.Config

/-- The free part of a CSRR of CYCLE: the stalls, bubbles and held cycles that no rule counts (00 R5, R14, 02 R53,
R47; log 5). Applied to the draw counter of the state. -/
opaque stallCycles : Nat → BitVec 64

/-- Byte `k` of the RSASSA-PSS signature that an RSA-4096 key makes over a list of bytes; the third argument draws its salt (04 R120,
15 R330; log 6). -/
opaque signature : BitVec 4096 → List (BitVec 8) → Nat → Nat → BitVec 8

/-- Whether a 512-byte signature over a list of bytes verifies under the public key of a given digest (15 R327, 23 R372; log 6). -/
opaque signatureVerifies : BitVec 512 → List (BitVec 8) → List (BitVec 8) → Bool

/-- Whether a control-store image, which carries its signature in a place that the manual does not give, verifies under the public
key of a given digest (15 R326; log 6). -/
opaque imageVerifies : BitVec 512 → List (BitVec 8) → Bool

/-- The digest of the Yunacon root key (15 R330, 23 R372; log 6). -/
opaque rootKey : BitVec 512

/-- The control-store word that an image places at an address (15 R326 gives an image no layout; log 65). -/
opaque imageWord : List (BitVec 8) → BitVec 12 → BitVec 96

/-- The bank of a 256-byte block of HBM or the far tier, and its row group there, one of 8,192 (14 R310 gives no map of addresses;
log 45). -/
opaque rowBank : Nat → Nat
opaque rowGroup : Nat → BitVec 13

/-- Whether Genay holds storage for itself in a row group, by 8,192 × bank + group (14 R311 says that it does and not where; log 45). -/
opaque genayGroup : Nat → Bool

/-- SHA-512 of a list of bytes, as one number (15 R327, R330, 16 R341; log 6). -/
opaque sha512 : List (BitVec 8) → BitVec 512

/-- The security version that a control-store image carries (15 R326 names it and gives it no place; log 6). -/
opaque imageVersion : List (BitVec 8) → Nat

/-- A committed or available allowance whose exact value falls outside a signed 64-bit count: the manual bounds credits alone (04 R95,
R97; log 60). -/
opaque allowanceOutside : Int → BitVec 64

/-- The VCORE current limit in amperes (23 R369). -/
def currentLimit : Nat := 12000

end Sys2Proof.Config
end

