-- ==== Sys2Proof/Machine/State.lean ====
section
/-!
DEFINITION. The state of the Omvar Beysko as plain data: every agent, the order points and channels, Genay, Rhory, the
fabric and host side, and the package; with the reasons a step can stop and the state after reset.
Tables are sparse: an absent key reads as the default that the field's comment names (log 1, log 2).
-/

namespace Sys2Proof.Machine

/-- The memory: pairs of a storage address (Machine/Space.lean) and a byte. -/
abbrev Memory := List Host.Cell

/-- Why the machine stands still. -/
inductive Fault where
  /-- Raised by `step` while the package is off after a thermal trip and no reset is scheduled (23 R370): the rails are
  gone and nothing executes. Safe. -/
  | noPower
deriving DecidableEq, Repr

/-- Why an instruction has no meaning here. -/
inductive Refusal where
  /-- Raised only by an arm of `exec` whose instruction has no meaning yet. Safe. -/
  | notModelled (mnemonic : String)
deriving DecidableEq, Repr

/-- A shape record (03 R92). -/
structure Shape where
  size0 : BitVec 24
  size1 : BitVec 24
  size2 : BitVec 24
  size3 : BitVec 24
  size4 : BitVec 24
  size5 : BitVec 24
  stride0 : BitVec 32
  stride1 : BitVec 32
  stride2 : BitVec 32
  stride3 : BitVec 32
  stride4 : BitVec 32
  stride5 : BitVec 32
  base : BitVec 57
  tier : BitVec 3
  fmt : BitVec 8
  flags : BitVec 16
  rot : BitVec 48
deriving DecidableEq, Repr

/-- The reset values of R92: sizes 1, all else 0. -/
def Shape.reset : Shape :=
  { size0 := 1, size1 := 1, size2 := 1, size3 := 1, size4 := 1, size5 := 1,
    stride0 := 0, stride1 := 0, stride2 := 0, stride3 := 0, stride4 := 0, stride5 := 0,
    base := 0, tier := 0, fmt := 0, flags := 0, rot := 0 }

/-- One loop level of the spindle (02 R45). `stride` holds the flagged strides (absent: flag 0), `entry` the captured
address-register values (absent: 0). -/
structure Level where
  act : Bool
  count : W64
  index : W64
  start : W64
  last : W64
  stride : Tab (Option W64)
  entry : Tab W64
deriving DecidableEq, Repr

/-- An inactive level with every field 0 (R45). -/
def Level.reset : Level :=
  { act := false, count := 0, index := 0, start := 0, last := 0, stride := [], entry := [] }

/-- A pending user interrupt: operation number and status (09 R221). -/
structure Note where
  num : W64
  status : Byte
deriving DecidableEq, Repr

/-- A bank of s24–s31 and a12–a15 (02 R68, 12 R267), keyed by register number; absent: 0. -/
structure Bank where
  s : Tab W64
  a : Tab W64
deriving DecidableEq, Repr

/-- The registers that a checkpoint saves and a restore brings back (02 R64, 08 R199, 09 R205, 12 R261 step 5). -/
structure Regs where
  /-- The address of the next bundle (R45). -/
  pc : W64
  /-- s1–s31; absent: 0 (03 R75). -/
  s : Tab W64
  /-- a0–a15; absent: 0. -/
  a : Tab W64
  /-- Shape records, key 8 × (slot − 5) + 2 × h + copy, copy 0 active and 1 shadow (12 R276); absent: `Shape.reset`. -/
  shapes : Tab Shape
  /-- The sticky format registers (06 R159). -/
  ma : Byte
  mb : Byte
  aout : Byte
  vin : Byte
  vout : Byte
  rnd : Byte
  /-- The RSR counter (06 R154). -/
  rsr : BitVec 48
  /-- The U CSRs (01 R26). -/
  ufvec : W64
  uivec : W64
  ithr : W64
  seqlen : W64
  kvbase : W64
  kvslot : W64
  kvtok : W64
  kvlayer : W64
  devthr : W64
  docreg : W64
  srseed : W64
  /-- v0–v31; absent: 0 (07 R162). -/
  v : Tab Vec
  /-- p1–p7; absent: 0. -/
  p : Tab Pred
  /-- i0–i15; absent: 0. -/
  i : Tab Vec
  /-- ISTAT.NPF. -/
  npf : Bool
  /-- Held entries of q0–q15, head first; absent: empty (03 R84, R86). -/
  q : Tab (List Vec)
  /-- L0–L5; absent: `Level.reset`. -/
  levels : Tab Level
  uimask : Bool
  /-- NEXT per engine context, held less 1 so that an absent key reads the launch value 1 (09 R205). -/
  next : Tab W64
  /-- NOTEREQ per engine context; absent: 0. -/
  noteReq : Tab W64
  /-- Pending notes per engine context; absent: none (02 R45). -/
  notes : Tab (Option Note)
  /-- The array state that a checkpoint saves (08 R186, R199). -/
  active : BitVec 1
  kc : BitVec 7
  frame0 : BitVec 9
  frame1 : BitVec 9
  pfault0 : Byte
  pfault1 : Byte
  repn : Byte
  repw : W32
  /-- The event latch (10 R237). -/
  latch : Bool
deriving DecidableEq, Repr

/-- Every register at its reset or launch value; those without one are 0 (log 2). -/
def Regs.reset : Regs :=
  { pc := 0, s := [], a := [], shapes := [], ma := 0x01, mb := 0x01, aout := 0, vin := 0, vout := 0, rnd := 0, rsr := 0,
    ufvec := 0, uivec := 0, ithr := 0, seqlen := 0, kvbase := 0, kvslot := 0, kvtok := 0, kvlayer := 0, devthr := 0,
    docreg := 0, srseed := 0, v := [], p := [], i := [], npf := false, q := [], levels := [], uimask := false, next := [],
    noteReq := [], notes := [], active := 0, kc := 0, frame0 := 0, frame1 := 0, pfault0 := 0, pfault1 := 0, repn := 0,
    repw := 0, latch := false }

/-- Who runs on the agent (02 R68, 12 R265, R267): the task, its user-interrupt or user fault handler, or the supervisor
handler. -/
inductive Mode where
  | task
  | userInt
  | userFault
  | super
deriving DecidableEq, Repr

/-- What a result in flight writes when it lands (02 R48). -/
inductive Res where
  | s (d : BitVec 5) (v : W64)
  /-- A write of s24–s31 or a12–a15 issued in a handler lands in the bank that was in place. -/
  | a (d : BitVec 4) (v : W64)
  /-- Lanes of `m` of vector register `d` (07 R165). -/
  | v (d : BitVec 5) (m : Vec) (x : Vec)
  | p (d : BitVec 3) (x : Pred)
  | i (d : BitVec 4) (x : Vec)
  | npf
  | csr (c : BitVec 12) (v : W64)
  | shape (slot : BitVec 2) (h : BitVec 2) (field : BitVec 9) (v : W64)
  | fmt (fam : BitVec 3) (v : Byte)
  /-- An entry pushed to queue `q` (03 R85). -/
  | push (q : BitVec 4) (x : Vec)
  /-- Row `r` of tile `t` written by AWR, AACC or AZERO (05 R127). -/
  | row (t : BitVec 4) (r : BitVec 7) (x : Vec)
deriving DecidableEq, Repr

/-- A result in flight: the issue cycle in which it lands (02 R47). -/
structure Flight where
  due : Nat
  res : Res
deriving DecidableEq, Repr

/-- A near store in flight: its bytes land at `off` (05 R123). -/
structure NearStore where
  due : Nat
  off : Nat
  len : Nat
  data : Vec
deriving DecidableEq, Repr

/-- A plane load in flight (08 R192). -/
structure PlaneLoad where
  due : Nat
  plane : BitVec 1
  frame : Byte
  swap : Bool
deriving DecidableEq, Repr

/-- A matrix block in flight: it stands at tile `t`'s partial-sum port in issue cycle `port` (08 R194). `zero` marks MMAZ. -/
structure Block where
  port : Nat
  tile : BitVec 4
  zero : Bool
  rows : List Vec
deriving DecidableEq, Repr

/-- One element of a far access: its address, how many bytes of the entry it takes and from which on, and the storage address that its
translation gave (09 R214, 14 R305). -/
structure Elem where
  addr : W64
  len : Nat
  off : Nat := 0
  phys : Nat := 0
deriving DecidableEq, Repr

/-- The atomic operations of 09 R215. -/
inductive AtOp where
  | add
  | max
  | min
  | xchg
  | cas
deriving DecidableEq, Repr

/-- The task that a command or an access acts for: its context (04 R95), its PASID (14 R306), its timeline slot (09 R209), and
which loom task of which task set it is. -/
structure Who where
  account : BitVec 10
  context : BitVec 16
  pasid : Option (BitVec 20)
  tslot : BitVec 6
  ts : Nat
  j : Nat
deriving DecidableEq, Repr

/-- A captured engine operation (09 R217, 08 R202, 11 R251–R255). CSRs used at the start are captured with it. -/
structure EngOp where
  /-- OP of R35: 0x10 to 0x17. -/
  op : BitVec 6
  ctx : BitVec 3
  num : W64
  /-- The record named by h and the source record. -/
  dst : Shape
  src : Shape
  s : W64
  s2 : W64
  enc : Bool
  docreg : W64
  kvslot : W64
  kvtok : W64
  kvlayer : W64
  devthr : W32
deriving DecidableEq, Repr

/-- A rent operation held for its commit (04 R105, R106). -/
inductive RentOp where
  /-- RENT of pitch `k`: commits the hold `h`. -/
  | rent (k : Nat) (h : Nat)
  | prepay (k : Nat) (h : Nat) (ticks : Nat)
  /-- RENEW: the issue-time now + n, and the hold. -/
  | renew (k : Nat) (h : Nat) (target : Nat)
  | sublet (k : Nat) (account : BitVec 10) (context : BitVec 16) (first count : Nat) (rw : Bool)
  | vacate (k : Nat)
  /-- The vacate at a task's end (R111), behind the task's own commits about the pitch. -/
  | endVacate (k : Nat)
  /-- A RENT whose pitch a VACATE of the same interval gives up (R102). -/
  | void (k : Nat) (h : Nat)
  /-- A RENEW or PREPAY that a later VACATE of the same interval gives up: its commit releases the hold (R117). -/
  | drop (k : Nat) (h : Nat)
  /-- A redundant operation that Genay does not apply (R117). -/
  | none
deriving DecidableEq, Repr

/-- A tile launch (13 R296): the header, and the partition, class and rent window that the tile inherits from its conductor. `dep` is
what was noted as the pitch of its DEP cell went (R287). -/
structure Launch where
  hdr : BitVec 512
  part : BitVec 5
  cls : BitVec 2
  rentwin : W64
  dep : Option Bool := none
deriving DecidableEq, Repr

/-- A withheld command (10 R225 WB). -/
inductive Cmd where
  /-- FST, FSTS: the elements and the captured entry. -/
  | store (es : List Elem) (data : Vec)
  | atomic (op : AtOp) (wide : Bool) (addr : W64) (v v2 : W64) (fetch : Option (BitVec 4))
  | wcAdd (addr : W64) (fmt : Byte) (x : W32)
  | wcAddV (addr : W64) (fmt : Byte) (x : Vec)
  /-- WCREAD, the pitches whose INFLIGHT it holds, and the storage address that its translation gave at issue (14 R305). -/
  | wcRead (addr : W64) (q : BitVec 4) (pitches : List Nat) (phys : Nat)
  | xarm (addr : W64) (word : W64)
  /-- SEV for agent number `target` (10 R241). -/
  | event (target : W64)
  /-- A release marker of a scope (10 R239). -/
  | marker (scope : BitVec 3)
  | engine (e : EngOp)
  | xqp (entry : BitVec 512) (qp : BitVec 10)
  /-- A mailbox request for slot `k` of die `d`'s mailbox. -/
  | xmbox (die : BitVec 2) (k : Nat) (req : BitVec 512)
  | xlaunch (l : Launch)
  | rent (r : RentOp)
deriving DecidableEq, Repr

/-- A released rent operation that Genay has not yet received: the agent and the task set that issued it (04 R106). -/
structure Commit where
  agent : Nat
  ts : Nat
  op : RentOp
deriving DecidableEq, Repr

/-- A released command with the task it acts for and its place in the order of releases. -/
structure Held where
  owner : Who
  cmd : Cmd
  seq : Nat
deriving DecidableEq, Repr

/-- A far load (10 R225 FLQ): destination queue, the bytes it reads, the pitch whose INFLIGHT it holds. A load of a
discarded interval is `dropped`: its entry is dropped on arrival (12 R263); `cyc` is the issue cycle of its bundle. A load whose bytes
have several homes departs in as many `parts`, which share the number `id` (10 R233). -/
structure FarLoad where
  q : BitVec 4
  cyc : Nat
  id : Nat
  parts : Nat
  es : List Elem
  pitches : List Nat
  dropped : Bool
deriving DecidableEq, Repr

/-- A point of the ordering machine (10 R225, R230). -/
inductive Point where
  | agent (n : Nat)
  | lop (l : Nat)
  | dop (d : Nat)
  | vop
  | hcp
deriving DecidableEq, Repr

/-- A place that an engine names: a byte offset in the agent's store of tiers 0 to 3, a device virtual address in tiers 4 and
5 (09 R213). -/
structure Spot where
  tier : BitVec 3
  addr : W64
deriving DecidableEq, Repr

/-- The arena descriptor with the captured CSRs (11 R244). -/
structure Arena where
  docreg : W64
  key : W64
  val : W64
  prov : W64
  slots : Nat
  lmax : Nat
  layers : Nat
  entries : Nat
  elems : Nat
  fmt : Byte
  zero : Bool
  kvslot : W64
  kvtok : W64
  kvlayer : W64
deriving DecidableEq, Repr

/-- A rotation of a pair of key elements (11 R252): the numbers under which they were kept, where the results go, pair index `i` of
`rd` dimensions, base ω, and δ. -/
structure Turn where
  even : Nat
  odd : Nat
  dst : Spot
  fmt : Byte
  width : Nat
  i : Nat
  rd : Nat
  omega : W32
  delta : Int
deriving DecidableEq, Repr

/-- One element access of a running engine operation, or a computation or an order between accesses (10 R228 M7, R233). -/
inductive Micro where
  /-- Read `len` bytes, to be written at `dst`. -/
  | copy (src dst : Spot) (len : Nat)
  | put (dst : Spot) (bytes : List Byte)
  /-- Read a dictionary block of a weight stream; the canopy offsets of its elements (08 R203). -/
  | dict (src : Spot) (dsts : List W64) (bf16 : Bool)
  /-- Read `len` bytes and keep them under a number. -/
  | keep (src : Spot) (len key : Nat)
  /-- Rotate two kept elements (11 R252). -/
  | turn (t : Turn)
  /-- Read a provenance entry, to be written at `dst` (11 R252 step 5). -/
  | entry (src dst : Spot)
  /-- The tag check of a block before its first element at `elem` (11 R257): reads its entry; the target layer, strict mode, the
  registry with its entry count, and whether the context may write the entry, as found at the start (log 72). -/
  | tag (elem entry : W64) (layer : Nat) (strict : Bool) (registry : W64) (count : Nat) (write : Bool)
  /-- The rest of a tag check: reads registry entry `reg` for the block's entry `e`. -/
  | look (elem entry : W64) (layer : Nat) (strict : Bool) (reg : W64) (e : Nat) (write : Bool)
  /-- Write a block's entry as stale; the operation then stops (11 R257). -/
  | stale (elem entry : W64) (e : Nat)
  /-- Steps 5 to 7 of a darning once the rows of step 4 are kept (11 R254): slot, first block, blocks, LEN. -/
  | judge (d : Arena) (slot b0 c len : Nat)
  /-- Read a provenance entry, to be written back with MAXDEV `dev` and, where it is listed, under repair from watermark `wm` on (11 R254
  step 7). -/
  | amend (entry : W64) (dev : Nat) (wm : Option Nat)
  /-- Nothing behind it writes, and where `full` nothing behind it reads, before everything ahead of it is done: the order of the steps and
  rows of a slot operation (11 R252, R254). -/
  | gate (full : Bool)
  /-- The read `m`, made at several homes in parts that are kept under `keys` (10 R226). -/
  | join (m : Micro) (keys : List Nat)
deriving DecidableEq, Repr

/-- What travels in a channel: a load, a released command, an event or a mailbox filling (10 R227), element access number `i` of the
engine operation of context `c` (10 R228 M7), or a host access to the bytes of one line, `data` written or `len` read (10 R235). -/
inductive Load where
  | read (x : FarLoad)
  | cmd (c : Cmd)
  | element (c : BitVec 3) (i : Nat) (m : Micro)
  | host (addr : W64) (len : Nat) (data : Option (List Byte)) (cached : Bool)
deriving DecidableEq, Repr

/-- An entry between two points: `passed` is the last point it has passed and `route` lists the points still ahead, its home
last. `seq` is its place in the order of releases. -/
structure Transit where
  agent : Nat
  owner : Who
  seq : Nat
  load : Load
  passed : Point
  route : List Point
  home : Point
deriving DecidableEq, Repr

/-- A value that has been read and has not yet entered its gated queue (10 R228 M9). `owed` marks an entry of a released
command; `pitches` fall on arrival. -/
structure Arrival where
  agent : Nat
  owner : Who
  q : BitVec 4
  entry : Vec
  pitches : List Nat
  owed : Bool
  dropped : Bool
  trap : Option (Byte × W64)
  /-- The far load of which this is the entry, and how many parts of it have still to perform. -/
  id : Nat := 0
  parts : Nat := 0
deriving DecidableEq, Repr

/-- An engine operation between its start and its completion (09 R207). -/
structure Running where
  agent : Nat
  owner : Who
  op : EngOp
  /-- The accesses that have still to enter their routes, with their numbers in index order. -/
  todo : List (Nat × Micro)
  /-- The bytes that were kept, by number. -/
  kept : List (Nat × List Byte)
  status : Byte
  faddr : W64
  /-- The refusal was a sublessee's. -/
  sub : Bool
  pitches : List Nat
  /-- The slot header it works on, for the order of slot operations (11 R256). -/
  slotHdr : Option W64
  seq : Nat
deriving DecidableEq, Repr

/-- The first faulting completion of a context that has not been delivered (09 R205, R212). -/
structure Frec where
  num : W64
  status : Byte
  addr : W64
  /-- The refusal was a sublessee's (cause 0x09). -/
  sub : Bool
deriving DecidableEq, Repr

/-- TIMELINE, LASTST and FREC of an engine context (09 R205, R208). -/
structure EngCtx where
  count : BitVec 56
  fails : BitVec 7
  lastf : Bool
  lastst : Byte
  frec : Option Frec
deriving DecidableEq, Repr

/-- A context before its first completion (R205, R208). -/
def EngCtx.reset : EngCtx := { count := 0, fails := 0, lastf := false, lastst := 0, frec := none }

/-- What slot 0 of the last bundle waits for (02 R50, R70; 10 R239–R242). -/
inductive Wait where
  | none
  /-- A checkpoint of the bundle at `pc`: light (CKPTL) or full; `final` is the implicit one of a jump to 0 (R46). -/
  | ckpt (light final : Bool) (pc : W64)
  | waitt (t : W64)
  | sleepc (cycles : W64)
  | qwait (q n : BitVec 4)
  | wfe
  | twait (c : BitVec 3) (t : W64)
  | twaita (addr : W64) (t : W64)
  /-- QALIGN issued in cycle `cyc`: hold the next bundle for near stores, or for far loads and released entries, issued before. -/
  | qalign (far near : Bool) (cyc : Nat)
  /-- FENCE ACQ or FULL issued in cycle `cyc`: hold the next bundle until every far load issued before it has performed. -/
  | acquire (cyc : Nat)
  /-- UIRET and ERET, whose drain waits for the slot-7 stall of their bundle. -/
  | uiret
  | eret
  /-- A stop: the entries owed by released commands still arrive before the state is saved (12 R275, R71). -/
  | stop
deriving DecidableEq, Repr

/-- A rent instruction that waits for Genay's reply (04 R105): OP of R35, operand values, destination register, attributes,
tier, and the issue cycle of its bundle. -/
structure RentReq where
  op : BitVec 6
  x : W64
  y : W64
  d : BitVec 5
  att : BitVec 3
  tier : BitVec 3
  cyc : Nat
deriving DecidableEq, Repr

/-- What slot 7 of the last bundle stalls on (04 R105, 16 R335, R340, 13 R296). -/
inductive Stall where
  | none
  | genay (r : RentReq)
  | xqp (addr : W64) (qp : BitVec 10)
  | xmbox (addr : W64) (d : BitVec 5) (cyc : Nat)
  | xlaunch (addr : W64) (d : BitVec 5) (cyc : Nat)
deriving DecidableEq, Repr

/-- The task placed on an agent (13 R280–R284, 04 R95). -/
structure Task where
  account : BitVec 10
  context : BitVec 16
  cls : BitVec 2
  kind : BitVec 2
  tslot : BitVec 6
  /-- Task set and loom task index. -/
  ts : Nat
  j : Nat
  rentwin : W64
  pasid : Option (BitVec 20)
  save : W64
deriving DecidableEq, Repr

/-- Pending requests of R67 and R291 on an agent: debug stop, pre-emption with the bundles issued since, watchdog with the
bundles issued since. -/
structure StopReq where
  debug : Bool
  preempt : Option Nat
  watchdog : Option Nat
deriving DecidableEq, Repr

/-- The six rates (04 R98). -/
structure Rates where
  acc : W64
  near : W64
  canopy : W64
  loom : W64
  hbm : W64
  far : W64
deriving DecidableEq, Repr

/-- The reset rates of R98. -/
def Rates.reset : Rates := { acc := 64, near := 32, canopy := 16, loom := 8, hbm := 2, far := 1 }

/-- One core or loom controller. -/
structure Agent where
  /-- The registers as they stand. -/
  r : Regs
  /-- The duplicate set (02 R64). -/
  dup : Regs
  /-- The last checkpoint was light. -/
  dupLight : Bool
  /-- The weight planes' rows (08 R186); absent: 0. -/
  plane0 : Tab (BitVec 2048)
  plane1 : Tab (BitVec 2048)
  /-- Reservations of this interval's pushes, and entries owed by released commands, per queue; absent: 0 (03 R86, R89). -/
  resv : Tab Nat
  owed : Tab Nat
  /-- Entries of released commands that arrived since the checkpoint, in arrival order (03 R89). -/
  arrived : List (BitVec 4 × Vec)
  /-- The bank of user handlers and the bank of the supervisor handler (02 R68, 12 R267). -/
  shadow : Bank
  super : Bank
  mode : Mode
  /-- The resume PC that a user-interrupt entry saves (02 R68). -/
  resume : W64
  cause : W64
  ckpc : W64
  faddr : W64
  allow : W64
  ratec : Rates
  svec : W64
  skew : W64
  even : W64
  lightWait : W64
  /-- EVSEL, EVCNT, LEVSEL, LEVCNT; absent: 0 (23 R373). -/
  evsel : Tab W64
  evcnt : Tab W64
  levsel : Tab W64
  levcnt : Tab W64
  cycle : W64
  /-- The interval counters of 02 R45 and R66. -/
  bundles : Nat
  hbundles : Nat
  stores : Nat
  cmds : Nat
  /-- Near lines counted in this interval (05 R124). -/
  counted : List Nat
  /-- The undo journal and the rows' shadow banks, by line and row number; absent: not saved (05 R124, R128). -/
  journal : Tab (Option (BitVec 512))
  touched : Tab (Option Vec)
  /-- The journalled lines, and the 64-byte lines of shadow rows (8 × row + line), that are poisoned; absent: sound (14 R313, R314). -/
  journalBad : Tab Bool
  shadowBad : Tab Bool
  /-- The number of the next issue cycle (02 R47). -/
  icyc : Nat
  flight : List Flight
  nsq : List NearStore
  planeLoads : List PlaneLoad
  blocks : List Block
  wb : List Cmd
  flq : List FarLoad
  fsq : List Held
  ecb : List Held
  /-- Timelines by 8 × timeline slot + context code (09 R209); absent: `EngCtx.reset`. -/
  ctxs : Tab EngCtx
  /-- The account of the last holder of each timeline slot (09 R209); absent: none. -/
  holders : Tab (Option (BitVec 10))
  /-- Slot-0 wait, MDRAIN wait, slot-7 stall, and the tile whose blocks hold the next bundle (05 R127). -/
  wait : Wait
  mdrain : Option (BitVec 4)
  stall : Stall
  board : Option (BitVec 4)
  stop : StopReq
  task : Option Task
  /-- A fault met by a released store or atomic, due at the next TWAIT or checkpoint (09 R214, 14 R314). -/
  farFault : Option (Byte × W64)
  /-- An event has reached the agent since its last checkpoint (10 R237). -/
  evSince : Bool
  /-- The model's own: a WAITT has ended and the next bundle has yet to issue (18 R356). -/
  woken : Bool
deriving DecidableEq, Repr

/-- An empty bank. -/
def Bank.reset : Bank := { s := [], a := [] }

/-- No request pending. -/
def StopReq.none : StopReq := { debug := false, preempt := .none, watchdog := .none }

/-- An agent after reset: no task, every register at its reset value (01 R26, 02 R45, 03 R75; log 2). -/
def Agent.reset : Agent :=
  { r := Regs.reset, dup := Regs.reset, dupLight := false, plane0 := [], plane1 := [], resv := [], owed := [],
    arrived := [], shadow := Bank.reset, super := Bank.reset, mode := .task, resume := 0, cause := 0, ckpc := 0, faddr := 0,
    allow := 0, ratec := Rates.reset, svec := 0, skew := 0, even := 0, lightWait := 2048, evsel := [], evcnt := [],
    levsel := [], levcnt := [], cycle := 0, bundles := 0, hbundles := 0, stores := 0, cmds := 0, counted := [],
    journal := [], touched := [], journalBad := [], shadowBad := [], icyc := 0, flight := [], nsq := [], planeLoads := [],
    blocks := [], wb := [], flq := [], fsq := [], ecb := [], ctxs := [], holders := [], wait := .none, mdrain := .none, stall := .none, board := .none,
    stop := StopReq.none, task := .none, farFault := .none, evSince := false, woken := false }

/-- An account (04 R95, R119, 13 R289, R295). -/
structure Account where
  committed : W64
  hold : Nat
  charged : W64
  refunded : W64
  overstay : W64
  bundleCycles : W64
  /-- Bytes moved per tier; absent: 0. -/
  moved : Tab W64
  fabric : W64
  weight : BitVec 16
  parts : BitVec 24
  clamped : Bool
deriving DecidableEq, Repr

/-- An account before any command (log 2). -/
def Account.reset : Account :=
  { committed := 0, hold := 0, charged := 0, refunded := 0, overstay := 0, bundleCycles := 0, moved := [], fabric := 0,
    weight := 1, parts := 0, clamped := false }

/-- The states of a pitch (04 R101, R102). -/
inductive PState where
  | free
  | tentative
  | leased
  | overstay
  | lapsed
  | scrubbing
deriving DecidableEq, Repr

/-- A sublet (04 R101, R113): granule range and rights. -/
structure Sublet where
  account : BitVec 10
  context : BitVec 16
  rw : Bool
  first : Nat
  count : Nat
deriving DecidableEq, Repr

/-- A pitch descriptor (04 R101). `unit` is the agent (tiers 0–2) or loom (tier 3) whose store holds it, `dies` the dies whose
stacks hold an HBM pitch with the bytes on each, in address order, and `avoid` the pseudo-channels and far channels that were
quarantined when it was placed (14 R308, R315); `tentBy` the agent for which it is tentative; `vacated` covers no byte any more (R110);
`vacWhenIdle` is to be vacated when INFLIGHT reaches 0 (R111), and `drained` then releases its waiters first (13 R298). -/
structure Pitch where
  account : BitVec 10
  context : BitVec 16
  tier : BitVec 3
  state : PState
  att : BitVec 3
  base : Nat
  length : Nat
  paid : Nat
  rate : Nat
  inflight : Nat
  charged : Int
  subs : List Sublet
  /-- Sublets that ended with the owner's lease, kept for cause 0x09 (R110). -/
  endedSubs : List Sublet
  unit : Nat
  dies : List (Nat × Nat)
  avoid : List (BitVec 8 × BitVec 16)
  tentBy : Option Nat
  vacated : Bool
  vacWhenIdle : Bool
  drained : Bool
  /-- The tick of its last overstay charge, or in which it lapsed: scrubbing begins with the next (R102). -/
  lapsedAt : Nat
deriving DecidableEq, Repr

/-- A free descriptor. -/
def Pitch.free : Pitch :=
  { account := 0, context := 0, tier := 0, state := .free, att := 0, base := 0, length := 0, paid := 0, rate := 0,
    inflight := 0, charged := 0, subs := [], endedSubs := [], unit := 0, dies := [], avoid := [], tentBy := none, vacated := false,
    vacWhenIdle := false, drained := false, lapsedAt := 0 }

/-- What supervisor commands have made of a 4 KiB page of the rented region (14 R302, 15 R321): unmapped, read-only, its
page size as a power of 2, the storage it is shared with. -/
structure Page where
  unmapped : Bool
  readOnly : Bool
  size : Option Nat
  share : Option Nat
deriving DecidableEq, Repr

/-- A page as Genay maps it when a RENT is accepted (R302). -/
def Page.plain : Page := { unmapped := false, readOnly := false, size := none, share := none }

/-- The host's answer for a 4 KiB page of a PASID (14 R306, R307): refused, without write permission, and the host physical frame; none
is the frame of the same number. -/
structure HostPage where
  refused : Bool
  readOnly : Bool
  frame : Option Nat
deriving DecidableEq, Repr

/-- The answer before the host has given another (log 67). -/
def HostPage.plain : HostPage := { refused := false, readOnly := false, frame := none }

/-- A queue-pair record (16 R331). -/
structure QPair where
  valid : Bool
  loop : Bool
  e2e : Bool
  account : BitVec 10
  context : BitVec 16
  node : BitVec 16
  rqp : BitVec 10
  ports : BitVec 16
  keyslot : BitVec 16
  posted : Nat
deriving DecidableEq, Repr

/-- The reset record of R331. -/
def QPair.reset : QPair :=
  { valid := false, loop := false, e2e := false, account := 0, context := 0, node := 0, rqp := 0, ports := 0xFFFF,
    keyslot := 0, posted := 0 }

/-- A posted work entry (16 R335–R337): `handed` is false while it waits on its counter, `data` is SRC as read when it was handed
over, `received` once its completion may follow, `cc` its status, `moved` the mailbox requests that a TAKE moved, `num` its
place in the order of posts. -/
structure Work where
  qp : BitVec 10
  entry : BitVec 512
  owner : Who
  agent : Nat
  handed : Bool
  data : List Byte
  received : Bool
  cc : Byte
  moved : Nat
  num : Nat
deriving DecidableEq, Repr

/-- A contribution that a reduction point holds (16 R338): its index and data, and the local entry or the remote node that sent
it. -/
structure Contrib where
  idx : Nat
  data : List Byte
  work : Option Nat
  node : BitVec 16
  rqp : BitVec 10
deriving DecidableEq, Repr

/-- A fixed-order reduction in progress (16 R338): what names it, how many contributions were applied, and those held. -/
structure Reduction where
  dst : W64
  len : Nat
  fmt : Byte
  red : Byte
  rctr : W64
  applied : Nat
  heldBack : List Contrib
deriving DecidableEq, Repr

/-- A mailbox slot (16 R340): reserved by an agent, and the request once filled. -/
structure Slot where
  agent : Nat
  account : BitVec 10
  req : Option (BitVec 512)
  order : Nat
deriving DecidableEq, Repr

/-- A fabric launch-table entry (16 R341). -/
structure LaunchEntry where
  part : BitVec 5
  account : BitVec 10
  digests : List (BitVec 512)
  cap : W64
deriving DecidableEq, Repr

/-- Where a task set came from (13 R286, R288): a host queue interface with its tag and the request's number, a fabric node, the
conductor on agent `n` that is loom task `j` of set `ts`, or an interface that has left its TDISP state and receives no completion
(15 R325). -/
inductive Source where
  | queue (q : BitVec 6) (tag : W64) (num : Nat)
  | fabric (node : BitVec 16)
  | conductor (n ts j : Nat)
  | silent (q : BitVec 6)
deriving DecidableEq, Repr

/-- Where a loom task stands (13 R284–R293). -/
inductive TStat where
  | waiting
  | placed
  | running
  /-- Stopped with its save areas written; `debug` when a debugger holds it. -/
  | stopped (debug : Bool)
  | ended
deriving DecidableEq, Repr

/-- A pitch vacated at a graph-node stop, to be rented again (13 R294). -/
structure Rerent where
  agent : Nat
  tier : BitVec 3
  base : Nat
  length : Nat
  att : BitVec 3
  ticks : Nat
deriving DecidableEq, Repr

/-- One loom task of a task set (13 R284–R295): where it stands, its first agent, the task as placed there, whether its last stop
was light and the loop levels that it wrote, the ticks of its present slice and that slice's length, whether the pass of its account has
still to advance for them (13 R290), the pitches recorded at a graph-node stop, and, by storage address, the bytes as they were before the
task's own stores, which its fetch does not see (02 R53; absent: not stored to). -/
structure LoomTask where
  stat : TStat
  agent : Nat
  task : Task
  lightStop : Bool
  lightLevels : List Nat
  held : Nat
  slice : Nat
  due : Bool
  graph : List Rerent
  code : Tab (Option Byte)
deriving DecidableEq, Repr

/-- A task set (13 R280–R288): its record's two headers, where it came from, its loom tasks, the class it runs at, whether its
dependence is met, the graph-node boundaries of its loop table, the ticks during which it held a loom, its highest completion
code and its CAUSE. -/
structure TaskSet where
  source : Source
  hdr : BitVec 512
  part : BitVec 5
  cls : BitVec 2
  rentwin : W64
  pasid : Option (BitVec 20)
  ready : Bool
  nodes : List W64
  tasks : List LoomTask
  heldTicks : Nat
  /-- The model's own: 1 + the last tick that was counted. -/
  heldAt : Nat
  code : Byte
  cause : W64
  /-- Units charged, and the allowance cap of a fabric launch (16 R341). -/
  charged : Nat
  cap : Option W64
  overdue : Bool
  /-- The pitch of its DEP cell has lapsed or been vacated, and whether the condition held until then (R287). -/
  dep : Option Bool
  /-- Steps 4 to 6 of its discard are done (R298). -/
  swept : Bool
deriving DecidableEq, Repr

/-- A queue interface record (15 R319). -/
structure QRec where
  state : Bool
  priv : Bool
  tdisp : BitVec 2
  prio : BitVec 2
  account : BitVec 10
  part : BitVec 5
  pasid : BitVec 20
  sqbase : W64
  sqlog : BitVec 5
  sqhead : BitVec 16
  sqtail : BitVec 16
  cqbase : W64
  cqlog : BitVec 5
  cqtail : BitVec 16
  phase : Bool
  rvalid : Bool
  vector : BitVec 11
  count : Byte
  timer : BitVec 16
  wdog : W32
  errcnt : W32
  layout : Byte
  /-- Completions posted and not signalled, and the tick of the first of them (R323). -/
  unsignalled : Nat
  firstAt : Nat
  /-- The TDISP state that it takes, all else cleared, once its task sets are discarded (R325). -/
  leaving : Option (BitVec 2)
deriving DecidableEq, Repr

/-- The reset record of R319. -/
def QRec.reset : QRec :=
  { state := false, priv := false, tdisp := 0, prio := 3, account := 0, part := 0, pasid := 0, sqbase := 0, sqlog := 6,
    sqhead := 0, sqtail := 0, cqbase := 0, cqlog := 6, cqtail := 0, phase := true, rvalid := false, vector := 0, count := 1,
    timer := 0, wdog := 0, errcnt := 0, layout := 1, unsignalled := 0, firstAt := 0, leaving := none }

/-- A fetched request packet (15 R320): its place in the order of fetches, and PRIO as it stood at the fetch (R318). -/
structure Req where
  q : BitVec 6
  num : Nat
  prio : BitVec 2
  opcode : Byte
  pasid : BitVec 20
  tag : W64
  a0 : W64
  a1 : W64
  a2 : W64
  a3 : W64
  a4 : W64
  a5 : W64
deriving DecidableEq, Repr

/-- A partition (13 R289, R295): its looms and its SLICE; `stopping` while a drain holds placement (R298). -/
structure Partition where
  looms : BitVec 24
  slice : W64
  stopping : Bool
deriving DecidableEq, Repr

/-- The reset partition: no looms (log 2), SLICE 1,000 (01 R26). -/
def Partition.reset : Partition := { looms := 0, slice := 1000, stopping := false }

/-- The signed configuration record, field by field (23 R372; log 3): `zeroA` and `zeroB` are the fields at 0x030 and 0x080. -/
structure ConfigRecord where
  layout : W32
  zeroA : BitVec 128
  zeroB : BitVec 3072
  signature : BitVec 4096
  secver : Nat
  serial : W64
  /-- SPARE, byte 6 × die + loom; absent: 0. -/
  spare : Tab Byte
  /-- MASTER, per die; absent: 0. -/
  master : Tab Byte
  pcap : Nat
  fwkey : BitVec 512
deriving DecidableEq, Repr

/-- Firmware state (15 R326–R329): the two control-store images, which one is in use, whether the other is staged, the patch
entries (address, word), and an update under way with its queue, tag and deadline tick. -/
structure Firmware where
  imageA : List Byte
  imageB : List Byte
  useB : Bool
  staged : Bool
  keptVersion : Nat
  patches : List (BitVec 12 × BitVec 96)
  updating : Option (BitVec 6 × W64 × Nat)
deriving DecidableEq, Repr

/-- What the device sends out (15 R318, R323, R330, 16 R337): messages, SPDM measurements, work entries that leave the package, and
what the host's reads find. -/
inductive Sent where
  | msix (vector : BitVec 11)
  | spdm (index : Byte) (digest : BitVec 512) (signature : List Byte)
  | fabric (node : BitVec 16) (entry : BitVec 512) (data : List Byte)
  | fabricDone (node : BitVec 16) (cc : Byte)
  | hostRead (addr : W64) (data : List Byte)
  | bar2Read (o : BitVec 18) (v : W64)
deriving DecidableEq, Repr

/-- Where an ECC error is met (14 R313): 64-byte line `l` of storage, of agent `n`'s undo journal (a near line number), or of its
shadow banks (an accumulator line number). -/
inductive EccSite where
  | line (l : Nat)
  | journal (n : BitVec 9) (l : Nat)
  | shadow (n : BitVec 9) (l : Nat)
deriving DecidableEq, Repr

/-- What the outside chooses to happen next (log 4): a move of the machine, the issue of agent `n`'s next bundle, an ECC error,
`fatal` when it cannot be corrected (14 R313; log 66), or a host access of `size` bytes at BAR2 + `o`, which writes `v` or reads
(15 R317, R318; log 73), or a write of the fabric launch-table entry of a node by system software (16 R341; log 39). -/
inductive Act where
  | move (i : Instr)
  | issue (n : BitVec 9)
  | upset (x : EccSite) (fatal : Bool)
  | bar2 (o : BitVec 18) (size : Nat) (v : Option W64)
  | table (node : BitVec 16) (e : Option LaunchEntry)
deriving DecidableEq, Repr

/-- The whole device. -/
structure State where
  /-- The agent whose bundle issues when nothing else is chosen (log 4). -/
  cur : BitVec 9
  /-- The moves and issues that the outside has chosen, next first (log 4). -/
  sched : List Act
  /-- How many free values have been drawn (log 5). -/
  freeCtr : Nat
  /-- Agents 0 to 311 (03 R83); absent: `Agent.reset`. -/
  agents : Tab Agent
  /-- Every byte of the device and of the host, by storage address (Machine/Space.lean); absent: 0x00 (04 R104, 23 R371; log 1). -/
  mem : Memory
  /-- Wide-cell status bytes by the cell's storage address; absent: 0 (06 R150). -/
  wcStatus : Tab Byte
  /-- The 64-byte lines of HOST-SHARED pitches that the host holds, by storage address ÷ 64 (04 R114). -/
  hostLines : List Nat
  /-- Poisoned 64-byte lines, by storage address ÷ 64; absent: sound (14 R313). -/
  poison : Tab Bool
  /-- Quarantined units and pseudo-channels (14 R315). -/
  quarantined : List (BitVec 8 × BitVec 16)
  transit : List Transit
  arrivals : List Arrival
  running : List Running
  /-- RENTNOW (04 R96). -/
  now : W64
  rates : Rates
  /-- Accounts; absent: `Account.reset`. -/
  accounts : Tab Account
  /-- Pitch descriptors by number; absent: `Pitch.free`. -/
  pitches : Tab Pitch
  /-- Released rent operations that Genay has not yet received. -/
  commits : List Commit
  /-- Pages of the rented region by address ÷ 4096; absent: `Page.plain`. -/
  pages : Tab Page
  hostPages : Tab HostPage
  reportNo : W64
  qpairs : Tab QPair
  work : List Work
  reductions : List Reduction
  /-- The mailbox of each die; absent: empty. -/
  mailbox : Tab (List Slot)
  mailSeq : Nat
  /-- How many far loads have departed, how many commands have been released, and how many work entries posted. -/
  loadSeq : Nat
  relSeq : Nat
  workSeq : Nat
  /-- The context that armed each arm counter, by address ÷ 16 (16 R333); absent: none. -/
  arms : Tab (Option (BitVec 10 × BitVec 16))
  launchTable : Tab (Option LaunchEntry)
  /-- Partitions; absent: `Partition.reset`. -/
  parts : Tab Partition
  /-- Passes by 1024 × partition + account; absent: 0 (13 R289). -/
  passes : Tab W64
  tasksets : Tab (Option TaskSet)
  nextTs : Nat
  /-- Tile launches that have left an ECB and wait for their rank (13 R296): conductor agent, its task, the launch. -/
  tileLaunches : List (Nat × Who × Launch)
  /-- Queue interfaces; absent: `QRec.reset`. -/
  queues : Tab QRec
  requests : List Req
  reqNo : Nat
  revoked : List (BitVec 20)
  cfg : ConfigRecord
  fw : Firmware
  /-- Certificate slot 0, and the device's RSA-4096 attestation key (15 R330). -/
  certChain : List Byte
  attestKey : BitVec 4096
  /-- Issue held by the package management block: package power, VCORE current, junction temperature (23 R369, R370). -/
  powerHold : Bool
  currentHold : Bool
  thermalHold : Bool
  /-- The rails are off (23 R370); only SPDM is served (15 R326, 23 R371). -/
  off : Bool
  spdmOnly : Bool
  /-- Patrol-scrub and refresh bookkeeping (14 R310–R313), in ms: the last line scrubbed, when each row group was refreshed, when each
  256-byte block of HBM and the far tier was last read, written or scrubbed, and the ranges that Genay has written with zero (base, length,
  when). A group's timestamp is the latest of these (log 45). -/
  scrubLine : Nat
  refreshed : Tab Nat
  activated : Tab Nat
  wiped : List (Nat × Nat × Nat)
  sent : List Sent
deriving DecidableEq, Repr

/-- The configuration record of this machine: loom 0's controller is each die's communication master and PCAP is 6,000 W
(23 R372 gives the ranges; log 3). -/
def ConfigRecord.reset : ConfigRecord :=
  { layout := 1, zeroA := 0, zeroB := 0, signature := 0, secver := 0, serial := 0, spare := [], master := [], pcap := 6000, fwkey := 0 }

/-- No patch, image A in use (15 R326, R329; log 3). -/
def Firmware.reset : Firmware :=
  { imageA := [], imageB := [], useB := false, staged := false, keptVersion := 0, patches := [], updating := none }

/-- The device right after package reset (23 R371): RENTNOW 0, memory zero, no task placed, every register of every agent at
its reset value. -/
def State.reset : State :=
  { cur := 0, sched := [], freeCtr := 0, agents := [], mem := [], wcStatus := [], hostLines := [], poison := [], quarantined := [],
    transit := [], arrivals := [], running := [], now := 0, rates := Rates.reset, accounts := [], pitches := [],
    commits := [], pages := [], hostPages := [], reportNo := 0, qpairs := [], work := [], reductions := [], mailbox := [],
    mailSeq := 0, loadSeq := 0, relSeq := 0, workSeq := 0, arms := [], launchTable := [], parts := [], passes := [], tasksets := [],
    nextTs := 0, tileLaunches := [], queues := [], requests := [], reqNo := 0, revoked := [], cfg := ConfigRecord.reset,
    fw := Firmware.reset, certChain := [], attestKey := 0, powerHold := false, currentHold := false, thermalHold := false,
    off := false, spdmOnly := false, scrubLine := 0, refreshed := [], activated := [], wiped := [], sent := [] }

end Sys2Proof.Machine
end

