-- ==== Sys2Proof/Machine/Table.lean ====
section
/-!
DEFINITION. Reading and writing sparse tables and ranges of them. A write cuts the table around the keys it writes, so
that the laws of Laws/Table.lean hold of every list, and keeps the canonical form `Tab.wf`.
-/

namespace Sys2Proof

/-- The value at key `k`, `d` where none is listed. -/
def Tab.get {α : Type} (d : α) : Tab α → Nat → α
  | [], _ => d
  | (j, v) :: t, k => if j = k then v else Tab.get d t k

/-- Write `v` at key `k`; a value equal to the default is not listed. -/
def Tab.set {α : Type} [DecidableEq α] (d : α) (t : Tab α) (k : Nat) (v : α) : Tab α :=
  t.filter (fun x => decide (x.1 < k)) ++ (if v = d then [] else [(k, v)]) ++ t.filter (fun x => decide (k < x.1))

/-- The entries that the values `vs` at keys `k`, `k + 1`, … list. -/
def Tab.run {α : Type} [DecidableEq α] (d : α) : Nat → List α → Tab α
  | _, [] => []
  | k, v :: vs => (if v = d then [] else [(k, v)]) ++ Tab.run d (k + 1) vs

/-- Write the values `vs` at keys `k`, `k + 1`, …. -/
def Tab.setRange {α : Type} [DecidableEq α] (d : α) (t : Tab α) (k : Nat) (vs : List α) : Tab α :=
  t.filter (fun x => decide (x.1 < k)) ++ Tab.run d k vs ++ t.filter (fun x => decide (k + vs.length ≤ x.1))

/-- Change the value at key `k`. -/
def Tab.modify {α : Type} [DecidableEq α] (d : α) (t : Tab α) (k : Nat) (f : α → α) : Tab α :=
  Tab.set d t k (f (Tab.get d t k))

/-- The canonical form: keys strictly rising, no default listed. -/
def Tab.wf {α : Type} [DecidableEq α] (d : α) : Tab α → Bool
  | [] => true
  | [(_, v)] => decide (v ≠ d)
  | (j, v) :: (k, w) :: t => decide (j < k) && decide (v ≠ d) && Tab.wf d ((k, w) :: t)

end Sys2Proof
end

