-- ==== Sys2Proof/Machine/Space.lean ====
section
/-!
DEFINITION. Memory: one list of cells by storage address, and where each store of the device lies in it; the regions of
the device virtual address space (00 R6, 05 R121–R129, 08 R187, 09 R209, R213, 14 R300–R306).
-/

namespace Sys2Proof.Machine

/-- What an unlisted address reads as (04 R104, 23 R371; log 1). -/
def memDefault : Byte := 0

/-- The canonical form of memory: addresses strictly rising, no default byte listed. -/
abbrev Memory.wf (m : Memory) : Bool := Tab.wf memDefault m

/-- One byte. -/
def Memory.read (m : Memory) (a : Nat) : Byte := Tab.get memDefault m a

/-- The `n` bytes from `a` on, lowest first. -/
def Memory.bytes (m : Memory) (a : Nat) : Nat → List Byte
  | 0 => []
  | n + 1 => Memory.read m a :: Memory.bytes m (a + 1) n

/-- A little-endian number from its bytes (R6). -/
def natOfBytes : List Byte → Nat
  | [] => 0
  | b :: bs => b.toNat + 256 * natOfBytes bs

/-- The `n` bytes of a number, lowest first (R6). -/
def bytesOfNat : Nat → Nat → List Byte
  | 0, _ => []
  | n + 1, x => BitVec.ofNat 8 x :: bytesOfNat n (x / 256)

/-- The `n`-byte number at `a`. -/
def Memory.num (m : Memory) (a n : Nat) : Nat := natOfBytes (m.bytes a n)

/-- Write bytes from `a` on. -/
def Memory.write (m : Memory) (a : Nat) (bs : List Byte) : Memory := Tab.setRange memDefault m a bs

/-- Byte `k` of a vector. -/
def byteAt {w : Nat} (x : BitVec w) (k : Nat) : Byte := x.extractLsb' (8 * k) 8

/-- The first `n` bytes of a bit vector. -/
def bytesOf {w : Nat} (x : BitVec w) (n : Nat) : List Byte := bytesOfNat n x.toNat

/-! ## Storage addresses -/

/-- Near byte `o` of agent `n`. -/
def nearAddr (n o : Nat) : Nat := 2 ^ 60 + n * 2 ^ 24 + o

/-- Accumulator byte `o` of agent `n`. -/
def accAddr (n o : Nat) : Nat := 2 ^ 61 + n * 2 ^ 24 + o

/-- Canopy byte `o` of agent `n`. -/
def canopyAddr (n o : Nat) : Nat := 2 ^ 62 + n * 2 ^ 24 + o

/-- Byte `o` of the loom store of loom `l` (6 × die + loom). -/
def loomAddr (l o : Nat) : Nat := 2 ^ 63 + l * 2 ^ 26 + o

/-- A byte of host memory named by physical address (rings and buffers of 15 R319). -/
def hostAddr (a : Nat) : Nat := 2 ^ 64 + a

/-- Byte `o` of the tier's store of unit `u` (agent or loom); tiers 4 and 5 lie at their virtual addresses. -/
def tierAddr (tier u o : Nat) : Nat :=
  match tier with
  | 0 => accAddr u o
  | 1 => nearAddr u o
  | 2 => canopyAddr u o
  | 3 => loomAddr u o
  | _ => o

/-- The size of a tier's store (R98, R121, R126, R187). -/
def tierSize (tier : Nat) : Nat :=
  match tier with
  | 0 => 0xC0000
  | 1 => 0x200000
  | 2 => 0x600000
  | 3 => 0x1800000
  | _ => 0xFFD00000000000

/-- An agent's loom (R83). -/
def loomOf (n : Nat) : Nat := if n < 288 then n / 12 else n - 288

/-- An agent's die. -/
def dieOf (n : Nat) : Nat := loomOf n / 6

/-- RANK (R26, R83). -/
def rankOf (n : Nat) : Nat := if n < 288 then n % 12 else 12

/-- Whether an agent is a loom controller. -/
def isCtl (n : Nat) : Bool := decide (288 ≤ n)

/-- The unit whose store of a tier agent `n` uses (R98). -/
def unitOf (tier n : Nat) : Nat := if tier = 3 then loomOf n else n

/-! ## Regions of the address space (R213, R300) -/

/-- Where a device virtual address lies, for an access by agent `n`. -/
inductive Region where
  | rented
  | near (off : Nat)
  | loom (off : Nat)
  | counter (off : Nat)
  /-- A window address that reaches nothing: cause 0x0A (R213). -/
  | nothing
  | host (iova : Nat)
  /-- Bits 63:57 not zero: cause 0x0B (R300). -/
  | outside
deriving DecidableEq, Repr

/-- The region of an address (R213, R300). -/
def regionOf (va : Nat) : Region :=
  if 2 ^ 57 ≤ va then .outside
  else if 0x0100000000000000 ≤ va then .host (va - 0x0100000000000000)
  else if va < 0x00FFD00000000000 then .rented
  else if va < 0x00FFD00000200000 then .near (va - 0x00FFD00000000000)
  else if va < 0x00FFE00000000000 then .nothing
  else if va < 0x00FFE00001800000 then .loom (va - 0x00FFE00000000000)
  else if va < 0x00FFF00000000000 then .nothing
  else if va < 0x00FFF00001800000 then .counter (va - 0x00FFF00000000000)
  else .nothing

/-- The number of a host page for a PASID. -/
def hostPageKey (pasid : BitVec 20) (iova : Nat) : Nat := pasid.toNat * 2 ^ 52 + iova / 4096

/-! ## Agents -/

/-- Agent `n` as it stands. -/
def State.agent (s : State) (n : Nat) : Agent := Tab.get Agent.reset s.agents n

/-- Write agent `n`. -/
def State.setAgent (s : State) (n : Nat) (a : Agent) : State :=
  { s with agents := Tab.set Agent.reset s.agents n a }

/-- Write bytes of memory. -/
def State.store (s : State) (a : Nat) (bs : List Byte) : State := { s with mem := s.mem.write a bs }

/-! ## Engine views of journalled lines and touched rows (R125, R129) -/

/-- The agent whose near or accumulator store holds storage address `a`, with its offset. -/
def coreByte (a : Nat) : Option (Bool × Nat × Nat) :=
  if 2 ^ 61 + 312 * 2 ^ 24 ≤ a then none
  else if 2 ^ 61 ≤ a then some (true, (a - 2 ^ 61) / 2 ^ 24, (a - 2 ^ 61) % 2 ^ 24)
  else if 2 ^ 60 + 312 * 2 ^ 24 ≤ a then none
  else if 2 ^ 60 ≤ a then some (false, (a - 2 ^ 60) / 2 ^ 24, (a - 2 ^ 60) % 2 ^ 24)
  else none

/-- A byte as an engine reads it. -/
def engineRead (s : State) (a : Nat) : Byte :=
  match coreByte a with
  | none => s.mem.read a
  | some (false, n, o) =>
    match Tab.get none (s.agent n).journal (o / 64) with
    | some line => byteAt line (o % 64)
    | none => s.mem.read a
  | some (true, n, o) =>
    match Tab.get none (s.agent n).touched (o / 512) with
    | some row => byteAt row (o % 512)
    | none => s.mem.read a

/-- The bytes that an engine reads from `a` on. -/
def engineBytes (s : State) (a : Nat) : Nat → List Byte
  | 0 => []
  | k + 1 => engineRead s a :: engineBytes s (a + 1) k

/-- Replace byte `k`. -/
def setByte {w : Nat} (x : BitVec w) (k : Nat) (b : Byte) : BitVec w :=
  (x &&& ~~~((0xFF#8).setWidth w <<< (8 * k))) ||| (b.setWidth w <<< (8 * k))

/-- The saved copy of the line or row of `a`, if there is one, receives the byte too. -/
def mergeSaved (s : State) (a : Nat) (b : Byte) : State :=
  match coreByte a with
  | none => s
  | some (false, n, o) =>
    match Tab.get none (s.agent n).journal (o / 64) with
    | none => s
    | some line =>
      s.setAgent n { s.agent n with journal := Tab.set none (s.agent n).journal (o / 64) (some (setByte line (o % 64) b)) }
  | some (true, n, o) =>
    match Tab.get none (s.agent n).touched (o / 512) with
    | none => s
    | some row =>
      s.setAgent n { s.agent n with touched := Tab.set none (s.agent n).touched (o / 512) (some (setByte row (o % 512) b)) }

/-- Saved copies receive the bytes from `a` on. -/
def mergeBytes (s : State) (a : Nat) : List Byte → State
  | [] => s
  | b :: bs => mergeBytes (mergeSaved s a b) (a + 1) bs

/-! ## Poison and wide-cell status (06 R150, 14 R313) -/

/-- The die that holds address `a` of a pitch: `b` is where the listed pieces begin (R308). -/
def dieIn (a : Nat) : Nat → List (Nat × Nat) → Nat
  | _, [] => 0
  | b, (d, k) :: t => if a < b + k then d else dieIn a (b + k) t

/-- The die that holds an address of an HBM pitch. -/
def Pitch.dieAt (p : Pitch) (a : Nat) : Nat := dieIn a p.base p.dies

/-- The pseudo-channels of a die as stack and number, or the far channels as unit 12, in the order in which blocks interleave over them
(R308, log 8). -/
def channels (tier : BitVec 3) (d : Nat) : List (BitVec 8 × BitVec 16) :=
  if tier = 4 then (List.range 192).map (fun i => (BitVec.ofNat 8 (3 * d + i / 64), BitVec.ofNat 16 (i % 64)))
  else (List.range 64).map (fun i => (12, BitVec.ofNat 16 i))

/-- The channel that holds the 256-byte block of an address of a pitch: blocks interleave over the channels that stood when the pitch
was placed (R308, R315, log 8). -/
def Pitch.channelAt (p : Pitch) (a : Nat) : BitVec 8 × BitVec 16 :=
  let live := (channels p.tier (p.dieAt a)).filter (fun c => !p.avoid.contains c)
  live.getD (a / 256 % live.length) (0, 0)

/-- Whether the pseudo-channel or far channel that holds storage address `a` is quarantined (R315). -/
def quarantinedAt (s : State) (a : Nat) : Bool :=
  match s.quarantined with
  | [] => false
  | qs =>
    match s.pitches.find? (fun p => decide (4 ≤ p.2.tier.toNat) && decide (p.2.base ≤ a) && decide (a < p.2.base + p.2.length)) with
    | none => false
    | some (_, p) => qs.contains (p.channelAt a)

/-- The first address of the `k` bytes from `a` on that reads poison (R313, R315). -/
def poisonedAt (s : State) (a k : Nat) : Option Nat :=
  let lines := (List.range ((a % 64 + k + 63) / 64)).map (fun i => a / 64 + i)
  match lines.find? (fun l => Tab.get false s.poison l || quarantinedAt s (64 * l)) with
  | none => none
  | some l => some (max a (64 * l))

/-- A write that covers a whole line clears its poison; a partial write keeps it (R313). -/
def clearPoison (s : State) (a k : Nat) : State :=
  let lines := (List.range ((a % 64 + k + 63) / 64)).map (fun i => a / 64 + i)
  { s with poison := lines.foldl (fun t l =>
      if a ≤ 64 * l && 64 * l + 64 ≤ a + k then Tab.set false t l false else t) s.poison }

/-- Any write but a wide-cell add sets the status byte of the cells it touches to 0 (R150); a write of no byte touches none. -/
def clearWide (s : State) (a k : Nat) : State :=
  let lines := if k = 0 then [] else List.range ((a % 64 + k + 63) / 64)
  { s with wcStatus := lines.foldl (fun t i => Tab.set 0 t (64 * (a / 64 + i)) 0) s.wcStatus }

/-- The bytes to write from `a` on, with those of a quarantined block replaced by what stands there: a write to it is
discarded (R315). -/
def liveBytes (s : State) (a : Nat) : List Byte → List Byte
  | [] => []
  | b :: bs => (if quarantinedAt s a then s.mem.read a else b) :: liveBytes s (a + 1) bs

/-- The host's copies of the lines of a storage range are recalled (04 R114). -/
def State.recall (s : State) (a k : Nat) : State :=
  { s with hostLines := s.hostLines.filter (fun l => !(decide (64 * l < a + k) && decide (a < 64 * l + 64))) }

/-- The rows of HBM and the far tier that a read or write of `k` bytes from `a` on activates carry the present ms (14 R310). -/
def State.activate (s : State) (a k : Nat) : State :=
  { s with
    activated := if k = 0 ∨ tierSize 4 ≤ a then s.activated
      else (List.range ((a % 256 + k + 255) / 256)).foldl (fun t i => Tab.set 0 t (a / 256 + i) (s.now.toNat / 1000)) s.activated }

/-- What every access of the device to `k` bytes of storage does beside reading or writing them (04 R114, 14 R310). -/
def State.touch (s : State) (a k : Nat) : State := (s.recall a k).activate a k

/-- A plain write of bytes: memory, poison, cell status. -/
def State.put (s : State) (a : Nat) (bs : List Byte) : State :=
  let s := s.touch a bs.length
  clearWide (clearPoison (s.store a (if s.quarantined = [] then bs else liveBytes s a bs)) a bs.length) a bs.length

/-- The first address of the `k` bytes from `a` on that an engine reads as poison: a saved copy's own poison where there is one
(R125, R129, R313). -/
def enginePoison (s : State) (a k : Nat) : Option Nat :=
  let lines := (List.range ((a % 64 + k + 63) / 64)).map (fun i => a / 64 + i)
  let bad (l : Nat) : Bool :=
    match coreByte (64 * l) with
    | some (false, n, o) =>
      if (Tab.get none (s.agent n).journal (o / 64)).isSome then Tab.get false (s.agent n).journalBad (o / 64)
      else (poisonedAt s (64 * l) 64).isSome
    | some (true, n, o) =>
      if (Tab.get none (s.agent n).touched (o / 512)).isSome then Tab.get false (s.agent n).shadowBad (o / 64)
      else (poisonedAt s (64 * l) 64).isSome
    | none => (poisonedAt s (64 * l) 64).isSome
  match lines.find? bad with
  | none => none
  | some l => some (max a (64 * l))

/-- A saved copy of which an engine writes a whole line is sound again (R313). -/
def cleanSaved (s : State) (a k : Nat) : State :=
  match coreByte a with
  | none => s
  | some (b, n, o) =>
    let ls := ((List.range ((a % 64 + k + 63) / 64)).map (fun i => o / 64 + i)).filter (fun l =>
      decide (o ≤ 64 * l) && decide (64 * l + 64 ≤ o + k))
    let g := s.agent n
    let clean (t : Tab Bool) : Tab Bool := ls.foldl (fun t l => Tab.set false t l false) t
    s.setAgent n (if b then { g with shadowBad := clean g.shadowBad } else { g with journalBad := clean g.journalBad })

/-- An engine's write: also into saved copies (R125, R129). -/
def enginePut (s : State) (a : Nat) (bs : List Byte) : State := cleanSaved (mergeBytes (s.put a bs) a bs) a bs.length

end Sys2Proof.Machine
end

