-- ==== Sys2Proof/Machine/Pitch.lean ====
section
/-!
DEFINITION. Accounts and pitches as Genay keeps them, and the check that every access takes (04 R95–R113, 14 R300–R306).
-/

namespace Sys2Proof.Machine

/-! ## Whom an access acts for -/

/-- The task of an agent. An agent without a task acts for account 0, context 0. -/
def Agent.who (a : Agent) : Who :=
  match a.task with
  | some t => { account := t.account, context := t.context, pasid := t.pasid, tslot := t.tslot, ts := t.ts, j := t.j }
  | none => { account := 0, context := 0, pasid := none, tslot := 0, ts := 0, j := 0 }

/-! ## Accounts -/

/-- An account as it stands. -/
def State.account (s : State) (c : BitVec 10) : Account := Tab.get Account.reset s.accounts c.toNat

/-- Change an account. -/
def State.modAccount (s : State) (c : BitVec 10) (f : Account → Account) : State :=
  { s with accounts := Tab.modify Account.reset s.accounts c.toNat f }

/-- A usage counter saturates at 2^64 − 1 (R119). -/
def satAdd (x : W64) (n : Nat) : W64 := BitVec.ofNat 64 (min (x.toNat + n) (2 ^ 64 - 1))

/-- A signed 64-bit count (R95); outside its range the value is open (log 60). -/
def fit64 (x : Int) : W64 := if -2 ^ 63 ≤ x ∧ x < 2 ^ 63 then BitVec.ofInt 64 x else Config.allowanceOutside x

/-- The available allowance (R97). -/
def Account.available (a : Account) : Int := a.committed.toInt - a.hold

/-- Charge an account (R102, R119). -/
def Account.charge (a : Account) (n : Nat) : Account :=
  { a with committed := fit64 (a.committed.toInt - n), charged := satAdd a.charged n }

/-- Refund an account (R102, R119). -/
def Account.refund (a : Account) (n : Nat) : Account :=
  { a with committed := fit64 (a.committed.toInt + n), refunded := satAdd a.refunded n }

/-- Release a hold (R102). -/
def Account.unhold (a : Account) (n : Nat) : Account := { a with hold := a.hold - n }

/-! ## Tiers (R98) -/

/-- The granule of a tier. -/
def granule (tier : Nat) : Nat :=
  match tier with
  | 0 => 512
  | 1 => 64
  | 2 => 64
  | 3 => 64
  | _ => 4096

/-- The largest pitch of a tier. -/
def largestPitch (tier : Nat) : Nat :=
  match tier with
  | 0 => 786432
  | 1 => 2097152
  | 2 => 6291456
  | 3 => 25165824
  | 4 => 2 ^ 40
  | _ => 2 ^ 42

/-- The rate of a tier. -/
def Rates.at (r : Rates) (tier : Nat) : W64 :=
  match tier with
  | 0 => r.acc
  | 1 => r.near
  | 2 => r.canopy
  | 3 => r.loom
  | 4 => r.hbm
  | _ => r.far

/-- Write the rate of a tier (R99). -/
def Rates.put (r : Rates) (tier : Nat) (x : W64) : Rates :=
  match tier with
  | 0 => { r with acc := x }
  | 1 => { r with near := x }
  | 2 => { r with canopy := x }
  | 3 => { r with loom := x }
  | 4 => { r with hbm := x }
  | _ => { r with far := x }

/-- `n` rounded up to the tier's granule. -/
def roundUp (tier n : Nat) : Nat := (n + granule tier - 1) / granule tier * granule tier

/-! ## Descriptors -/

/-- Pitch `k` as it stands. -/
def State.pitch (s : State) (k : Nat) : Pitch := Tab.get Pitch.free s.pitches k

/-- Write pitch `k`. -/
def State.setPitch (s : State) (k : Nat) (p : Pitch) : State := { s with pitches := Tab.set Pitch.free s.pitches k p }

/-- Change pitch `k`. -/
def State.modPitch (s : State) (k : Nat) (f : Pitch → Pitch) : State := s.setPitch k (f (s.pitch k))

/-- Whether a pitch's storage holds byte `b` of a tier's space. Tiers 4 and 5 share one space (R301). -/
def Pitch.holds (p : Pitch) (tier unit b : Nat) : Bool :=
  decide (p.state ≠ .free) && decide (p.base ≤ b) && decide (b < p.base + p.length) &&
    (if 4 ≤ tier then decide (4 ≤ p.tier.toNat) else p.tier.toNat == tier && p.unit == unit)

/-- The pitch whose storage holds a byte, if any. -/
def State.findPitch (s : State) (tier unit b : Nat) : Option (Nat × Pitch) :=
  s.pitches.find? (fun kp => kp.2.holds tier unit b)

/-- The rent operations that stand tentative or released for agent `n`, oldest first (R106). -/
def State.rentOps (s : State) (n : Nat) : List RentOp :=
  (s.commits.filterMap (fun c => if c.agent = n then some c.op else none)) ++
    (s.agent n).wb.filterMap (fun c => match c with | .rent r => some r | _ => none)

/-- PAID_UNTIL of pitch `k` after a tentative operation (R106, R117). -/
def RentOp.extend (k : Nat) (p : Nat) (r : RentOp) : Nat :=
  match r with
  | .prepay j _ t => if j = k then p + t else p
  | .renew j _ t => if j = k then max p t else p
  | _ => p

/-- PAID_UNTIL as agent `n` sees it (R106). -/
def State.paidFor (s : State) (n k : Nat) : Nat := (s.rentOps n).foldl (RentOp.extend k) (s.pitch k).paid

/-- Whether an operation extends pitch `k`. -/
def RentOp.extends (k : Nat) (r : RentOp) : Bool :=
  match r with
  | .prepay j _ _ => j == k
  | .renew j _ _ => j == k
  | _ => false

/-- Whether a RENEW or PREPAY of pitch `k` stands tentative on any core (R103). -/
def State.extensionPending (s : State) (k : Nat) : Bool :=
  s.commits.any (fun c => c.op.extends k) ||
    s.agents.any (fun na => na.2.wb.any (fun c => match c with | .rent r => r.extends k | _ => false))

/-- Whether a sublet covers a byte. -/
def Sublet.covers (x : Sublet) (p : Pitch) (b : Nat) : Bool :=
  let g := granule p.tier.toNat
  decide (p.base + x.first * g ≤ b) && decide (b < p.base + (x.first + x.count) * g)

/-- The outcome for one byte: allowed up to an address, or refused with a cause (R110). -/
inductive Verdict where
  | ok (upto : Nat)
  | no (cause : Byte)
deriving DecidableEq, Repr

/-- The rent check of byte `b` in pitch `k` (R109, R110): the rows of R110 in their order. A sublessee at or after P takes 0x09 while
the owner's pitch stands in overstay or waits for an extension too (log 64). -/
def State.verdict (s : State) (n : Nat) (w : Who) (wr sync : Bool) (k : Nat) (p : Pitch) (b : Nat) : Verdict :=
  let done (upto : Nat) : Verdict := if sync && !p.att.getLsbD 0 then .no 0x0C else .ok upto
  if p.vacated then .no 0x0A
  else if p.account = w.account ∧ p.context = w.context then
    if p.state = .tentative ∧ p.tentBy ≠ some n then .no 0x0A
    else if s.paidFor n k ≤ s.now.toNat then .no 0x08
    else done (p.base + p.length)
  else
    match p.subs.find? (fun x => x.account == w.account && x.context == w.context && x.covers p b) with
    | some x =>
      if p.paid ≤ s.now.toNat then .no 0x09
      else if wr && !x.rw then .no 0x0C
      else done (p.base + (x.first + x.count) * granule p.tier.toNat)
    | none =>
      if p.endedSubs.any (fun x => x.account == w.account && x.context == w.context && x.covers p b) then .no 0x09
      else .no 0x0A

/-- The first refused byte of b … e − 1, with its cause, walking from pitch to pitch. -/
def State.refusedFrom (s : State) (n : Nat) (w : Who) (wr sync : Bool) (tier unit : Nat) : Nat → Nat → Nat →
    Option (Byte × Nat)
  | 0, b, e => if b < e then some (0x0A, b) else none
  | f + 1, b, e =>
    if e ≤ b then none else
      match s.findPitch tier unit b with
      | none => some (0x0A, b)
      | some (k, p) =>
        match s.verdict n w wr sync k p b with
        | .no c => some (c, b)
        | .ok u => s.refusedFrom n w wr sync tier unit f u e

/-- The rent check of R109 over `len` bytes at `b` of a tier's space. -/
def State.rentCheck (s : State) (n : Nat) (w : Who) (wr sync : Bool) (tier unit b len : Nat) : Option (Byte × Nat) :=
  s.refusedFrom n w wr sync tier unit (s.pitches.length + 1) b (b + len)

/-! ## Device virtual addresses (R300–R306, R209, R213) -/

/-- The page of an address in the rented region. -/
def State.page (s : State) (va : Nat) : Page := Tab.get Page.plain s.pages (va / 4096)

/-- The first byte of the range that the window table refuses: unmapped 0x0B, read-only write 0x0C (R302). -/
def State.pageCheck (s : State) (wr : Bool) (va len : Nat) : Option (Byte × Nat) :=
  let pages := (List.range ((va % 4096 + len + 4095) / 4096)).map (fun i => va / 4096 + i)
  pages.findSome? (fun g =>
    let p := Tab.get Page.plain s.pages g
    if p.unmapped then some (0x0B, max va (4096 * g))
    else if wr && p.readOnly then some (0x0C, max va (4096 * g))
    else none)

/-- Two-stage host translation (R306): no PASID, a revoked one or a refused page gives 0x0B, a write without permission 0x0C. -/
def State.hostCheck (s : State) (w : Who) (wr : Bool) (va len : Nat) : Option (Byte × Nat) :=
  match w.pasid with
  | none => some (0x0B, va)
  | some q =>
    if s.revoked.contains q then some (0x0B, va)
    else if 2 ^ 57 < va + len then some (0x0B, 2 ^ 57)
    else
      let iova := va - 0x0100000000000000
      let pages := (List.range ((iova % 4096 + len + 4095) / 4096)).map (fun i => iova / 4096 + i)
      pages.findSome? (fun g =>
        let h := Tab.get HostPage.plain s.hostPages (hostPageKey q (4096 * g))
        if h.refused then some (0x0B, 0x0100000000000000 + max iova (4096 * g))
        else if wr && h.readOnly then some (0x0C, 0x0100000000000000 + max iova (4096 * g))
        else none)

/-- The agent, slot and context code of a counter-window offset; none where it names no cell: a loom controller has contexts 0 to 3
(R24, R209). -/
def counterCell (off : Nat) : Option (Nat × Nat × Nat) :=
  let l := off / 0x100000
  let o := off % 0x100000
  let tslot := o / 0x400
  let rank := o % 0x400 / 0x40
  let code := o % 0x40 / 8
  if l < 24 ∧ tslot < 64 ∧ (rank < 12 ∧ code ≤ 6 ∨ rank = 12 ∧ code ≤ 3) then
    some (if rank = 12 then 288 + l else 12 * l + rank, tslot, code)
  else none

/-- The end of the counter windows. -/
def counterEnd : Nat := 0x1800000

/-- Whether an account may read the cell of a counter-window offset: that of the last holder of its timeline slot; a slot that no task
has held yet is open to every account (R209; log 68). -/
def State.counterOpen (s : State) (acct : BitVec 10) (off : Nat) : Bool :=
  match counterCell off with
  | none => true
  | some (n, t, _) =>
    match Tab.get none (s.agent n).holders t with
    | some c => decide (c = acct)
    | none => true

/-- The check of `len` bytes of the counter windows, cell by cell: another account's cell and every write take 0x0C, what lies beyond
the windows 0x0A (R209, R213). -/
def State.counterCheck (s : State) (w : Who) (wr : Bool) (off va len : Nat) : Option (Byte × Nat) :=
  (List.range ((off % 8 + len + 7) / 8)).findSome? (fun i =>
    let o := max off (8 * (off / 8 + i))
    if counterEnd ≤ o then some (0x0A, va + (o - off))
    else if wr || !s.counterOpen w.account o then some (0x0C, va + (o - off)) else none)

/-- Which of the parts of an address check apply: rent, translation, the near window open (index lists, R213). -/
structure Ask where
  wr : Bool
  sync : Bool
  rent : Bool
  trans : Bool
  near : Bool
deriving DecidableEq, Repr

/-- The checks of an access of `len` bytes at a device virtual address: the window rules of R213, the rent check of R109 and
R110, then translation (R302, R306); cause and refused address. -/
def State.vaCheck (s : State) (n : Nat) (w : Who) (q : Ask) (va len : Nat) : Option (Byte × Nat) :=
  if len = 0 then none else
  match regionOf va with
  | .outside => if q.trans then some (0x0B, va) else none
  | .nothing => some (0x0A, va)
  | .near off =>
    if q.near then
      if q.rent then (s.rentCheck n w q.wr q.sync 1 n off len).map (fun r => (r.1, va - off + r.2)) else none
    else some (0x0A, va)
  | .loom off =>
    if q.rent then (s.rentCheck n w q.wr q.sync 3 (loomOf n) off len).map (fun r => (r.1, va - off + r.2)) else none
  | .counter off => if q.rent then s.counterCheck w q.wr off va len else none
  | .rented =>
    match (if q.rent then s.rentCheck n w q.wr q.sync 4 0 va len else none) with
    | some r => some r
    | none => if q.trans then s.pageCheck q.wr va len else none
  | .host _ => if q.trans then s.hostCheck w q.wr va len else none

/-- The value of a counter cell (R208, R209). -/
def EngCtx.cell (c : EngCtx) : W64 :=
  (if c.lastf then 1#1 else 0#1) ++ c.fails ++ c.count

/-- A timeline of agent `n`, slot `t`, context code `c`. -/
def Agent.ctx (a : Agent) (t c : Nat) : EngCtx := Tab.get EngCtx.reset a.ctxs (8 * t + c)

/-- Write a timeline. -/
def Agent.setCtx (a : Agent) (t c : Nat) (x : EngCtx) : Agent :=
  { a with ctxs := Tab.set EngCtx.reset a.ctxs (8 * t + c) x }

/-- The host physical address of an I/O virtual address within a PASID (R306). -/
def State.hostPhys (s : State) (q : Option (BitVec 20)) (iova : Nat) : Nat :=
  match q with
  | some p => 4096 * (Tab.get HostPage.plain s.hostPages (hostPageKey p iova)).frame.getD (iova / 4096) + iova % 4096
  | none => iova

/-- The storage address of a device virtual address for agent `n` and a PASID; shared pages lead to the page they share (R302, R306,
R321). -/
def State.storage (s : State) (n : Nat) (q : Option (BitVec 20)) (va : Nat) : Nat :=
  match regionOf va with
  | .near off => nearAddr n off
  | .loom off => loomAddr (loomOf n) off
  | .host iova => hostAddr (s.hostPhys q iova)
  | .rented =>
    match (s.page va).share with
    | some g => 4096 * g + va % 4096
    | none => va
  | _ => va

/-- One byte at a device virtual address, counter cells included (R209). -/
def State.vaByte (s : State) (n : Nat) (q : Option (BitVec 20)) (va : Nat) : Byte :=
  match regionOf va with
  | .counter off =>
    match counterCell off with
    | some (m, t, c) => byteAt ((s.agent m).ctx t c).cell (off % 8)
    | none => 0
  | _ => s.mem.read (s.storage n q va)

/-- The `k` bytes from `va` on. -/
def State.vaBytes (s : State) (n : Nat) (q : Option (BitVec 20)) (va : Nat) : Nat → List Byte
  | 0 => []
  | k + 1 => s.vaByte n q va :: s.vaBytes n q (va + 1) k

/-- Write bytes at a device virtual address, page by page. -/
def State.vaPut (s : State) (n : Nat) (q : Option (BitVec 20)) (va : Nat) (bs : List Byte) : State :=
  if va / 4096 = (va + bs.length - 1) / 4096 then s.put (s.storage n q va) bs
  else
    let k := 4096 - va % 4096
    (s.put (s.storage n q va) (bs.take k)).put (s.storage n q (va + k)) (bs.drop k)

/-! ## A launch header (13 R280) -/

def hdrPc (h : BitVec 512) : W64 := (h.extractLsb' 0 57).setWidth 64
def hdrAccount (h : BitVec 512) : BitVec 10 := h.extractLsb' 64 10
def hdrContext (h : BitVec 512) : BitVec 16 := h.extractLsb' 74 16
def hdrClass (h : BitVec 512) : BitVec 2 := h.extractLsb' 90 2
def hdrKind (h : BitVec 512) : BitVec 2 := h.extractLsb' 92 2
def hdrTslot (h : BitVec 512) : BitVec 6 := h.extractLsb' 94 6
def hdrRank (h : BitVec 512) : Nat := (h.extractLsb' 100 4).toNat
def hdrParam (h : BitVec 512) : W64 := h.extractLsb' 128 64
def hdrLooptab (h : BitVec 512) : W64 := h.extractLsb' 192 64
def hdrDone (h : BitVec 512) : W64 := h.extractLsb' 256 64
def hdrDep (h : BitVec 512) : W64 := h.extractLsb' 320 64
def hdrDepcount (h : BitVec 512) : W64 := h.extractLsb' 384 64

/-! ## Vacating and cancelling (R102, R107, R111) -/

/-- The pitch leaves to scrubbing: it covers no byte any more (R110), and its sublets end (R113). -/
def Pitch.toScrub (p : Pitch) : Pitch :=
  { p with state := .scrubbing, vacated := true, subs := [], vacWhenIdle := false, drained := false, tentBy := none }

/-- The refund of R102. -/
def refundOf (p : Pitch) (now : Nat) : Nat := (p.paid - now - 1) * p.length * p.rate

/-- Whether the cell that agent `n` names lies in a pitch. -/
def Pitch.hasCell (p : Pitch) (n : Nat) (va : W64) : Bool :=
  match regionOf va.toNat with
  | .rented => p.holds 4 0 va.toNat
  | .loom off => p.holds 3 (loomOf n) off
  | _ => false

/-- What is noted of a dependence, named by agent `n`, as pitch `p` lapses or is vacated: whether its condition has held until now (13
R287). -/
def State.noteCell (s : State) (p : Pitch) (n : Nat) (h : BitVec 512) (dep : Option Bool) : Option Bool :=
  if dep.isNone && hdrDep h != 0 && p.hasCell n (hdrDep h) then
    some (decide ((hdrDepcount h).toNat ≤ natOfBytes (s.vaBytes n none (hdrDep h).toNat 8)))
  else dep

/-- A task set that waits on a cell of a pitch that goes. -/
def TaskSet.noteDep (s : State) (p : Pitch) (t : TaskSet) : TaskSet :=
  if t.ready then t else { t with dep := s.noteCell p 313 t.hdr t.dep }

/-- A tile launch that waits on a cell of a pitch that goes: its controller's loom is the one it names. -/
def State.noteLaunch (s : State) (p : Pitch) (y : Nat × Who × Launch) : Nat × Who × Launch :=
  (y.1, y.2.1, { y.2.2 with dep := s.noteCell p y.1 y.2.2.hdr y.2.2.dep })

/-- What a pitch leaves behind as it lapses or is vacated: the host's copies of its lines are recalled (R114), and Rhory notes the
dependences on its cells (13 R287). -/
def State.withdraw (s : State) (p : Pitch) : State :=
  let t := if 4 ≤ p.tier.toNat then s.recall p.base p.length else s
  { t with
    tasksets := s.tasksets.map (fun e => (e.1, e.2.map (TaskSet.noteDep s p)))
    tileLaunches := s.tileLaunches.map (s.noteLaunch p) }

/-- Every page of a pitch's range becomes plain again: Genay unmaps it with the pitch (R302). -/
def State.forgetPages (s : State) (p : Pitch) : State :=
  if 4 ≤ p.tier.toNat then
    { s.withdraw p with
      pages := s.pages.filter (fun g => !(decide (p.base ≤ 4096 * g.1) && decide (4096 * g.1 < p.base + p.length))) }
  else if p.tier = 3 then s.withdraw p
  else s

/-- A leased pitch is vacated now, with its refund (R102). -/
def State.vacateNow (s : State) (k : Nat) : State :=
  let p := s.pitch k
  match p.state with
  | .leased =>
    let r := refundOf p s.now.toNat
    ((s.setPitch k { p.toScrub with charged := p.charged - r }).modAccount p.account (·.refund r)).forgetPages p
  | .tentative => (s.setPitch k p.toScrub).forgetPages p
  | _ => s

/-- A pitch is vacated at its task's end or by a drain: while INFLIGHT is above 0 a leased pitch is only marked (R102, R111). -/
def State.vacate (s : State) (k : Nat) : State :=
  let p := s.pitch k
  if p.state = .leased ∧ p.inflight ≠ 0 then s.setPitch k { p with vacWhenIdle := true } else s.vacateNow k

/-- Cancel one tentative operation of an interval (R107). -/
def State.cancelRent (s : State) (r : RentOp) : State :=
  match r with
  | .rent k h => ((s.modAccount (s.pitch k).account (·.unhold h)).modPitch k Pitch.toScrub).forgetPages (s.pitch k)
  | .prepay k h _ => s.modAccount (s.pitch k).account (·.unhold h)
  | .renew k h _ => s.modAccount (s.pitch k).account (·.unhold h)
  | _ => s

/-- Cancel the reservation of a mailbox slot (R340). -/
def State.cancelSlot (s : State) (d : Nat) (k : Nat) : State :=
  { s with mailbox := Tab.modify [] s.mailbox d (fun l => l.filter (fun x => x.order != k)) }

/-- Cancel the tentative rent operations and the mailbox reservations of a withhold buffer (R107, R340). -/
def State.cancelAll (s : State) (wb : List Cmd) : State :=
  wb.foldl (fun s c => match c with
    | .rent r => s.cancelRent r
    | .xmbox d k _ => s.cancelSlot d.toNat k
    | _ => s) s

/-- The pitches of tiers 0 to 2 of agent `n`'s stores that a context holds. -/
def State.corePitches (s : State) (n : Nat) (w : Who) : List Nat :=
  s.pitches.filterMap (fun kp =>
    if kp.2.tier.toNat ≤ 2 && kp.2.unit == n && kp.2.account == w.account && kp.2.context == w.context then some kp.1 else none)

/-- The pitch that an operation names. -/
def RentOp.about (r : RentOp) : Option Nat :=
  match r with
  | .rent k _ => some k
  | .prepay k _ _ => some k
  | .renew k _ _ => some k
  | .sublet k _ _ _ _ _ => some k
  | .vacate k => some k
  | .endVacate k => some k
  | .void k _ => some k
  | .drop k _ => some k
  | .none => Option.none

/-- Whether every released rent operation of agent `n` has reached Genay. -/
def State.committed (s : State) (n : Nat) : Bool := s.commits.all (fun c => c.agent != n)

/-- Vacate pitch `k` at a task's end, after the commits about it that Genay has still to receive (R106, R111). -/
def State.endVacate (n ts : Nat) (s : State) (k : Nat) : State :=
  if s.commits.any (fun c => c.agent == n && c.op.about == some k) then
    { s with commits := s.commits ++ [{ agent := n, ts := ts, op := .endVacate k }] }
  else s.vacate k

/-- Vacate every pitch of tiers 0 to 2 that a task holds on agent `n` (R111). -/
def State.vacateCore (s : State) (n : Nat) (w : Who) : State := (s.corePitches n w).foldl (State.endVacate n w.ts) s

end Sys2Proof.Machine
end

