-- ==== Sys2Proof/Machine/Ops.lean ====
section
/-!
DEFINITION. The named operations over an agent's registers and queues, landings, the restore, taking an exception and the
returns from one (01 R26–R27, 02 R45–R74, 03 R75–R94, 05 R123–R129, 08 R199, 12 R259–R279).
-/

namespace Sys2Proof.Machine

/-! ## Scalar and address registers (R75, R68, R267) -/

/-- The bank in place: the task's, the shadow bank of user handlers, or the supervisor bank. -/
def Agent.bank (a : Agent) : Bank :=
  match a.mode with
  | .task => { s := a.r.s, a := a.r.a }
  | .super => a.super
  | _ => a.shadow

/-- Read s0–s31; s0 reads 0. -/
def Agent.getS (a : Agent) (d : BitVec 5) : W64 :=
  if d = 0 then 0
  else if 24 ≤ d.toNat then Tab.get 0 a.bank.s d.toNat
  else Tab.get 0 a.r.s d.toNat

/-- Write s0–s31; a write of s0 is ignored. -/
def Agent.putS (a : Agent) (d : BitVec 5) (x : W64) : Agent :=
  if d = 0 then a
  else if 24 ≤ d.toNat then
    match a.mode with
    | .task => { a with r := { a.r with s := Tab.set 0 a.r.s d.toNat x } }
    | .super => { a with super := { a.super with s := Tab.set 0 a.super.s d.toNat x } }
    | _ => { a with shadow := { a.shadow with s := Tab.set 0 a.shadow.s d.toNat x } }
  else { a with r := { a.r with s := Tab.set 0 a.r.s d.toNat x } }

/-- Read a0–a15. -/
def Agent.getA (a : Agent) (d : BitVec 4) : W64 :=
  if 12 ≤ d.toNat then Tab.get 0 a.bank.a d.toNat else Tab.get 0 a.r.a d.toNat

/-- Write a0–a15. -/
def Agent.putA (a : Agent) (d : BitVec 4) (x : W64) : Agent :=
  if 12 ≤ d.toNat then
    match a.mode with
    | .task => { a with r := { a.r with a := Tab.set 0 a.r.a d.toNat x } }
    | .super => { a with super := { a.super with a := Tab.set 0 a.super.a d.toNat x } }
    | _ => { a with shadow := { a.shadow with a := Tab.set 0 a.shadow.a d.toNat x } }
  else { a with r := { a.r with a := Tab.set 0 a.r.a d.toNat x } }

/-- Predicate p; p0 is all ones (R162). -/
def Agent.getP (a : Agent) (p : BitVec 3) : Pred := if p = 0 then BitVec.allOnes 128 else Tab.get 0 a.r.p p.toNat

/-- Vector register. -/
def Agent.getV (a : Agent) (v : BitVec 5) : Vec := Tab.get 0 a.r.v v.toNat

/-- Interval register. -/
def Agent.getI (a : Agent) (i : BitVec 4) : Vec := Tab.get 0 a.r.i i.toNat

/-! ## Shape records (R91–R94) -/

/-- The key of a record: slot code 1–3 for slots 5–7, copy 0 active, 1 shadow (R276). -/
def shapeKey (slot : BitVec 2) (h : BitVec 2) (copy : Nat) : Nat := 8 * (slot.toNat - 1) + 2 * h.toNat + copy

/-- A record. -/
def Agent.shape (a : Agent) (slot h : BitVec 2) (copy : Nat) : Shape :=
  Tab.get Shape.reset a.r.shapes (shapeKey slot h copy)

/-- Read a field, strides sign-extended (R93). -/
def Shape.field (x : Shape) (f : BitVec 9) : W64 :=
  match f.toNat with
  | 0 => x.size0.setWidth 64
  | 1 => x.size1.setWidth 64
  | 2 => x.size2.setWidth 64
  | 3 => x.size3.setWidth 64
  | 4 => x.size4.setWidth 64
  | 5 => x.size5.setWidth 64
  | 6 => x.stride0.signExtend 64
  | 7 => x.stride1.signExtend 64
  | 8 => x.stride2.signExtend 64
  | 9 => x.stride3.signExtend 64
  | 10 => x.stride4.signExtend 64
  | 11 => x.stride5.signExtend 64
  | 12 => x.base.setWidth 64
  | 13 => x.tier.setWidth 64
  | 14 => x.fmt.setWidth 64
  | 15 => x.flags.setWidth 64
  | _ => x.rot.setWidth 64

/-- Write a field: higher bits of the value and the reserved bits of FLAGS are dropped (R92, R93). -/
def Shape.put (x : Shape) (f : BitVec 9) (v : W64) : Shape :=
  match f.toNat with
  | 0 => { x with size0 := v.setWidth 24 }
  | 1 => { x with size1 := v.setWidth 24 }
  | 2 => { x with size2 := v.setWidth 24 }
  | 3 => { x with size3 := v.setWidth 24 }
  | 4 => { x with size4 := v.setWidth 24 }
  | 5 => { x with size5 := v.setWidth 24 }
  | 6 => { x with stride0 := v.setWidth 32 }
  | 7 => { x with stride1 := v.setWidth 32 }
  | 8 => { x with stride2 := v.setWidth 32 }
  | 9 => { x with stride3 := v.setWidth 32 }
  | 10 => { x with stride4 := v.setWidth 32 }
  | 11 => { x with stride5 := v.setWidth 32 }
  | 12 => { x with base := v.setWidth 57 }
  | 13 => { x with tier := v.setWidth 3 }
  | 14 => { x with fmt := v.setWidth 8 }
  | 15 => { x with flags := v.setWidth 16 &&& 0xFF0F#16 }
  | 16 => { x with rot := v.setWidth 48 }
  | _ => x

/-- Write a field of a shadow record (R93). -/
def Agent.putShape (a : Agent) (slot h : BitVec 2) (f : BitVec 9) (v : W64) : Agent :=
  { a with r := { a.r with shapes := Tab.modify Shape.reset a.r.shapes (shapeKey slot h 1) (fun x => x.put f v) } }

/-- Exchange the active and shadow copies of record `h` of a slot (R91). -/
def Agent.swapShape (a : Agent) (slot h : BitVec 2) : Agent :=
  let t := Tab.set Shape.reset a.r.shapes (shapeKey slot h 0) (a.shape slot h 1)
  { a with r := { a.r with shapes := Tab.set Shape.reset t (shapeKey slot h 1) (a.shape slot h 0) } }

/-! ## Queues (R84–R89) -/

/-- The entries held in a queue, head first. -/
def Agent.queue (a : Agent) (q : BitVec 4) : List Vec := Tab.get [] a.r.q q.toNat

/-- Write a queue. -/
def Agent.setQueue (a : Agent) (q : BitVec 4) (es : List Vec) : Agent :=
  { a with r := { a.r with q := Tab.set [] a.r.q q.toNat es } }

/-- Entries promised and not yet landed (R86). -/
def Agent.reserved (a : Agent) (q : BitVec 4) : Nat := Tab.get 0 a.resv q.toNat + Tab.get 0 a.owed q.toNat

/-- Reserve an entry (R86). -/
def Agent.reserve (a : Agent) (q : BitVec 4) : Agent := { a with resv := Tab.modify 0 a.resv q.toNat (· + 1) }

/-- A reserved entry becomes held (R86). -/
def Agent.landEntry (a : Agent) (q : BitVec 4) (x : Vec) : Agent :=
  { a with resv := Tab.modify 0 a.resv q.toNat (· - 1), r := { a.r with q := Tab.set [] a.r.q q.toNat (a.queue q ++ [x]) } }

/-- Remove the head of a queue. -/
def Agent.pop (a : Agent) (q : BitVec 4) : Agent := a.setQueue q (a.queue q).tail

/-- Entry whose word 0 is `x`, all else zero. -/
def entryOf (x : W64) : Vec := x.setWidth 4096

/-- Lane `l` of an entry or vector (R84). -/
def lane (x : Vec) (l : Nat) : W32 := x.extractLsb' (32 * l) 32

/-- 64-bit word `k` of an entry (R84). -/
def word64 (x : Vec) (k : Nat) : W64 := x.extractLsb' (64 * k) 64

/-- A bit vector from elements of `w` bits, element 0 lowest (R140). -/
def packBits (w : Nat) (xs : List Nat) : Nat :=
  match xs with
  | [] => 0
  | x :: t => x % 2 ^ w + 2 ^ w * packBits w t

/-- A vector from its lanes, lane 0 first. -/
def ofLanes (xs : List W32) : Vec := BitVec.ofNat 4096 (packBits 32 (xs.map BitVec.toNat))

/-- A vector from a function of the lane. -/
def mkVec (f : Nat → W32) : Vec := ofLanes ((List.range 128).map f)

/-- A predicate from a function of the lane. -/
def mkPred (f : Nat → Bool) : Pred := BitVec.ofNat 128 (packBits 1 ((List.range 128).map (fun l => (f l).toNat)))

/-! ## Loop levels (R45, R54–R58) -/

/-- Level `l` as it stands. -/
def Agent.level (a : Agent) (l : Nat) : Level := Tab.get Level.reset a.r.levels l

/-- Write level `l`. -/
def Agent.setLevel (a : Agent) (l : Nat) (x : Level) : Agent :=
  { a with r := { a.r with levels := Tab.set Level.reset a.r.levels l x } }

/-- The innermost active level (R9: L0 is the innermost). -/
def Agent.innermost (a : Agent) : Option Nat := (List.range 6).find? (fun l => (a.level l).act)

/-- Whether an iteration qualifier selects the word (R21); in a user-interrupt handler no level counts as active (R68), in the other
handlers the restored levels do (log 54). -/
def Agent.selects (a : Agent) (iq : BitVec 2) : Bool :=
  if iq = 0 || a.mode = .userInt then true
  else match a.innermost with
    | none => true
    | some l =>
      let v := a.level l
      if iq = 1 then v.index == 0 else v.index == v.count - 1

/-- Add the flagged strides of a level (R55). -/
def Agent.addStrides (a : Agent) (v : Level) : Agent :=
  (List.range 16).foldl (fun a k =>
    match Tab.get none v.stride k with
    | some x => a.putA (BitVec.ofNat 4 k) (a.getA (BitVec.ofNat 4 k) + x)
    | none => a) a

/-- Restore the flagged registers to a level's entry values (R55, R58). -/
def Agent.rewind (a : Agent) (v : Level) : Agent :=
  (List.range 16).foldl (fun a k =>
    match Tab.get none v.stride k with
    | some _ => a.putA (BitVec.ofNat 4 k) (Tab.get 0 v.entry k)
    | none => a) a

/-- The cascade of R55 for a bundle at `b` whose fall-through is `next`: at most `f` levels. -/
def Agent.cascade (b : W64) : Nat → Agent → W64 → Agent
  | 0, a, next => { a with r := { a.r with pc := next } }
  | f + 1, a, next =>
    match a.innermost with
    | none => { a with r := { a.r with pc := next } }
    | some l =>
      let v := a.level l
      if b = v.last then
        let i := v.index + 1
        if i.toNat < v.count.toNat then
          let a := (a.setLevel l { v with index := i }).addStrides v
          { a with r := { a.r with pc := v.start } }
        else
          Agent.cascade b f ((a.rewind v).setLevel l { v with index := i, act := false }) next
      else { a with r := { a.r with pc := next } }

/-- Exit the active levels from the innermost out to `l` (R58). -/
def Agent.exitTo (l : Nat) : Nat → Agent → Agent
  | 0, a => a
  | f + 1, a =>
    match a.innermost with
    | none => a
    | some k => if l < k then a else Agent.exitTo l f ((a.rewind (a.level k)).setLevel k { a.level k with act := false })

/-! ## CSRs (R26, R27, R73) -/

/-- The partition that holds an agent's loom (R289). -/
def State.partOf (s : State) (n : Nat) : Option Nat :=
  (List.range 24).find? (fun p => (Tab.get Partition.reset s.parts p).looms.getLsbD (loomOf n))

/-- The access code of a CSR (R10–R12, R26). -/
inductive Access where
  | u
  | ur
  | s
deriving DecidableEq, Repr

/-- The access of a CSR for an agent, EVEN taken into account (R12). -/
def csrAccess (a : Agent) (c : BitVec 12) : Access :=
  let k := c.toNat
  if k = 0x003 ∨ k = 0x004 ∨ k = 0x006 ∨ (0x010 ≤ k ∧ k ≤ 0x017) then .u
  else if k < 0x100 then .ur
  else if 0x200 ≤ k ∧ k ≤ 0x20F then (if a.even.getLsbD 0 then .u else .s)
  else .s

/-- Whether an event source counts something that no rule fixes: cycles, stalls, bubbles (R374, R53; log 5). -/
def timedSource (x : W64) : Bool := x == 1 || x == 6 || x == 7 || x == 0xE

/-- The loom's sources of that kind: bank conflicts and TLB misses (R375; log 5). -/
def loomTimed (x : W64) : Bool := x == 1 || x == 7

/-- The value that CSRR returns (R26). The free part of CYCLE and of timed counts is a free value (log 5). -/
def State.csrValue (s : State) (n : Nat) (c : BitVec 12) : W64 :=
  let a := s.agent n
  let k := c.toNat
  if k = 0x000 then a.cause
  else if k = 0x001 then a.ckpc
  else if k = 0x002 then a.faddr
  else if k = 0x003 then a.r.ufvec
  else if k = 0x004 then a.r.uivec
  else if k = 0x005 then (if a.r.npf then 1 else 0)
  else if k = 0x006 then a.r.ithr
  else if k = 0x010 then a.r.seqlen
  else if k = 0x011 then a.r.kvbase
  else if k = 0x012 then a.r.kvslot
  else if k = 0x013 then a.r.kvtok
  else if k = 0x014 then a.r.kvlayer
  else if k = 0x015 then a.r.devthr
  else if k = 0x016 then a.r.docreg
  else if k = 0x017 then a.r.srseed
  else if k = 0x020 then BitVec.ofNat 64 (rankOf n)
  else if k = 0x021 then BitVec.ofNat 64 (loomOf n % 6)
  else if k = 0x022 then BitVec.ofNat 64 (dieOf n)
  else if k = 0x023 then a.cycle + Config.stallCycles s.freeCtr
  else if k = 0x030 then a.allow
  else if k = 0x031 then s.now
  else if 0x040 ≤ k ∧ k ≤ 0x045 then a.ratec.at (k - 0x040)
  else if k = 0x100 then a.svec
  else if k = 0x102 then a.skew
  else if k = 0x103 then (match s.partOf n with | some p => (Tab.get Partition.reset s.parts p).slice | none => 1000)
  else if k = 0x104 then a.lightWait
  else if k = 0x105 then a.even
  else if 0x140 ≤ k ∧ k ≤ 0x145 then s.rates.at (k - 0x140)
  else if 0x200 ≤ k ∧ k ≤ 0x207 then Tab.get 0 a.evsel (k - 0x200)
  else if 0x208 ≤ k ∧ k ≤ 0x20F then
    Tab.get 0 a.evcnt (k - 0x208) + (if timedSource (Tab.get 0 a.evsel (k - 0x208)) then Config.stallCycles s.freeCtr else 0)
  else if 0x210 ≤ k ∧ k ≤ 0x21F then Tab.get 0 a.levsel (k - 0x210)
  else if 0x220 ≤ k ∧ k ≤ 0x22F then
    Tab.get 0 a.levcnt (k - 0x220) +
      (if loomTimed (Tab.get 0 a.levsel (k - 0x220)) then Config.stallCycles s.freeCtr else 0)
  else 0

/-- A CSR write as it lands (R27, R73, R99, R295, R154, R373). A counter whose select is written keeps the free part that it has counted
(R373; log 5). Registers that the hardware alone writes ignore it, and so does SLICE where the agent's
loom lies in no partition (log 80). -/
def State.csrPut (s : State) (n : Nat) (c : BitVec 12) (v : W64) : State :=
  let a := s.agent n
  let k := c.toNat
  let up (r : Regs) : State := s.setAgent n { a with r := r }
  if k = 0x003 then up { a.r with ufvec := v }
  else if k = 0x004 then up { a.r with uivec := v }
  else if k = 0x005 then up { a.r with npf := v.getLsbD 0 }
  else if k = 0x006 then up { a.r with ithr := v }
  else if k = 0x010 then up { a.r with seqlen := v }
  else if k = 0x011 then up { a.r with kvbase := v }
  else if k = 0x012 then up { a.r with kvslot := v }
  else if k = 0x013 then up { a.r with kvtok := v }
  else if k = 0x014 then up { a.r with kvlayer := v }
  else if k = 0x015 then up { a.r with devthr := v }
  else if k = 0x016 then up { a.r with docreg := v }
  else if k = 0x017 then up { a.r with srseed := v, rsr := 0 }
  else if k = 0x100 then s.setAgent n { a with svec := v }
  else if k = 0x102 then s.setAgent n { a with skew := v &&& 7 }
  else if k = 0x103 then
    match s.partOf n with
    | some p => { s with parts := Tab.modify Partition.reset s.parts p (fun x => { x with slice := v }) }
    | none => s
  else if k = 0x104 then s.setAgent n { a with lightWait := v }
  else if k = 0x105 then s.setAgent n { a with even := v }
  else if 0x140 ≤ k ∧ k ≤ 0x145 then { s with rates := s.rates.put (k - 0x140) v }
  else if 0x200 ≤ k ∧ k ≤ 0x207 then
    let i := k - 0x200
    { s.setAgent n { a with
        evsel := Tab.set 0 a.evsel i (v &&& 0xFF)
        evcnt := if timedSource (Tab.get 0 a.evsel i) then Tab.modify 0 a.evcnt i (· + Config.stallCycles s.freeCtr) else a.evcnt } with
      freeCtr := s.freeCtr + 1 }
  else if 0x208 ≤ k ∧ k ≤ 0x20F then s.setAgent n { a with evcnt := Tab.set 0 a.evcnt (k - 0x208) v }
  else if 0x210 ≤ k ∧ k ≤ 0x21F then
    let i := k - 0x210
    { s.setAgent n { a with
        levsel := Tab.set 0 a.levsel i (v &&& 0xFF)
        levcnt := if loomTimed (Tab.get 0 a.levsel i) then Tab.modify 0 a.levcnt i (· + Config.stallCycles s.freeCtr) else a.levcnt } with
      freeCtr := s.freeCtr + 1 }
  else if 0x220 ≤ k ∧ k ≤ 0x22F then s.setAgent n { a with levcnt := Tab.set 0 a.levcnt (k - 0x220) v }
  else s

/-- Count `k` occurrences of a core event source (R374). -/
def Agent.event (a : Agent) (src : Nat) (k : Nat) : Agent :=
  let on := a.evsel.filter (fun x => x.2.toNat == src && decide (x.1 < 8))
  { a with evcnt := on.foldl (fun t x => Tab.modify 0 t x.1 (· + BitVec.ofNat 64 k)) a.evcnt }

/-- Count a loom event source (R375). -/
def Agent.loomEvent (a : Agent) (src : Nat) (k : Nat) : Agent :=
  let on := a.levsel.filter (fun x => x.2.toNat == src && decide (x.1 < 16))
  { a with levcnt := on.foldl (fun t x => Tab.modify 0 t x.1 (· + BitVec.ofNat 64 k)) a.levcnt }

/-! ## Accumulator rows (R126–R129) -/

/-- Row number of row `r` of tile `t`. -/
def rowNum (t : BitVec 4) (r : Nat) : Nat := 128 * t.toNat + r

/-- Row `k` of the accumulator store of agent `n`. -/
def State.accRow (s : State) (n k : Nat) : Vec := BitVec.ofNat 4096 (s.mem.num (accAddr n (512 * k)) 512)

/-- A saved copy is poisoned where the line that it is taken from is: `at0` is the storage address, `l` the number of the copy's line
(R313, R314). -/
def State.copyPoison (s : State) (at0 l : Nat) (t : Tab Bool) : Tab Bool :=
  if (poisonedAt s at0 64).isSome then Tab.set false t l true else t

/-- Write a row: the first landing of an interval saves the row in its shadow bank (R128). -/
def State.putRow (s : State) (n k : Nat) (x : Vec) : State :=
  let a := s.agent n
  let s := s.setAgent n (match Tab.get none a.touched k with
    | some _ => a
    | none => { a with
      touched := Tab.set none a.touched k (some (s.accRow n k))
      shadowBad := (List.range 8).foldl (fun t i => s.copyPoison (accAddr n (512 * k + 64 * i)) (8 * k + i) t) a.shadowBad })
  s.put (accAddr n (512 * k)) (bytesOf x 512)

/-! ## Landings (R47–R49, R85, R123, R124) -/

/-- Replace the lanes whose bits `m` marks (R165). -/
def blend (old m x : Vec) : Vec := (old &&& ~~~m) ||| (x &&& m)

/-- A result lands. -/
def State.land (s : State) (n : Nat) (x : Res) : State :=
  let a := s.agent n
  match x with
  | .s d v => s.setAgent n (a.putS d v)
  | .a d v => s.setAgent n (a.putA d v)
  | .v d m v => s.setAgent n { a with r := { a.r with v := Tab.set 0 a.r.v d.toNat (blend (a.getV d) m v) } }
  | .p d v => s.setAgent n { a with r := { a.r with p := Tab.set 0 a.r.p d.toNat v } }
  | .i d v => s.setAgent n { a with r := { a.r with i := Tab.set 0 a.r.i d.toNat v } }
  | .npf => s.setAgent n { a with r := { a.r with npf := true } }
  | .csr c v => s.csrPut n c v
  | .shape slot h f v => s.setAgent n (a.putShape slot h f v)
  | .fmt fam v =>
    let r := match fam.toNat with
      | 0 => { a.r with ma := v }
      | 1 => { a.r with mb := v }
      | 2 => { a.r with aout := v }
      | 3 => { a.r with vin := v }
      | 4 => { a.r with vout := v }
      | _ => { a.r with rnd := v }
    s.setAgent n { a with r := r }
  | .push q v => s.setAgent n (a.landEntry q v)
  | .row t r v => s.putRow n (rowNum t r.toNat) v

/-- The flight that lands next: the earliest due, the earliest issued among equals (R49). -/
def nextFlight : List Flight → Option Flight
  | [] => none
  | f :: fs =>
    match nextFlight fs with
    | none => some f
    | some g => if g.due < f.due then some g else some f

/-- Add a result in flight `lat` issue cycles after the bundle of issue cycle `c` (R47, R48). -/
def Agent.fly (a : Agent) (c lat : Nat) (x : Res) : Agent := { a with flight := a.flight ++ [{ due := c + lat, res := x }] }

/-- Land the address-register writes that the issuing bundle made: the step of R55 acts on their result. -/
def Agent.landA (a : Agent) : Agent :=
  let a' := a.flight.foldl (fun a f => match f.res with | .a d v => a.putA d v | _ => a) a
  { a' with flight := a'.flight.filter (fun f => match f.res with | .a _ _ => false | _ => true) }

/-- The lines of a near access. -/
def nearLines (off len : Nat) : List Nat := (List.range (len / 64)).map (fun i => off / 64 + i)

/-- A near store lands: each line that the journal does not hold is saved first (R124). -/
def State.landNear (s : State) (n : Nat) (x : NearStore) : State :=
  let a := s.agent n
  let j := (nearLines x.off x.len).foldl (fun t l =>
    match Tab.get none t l with
    | some _ => t
    | none => Tab.set none t l (some (BitVec.ofNat 512 (s.mem.num (nearAddr n (64 * l)) 64)))) a.journal
  let fresh := (nearLines x.off x.len).filter (fun l => (Tab.get none a.journal l).isNone)
  let bad := fresh.foldl (fun t l => s.copyPoison (nearAddr n (64 * l)) l t) a.journalBad
  (s.setAgent n { a with journal := j, journalBad := bad }).put (nearAddr n x.off) (bytesOf x.data x.len)

/-! ## Weight planes (R187, R192, R199) -/

/-- Plane row `r` of frame `f`: bytes 2r and 2r + 1 of each column group (R190). -/
def State.frameRow (s : State) (n f r : Nat) : BitVec 2048 :=
  BitVec.ofNat 2048 (packBits 16 ((List.range 128).map (fun j => s.mem.num (canopyAddr n (32768 * f + 256 * j + 2 * r)) 2)))

/-- A plane loaded from frame `f`. -/
def State.frame (s : State) (n f : Nat) : Tab (BitVec 2048) :=
  (List.range 128).foldl (fun t r => Tab.set 0 t r (s.frameRow n f r)) []

/-- A plane read from a frame under the poison rule: zero and 0x11 when it meets poison (R314). -/
def State.frameOr (s : State) (n f : Nat) : Tab (BitVec 2048) × Byte :=
  if (poisonedAt s (canopyAddr n (32768 * f)) 32768).isSome then ([], 0x11) else (s.frame n f, 0)

/-- An agent with the rows and the PFAULT of a landed plane load (R192). -/
def Agent.loadPlane (a : Agent) (x : PlaneLoad) (y : Tab (BitVec 2048) × Byte) : Agent :=
  let fr : BitVec 9 := 1#1 ++ x.frame
  if x.plane = 0 then { a with plane0 := y.1, r := { a.r with frame0 := fr, pfault0 := y.2 } }
  else { a with plane1 := y.1, r := { a.r with frame1 := fr, pfault1 := y.2 } }

/-- MLDBL's exchange of the planes, as its load lands (R192). -/
def Agent.swapPlanes (a : Agent) (x : PlaneLoad) : Agent :=
  if x.swap then { a with r := { a.r with active := x.plane, kc := 0 } } else a

/-- A plane load lands (R192). -/
def State.landPlane (s : State) (n : Nat) (x : PlaneLoad) : State :=
  s.setAgent n (((s.agent n).loadPlane x (s.frameOr n x.frame.toNat)).swapPlanes x)

/-- Reload one plane after a restore (R199): with its PFAULT. -/
def State.reload (s : State) (n : Nat) (w : Who) (fr : BitVec 9) : Tab (BitVec 2048) × Byte :=
  if fr.getLsbD 8 then
    let f := (fr.setWidth 8).toNat
    match s.rentCheck n w false false 2 n (32768 * f) 32768 with
    | some (c, _) => ([], c)
    | none => s.frameOr n f
  else ([], 0)

/-! ## The restore (R261–R263, R65, R89, R107, R199) -/

/-- The agents that share an agent's bundle stream: the twelve ranks of a ganged loom, else itself (R61). -/
def State.members (s : State) (n : Nat) : List Nat :=
  match (s.agent n).task with
  | some t => if t.kind = 1 then (List.range 12).map (fun k => 12 * loomOf n + k) else [n]
  | none => [n]

/-- The registers that a light checkpoint declares dead read zero and their queues are empty (R65). -/
def Regs.dead (r : Regs) : Regs := { r with v := [], p := [], i := [], q := [] }

/-- Pending notes after a restore (R262): those since, else those pending at the restore point. -/
def mergeNotes (old new : Tab (Option Note)) : Tab (Option Note) :=
  (List.range 7).foldl (fun t c =>
    match Tab.get none new c with
    | some x => Tab.set none t c (some x)
    | none => t) old

/-- The queues after a restore: the saved entries, then those that released commands have delivered since (R89). -/
def restoreQueues (q : Tab (List Vec)) (arrived : List (BitVec 4 × Vec)) : Tab (List Vec) :=
  arrived.foldl (fun t x => Tab.modify [] t x.1.toNat (· ++ [x.2])) q

/-- Revert the journalled near lines (R124, R125). -/
def State.revertNear (s : State) (n : Nat) (j : Tab (Option (BitVec 512))) : State :=
  j.foldl (fun s x => match x.2 with
    | some line => s.store (nearAddr n (64 * x.1)) (bytesOf line 64)
    | none => s) s

/-- Revert the touched rows (R128, R129). -/
def State.revertRows (s : State) (n : Nat) (t : Tab (Option Vec)) : State :=
  t.foldl (fun s x => match x.2 with
    | some row => s.store (accAddr n (512 * x.1)) (bytesOf row 512)
    | none => s) s

/-- The poison of lines whose saved copies have been written back: that of the copy (R313, R314). -/
def repoison (t : Tab Bool) (base : Nat) (bad : Tab Bool) (ls : List Nat) : Tab Bool :=
  ls.foldl (fun t l => Tab.set false t (base / 64 + l) (Tab.get false bad l)) t

/-- The reverted lines and rows are as sound as their copies were (R314). -/
def State.revertPoison (s : State) (n : Nat) (a : Agent) : State :=
  let t := repoison s.poison (nearAddr n 0) a.journalBad (a.journal.map (·.1))
  { s with poison := repoison t (accAddr n 0) a.shadowBad (a.touched.flatMap (fun x => (List.range 8).map (fun i => 8 * x.1 + i))) }

/-- Far loads of agent `n` in the machine are dropped on arrival (R263). -/
def State.dropLoads (s : State) (n : Nat) : State :=
  { s with
    transit := s.transit.map (fun t => if t.agent = n then
      { t with load := match t.load with | .read x => .read { x with dropped := true } | c => c } else t)
    arrivals := s.arrivals.map (fun t => if t.agent = n && !t.owed then { t with dropped := true } else t) }

/-- A withheld WCREAD that a restore discards holds its pitch no more: it leaves as a dropped entry (R109, R261 step 4). -/
def State.dropReads (s : State) (n : Nat) (w : Who) (wb : List Cmd) : State :=
  { s with arrivals := s.arrivals ++ wb.filterMap (fun c => match c with
      | .wcRead _ q ks _ =>
        some { agent := n, owner := w, q := q, entry := 0, pitches := ks, owed := false, dropped := true, trap := none }
      | _ => none) }

/-- The registers that a restore of agent `a` brings back (R261 steps 5 and 7, R89, R65, R237, R262). -/
def Agent.savedRegs (a : Agent) : Regs :=
  let d := if a.dupLight then a.dup.dead else a.dup
  { d with q := restoreQueues d.q a.arrived, notes := mergeNotes d.notes a.r.notes, latch := d.latch || a.evSince }

/-- Everything of an interval that lives in the agent itself is gone (R261 steps 2, 4, 8). -/
def Agent.clearInterval (a : Agent) : Agent :=
  { a with
    flight := [], nsq := [], planeLoads := [], blocks := [], wb := [], journal := [], touched := []
    journalBad := [], shadowBad := [], counted := [], bundles := 0, hbundles := 0, stores := 0, cmds := 0
    resv := [], wait := .none, mdrain := .none, stall := .none, board := .none, woken := false, mode := .task
    flq := a.flq.map (fun x => { x with dropped := true }) }

/-- Restore one agent to its last checkpoint (R261 steps 1 to 8, without CAUSE and FADDR). -/
def State.restore (s : State) (n : Nat) : State :=
  let a := s.agent n
  let w := a.who
  let s := ((s.revertNear n a.journal).revertRows n a.touched).revertPoison n a
  let s := ((s.cancelAll a.wb).dropLoads n).dropReads n w a.wb
  let r := a.savedRegs
  let (p0, f0) := s.reload n w r.frame0
  let (p1, f1) := s.reload n w r.frame1
  s.setAgent n ({ a.clearInterval with
    r := { r with pfault0 := f0, pfault1 := f1 }, plane0 := p0, plane1 := p1 }.event 0x05 1)

/-! ## Ending a task (R46, R74, R111, R268, R288) -/

/-- The stride of an account (R289). -/
def Account.stride (c : Account) : Nat := 2 ^ 20 / max 1 c.weight.toNat

/-- The pass of a loom task's account advances for the ticks that the task has held its loom (R290). A conductor's tiles have no part in
fair share; a pass is a 64-bit register, and its advance wraps (log 86). -/
def State.advancePass (s : State) (t : TaskSet) (x : LoomTask) : State :=
  match t.source with
  | .conductor _ _ _ => s
  | _ =>
    let inc := (s.account x.task.account).stride * max 1 x.held / max 1 x.slice
    { s with passes := Tab.modify 0 s.passes (1024 * t.part.toNat + x.task.account.toNat) (· + BitVec.ofNat 64 inc) }

/-- Whether a loom task has a loom: it is placed or runs. -/
def LoomTask.holds (x : LoomTask) : Bool :=
  match x.stat with
  | .placed => true
  | .running => true
  | _ => false

/-- Whether a set is a tile of the conductor that is loom task `j` of set `ts`. -/
def TaskSet.tileOf (ts j : Nat) (t : TaskSet) : Bool :=
  match t.source with
  | .conductor _ p i => p == ts && i == j
  | _ => false

/-- Whether a tile of loom task `j` of set `ts` holds a core. -/
def State.tilesHold (s : State) (ts j : Nat) : Bool :=
  s.tasksets.any (fun e => match e.2 with
    | some t => t.tileOf ts j && t.tasks.any LoomTask.holds
    | none => false)

/-- Whether a loom task holds its loom, itself or through a tile: a conductor's tiles are agents of its loom task (R291). -/
def State.loomHeld (s : State) (ts j : Nat) (x : LoomTask) : Bool := x.holds || s.tilesHold ts j

/-- The loom task whose loom a loom task stands on: a tile's is its conductor's (R291, R296). -/
def State.bearer (s : State) (ts j : Nat) : Nat × Nat :=
  match Tab.get none s.tasksets ts with
  | some t => (match t.source with
    | .conductor _ p i => if (Tab.get none s.tasksets p).isSome then (p, i) else (ts, j)
    | _ => (ts, j))
  | none => (ts, j)

/-- A loom task has left its loom: once no agent of it holds the loom any more, the pass of its account advances (R290, R291). -/
def State.settlePass (s : State) (ts j : Nat) : State :=
  let b := s.bearer ts j
  match Tab.get none s.tasksets b.1 with
  | none => s
  | some t =>
    match t.tasks[b.2]? with
    | none => s
    | some x =>
      if x.due && !s.loomHeld b.1 b.2 x then
        { s.advancePass t x with
          tasksets := Tab.set none s.tasksets b.1 (some { t with tasks := t.tasks.set b.2 { x with due := false, held := 0 } }) }
      else s

/-- Mark a loom task ended with a completion code; the task set keeps the highest code (R288), and its account's pass advances
(R290). -/
def State.markEnded (s : State) (w : Who) (code : Byte) (cause : W64) : State :=
  match Tab.get none s.tasksets w.ts with
  | none => s
  | some t =>
    match t.tasks[w.j]? with
    | none => s
    | some x =>
      if x.stat = .ended then s
      else
        let higher := decide (t.code.toNat < code.toNat)
        let u := { t with
          code := if higher then code else t.code
          cause := if higher then cause else t.cause
          tasks := t.tasks.set w.j { x with stat := .ended } }
        State.settlePass { s with tasksets := Tab.set none s.tasksets w.ts (some u) } w.ts w.j

/-- The agent's task ends: its core pitches are vacated and the agent is free (R111). -/
def State.endAgent (s : State) (n : Nat) (code : Byte) : State :=
  let a := s.agent n
  match a.task with
  | none => s
  | some _ =>
    let s := (s.markEnded a.who code a.cause).vacateCore n a.who
    s.setAgent n { s.agent n with task := none, mode := .task, wait := .none, stop := StopReq.none }

/-- What is withheld, journalled or shadowed is discarded as by a restore; the registers stay as they stand (R74). -/
def State.discard (s : State) (n : Nat) : State :=
  let t := s.restore n
  t.setAgent n { t.agent n with r := (s.agent n).r }

/-- HALT: every rank discards its interval, and the task ends FAULTED (R74). -/
def State.haltTask (s : State) (n : Nat) : State :=
  let ms := s.members n
  let s := ms.foldl State.discard s
  ms.foldl (fun s m => s.endAgent m 0x03) s

/-! ## Taking an exception (R63, R259–R270) -/

/-- What a trap reports: cause, slot, imm16, fault address (R259, R260). -/
structure Trap where
  cause : Byte
  slot : Nat
  imm : BitVec 16
  faddr : W64
deriving DecidableEq, Repr

/-- The CAUSE word (R259). -/
def causeWord (rank : Nat) (imm : BitVec 16) (light hnd : Bool) (slot : Nat) (code : Byte) : W64 :=
  (0#28 ++ BitVec.ofNat 4 rank) ++ imm ++ (0#3 ++ BitVec.ofBool light ++ BitVec.ofBool hnd ++ BitVec.ofNat 3 slot) ++ code

/-- Causes delivered to the user (R260). -/
def userCause (c : Byte) : Bool :=
  c == 0x03 || c == 0x04 || c == 0x08 || c == 0x09 || c == 0x0A || c == 0x0D || c == 0x12 || c == 0x13 || c == 0x14 || c == 0x15

/-- Stop the task of a double trap (R268). -/
def State.doubleTrap (s : State) (n : Nat) : State := s.haltTask n

/-- Supervisor entry at `vec` on one agent (R267); the caller has seen that it is valid. -/
def Agent.enterSuper (vec : W64) (a : Agent) : Agent :=
  { a with
    mode := .super
    super := { a.super with
      s := Tab.set 0 (Tab.set 0 (Tab.set 0 (Tab.set 0 a.super.s 24 a.cause) 25 a.faddr) 26 a.ckpc) 31 a.r.pc }
    resume := a.r.pc
    r := { a.r with pc := vec } }

/-- User fault handler entry at `vec` on one agent (R265). -/
def Agent.enterFault (vec : W64) (a : Agent) : Agent :=
  { a with
    mode := .userFault
    hbundles := 0
    shadow := { a.shadow with
      s := Tab.set 0 (Tab.set 0 (Tab.set 0 (Tab.set 0 a.shadow.s 24 a.cause) 25 a.faddr) 26 a.ckpc) 31 a.r.pc }
    resume := a.r.pc
    r := { a.r with pc := vec } }.event 0x10 1

/-- Write CAUSE and FADDR (R261 step 8). -/
def Agent.putCause (a : Agent) (c f : W64) : Agent := { a with cause := c, faddr := f }

/-- The rank that CAUSE names: 0 in a solo task and in a loom controller (R259). -/
def State.causeRank (s : State) (n : Nat) : Nat := if (s.members n).length = 1 then 0 else rankOf n

/-- The rank whose PC governs an agent's stream: rank 0 of a gang, else the agent itself (R61). -/
def State.lead (s : State) (n : Nat) : Nat := (s.members n).headD n

/-- Whether a handler address cannot be entered: its low bits are set. -/
def askew (t : W64) : Bool := decide (t &&& 31 ≠ 0)

/-- Whether SVEC stops an entry: it is 0 or its low bits are set (R268). -/
def Agent.badSvec (a : Agent) : Bool := decide (a.svec = 0) || askew a.svec

/-- Deliver to the supervisor on every member: all enter at rank 0's SVEC (R63), and a bad SVEC on any rank is a double trap (R267,
R268; log 57). -/
def State.deliverSuper (s : State) (n : Nat) (ms : List Nat) : State :=
  if ms.any (fun m => (s.agent m).badSvec) then s.doubleTrap n
  else
    let vec := (s.agent (s.lead n)).svec
    ms.foldl (fun s m => s.setAgent m ((s.agent m).enterSuper vec)) s

/-- Taking an exception, the one shared operation: restore every rank to its last checkpoint, write CAUSE and FADDR, and deliver
(R261, R63, R260, R265–R268). `entry` marks a trap met at a handler's entry (R68). Rank 0's UFVEC decides for a gang (log 57). -/
def State.takeTrap (s : State) (n : Nat) (t : Trap) (entry : Bool) : State :=
  let ms := s.members n
  let mode := (s.agent n).mode
  let hnd := entry || decide (mode ≠ .task)
  let light := (s.agent n).dupLight
  let c := causeWord (s.causeRank n) t.imm light hnd t.slot t.cause
  if mode = .super then
    -- a trap inside the supervisor handler (R268)
    let s := ms.foldl (fun s m => s.setAgent m ((s.agent m).putCause c t.faddr)) s
    s.doubleTrap n
  else
    let s := ms.foldl State.restore s
    let s := ms.foldl (fun s m => s.setAgent m ((s.agent m).putCause c t.faddr)) s
    let uf := (s.agent (s.lead n)).r.ufvec
    if userCause t.cause && !hnd && decide (uf ≠ 0) then
      match ms.find? (fun m => askew (s.agent m).r.ufvec) with
      | none => ms.foldl (fun s m => s.setAgent m ((s.agent m).enterFault uf)) s
      | some m =>
        -- entry fails with the alignment cause (R265)
        let c := causeWord (s.causeRank n) 0 light true 0 0x0D
        let bad := (s.agent m).r.ufvec
        let s := ms.foldl (fun s m => s.setAgent m ((s.agent m).putCause c bad)) s
        s.deliverSuper n ms
    else s.deliverSuper n ms

/-- Results in flight land, in the order of their issue cycles, those of one cycle in issue order (R50). -/
def State.drainFlights (s : State) (n : Nat) : Nat → State
  | 0 => s
  | k + 1 =>
    match nextFlight (s.agent n).flight with
    | none => s
    | some f =>
      let a := s.agent n
      ((s.setAgent n { a with flight := a.flight.erase f }).land n f.res).drainFlights n k

/-- Every result in flight of an agent lands (R50). -/
def State.drain (s : State) (n : Nat) : State := s.drainFlights n (s.agent n).flight.length

/-- A jump to 0 by the bundle at `pc` ends the task with an implicit full checkpoint (R46). -/
def Agent.beginEnd (a : Agent) (pc : W64) : Agent := { a with wait := .ckpt false true pc }

/-- The task resumes at `t` after a handler's return; at 0 it ends (R69, R265, R269). -/
def Agent.resumeAt (a : Agent) (t : W64) : Agent :=
  let b := { a with r := { a.r with pc := t } }
  if t = 0 then b.beginEnd a.r.pc else b

/-- The return from the supervisor handler on one agent: the task's bank is back, the view is user (R269). -/
def Agent.leaveSuper (t : W64) (a : Agent) : Agent := { a with mode := .task, wait := .none }.resumeAt t

/-- The return from a user handler on one agent (R69, R265). -/
def Agent.leaveUser (t : W64) (a : Agent) : Agent := { a with mode := .task, wait := .none, hbundles := 0 }.resumeAt t

/-- The return from a user handler on every rank, after the drain; the PC that rank 0 resumes at governs (R61, R69, R265). -/
def State.userReturn (s : State) (n : Nat) : State :=
  let ms := s.members n
  let s := ms.foldl State.drain s
  let t := (s.agent (s.lead n)).resume
  ms.foldl (fun s m => s.setAgent m ((s.agent m).leaveUser t)) s

/-- The return from the supervisor handler on every rank, after the drain (R269, R270). -/
def State.superReturn (s : State) (n : Nat) : State :=
  let ms := s.members n
  let s := ms.foldl State.drain s
  let code := (s.agent n).cause.setWidth 8
  if code = 0x06#8 ∨ code = 0x07#8 ∨ code = 0x16#8 then s.haltTask n
  else
    let t := (s.agent (s.lead n)).resume
    if askew t then s.doubleTrap n else ms.foldl (fun s m => s.setAgent m ((s.agent m).leaveSuper t)) s

/-- The return that agent `n` or its gang waits for, once no slot-7 stall of its bundle is left (R50, R69, R269). -/
def State.finishReturn (s : State) (n : Nat) : State :=
  if (s.members n).all (fun m => decide ((s.agent m).stall = .none)) then
    match (s.agent n).wait with
    | .uiret => s.userReturn n
    | .eret => s.superReturn n
    | _ => s
  else s

/-- UIRET or ERET has issued on every rank: `w` is its wait (R50, R69, R269). -/
def State.beginReturn (w : Wait) (s : State) (n : Nat) : State :=
  ((s.members n).foldl (fun s m => s.setAgent m { s.agent m with wait := w }) s).finishReturn n

end Sys2Proof.Machine
end

