-- ==== Sys2Proof/Machine/Operands.lean ====
section
/-!
DEFINITION. The operand forms of the slot words: queue operands, vector sources and destinations, near, accumulator and
canopy addresses, immediates (01 R22, R41, 05 R122, R131–R134, 07 R164–R165, 08 R192).
-/

namespace Sys2Proof.Machine

/-- A queue operand: which queue, and whether it is only peeked at (R41). -/
structure QOp where
  q : BitVec 4
  peek : Bool
deriving DecidableEq, Repr

/-- The entries that operands in field order take, and the agent after their pops (R41). -/
def Agent.takeOps (a : Agent) : List QOp → List Vec × Agent
  | [] => ([], a)
  | o :: t =>
    let x := (a.queue o.q).headD 0
    let r := (if o.peek then a else a.pop o.q).takeOps t
    (x :: r.1, r.2)

/-- The first queue that an operand list finds empty (R41, R86). -/
def Agent.emptyOp (a : Agent) : List QOp → Option (BitVec 4)
  | [] => none
  | o :: t => if a.queue o.q = [] then some o.q else (if o.peek then a else a.pop o.q).emptyOp t

/-- The head entry that a single queue operand reads. -/
def Agent.head (a : Agent) (q : BitVec 4) : Vec := (a.queue q).headD 0

/-- The low four bits of a 5-bit field that names one of sixteen registers (R23). -/
def low4 (f : BitVec 5) : BitVec 4 := f.setWidth 4

/-- A source mode that names a queue (R22). -/
def modeOps (m : BitVec 2) (f : BitVec 5) : List QOp :=
  if m = 1 then [⟨low4 f, false⟩] else if m = 2 then [⟨low4 f, true⟩] else []

/-- A value broadcast into all 128 lanes (R164). -/
def broadcast (x : W32) : Vec := mkVec (fun _ => x)

/-- The value of a vector source, and the agent after its pop (R164). -/
def Agent.source (a : Agent) (m : BitVec 2) (f : BitVec 5) : Vec × Agent :=
  match m.toNat with
  | 0 => (a.getV f, a)
  | 1 => (a.head (low4 f), a.pop (low4 f))
  | 2 => (a.head (low4 f), a)
  | _ => (broadcast ((a.getS f).setWidth 32), a)

/-- Both sources of a vector word, va before vb (R41). -/
def Agent.sources (a : Agent) (ma : BitVec 2) (va : BitVec 5) (mb : BitVec 2) (vb : BitVec 5) : Vec × Vec :=
  let x := a.source ma va
  (x.1, (x.2.source mb vb).1)

/-- A mask of whole lanes from a predicate. -/
def laneMask (p : Pred) : Vec := mkVec (fun l => if p.getLsbD l then BitVec.allOnes 32 else 0)

/-! ## Near addresses (R122, R131) -/

/-- Byte offset of a near access. -/
def nearOff (base : W64) (off : W64) : W64 := base + 64 * off

/-- The checks of R122: alignment, range, rent. -/
def nearCheck (s : State) (n : Nat) (wr : Bool) (e : W64) (len : Nat) : Option (Byte × W64) :=
  if e &&& 63 ≠ 0 then some (0x0D, e)
  else if 0x200000 - len < e.toNat then some (0x0A, BitVec.ofNat 64 (max e.toNat 0x200000))
  else (s.rentCheck n (s.agent n).who wr false 1 n e.toNat len).map (fun r => (r.1, BitVec.ofNat 64 r.2))

/-- The lines of a near store that the interval has not counted yet (R132). -/
def newLines (a : Agent) (off len : Nat) : List Nat := (nearLines off len).filter (fun l => !a.counted.contains l)

/-- Near poison met by a load (R314). -/
def nearPoison (s : State) (n off len : Nat) : Option (Byte × W64) :=
  (poisonedAt s (nearAddr n off) len).map (fun p => (0x11, BitVec.ofNat 64 (p - nearAddr n 0)))

/-! ## Accumulator rows (R133, R134) -/

/-- The row index of a slot-4 word. -/
def rowIndex (a : Agent) (ar : BitVec 4) (row : BitVec 7) : W64 := a.getA ar + row.setWidth 64

/-- The checks of R137 before the queue checks: row index, then rent over `rows` rows from `first`. -/
def rowCheck (s : State) (n : Nat) (wr : Bool) (t : BitVec 4) (e : W64) (first rows : Nat) : Option (Byte × W64) :=
  if 127 < e.toNat then some (0x0A, BitVec.ofNat 64 ((t.toNat + 1) * 65536))
  else (s.rentCheck n (s.agent n).who wr false 0 n (t.toNat * 65536 + first * 512) (rows * 512)).map
    (fun r => (r.1, BitVec.ofNat 64 r.2))

/-- Accumulator poison met by a read (R314). -/
def rowPoison (s : State) (n k rows : Nat) : Option (Byte × W64) :=
  (poisonedAt s (accAddr n (512 * k)) (512 * rows)).map (fun p => (0x11, BitVec.ofNat 64 (p - accAddr n 0)))

/-! ## Canopy frames (R192) -/

/-- The checks of MLDB and MLDBL. -/
def frameCheck (s : State) (n : Nat) (e : W64) : Option (Byte × W64) :=
  if e.toNat % 32768 ≠ 0 then some (0x0D, e)
  else if 0x5F8000 < e.toNat then some (0x0A, BitVec.ofNat 64 (max e.toNat 0x600000))
  else (s.rentCheck n (s.agent n).who false false 2 n e.toNat 32768).map (fun r => (r.1, BitVec.ofNat 64 r.2))

/-! ## Formats at issue (R154, R161) -/

/-- The rank that R154 mixes in: RANK in a ganged task, 0 in a solo one. -/
def rsrRank (s : State) (n : Nat) : Nat := if (s.members n).length = 1 then 0 else rankOf n

/-- Whether an RND value draws random bits. -/
def drawsBits (rnd : Byte) : Bool := decide (rnd.toNat % 8 = 4)

end Sys2Proof.Machine
end

