-- ==== Sys2Proof/Machine/Array.lean ====
section
/-!
DEFINITION. The arithmetic of the matrix array: operand pairs, K blocks, their rounding and scaling, and the blocks that stand
at the partial-sum port (05 R136, 06 R157, 08 R189–R197).
-/

namespace Sys2Proof.Machine

/-- (Kp, u) of an operand pair (R189). -/
def pairOf (ma mb : Byte) : Option (Nat × Nat) :=
  if ma = 0x01 ∧ mb = 0x01 then some (1, 1)
  else if isBinary8 ma ∧ isBinary8 mb then some (2, 1)
  else if ma = 0x30 ∧ mb = 0x30 then some (4, 1)
  else if ma = 0x31 ∧ isBinary8 mb then some (4, 2)
  else none

/-- Element `j` of packed elements of `w` bits (R140). -/
def element {n : Nat} (x : BitVec n) (w j : Nat) : Nat := (x.extractLsb' (w * j) w).toNat

/-- The rows of a weight plane. -/
def Agent.plane (a : Agent) (p : BitVec 1) : Tab (BitVec 2048) := if p = 0 then a.plane0 else a.plane1

/-- FRAME and PFAULT of a plane. -/
def Agent.frameReg (a : Agent) (p : BitVec 1) : BitVec 9 := if p = 0 then a.r.frame0 else a.r.frame1
def Agent.pfault (a : Agent) (p : BitVec 1) : Byte := if p = 0 then a.r.pfault0 else a.r.pfault1

/-- The 2u bytes of column `j` of plane rows `kc` to `kc + u − 1`, taken modulo 128 (R190). -/
def columnBytes (pl : Tab (BitVec 2048)) (kc u j : Nat) : BitVec 32 :=
  let row (r : Nat) : BitVec 16 := (Tab.get 0 pl (r % 128)).extractLsb' (16 * j) 16
  (if u = 2 then row (kc + 1) else 0) ++ row kc

/-- The exact sum of the products of one K block for row `i`, column `j` (R157 steps 1 and 2, R190). -/
def blockSum (ma mb : Byte) (kp : Nat) (x : Vec) (col : BitVec 32) (i : Nat) : Num :=
  (List.range kp).foldl (fun acc k =>
    numAdd acc (numMul (fmtNum ma (element x (fmtBits ma) (k * 128 + i))) (fmtNum mb (element col (fmtBits mb) k))))
    (.fin false 0 0)

/-- One rounding to an FP32 partial (R157 step 3). -/
def partialOf (rnd : Byte) (x : Num) : W32 :=
  match x with
  | .nan => f32NaN
  | .inf a => f32Inf a
  | .fin a m e => if m = 0 then 0 else BitVec.ofNat 32 (toFmt 0x00 .rne (rndSat rnd) (.fin a m e))

/-- The partials of an MMA: `rows` rows of 128 (R194). -/
def blockRows (a : Agent) (kp u : Nat) (x : Vec) (rows : Nat) : List Vec :=
  let pl := a.plane a.r.active
  (List.range rows).map (fun i => mkVec (fun j =>
    partialOf a.r.rnd (blockSum a.r.ma a.r.mb kp x (columnBytes pl a.r.kc.toNat u j) i)))

/-- Whether a tile's busy bit is set (R196): some block on it has not been added. -/
def Agent.busy (a : Agent) (t : BitVec 4) : Bool := a.blocks.any (fun b => b.tile == t)

/-- The block at tile `t`'s partial-sum port in issue cycle `c` (R136). -/
def portBlock (a : Agent) (t : BitVec 4) (c : Nat) : Option Block := a.blocks.find? (fun b => b.tile == t && b.port == c)

/-- A partial scaled by ASCL (R136). -/
def scaled (ea eb : Byte) (x : W32) : W32 :=
  if ea = 0xFF || eb = 0xFF then f32NaN
  else
    match f32Num x with
    | .nan => f32NaN
    | .inf a => f32Inf a
    | .fin a m e => numF32 .rne (.fin a m (e + ea.toNat + eb.toNat - 254))

/-- A block scaled by the codes of entry `x` (R136). -/
def Block.scale (b : Block) (x : Vec) : Block :=
  { b with rows := b.rows.mapIdx (fun i r => mkVec (fun j => scaled (byteAt x i) (byteAt x (128 + j)) (lane r j))) }

/-- A sum is written into a row. What stood in a poisoned line of it is not known, and neither is the sum: the line stays poisoned (R313,
log 78). -/
def State.sumRow (s : State) (n k : Nat) (x : Vec) : State :=
  let bad := ((List.range 8).map (fun i => accAddr n (512 * k) / 64 + i)).filter (fun l => Tab.get false s.poison l)
  let t := s.putRow n k x
  { t with poison := bad.foldl (fun p l => Tab.set false p l true) t.poison }

/-- A block is added into its rows, or written by MMAZ (R194, R157 step 5). -/
def State.addBlock (s : State) (n : Nat) (b : Block) : State :=
  b.rows.zipIdx.foldl (fun s ri =>
    let k := rowNum b.tile ri.2
    let old := s.accRow n k
    if b.zero then s.putRow n k ri.1 else s.sumRow n k (mkVec (fun j => f32Add (lane old j) (lane ri.1 j)))) s

/-- The checks of MMA and MMAZ before the queue checks (R195). -/
def mmaCheck (s : State) (n : Nat) (t : BitVec 4) (rows : Nat) : Option (Byte × W64) :=
  let a := s.agent n
  match pairOf a.r.ma a.r.mb with
  | none => some (0x01, a.r.pc)
  | some _ =>
    let pf := a.pfault a.r.active
    if pf ≠ 0 then some (pf, BitVec.ofNat 64 (32768 * ((a.frameReg a.r.active).setWidth 8 : BitVec 8).toNat))
    else (s.rentCheck n a.who true false 0 n (t.toNat * 65536) (rows * 512)).map (fun r => (r.1, BitVec.ofNat 64 r.2))

/-- The issue of MMA or MMAZ: the block is formed, KC advances (R194). -/
def mmaAct (zero : Bool) (t q : BitVec 4) (rows : Nat) (s : State) (n : Nat) (a : Agent) : Agent :=
  let pre := s.agent n
  match pairOf pre.r.ma pre.r.mb with
  | none => a
  | some (kp, u) =>
    let b : Block := { port := pre.icyc + 7, tile := t, zero := zero, rows := blockRows pre kp u (pre.head q) rows }
    { a with blocks := a.blocks ++ [b], r := { a.r with kc := pre.r.kc + BitVec.ofNat 7 u } }.event 0x08 1

end Sys2Proof.Machine
end

