-- ==== Sys2Proof/Machine/Flags.lean ====
section
/-!
DEFINITION. Status words, the counter cell and its flags (04 R116, 09 R208, R211, R212, 13 R288, R296).
-/

namespace Sys2Proof.Machine

/-- A failing rent or launch instruction's status word 0x8000_0000_0000_00cc (R116, R288, R296). -/
def statusWord (cc : Byte) : W64 := 0x8000000000000000#64 ||| cc.setWidth 64

/-- The entry that a fetch form delivers after a lapse (R112 step 3). -/
def expiredEntry : Vec := entryOf (statusWord 0x0B)

/-- Whether an engine status is faulting (R211). -/
def faulting (st : Byte) : Bool :=
  decide (1 ≤ st.toNat ∧ st.toNat ≤ 8) || st == 0x0B || st == 0x0C

/-- A completion of operation `num` with status `st`: COUNT, FAILS saturating at 127, LASTF, LASTST (R208, R205). -/
def EngCtx.advance (c : EngCtx) (num : W64) (st : Byte) : EngCtx :=
  { c with
    count := num.setWidth 56
    fails := if st = 0 then c.fails else if c.fails = 127 then 127 else c.fails + 1
    lastf := st ≠ 0
    lastst := st }

/-- Record a faulting completion if none is recorded yet (R212). -/
def EngCtx.record (c : EngCtx) (num : W64) (st : Byte) (addr : W64) (sub : Bool) : EngCtx :=
  if faulting st then
    match c.frec with
    | none => { c with frec := some { num := num, status := st, addr := addr, sub := sub } }
    | some _ => c
  else c

/-- The cause that a faulting status is delivered with (R211). -/
def frecCause (f : Frec) : Byte :=
  match f.status.toNat with
  | 0x01 => if f.sub then 0x09 else 0x08
  | 0x02 => 0x0A
  | 0x03 => 0x0C
  | 0x05 => 0x0B
  | 0x06 => 0x11
  | 0x0B => 0x12
  | 0x0C => 0x13
  | _ => 0x14

/-- FADDR of a delivered record: the operation number for FAULT, OVERLAP and INDEX, else the address (R212). -/
def frecAddr (f : Frec) : W64 := if f.status = 0x04 || f.status = 0x07 || f.status = 0x08 then f.num else f.addr

/-- The engine status of a refused access (R211): 0x08 and 0x09 EXPIRED, 0x0A NOLEASE, 0x0C PERM, 0x0B TRANSLATION. -/
def statusOfCause (c : Byte) : Byte :=
  match c.toNat with
  | 0x08 => 0x01
  | 0x09 => 0x01
  | 0x0A => 0x02
  | 0x0C => 0x03
  | 0x0B => 0x05
  | 0x11 => 0x06
  | _ => 0x04

end Sys2Proof.Machine
end

