-- ==== Sys2Proof/Machine/Issue.lean ====
section
/-!
DEFINITION. The issue of a bundle, for any agent: the order of checks, the effects of its words, the loop step and the repeat
prefix (01 R21, R36–R42, 02 R46, R55, R61–R63, R66, 03 R86, 08 R193, R198). A slot word's meaning is a `Word`; executing it
is the issue of the bundle that holds that word alone.
-/

namespace Sys2Proof.Machine

/-- Who issues a word (R37, R268). -/
structure Prof where
  ctl : Bool
  mode : Mode
deriving DecidableEq, Repr

/-- What a word can write (R40). -/
inductive Dest where
  | s (r : BitVec 5)
  | a (r : BitVec 4)
  | v (r : BitVec 5)
  | p (r : BitVec 3)
  | i (r : BitVec 4)
  | csr (c : BitVec 12)
  | shape (slot h : BitVec 2) (field : BitVec 9)
deriving DecidableEq, Repr

/-- What a word waits for before its bundle issues (R127, R193). -/
inductive Hold where
  | none
  | tile (t : BitVec 4)
  | planes
deriving DecidableEq, Repr

/-- Everything about one slot word that the issue of its bundle needs. -/
structure Word where
  slot : Nat
  iq : BitVec 2
  /-- Whether the profile allows it (R37, R268). -/
  prof : Prof → Bool
  /-- Destinations, queue operands in field order, and queues it pushes (R40, R41, R86). -/
  writes : List Dest
  ops : List QOp
  pushes : List (BitVec 4)
  /-- Privilege (0x0E) and permission (0x0C) refusals of R38 step 3. -/
  priv : State → Nat → Bool
  perm : State → Nat → Bool
  hold : Hold
  /-- Execution checks other than queue checks (R38 step 4). -/
  chk : State → Nat → Option (Byte × W64)
  /-- Withheld commands and withheld stores it adds (R66). -/
  cmd : Nat
  sto : Nat
  /-- Whether it is a checkpoint (R66). -/
  ckpt : Bool
  /-- TRAP and BRK: cause and imm16 (R274). -/
  late : Option (Byte × BitVec 16)
  /-- The value that the ranks of a gang compare (R62). -/
  key : State → Nat → W64
  /-- The effect on the agent, from the state before the bundle. -/
  act : State → Nat → Agent → Agent
  /-- The next PC and the loop stack (R52, R54–R58). -/
  flow : State → Nat → Agent → Agent
  /-- What follows once every slot has issued (R69, R74, R269). -/
  post : State → Nat → State
  /-- An MMA or MMAZ: the word that a prefix repeats. MREP: its count (R198). -/
  mm : Option W32
  arm : Option (BitVec 8)

/-- The profile of a slot's ordinary words (R37, R268). -/
def profBase (slot : Nat) (p : Prof) : Bool :=
  let outer := slot ≤ 2 || slot == 7
  match p.mode with
  | .task => outer || !p.ctl
  | .super => slot ≤ 2
  | _ => outer

/-- Forbidden in every handler (R37, R268). -/
def profTask (slot : Nat) (p : Prof) : Bool := profBase slot p && decide (p.mode = .task)

/-- Forbidden in the supervisor handler only (R268). -/
def profUser (slot : Nat) (p : Prof) : Bool := profBase slot p && decide (p.mode ≠ .super)

/-- Slot-7 words that the supervisor handler may hold (R268). -/
def profQuery (_ : Prof) : Bool := true

/-- A word naming queue `q`: a loom controller has q12 to q15 only (R37). -/
def queueOk (q : BitVec 4) (p : Prof) : Bool := !p.ctl || decide (12 ≤ q.toNat)

/-! ## The next PC (R52, R55) -/

/-- The bundle that follows, with no iteration step. -/
def Agent.plainStep (a : Agent) : Agent := { a with r := { a.r with pc := a.r.pc + 32 } }

/-- The fall-through of a bundle, with the iteration step of R55 at the END of the innermost level. In a user-interrupt handler no
step is taken (R68); no rule exempts the other handlers (log 54). -/
def Agent.seqStep (a : Agent) : Agent :=
  let next := a.r.pc + 32
  let plain := a.plainStep
  if a.mode = .userInt then plain
  else match a.innermost with
    | none => plain
    | some l => if (a.level l).last = a.r.pc then Agent.cascade a.r.pc 6 a.landA next else plain

/-- A taken jump; a jump of the task to 0 ends it (R46). -/
def Agent.jumpTo (a : Agent) (t : W64) : Agent :=
  let a' := { a with r := { a.r with pc := t } }
  if t = 0 then a'.beginEnd a.r.pc else a'

/-- A word of slot `slot` without effect: the frame that the meanings fill in. -/
def Word.base (slot : Nat) (iq : BitVec 2) : Word :=
  { slot := slot, iq := iq, prof := profBase slot, writes := [], ops := [], pushes := [], priv := fun _ _ => false,
    perm := fun _ _ => false, hold := .none, chk := fun _ _ => none, cmd := 0, sto := 0, ckpt := false, late := none,
    key := fun _ _ => 0, act := fun _ _ a => a, flow := fun _ _ a => a.seqStep, post := fun s _ => s, mm := none,
    arm := none }

/-! ## The repeated word (R198) -/

/-- The word of MMA (0x03) and MMAZ (0x04). -/
def mmaWord (iq : BitVec 2) (zero : Bool) (t q : BitVec 4) (pk : BitVec 1) (rows : BitVec 7) : Word :=
  let op : BitVec 6 := if zero then 4 else 3
  { Word.base 6 iq with
    ops := [⟨q, pk == 1⟩]
    chk := fun s n => mmaCheck s n t (rows.toNat + 1)
    act := mmaAct zero t q (rows.toNat + 1)
    mm := some (iq ++ op ++ t ++ q ++ pk ++ rows ++ 0#8) }

/-- The repetition in force: it keeps the IQ selection of its first issue, so it runs under no qualifier. -/
def repeated (a : Agent) : List Word :=
  if a.r.repn ≠ 0 ∧ a.r.repw ≠ 0 ∧ a.mode = .task then
    let w := a.r.repw
    [mmaWord 0 (w.extractLsb' 24 6 == 4) (w.extractLsb' 20 4) (w.extractLsb' 16 4) (w.extractLsb' 15 1) (w.extractLsb' 8 7)]
  else []

/-- REPN and REPW after a bundle (R198): a repetition counts down; an armed prefix takes the bundle's word or lapses. -/
def Agent.stepRepeat (a : Agent) (mm : Option W32) : Agent :=
  if a.r.repn = 0 ∨ a.mode ≠ .task then a
  else
    let left := a.r.repn - 1
    if a.r.repw ≠ 0 then { a with r := { a.r with repn := left, repw := if left = 0 then 0 else a.r.repw } }
    else match mm with
      | some w => { a with r := { a.r with repn := left, repw := if left = 0 then 0 else w } }
      | none => { a with r := { a.r with repn := 0, repw := 0 } }

/-! ## The checks (R38) -/

/-- Two lists share an element. -/
def meets {α : Type} [DecidableEq α] (xs ys : List α) : Bool := xs.any (fun x => ys.contains x)

/-- The queues that a word pops. -/
def Word.pops (w : Word) : List (BitVec 4) := (w.ops.filter (fun o => !o.peek)).map (·.q)

/-- Whether two words conflict (R40). Writes of s0 do not. -/
def clash (v w : Word) : Bool :=
  meets (v.writes.filter (fun d => decide (d ≠ .s 0))) w.writes || meets v.pops w.pops || meets v.pushes w.pushes

/-- The lowest-numbered slot of a conflict: the words after the first stand in slot order. -/
def conflictSlot : List Word → Option Nat
  | [] => none
  | w :: ws => if ws.any (clash w) then some w.slot else conflictSlot ws

/-- The first word, in slot order, that a test names. -/
def firstSlot (p : Word → Bool) : List Word → Option Nat
  | [] => none
  | w :: ws => if p w then some w.slot else firstSlot p ws

/-- The interval limits of R66: 0x16 for the 257th handler bundle, 0x06 past 4,096 bundles. -/
def overrun (a : Agent) (ws : List Word) : Option Byte :=
  if a.mode = .super then none
  else if a.mode ≠ .task ∧ 256 ≤ a.hbundles then some 0x16
  else if 4096 ≤ a.bundles ∧ !ws.any (·.ckpt) then some 0x06
  else none

/-- The bundle's words with the repetition in force as its slot-6 word (R198), in slot order. -/
def withRepeat (rs : List Word) : List Word → List Word
  | [] => rs
  | w :: ws => if w.slot ≤ 6 then w :: withRepeat rs ws else rs ++ w :: ws

/-- The words that a rank issues: the bundle's and the repetition in force (R198). -/
def allWords (s : State) (n : Nat) (ws : List Word) : List Word := withRepeat (repeated (s.agent n)) ws

/-- The selected words of a rank (R21). -/
def selected (s : State) (n : Nat) (ws : List Word) : List Word := (allWords s n ws).filter (fun w => (s.agent n).selects w.iq)

/-- The checks up to privilege and permission (R38 steps 1 to 3), and after them the interval limits of R66 with SLOT 0, 0x16 before
0x06: R38 gives those limits no place (log 55). `ws` are the words of the bundle. -/
def earlyTrap (s : State) (n : Nat) (ws : List Word) : Option Trap :=
  let a := s.agent n
  let pc := a.r.pc
  let p : Prof := { ctl := isCtl n, mode := a.mode }
  let sel := selected s n ws
  match firstSlot (fun w => !w.prof p || (decide (repeated a ≠ []) && w.slot == 6)) ws with
  | some k => some { cause := 0x01, slot := k, imm := 0, faddr := pc }
  | none =>
  match conflictSlot (allWords s n ws) with
  | some k => some { cause := 0x02, slot := k, imm := 0, faddr := pc }
  | none =>
  match firstSlot (fun w => w.priv s n) sel with
  | some k => some { cause := 0x0E, slot := k, imm := 0, faddr := pc }
  | none =>
  match firstSlot (fun w => w.perm s n) sel with
  | some k => some { cause := 0x0C, slot := k, imm := 0, faddr := pc }
  | none =>
  match overrun a sel with
  | some c => some { cause := c, slot := 0, imm := 0, faddr := pc }
  | none => none

/-- The execution checks word by word, with the withheld counts so far (R38 step 4, R66): a limit of withheld commands and stores is looked at
after the word's own checks, in its slot (log 55). -/
def execTrap (s : State) (n : Nat) (cmds stores : Nat) : List Word → Option Trap
  | [] => none
  | w :: ws =>
    match w.chk s n with
    | some (c, f) => some { cause := c, slot := w.slot, imm := 0, faddr := f }
    | none =>
      if (0 < w.cmd ∧ 32 < cmds + w.cmd) ∨ (0 < w.sto ∧ 256 < stores + w.sto) then
        some { cause := 0x07, slot := w.slot, imm := 0, faddr := (s.agent n).r.pc }
      else execTrap s n (cmds + w.cmd) (stores + w.sto) ws

/-- Pops and peeks against the entries held (R86 step 1); `before` are the pops of earlier words. -/
def popTrap (a : Agent) (before : List (BitVec 4)) : List Word → Option Trap
  | [] => none
  | w :: ws =>
    let all := before ++ w.pops
    let short := w.pops.find? (fun q => decide ((a.queue q).length < all.count q))
    match (a.emptyOp w.ops).or short with
    | some q => some { cause := 0x04, slot := w.slot, imm := 0, faddr := q.setWidth 64 }
    | none => popTrap a all ws

/-- Pops applied (R86 step 2). -/
def Agent.popAll (a : Agent) (ws : List Word) : Agent := (ws.flatMap Word.pops).foldl Agent.pop a

/-- Pushes against the eight places (R86 step 3); `a` is the agent after the pops. -/
def pushTrap (a : Agent) (before : List (BitVec 4)) : List Word → Option Trap
  | [] => none
  | w :: ws =>
    let all := before ++ w.pushes
    match w.pushes.find? (fun q => decide (8 < (a.queue q).length + a.reserved q + all.count q)) with
    | some q => some { cause := 0x03, slot := w.slot, imm := 0, faddr := q.setWidth 64 }
    | none => pushTrap a all ws

/-- TRAP and BRK, after every other check (R274). -/
def lateTrap (a : Agent) : List Word → Option Trap
  | [] => none
  | w :: ws =>
    match w.late with
    | some (c, imm) => some { cause := c, slot := 0, imm := imm, faddr := a.r.pc }
    | none => lateTrap a ws

/-- The checks of R38 step 4 in their three parts. -/
def checkTrap (s : State) (n : Nat) (sel : List Word) : Option Trap :=
  let a := s.agent n
  match execTrap s n a.cmds a.stores sel with
  | some t => some t
  | none =>
  match popTrap a [] sel with
  | some t => some t
  | none =>
  match pushTrap (a.popAll sel) [] sel with
  | some t => some t
  | none => lateTrap a sel

/-! ## The effects -/

/-- A bundle counts for the stop requests that wait for a checkpoint (R291, R298). -/
def StopReq.count (r : StopReq) : StopReq := { r with preempt := r.preempt.map (· + 1), watchdog := r.watchdog.map (· + 1) }

/-- The interval counters, the issue cycle and the event counts after a bundle (R45, R47, R66, R374). -/
def Agent.countBundle (a : Agent) (ws : List Word) : Agent :=
  let a := ((a.event 0x01 1).event 0x02 1).event 0x03 1
  { a with
    icyc := a.icyc + 1
    cycle := a.cycle + 1
    stop := a.stop.count
    woken := false
    bundles := if a.mode = .super then a.bundles else a.bundles + 1
    hbundles := if a.mode = .userInt ∨ a.mode = .userFault then a.hbundles + 1 else a.hbundles
    cmds := a.cmds + (ws.map (·.cmd)).sum
    stores := a.stores + (ws.map (·.sto)).sum }

/-- The repeat prefix after the bundle's own words: MREP arms it for the next bundle. -/
def Agent.repeatAfter (a : Agent) (ws : List Word) : Agent :=
  let a := a.stepRepeat (ws.findSome? (·.mm))
  match ws.findSome? (·.arm) with
  | some k => { a with r := { a.r with repn := k, repw := 0 } }
  | none => a

/-- The agent after the selected words of a bundle that passes its checks. Every word reads the state before the bundle
(R39). The withhold buffer takes the word of slot 0 before that of slot 7 (log 76). -/
def Agent.effect (s : State) (n : Nat) (sel : List Word) : Agent :=
  let a := sel.foldl (fun a w => w.act s n a) (s.agent n)
  let a := a.popAll sel
  let a := (sel.flatMap (·.pushes)).foldl Agent.reserve a
  let a := (match sel.find? (fun w => w.slot == 0) with
    | some w => w.flow s n a
    | none => a.seqStep)
  (a.repeatAfter sel).countBundle sel

/-- One rank's effects. -/
def State.effect (s0 : State) (ws : List Word) (s : State) (n : Nat) : State :=
  s.setAgent n (Agent.effect s0 n (ws.filter (fun w => (s0.agent n).selects w.iq)))

/-- A trap of the early checks on some rank, the lowest first (R63). -/
def firstEarly (s : State) (ms : List Nat) (ws : List Word) : Option (Nat × Trap) :=
  ms.findSome? (fun m => (earlyTrap s m ws).map (fun t => (m, t)))

/-- The ranks below the first that an early check stops: a trap of theirs is the one reported (R63). -/
def ranksAhead (ms : List Nat) (e : Option (Nat × Trap)) : List Nat :=
  match e with
  | none => ms
  | some (m, _) => ms.takeWhile (fun k => k != m)

/-- A trap of the remaining checks on some rank. -/
def firstCheck (s : State) (ms : List Nat) (ws : List Word) : Option (Nat × Trap) :=
  ms.findSome? (fun m => (checkTrap s m (selected s m ws)).map (fun t => (m, t)))

/-- The tile whose blocks hold the bundle on a rank (R127). -/
def heldTile (s : State) (n : Nat) (ws : List Word) : Option (BitVec 4) :=
  (selected s n ws).findSome? (fun w => match w.hold with
    | .tile t => if (s.agent n).busy t then some t else none
    | _ => none)

/-- Whether a rank's bundle holds an MSWB, which waits for plane loads (R193). -/
def holdsPlanes (s : State) (n : Nat) (ws : List Word) : Bool := (selected s n ws).any (fun w => w.hold = .planes)

/-- Every plane load of an agent lands (R193). -/
def State.landPlanes (s : State) (n : Nat) : State :=
  let xs := (s.agent n).planeLoads
  xs.foldl (fun s x => s.landPlane n x) (s.setAgent n { s.agent n with planeLoads := [] })

/-- Whether the ranks disagree on the branch, target or trip count (R62). -/
def diverges (s : State) (ms : List Nat) (ws : List Word) : Bool :=
  match ms with
  | [] => false
  | m :: rest =>
    let k (m : Nat) : List W64 := (selected s m ws).map (fun w => w.key s m)
    rest.any (fun r => decide (k r ≠ k m))

/-- A cycle in which a task holds the agent counts for its account (R119); the cycles that no rule counts are free (log 5). -/
def State.bundleCycle (s : State) (n : Nat) : State :=
  match (s.agent n).task with
  | none => s
  | some t => s.modAccount t.account (fun c => { c with bundleCycles := satAdd c.bundleCycles 1 })

/-- The bundle's effects on every rank, then what follows them. -/
def State.issueDone (s : State) (n : Nat) (ms : List Nat) (ws : List Word) : State :=
  let s' := ms.foldl (fun t m => (State.effect s (allWords s m ws) t m).bundleCycle m) s
  let s' := { s' with freeCtr := s'.freeCtr + 1 }
  (selected s n ws).foldl (fun t w => w.post t n) s'

/-- The bundle once nothing holds it: the checks of R38 step 4 on the ranks ahead of an early trap, that trap, divergence, effects.
Any other trap of the bundle, on any rank, precedes 0x05: R62 and R38 give no order (log 56). -/
def State.issueReady (s : State) (n : Nat) (ms : List Nat) (ws : List Word) : State :=
  let e := firstEarly s ms ws
  match (firstCheck s (ranksAhead ms e) ws).or e with
  | some (m, t) => s.takeTrap m t false
  | none =>
    if diverges s ms ws then
      s.takeTrap n { cause := 0x05, slot := 0, imm := 0, faddr := (s.agent n).r.pc } false
    else s.issueDone n ms ws

/-- The issue of a bundle whose words are `ws`, in slot order, by agent `n` or its gang: of several ranks that trap in it the lowest
is reported (R63). -/
def State.issue (s : State) (n : Nat) (ws : List Word) : State :=
  let ms := s.members n
  let ahead := ranksAhead ms (firstEarly s ms ws)
  if ahead.any (fun m => decide (heldTile s m ws ≠ none)) then
    -- the bundle issues once SCOREBOARD_STALL_END has added the blocks (R127, R197)
    ahead.foldl (fun t m => match heldTile s m ws with
      | some k => t.setAgent m { t.agent m with board := some k, woken := false }
      | none => t) s
  else
    let s := if ahead.any (fun m => holdsPlanes s m ws) then ahead.foldl State.landPlanes s else s
    s.issueReady n ms ws

/-- The issue, on the agent whose turn it is, of the bundle that holds one word alone. -/
def issueAlone (w : Word) (s : State) : Host.Outcome State Fault Refusal := .next (s.issue s.cur.toNat [w])

/-! ## Builders for words that write one register -/

/-- A slot-1 or slot-2 word that writes sd after `lat` issue cycles. -/
def sWord (iq : BitVec 2) (d : BitVec 5) (lat : Nat) (val : Agent → W64) : Word :=
  { Word.base 1 iq with
    writes := [.s d]
    act := fun s n a => a.fly (s.agent n).icyc lat (.s d (val (s.agent n))) }

/-- A slot-1 or slot-2 word that writes ad after 1 issue cycle. -/
def aWord (iq : BitVec 2) (d : BitVec 4) (val : Agent → W64) : Word :=
  { Word.base 1 iq with
    writes := [.a d]
    act := fun s n a => a.fly (s.agent n).icyc 1 (.a d (val (s.agent n))) }

end Sys2Proof.Machine
end

