-- ==== Sys2Proof/Machine/Land.lean ====
section
/-!
DEFINITION. Landings: results in flight, near stores, plane loads and matrix blocks, and the ends of the stalls that wait for
blocks (02 R47–R50, 05 R123–R127, 08 R192–R197). A move that is not enabled leaves the state as it is (log 12).
-/

namespace Sys2Proof.Machine

/-- Whether the agent drains: its wait lands every result first (R50, R64). While the last bundle's slot-7 command still stalls, a result of
that command may have to land before others (R47), so the drain waits for it. -/
def Agent.draining (a : Agent) : Bool :=
  decide (a.stall = .none) && (match a.wait with
    | .none => false
    | .qalign _ _ _ => false
    | .acquire _ => false
    | .stop => false
    | _ => true)

/-- The order of everything in flight, two steps an issue cycle: what lands in a cycle lands before its bundle, a block is added
after it (R47, R49, R194). -/
def Agent.landKeys (a : Agent) : List Nat :=
  a.flight.map (fun f => 2 * f.due) ++ a.nsq.map (fun x => 2 * x.due) ++ a.planeLoads.map (fun x => 2 * x.due) ++
    a.blocks.map (fun b => 2 * b.port + 1)

/-- Whether what stands at key `k` lands next, and its time has come or the agent drains. -/
def Agent.lands (a : Agent) (k : Nat) : Bool :=
  a.landKeys.all (fun j => decide (k ≤ j)) && (a.draining || decide (k ≤ 2 * a.icyc))

/-- Whether anything lands before the next bundle issues. -/
def Agent.landing (a : Agent) : Bool := a.landKeys.any (fun k => a.draining || decide (k ≤ 2 * a.icyc))

/-- RESULT_LANDING (R47, R49). -/
def State.resultLanding (s : State) (n : Nat) : State :=
  let a := s.agent n
  match nextFlight a.flight with
  | none => s
  | some f =>
    if a.lands (2 * f.due) then (s.setAgent n { a with flight := a.flight.erase f }).land n f.res else s
def execResultLanding (n : BitVec 9) (s : State) : Host.Outcome State Fault Refusal := .next (s.resultLanding n.toNat)

/-- Whether the agent stands in a QALIGN of the near path, which lands a near store issued before it while issue stalls (R123,
10 R240). -/
def Agent.alignsNear (a : Agent) (x : NearStore) : Bool :=
  match a.wait with
  | .qalign _ near cyc => near && decide (x.due < cyc + 3)
  | _ => false

/-- NEAR_PERFORM (R123, R124): the store at the head of the NSQ lands. A near load has sampled its bytes at issue. -/
def State.nearPerform (s : State) (n : Nat) : State :=
  let a := s.agent n
  match a.nsq with
  | [] => s
  | x :: xs => if a.lands (2 * x.due) || a.alignsNear x then (s.setAgent n { a with nsq := xs }).landNear n x else s
def execNearPerform (n : BitVec 9) (s : State) : Host.Outcome State Fault Refusal := .next (s.nearPerform n.toNat)

/-- PLANE_LOAD_LAND (R192). -/
def State.planeLoadLand (s : State) (n : Nat) : State :=
  let a := s.agent n
  match a.planeLoads with
  | [] => s
  | x :: xs => if a.lands (2 * x.due) then (s.setAgent n { a with planeLoads := xs }).landPlane n x else s
def execPlaneLoadLand (n : BitVec 9) (s : State) : Host.Outcome State Fault Refusal := .next (s.planeLoadLand n.toNat)

/-- PARTIAL_SUM_ADD (R194): the oldest block is added as it stands, scaled or not. -/
def State.partialSumAdd (s : State) (n : Nat) : State :=
  let a := s.agent n
  match a.blocks with
  | [] => s
  | b :: bs => if a.lands (2 * b.port + 1) then (s.setAgent n { a with blocks := bs }).addBlock n b else s
def execPartialSumAdd (n : BitVec 9) (s : State) : Host.Outcome State Fault Refusal := .next (s.partialSumAdd n.toNat)

/-- The blocks on a tile are added at once, unscaled, in issue order (R197). -/
def State.addTile (s : State) (n : Nat) (t : BitVec 4) : State :=
  let a := s.agent n
  let mine := a.blocks.filter (fun b => b.tile == t)
  mine.foldl (fun s b => s.addBlock n b) (s.setAgent n { a with blocks := a.blocks.filter (fun b => b.tile != t) })

/-- SCOREBOARD_STALL_END (R127, R197): the tile's blocks are added and the held bundle may issue. -/
def State.scoreboardStallEnd (s : State) (n : Nat) : State :=
  match (s.agent n).board with
  | none => s
  | some t => (s.setAgent n { s.agent n with board := none }).addTile n t
def execScoreboardStallEnd (n : BitVec 9) (s : State) : Host.Outcome State Fault Refusal :=
  .next (s.scoreboardStallEnd n.toNat)

/-- MDRAIN_END (R196, R197). -/
def State.mdrainEnd (s : State) (n : Nat) : State :=
  match (s.agent n).mdrain with
  | none => s
  | some t => (s.setAgent n { s.agent n with mdrain := none }).addTile n t
def execMdrainEnd (n : BitVec 9) (s : State) : Host.Outcome State Fault Refusal := .next (s.mdrainEnd n.toNat)

end Sys2Proof.Machine
end

