-- ==== Sys2Proof/Machine/Control.lean ====
section
/-!
DEFINITION. Slot 0: branches, loops, checkpoints, waits, formats, CSRs, ordering words, traps and returns (02 R51–R74,
10 R237–R242, 12 R265–R274), and the CSR rows of the opcode table that name one register.
-/

namespace Sys2Proof.Machine

/-! ## Branches (R52) -/

/-- The address of the bundle that agent `n` issues. -/
def pcOf (s : State) (n : Nat) : W64 := (s.agent n).r.pc

/-- pc + 32 × displacement (R22). -/
def relTarget (s : State) (n : Nat) {w : Nat} (disp : BitVec w) : W64 := pcOf s n + 32 * disp.signExtend 64

/-- The checks of a jump to `t`: alignment (R42), and no jump to 0 in a handler (R46). -/
def jumpCheck (s : State) (n : Nat) (taken : Bool) (t : W64) : Option (Byte × W64) :=
  if taken && decide (t &&& 31 ≠ 0) then some (0x0D, t)
  else if taken && decide (t = 0 ∧ (s.agent n).mode ≠ .task) then some (0x01, pcOf s n)
  else none

/-- A branch word: its target and whether it is taken. -/
def branchWord (iq : BitVec 2) (taken : State → Nat → Bool) (target : State → Nat → W64) : Word :=
  { Word.base 0 iq with
    chk := fun s n => jumpCheck s n (taken s n) (target s n)
    flow := fun s n a => if taken s n then a.jumpTo (target s n) else a.seqStep }

/-- The tests of BC (R24, R52). -/
def condHolds (cond : BitVec 4) (v : W64) : Bool :=
  match cond.toNat with
  | 0 => v == 0
  | 1 => v != 0
  | 2 => decide (v.toInt < 0)
  | 3 => decide (0 ≤ v.toInt)
  | 4 => decide (0 < v.toInt)
  | _ => decide (v.toInt ≤ 0)

/-- BR (R52). -/
def wBr (iq : BitVec 2) (disp : BitVec 24) : Word := branchWord iq (fun _ _ => true) (fun s n => relTarget s n disp)
def execBr (iq : BitVec 2) (disp : BitVec 24) (s : State) : Host.Outcome State Fault Refusal := issueAlone (wBr iq disp) s

/-- BC (R52): each rank evaluates the outcome (R62). -/
def wBc (iq : BitVec 2) (cond : BitVec 4) (r : BitVec 5) (disp : BitVec 15) : Word :=
  let taken (s : State) (n : Nat) := condHolds cond ((s.agent n).getS r)
  { branchWord iq taken (fun s n => relTarget s n disp) with key := fun s n => if taken s n then 1 else 0 }
def execBc (iq : BitVec 2) (cond : BitVec 4) (r : BitVec 5) (disp : BitVec 15) (s : State) :
    Host.Outcome State Fault Refusal := issueAlone (wBc iq cond r disp) s

/-- BPANY (R52). -/
def wBpany (iq : BitVec 2) (p : BitVec 3) (disp : BitVec 15) : Word :=
  let taken (s : State) (n : Nat) := decide ((s.agent n).getP p ≠ 0)
  { branchWord iq taken (fun s n => relTarget s n disp) with key := fun s n => if taken s n then 1 else 0 }
def execBpany (iq : BitVec 2) (p : BitVec 3) (disp : BitVec 15) (s : State) : Host.Outcome State Fault Refusal :=
  issueAlone (wBpany iq p disp) s

/-- BPNONE (R52). -/
def wBpnone (iq : BitVec 2) (p : BitVec 3) (disp : BitVec 15) : Word :=
  let taken (s : State) (n : Nat) := decide ((s.agent n).getP p = 0)
  { branchWord iq taken (fun s n => relTarget s n disp) with key := fun s n => if taken s n then 1 else 0 }
def execBpnone (iq : BitVec 2) (p : BitVec 3) (disp : BitVec 15) (s : State) : Host.Outcome State Fault Refusal :=
  issueAlone (wBpnone iq p disp) s

/-- CALL (R52): s31 lands 1 issue cycle later. -/
def wCall (iq : BitVec 2) (disp : BitVec 24) : Word :=
  { branchWord iq (fun _ _ => true) (fun s n => relTarget s n disp) with
    writes := [.s 31]
    act := fun s n a => a.fly (s.agent n).icyc 1 (.s 31 (pcOf s n + 32)) }
def execCall (iq : BitVec 2) (disp : BitVec 24) (s : State) : Host.Outcome State Fault Refusal := issueAlone (wCall iq disp) s

/-- JR (R52, R42): each rank evaluates the target (R62). -/
def wJr (iq : BitVec 2) (r : BitVec 5) : Word :=
  { branchWord iq (fun _ _ => true) (fun s n => (s.agent n).getS r) with key := fun s n => (s.agent n).getS r }
def execJr (iq : BitVec 2) (r : BitVec 5) (s : State) : Host.Outcome State Fault Refusal := issueAlone (wJr iq r) s

/-- RET (R52): a jump to s31. -/
def wRet (iq : BitVec 2) : Word := wJr iq 31
def execRet (iq : BitVec 2) (s : State) : Host.Outcome State Fault Refusal := issueAlone (wRet iq) s

/-! ## Loops (R54–R59) -/

/-- Open level `l` with count `c` and a body of `len` bundles, or skip the body (R54). -/
def Agent.openLevel (a pre : Agent) (l : BitVec 3) (c : W64) (len : Nat) : Agent :=
  let pc := pre.r.pc
  if c = 0 then { a with r := { a.r with pc := pc + 32 * BitVec.ofNat 64 (len + 1) } }
  else
    let v := pre.level l.toNat
    let entry := (List.range 16).foldl (fun t k =>
      match Tab.get none v.stride k with
      | some _ => Tab.set 0 t k (pre.getA (BitVec.ofNat 4 k))
      | none => t) v.entry
    let v := { v with act := true, count := c, index := 0, start := pc + 32, last := pc + 32 * BitVec.ofNat 64 len, entry := entry }
    let a := a.setLevel l.toNat v
    { a with r := { a.r with pc := pc + 32 } }

/-- A loop word (R54): an active level at or inside L is an illegal encoding. Handlers may hold none (R37, R268). -/
def loopWord (iq : BitVec 2) (l : BitVec 3) (len : Nat) (count : Agent → W64) : Word :=
  { Word.base 0 iq with
    prof := profTask 0
    chk := fun s n =>
      if (List.range 6).any (fun j => decide (j ≤ l.toNat) && ((s.agent n).level j).act) then some (0x01, pcOf s n) else none
    key := fun s n => count (s.agent n)
    flow := fun s n a => a.openLevel (s.agent n) l (count (s.agent n)) len }

/-- LOOP (R54). -/
def wLoop (iq : BitVec 2) (l : BitVec 3) (r : BitVec 5) (len : BitVec 16) : Word :=
  loopWord iq l len.toNat (fun a => a.getS r)
def execLoop (iq : BitVec 2) (l : BitVec 3) (r : BitVec 5) (len : BitVec 16) (s : State) :
    Host.Outcome State Fault Refusal := issueAlone (wLoop iq l r len) s

/-- LOOPI (R54). -/
def wLoopi (iq : BitVec 2) (l : BitVec 3) (cnt : BitVec 13) (len : BitVec 8) : Word :=
  loopWord iq l len.toNat (fun _ => cnt.setWidth 64)
def execLoopi (iq : BitVec 2) (l : BitVec 3) (cnt : BitVec 13) (len : BitVec 8) (s : State) :
    Host.Outcome State Fault Refusal := issueAlone (wLoopi iq l cnt len) s

/-- LOOPS (R54): the blocks of 2^bs tokens that SEQLEN needs. -/
def wLoops (iq : BitVec 2) (l : BitVec 3) (bs : BitVec 5) (len : BitVec 16) : Word :=
  loopWord iq l len.toNat (fun a => BitVec.ofNat 64 ((a.r.seqlen.toNat + 2 ^ bs.toNat - 1) / 2 ^ bs.toNat))
def execLoops (iq : BitVec 2) (l : BitVec 3) (bs : BitVec 5) (len : BitVec 16) (s : State) :
    Host.Outcome State Fault Refusal := issueAlone (wLoops iq l bs len) s

/-- LBREAK (R58): the levels out to L exit and the cascade goes on outside. Of an inactive level nothing is exited; the word still
decides the next PC, so that no iteration step is taken (R55, R57; log 58). In a user handler it acts on the task's loop stack, as
LSTRIDE does (log 59). -/
def wLbreak (iq : BitVec 2) (l : BitVec 3) : Word :=
  { Word.base 0 iq with
    prof := profUser 0
    flow := fun s n a =>
      let v := (s.agent n).level l.toNat
      if v.act then Agent.cascade v.last 6 (a.landA.exitTo l.toNat 6) (v.last + 32) else a.plainStep }
def execLbreak (iq : BitVec 2) (l : BitVec 3) (s : State) : Host.Outcome State Fault Refusal := issueAlone (wLbreak iq l) s

/-- The stride entry that LSTRIDE writes (R56). -/
def Agent.setStride (a pre : Agent) (l : BitVec 3) (r : BitVec 4) (x : Option W64) : Agent :=
  let v := a.level l.toNat
  let old := pre.level l.toNat
  let fresh := old.act && decide (Tab.get none old.stride r.toNat = none) && x.isSome
  a.setLevel l.toNat { v with
    stride := Tab.set none v.stride r.toNat x
    entry := if fresh then Tab.set 0 v.entry r.toNat (pre.getA r) else v.entry }

/-- LSTRIDE (R56): the step of its own bundle uses the strides in force before it (R55); s0 clears the flag. -/
def wLstride (iq : BitVec 2) (l : BitVec 3) (r : BitVec 4) (x : BitVec 5) : Word :=
  { Word.base 0 iq with
    flow := fun s n a => a.seqStep.setStride (s.agent n) l r (if x = 0 then none else some ((s.agent n).getS x)) }
def execLstride (iq : BitVec 2) (l : BitVec 3) (r : BitVec 4) (x : BitVec 5) (s : State) :
    Host.Outcome State Fault Refusal := issueAlone (wLstride iq l r x) s

/-- LIDX (R59). -/
def wLidx (iq : BitVec 2) (d : BitVec 5) (l : BitVec 3) : Word :=
  { sWord iq d 1 (fun a => if (a.level l.toNat).act then (a.level l.toNat).index else BitVec.allOnes 64) with slot := 0 }
def execLidx (iq : BitVec 2) (d : BitVec 5) (l : BitVec 3) (s : State) : Host.Outcome State Fault Refusal :=
  issueAlone (wLidx iq d l) s

/-! ## Checkpoints and waits (R64, R70, R239–R242) -/

/-- A slot-0 word that makes the spindle wait once its bundle has issued. -/
def waitWord (iq : BitVec 2) (w : Agent → Wait) : Word :=
  { Word.base 0 iq with
    prof := profUser 0
    act := fun s n a => { a with wait := w (s.agent n) } }

/-- CKPT (R64): the drain follows; CHECKPOINT_COMPLETE completes it. -/
def wCkpt (iq : BitVec 2) : Word :=
  { waitWord iq (fun a => .ckpt false false a.r.pc) with prof := profTask 0, ckpt := true }
def execCkpt (iq : BitVec 2) (s : State) : Host.Outcome State Fault Refusal := issueAlone (wCkpt iq) s

/-- CKPTL (R64, R65). -/
def wCkptl (iq : BitVec 2) : Word :=
  { waitWord iq (fun a => .ckpt true false a.r.pc) with prof := profTask 0, ckpt := true }
def execCkptl (iq : BitVec 2) (s : State) : Host.Outcome State Fault Refusal := issueAlone (wCkptl iq) s

/-- WFE (R241). -/
def wWfe (iq : BitVec 2) : Word := waitWord iq (fun _ => .wfe)
def execWfe (iq : BitVec 2) (s : State) : Host.Outcome State Fault Refusal := issueAlone (wWfe iq) s

/-- WAITT (R70). -/
def wWaitt (iq : BitVec 2) (r : BitVec 5) : Word := waitWord iq (fun a => .waitt (a.getS r))
def execWaitt (iq : BitVec 2) (r : BitVec 5) (s : State) : Host.Outcome State Fault Refusal := issueAlone (wWaitt iq r) s

/-- SLEEPC (R70). -/
def wSleepc (iq : BitVec 2) (r : BitVec 5) : Word := waitWord iq (fun a => .sleepc (a.getS r))
def execSleepc (iq : BitVec 2) (r : BitVec 5) (s : State) : Host.Outcome State Fault Refusal := issueAlone (wSleepc iq r) s

/-- QWAIT (R70). -/
def wQwait (iq : BitVec 2) (q n : BitVec 4) : Word := waitWord iq (fun _ => .qwait q n)
def execQwait (iq : BitVec 2) (q n : BitVec 4) (s : State) : Host.Outcome State Fault Refusal := issueAlone (wQwait iq q n) s

/-- TWAIT (R242): a loom controller has contexts 0 to 3 only (R205). -/
def wTwait (iq : BitVec 2) (c : BitVec 3) (r : BitVec 5) : Word :=
  { waitWord iq (fun a => .twait c (a.getS r)) with
    prof := fun p => profUser 0 p && (!p.ctl || decide (c.toNat ≤ 3)) }
def execTwait (iq : BitVec 2) (c : BitVec 3) (r : BitVec 5) (s : State) : Host.Outcome State Fault Refusal :=
  issueAlone (wTwait iq c r) s

/-- How a TWAITA cell is checked: a read that needs SYNC (R110, R242). -/
def askCell : Ask := { wr := false, sync := true, rent := true, trans := true, near := false }

/-- The checks of TWAITA at issue (R242). -/
def twaitaCheck (s : State) (n : Nat) (e : W64) : Option (Byte × W64) :=
  if e &&& 7 ≠ 0 then some (0x0D, e)
  else (s.vaCheck n (s.agent n).who askCell e.toNat 8).map (fun r => (r.1, BitVec.ofNat 64 r.2))

/-- TWAITA (R242). -/
def wTwaita (iq : BitVec 2) (r : BitVec 4) (x : BitVec 5) : Word :=
  { waitWord iq (fun a => .twaita (a.getA r) (a.getS x)) with
    chk := fun s n => twaitaCheck s n ((s.agent n).getA r) }
def execTwaita (iq : BitVec 2) (r : BitVec 4) (x : BitVec 5) (s : State) : Host.Outcome State Fault Refusal :=
  issueAlone (wTwaita iq r x) s

/-- QALIGN (R240). -/
def wQalign (iq : BitVec 2) (far near : BitVec 1) : Word :=
  { waitWord iq (fun a => .qalign (far == 1) (near == 1) a.icyc) with prof := profBase 0 }
def execQalign (iq : BitVec 2) (far near : BitVec 1) (s : State) : Host.Outcome State Fault Refusal :=
  issueAlone (wQalign iq far near) s

/-- FENCE (R239): an acquire holds the next bundle for far loads, a release appends a marker that R66 does not count. -/
def wFence (iq : BitVec 2) (scope : BitVec 3) (kind : BitVec 2) : Word :=
  { Word.base 0 iq with
    act := fun s n a =>
      let a := if kind.getLsbD 0 then { a with wait := .acquire (s.agent n).icyc } else a
      if kind.getLsbD 1 then { a with wb := a.wb ++ [.marker scope] } else a }
def execFence (iq : BitVec 2) (scope : BitVec 3) (kind : BitVec 2) (s : State) : Host.Outcome State Fault Refusal :=
  issueAlone (wFence iq scope kind) s

/-- SEV (R241): one withheld command. -/
def wSev (iq : BitVec 2) (r : BitVec 5) : Word :=
  { Word.base 0 iq with
    cmd := 1
    act := fun s n a => { a with wb := a.wb ++ [.event ((s.agent n).getS r)] } }
def execSev (iq : BitVec 2) (r : BitVec 5) (s : State) : Host.Outcome State Fault Refusal := issueAlone (wSev iq r) s

/-! ## Formats and CSRs (R72, R73) -/

/-- A write of a sticky format register, landing 4 issue cycles later (R72). Handlers may hold none (R37, R268). -/
def fmtWord (iq : BitVec 2) (fam : BitVec 3) (v : Agent → Byte) : Word :=
  { Word.base 0 iq with
    prof := profTask 0
    act := fun s n a => a.fly (s.agent n).icyc 4 (.fmt fam (v (s.agent n))) }

/-- FMT (R72). -/
def wFmt (iq : BitVec 2) (fam : BitVec 3) (v : Byte) : Word := fmtWord iq fam (fun _ => v)
def execFmt (iq : BitVec 2) (fam : BitVec 3) (v : Byte) (s : State) : Host.Outcome State Fault Refusal :=
  issueAlone (wFmt iq fam v) s

/-- FMTS (R72): a code outside the family takes 0x01 at issue. -/
def wFmts (iq : BitVec 2) (fam : BitVec 3) (r : BitVec 5) : Word :=
  { fmtWord iq fam (fun a => (a.getS r).setWidth 8) with
    chk := fun s n => if famAccepts fam (((s.agent n).getS r).setWidth 8) then none else some (0x01, pcOf s n) }
def execFmts (iq : BitVec 2) (fam : BitVec 3) (r : BitVec 5) (s : State) : Host.Outcome State Fault Refusal :=
  issueAlone (wFmts iq fam r) s

/-- A CSR number for an agent: 0x210 to 0x22F exist in loom controllers only (R27). -/
def csrOpen (c : BitVec 12) (p : Prof) : Bool := profBase 0 p && (p.ctl || decide (c.toNat < 0x210 ∨ 0x22F < c.toNat))

/-- CSRR (R73, R11, R27): a read of ISTAT clears NPF at issue. -/
def wCsrr (iq : BitVec 2) (d : BitVec 5) (c : BitVec 12) : Word :=
  { Word.base 0 iq with
    prof := csrOpen c
    writes := [.s d]
    priv := fun s n => decide ((s.agent n).mode ≠ .super) && decide (csrAccess (s.agent n) c = .s)
    act := fun s n a =>
      let a := a.fly (s.agent n).icyc 1 (.s d (s.csrValue n c))
      if c = 0x005 then { a with r := { a.r with npf := false } } else a }
def execCsrr (iq : BitVec 2) (d : BitVec 5) (c : BitVec 12) (s : State) : Host.Outcome State Fault Refusal :=
  issueAlone (wCsrr iq d c) s

/-- CSRW (R73, R11, R27). -/
def wCsrw (iq : BitVec 2) (r : BitVec 5) (c : BitVec 12) : Word :=
  { Word.base 0 iq with
    prof := csrOpen c
    writes := [.csr c]
    priv := fun s n => decide ((s.agent n).mode ≠ .super) && decide (csrAccess (s.agent n) c ≠ .u)
    act := fun s n a => a.fly (s.agent n).icyc 1 (.csr c ((s.agent n).getS r)) }
def execCsrw (iq : BitVec 2) (r : BitVec 5) (c : BitVec 12) (s : State) : Host.Outcome State Fault Refusal :=
  issueAlone (wCsrw iq r c) s

/-- ISTAT_READ (R27, R184): a CSRR of ISTAT. -/
def execIstatRead (iq : BitVec 2) (d : BitVec 5) (s : State) : Host.Outcome State Fault Refusal := issueAlone (wCsrr iq d 0x005) s

/-- SRSEED_WRITE (R154): a CSRW of SRSEED; the RSR counter falls to 0 as it lands. -/
def execSrseedWrite (iq : BitVec 2) (r : BitVec 5) (s : State) : Host.Outcome State Fault Refusal := issueAlone (wCsrw iq r 0x017) s

/-- SKEW_WRITE (R27): a CSRW of SKEW. -/
def execSkewWrite (iq : BitVec 2) (r : BitVec 5) (s : State) : Host.Outcome State Fault Refusal := issueAlone (wCsrw iq r 0x102) s

/-- RATE_WRITE (R99): a CSRW of a tier's rate. -/
def execRateWrite (iq : BitVec 2) (r : BitVec 5) (tier : BitVec 3) (s : State) : Host.Outcome State Fault Refusal :=
  issueAlone (wCsrw iq r (0x140 + tier.setWidth 12)) s

/-- SLICE_WRITE (R295): a CSRW of SLICE. -/
def execSliceWrite (iq : BitVec 2) (r : BitVec 5) (s : State) : Host.Outcome State Fault Refusal := issueAlone (wCsrw iq r 0x103) s

/-- EVCNT_WRITE (R376): a CSRW of an event count. -/
def execEvcntWrite (iq : BitVec 2) (r : BitVec 5) (k : BitVec 3) (s : State) : Host.Outcome State Fault Refusal :=
  issueAlone (wCsrw iq r (0x208 + k.setWidth 12)) s

/-! ## Traps and returns (R69, R74, R265, R269, R274) -/

/-- NOP (R20). -/
def wNop : Word := Word.base 0 0
def execNop (s : State) : Host.Outcome State Fault Refusal := issueAlone wNop s

/-- TRAP (R274). -/
def wTrap (iq : BitVec 2) (imm : BitVec 16) : Word := { Word.base 0 iq with late := some (0x0F, imm) }
def execTrapWord (iq : BitVec 2) (imm : BitVec 16) (s : State) : Host.Outcome State Fault Refusal := issueAlone (wTrap iq imm) s

/-- BRK (R274). -/
def wBrk (iq : BitVec 2) (imm : BitVec 16) : Word := { Word.base 0 iq with late := some (0x10, imm) }
def execBrk (iq : BitVec 2) (imm : BitVec 16) (s : State) : Host.Outcome State Fault Refusal := issueAlone (wBrk iq imm) s

/-- UIMASK (R69). -/
def wUimask (iq : BitVec 2) (m : BitVec 1) : Word :=
  { Word.base 0 iq with
    prof := profUser 0
    act := fun _ _ a => { a with r := { a.r with uimask := m == 1 } } }
def execUimask (iq : BitVec 2) (m : BitVec 1) (s : State) : Host.Outcome State Fault Refusal := issueAlone (wUimask iq m) s

/-- The PC that UIRET resumes at: the saved one, or shadow s31 in a fault handler (R69, R265). -/
def uiretPc (a : Agent) : W64 := if a.mode = .userFault then Tab.get 0 a.shadow.s 31 else a.resume

/-- UIRET (R69, R265): outside a user handler it is an illegal encoding. -/
def uiretWord (iq : BitVec 2) : Word :=
  { Word.base 0 iq with
    prof := fun p => profBase 0 p && decide (p.mode = .userInt ∨ p.mode = .userFault)
    chk := fun s n =>
      let t := uiretPc (s.agent n)
      if (s.agent n).mode = .userFault ∧ t &&& 31 ≠ 0 then some (0x0D, t) else none
    act := fun s n a => { a with resume := uiretPc (s.agent n) }
    flow := fun _ _ a => a
    post := State.beginReturn .uiret }
def wUiret : Word := uiretWord 0
def wUiretFirst : Word := uiretWord 1
def wUiretLast : Word := uiretWord 2
def execUiret (s : State) : Host.Outcome State Fault Refusal := issueAlone wUiret s
def execUiretFirst (s : State) : Host.Outcome State Fault Refusal := issueAlone wUiretFirst s
def execUiretLast (s : State) : Host.Outcome State Fault Refusal := issueAlone wUiretLast s

/-- ERET (R269): in the user view it takes 0x0E. -/
def eretWord (iq : BitVec 2) : Word :=
  { Word.base 0 iq with
    priv := fun s n => decide ((s.agent n).mode ≠ .super)
    act := fun s n a => { a with resume := Tab.get 0 (s.agent n).super.s 31 }
    flow := fun _ _ a => a
    post := State.beginReturn .eret }
def wEret : Word := eretWord 0
def wEretFirst : Word := eretWord 1
def wEretLast : Word := eretWord 2
def execEret (s : State) : Host.Outcome State Fault Refusal := issueAlone wEret s
def execEretFirst (s : State) : Host.Outcome State Fault Refusal := issueAlone wEretFirst s
def execEretLast (s : State) : Host.Outcome State Fault Refusal := issueAlone wEretLast s

/-- HALT (R74): in the user view it takes 0x0E. -/
def haltWord (iq : BitVec 2) : Word :=
  { Word.base 0 iq with
    priv := fun s n => decide ((s.agent n).mode ≠ .super)
    post := State.haltTask }
def wHalt : Word := haltWord 0
def wHaltFirst : Word := haltWord 1
def wHaltLast : Word := haltWord 2
def execHalt (s : State) : Host.Outcome State Fault Refusal := issueAlone wHalt s
def execHaltFirst (s : State) : Host.Outcome State Fault Refusal := issueAlone wHaltFirst s
def execHaltLast (s : State) : Host.Outcome State Fault Refusal := issueAlone wHaltLast s

end Sys2Proof.Machine
end

