-- ==== Sys2Proof/Machine/Slot7.lean ====
section
/-!
DEFINITION. Slot 7 at issue: far loads and stores, atomics, wide cells, engine operations, notes, rent, fabric and launch words
(01 R35, 04 R105, R115–R117, 09 R206, R214–R223, 13 R296, 16 R334–R340).
-/

namespace Sys2Proof.Machine

/-! ## Shape elements (R92) -/

/-- The record that a word captures: with sw = 1 the shadow copy becomes the active one first (R91). -/
def recOf (a : Agent) (h : BitVec 2) (sw : BitVec 1) : Shape := a.shape 3 h (if sw = 1 then 1 else 0)

/-- The exchange of the named records (R91). -/
def Agent.exchange (a : Agent) (sw : BitVec 1) (hs : List (BitVec 2)) : Agent :=
  if sw = 1 then hs.foldl (fun a h => a.swapShape 3 h) a else a

/-- The number of elements of a record. -/
def Shape.count (x : Shape) : Nat :=
  x.size0.toNat * x.size1.toNat * x.size2.toNat * x.size3.toNat * x.size4.toNat * x.size5.toNat

/-- The byte address of element `n` in index order, dimension 0 innermost, modulo 2^64 (R92). -/
def Shape.addr (x : Shape) (n : Nat) : W64 :=
  let part (n : Nat) (size : BitVec 24) (stride : BitVec 32) : W64 := BitVec.ofNat 64 (n % size.toNat) * stride.signExtend 64
  let n1 := n / x.size0.toNat
  let n2 := n1 / x.size1.toNat
  let n3 := n2 / x.size2.toNat
  let n4 := n3 / x.size3.toNat
  let n5 := n4 / x.size4.toNat
  x.base.setWidth 64 + part n x.size0 x.stride0 + part n1 x.size1 x.stride1 + part n2 x.size2 x.stride2 +
    part n3 x.size3 x.stride3 + part n4 x.size4 x.stride4 + part n5 x.size5 x.stride5

/-- Every element address in index order. -/
def Shape.addrs (x : Shape) : List W64 := (List.range x.count).map x.addr

/-- The window address of a loom-store offset (R213). -/
def loomWindow (off : W64) : W64 := 0x00FFE00000000000#64 + off

/-- The device virtual address of an element: the loom window for tier 3 (R110, R213). -/
def elemVa (tier : BitVec 3) (a : W64) : W64 := if tier = 3 then loomWindow a else a

/-- The lowest address of a list of refusals decides (R110). -/
def lowest : List (Byte × W64) → Option (Byte × W64)
  | [] => none
  | r :: rs =>
    match lowest rs with
    | none => some r
    | some q => if q.2.toNat < r.2.toNat then some q else some r

/-- The window rules of R213 for a slot-7 access: the near window, and what reaches nothing, take 0x0A. -/
def windowRefuses (va : W64) (len : Nat) : Option (Byte × W64) :=
  (List.range ((len + 63) / 64)).findSome? (fun i =>
    let x := va + BitVec.ofNat 64 (64 * i)
    match regionOf x.toNat with
    | .near _ => some (0x0A, x)
    | .nothing => some (0x0A, x)
    | _ => none)

/-- An element of a tier-3 record beyond the loom store reaches nothing (R213). -/
def elemRefuses (tier : BitVec 3) (a : W64) (len : Nat) : Option (Byte × W64) :=
  if tier = 3 then (if 0x1800000 ≤ a.toNat then some (0x0A, loomWindow a) else none) else windowRefuses a len

/-- An access check as a cause and FADDR. -/
def State.refuses (s : State) (n : Nat) (w : Who) (q : Ask) (va : W64) (len : Nat) : Option (Byte × W64) :=
  (s.vaCheck n w q va.toNat len).map (fun r => (r.1, BitVec.ofNat 64 r.2))

/-- What is asked of a far load, of a released store, of an atomic or wide-cell add, and of WCREAD and TWAITA cells. -/
def askLoad : Ask := { wr := false, sync := false, rent := true, trans := true, near := false }
def askStore : Ask := { wr := true, sync := false, rent := true, trans := true, near := false }
def askAtomic : Ask := { wr := true, sync := true, rent := true, trans := true, near := false }
def askSync : Ask := { wr := false, sync := true, rent := true, trans := true, near := false }

/-! ## Far loads and stores (R214) -/

/-- Check 1 of a shape: tier, flags, width, 1 to 512 bytes. -/
def shapeFits (x : Shape) : Bool :=
  decide (3 ≤ x.tier.toNat ∧ x.tier.toNat ≤ 5) && decide (x.flags &&& 15 = 0) && decide (8 ≤ fmtBits x.fmt) &&
    decide (1 ≤ x.count * (fmtBits x.fmt / 8)) && decide (x.count * (fmtBits x.fmt / 8) ≤ 512)

/-- Checks 1 to 3 of a shape. -/
def shapeRefuses (pc : W64) (x : Shape) : Option (Byte × W64) :=
  if !shapeFits x then some (0x14, pc)
  else
    let w := fmtBits x.fmt / 8
    match x.addrs.find? (fun a => decide (a.toNat % w ≠ 0)) with
    | some a => some (0x0D, a)
    | none => lowest (x.addrs.filterMap (fun a => elemRefuses x.tier a w))

/-- The elements of a record, packed from byte 0 of the entry (R140, R214). -/
def shapeElems (x : Shape) : List Elem :=
  let k := fmtBits x.fmt / 8
  x.addrs.zipIdx.map (fun p => { addr := elemVa x.tier p.1, len := k, off := k * p.2 })

/-- The elements with the storage addresses that their translation gives for agent `n` and a PASID (R305). -/
def State.placed (s : State) (n : Nat) (q : Option (BitVec 20)) (es : List Elem) : List Elem :=
  es.map (fun e => { e with phys := s.storage n q e.addr.toNat })

/-- Checks 2 and 3 of an address. -/
def addrRefuses (va : W64) (align len : Nat) : Option (Byte × W64) :=
  if va.toNat % align ≠ 0 then some (0x0D, va) else windowRefuses va len

/-- The rent check and translation of the elements of a load (R109, R214 check 4, R305). -/
def State.loadRefuses (s : State) (n : Nat) (es : List Elem) : Option (Byte × W64) :=
  lowest (es.filterMap (fun e => s.refuses n (s.agent n).who askLoad e.addr e.len))

/-- The pitch that holds a device virtual address, for agent `n`. -/
def State.pitchAt (s : State) (n : Nat) (va : Nat) : Option Nat :=
  match regionOf va with
  | .rented => (s.findPitch 4 0 va).map (·.1)
  | .loom off => (s.findPitch 3 (loomOf n) off).map (·.1)
  | _ => none

/-- The check of a wide-cell access: a wide cell lies in a pitch (R110, 06 R150). -/
def State.wideRefuses (s : State) (n : Nat) (w : Who) (q : Ask) (va : W64) (len : Nat) : Option (Byte × W64) :=
  (s.refuses n w q va len).or (if (s.pitchAt n va.toNat).isNone then some (0x0A, va) else none)

/-- The pitches of a list of elements, each once. -/
def State.pitchesOf (s : State) (n : Nat) (es : List Elem) : List Nat :=
  (es.filterMap (fun e => s.pitchAt n e.addr.toNat)).dedup

/-- INFLIGHT rises by 1 (R109). -/
def State.raise (s : State) (ks : List Nat) : State :=
  ks.foldl (fun s k => s.modPitch k (fun p => { p with inflight := p.inflight + 1 })) s

/-- The gated queue of a context field (R24). -/
def gated (c : BitVec 2) : BitVec 4 := 12 + c.setWidth 4

/-- The load that a bundle has just put into the FLQ holds its pitches, on every rank. -/
def raiseLast (s : State) (n : Nat) : State :=
  (s.members n).foldl (fun s m =>
    match (s.agent m).flq.getLast? with
    | some l => s.raise l.pitches
    | none => s) s

/-- A far load (R214): its checks, and the elements it reads, translated at issue (R305). -/
def loadWord (iq c : BitVec 2) (chk : Agent → Option (Byte × W64)) (es : Agent → List Elem) (after : Agent → Agent) : Word :=
  { Word.base 7 iq with
    pushes := [gated c]
    chk := fun s n => (chk (s.agent n)).or (s.loadRefuses n (es (s.agent n)))
    act := fun s n a =>
      let els := s.placed n (s.agent n).who.pasid (es (s.agent n))
      let load : FarLoad :=
        { q := gated c, cyc := (s.agent n).icyc, id := 0, parts := 1, es := els, pitches := s.pitchesOf n els, dropped := false }
      (after { a with flq := a.flq ++ [load] }).event 0x0B 1
    post := raiseLast }

/-- Slot-7 words that a loom controller may not hold (R37). -/
def coreOnly (p : Prof) : Bool := profBase 7 p && !p.ctl

/-- A far store (R214): one withheld store, its bytes captured at issue. -/
def storeWord (iq : BitVec 2) (q : BitVec 4) (chk : Agent → Option (Byte × W64)) (es : Agent → List Elem)
    (after : Agent → Agent) : Word :=
  { Word.base 7 iq with
    prof := coreOnly
    ops := [⟨q, false⟩]
    sto := 1
    chk := fun s n => chk (s.agent n)
    act := fun s n a => after { a with wb := a.wb ++ [.store (es (s.agent n)) ((s.agent n).head q)] } }

/-- The 512 bytes of FLDS and FSTS, line by line: none of them lies in two pages. -/
def wholeElems (va : W64) : List Elem :=
  (List.range 8).map (fun i => { addr := va + BitVec.ofNat 64 (64 * i), len := 64, off := 64 * i })

/-- FLD (R214). -/
def wFld (iq c h : BitVec 2) (sw : BitVec 1) : Word :=
  loadWord iq c (fun a => shapeRefuses a.r.pc (recOf a h sw)) (fun a => shapeElems (recOf a h sw)) (fun a => a.exchange sw [h])
def execFld (iq c h : BitVec 2) (sw : BitVec 1) (s : State) : Host.Outcome State Fault Refusal :=
  issueAlone (wFld iq c h sw) s

/-- FLDS (R214). -/
def wFlds (iq c : BitVec 2) (x : BitVec 5) : Word :=
  loadWord iq c (fun a => addrRefuses (a.getS x) 64 512) (fun a => wholeElems (a.getS x)) (fun a => a)
def execFlds (iq c : BitVec 2) (x : BitVec 5) (s : State) : Host.Outcome State Fault Refusal := issueAlone (wFlds iq c x) s

/-- FST (R214). -/
def wFst (iq h : BitVec 2) (sw : BitVec 1) (q : BitVec 4) : Word :=
  storeWord iq q (fun a => shapeRefuses a.r.pc (recOf a h sw)) (fun a => shapeElems (recOf a h sw)) (fun a => a.exchange sw [h])
def execFst (iq h : BitVec 2) (sw : BitVec 1) (q : BitVec 4) (s : State) : Host.Outcome State Fault Refusal :=
  issueAlone (wFst iq h sw q) s

/-- FSTS (R214). -/
def wFsts (iq : BitVec 2) (x : BitVec 5) (q : BitVec 4) : Word :=
  storeWord iq q (fun a => addrRefuses (a.getS x) 64 512) (fun a => wholeElems (a.getS x)) (fun a => a)
def execFsts (iq : BitVec 2) (x : BitVec 5) (q : BitVec 4) (s : State) : Host.Outcome State Fault Refusal :=
  issueAlone (wFsts iq x q) s

/-! ## Atomics and wide cells (R215, R216) -/

/-- A withheld command of slot 7 with its checks at issue. -/
def cmdWord (iq : BitVec 2) (chk : Agent → Option (Byte × W64)) (cmd : Agent → Cmd) : Word :=
  { Word.base 7 iq with
    cmd := 1
    chk := fun s n => chk (s.agent n)
    act := fun s n a => { a with wb := a.wb ++ [cmd (s.agent n)] } }

/-- An atomic on the word at `x` (R215): `fetch` names the gated queue of a fetch form. -/
def atomicWord (iq : BitVec 2) (op : AtOp) (wd : BitVec 2) (x : BitVec 5) (v v2 : Agent → W64) (fetch : Option (BitVec 2)) : Word :=
  let wide := wd == 1
  { cmdWord iq (fun a => addrRefuses (a.getS x) (if wide then 8 else 4) (if wide then 8 else 4))
      (fun a => .atomic op wide (a.getS x) (v a) (v2 a) (fetch.map gated)) with
    pushes := (fetch.map gated).toList }

/-- AMADD (R215). -/
def wAmadd (iq : BitVec 2) (x y : BitVec 5) (wd : BitVec 2) : Word :=
  atomicWord iq .add wd x (fun a => a.getS y) (fun _ => 0) none
def execAmadd (iq : BitVec 2) (x y : BitVec 5) (wd : BitVec 2) (s : State) : Host.Outcome State Fault Refusal :=
  issueAlone (wAmadd iq x y wd) s

/-- AMADD.F (R215). -/
def wAmaddF (iq c : BitVec 2) (x y : BitVec 5) (wd : BitVec 2) : Word :=
  atomicWord iq .add wd x (fun a => a.getS y) (fun _ => 0) (some c)
def execAmaddF (iq c : BitVec 2) (x y : BitVec 5) (wd : BitVec 2) (s : State) : Host.Outcome State Fault Refusal :=
  issueAlone (wAmaddF iq c x y wd) s

/-- AMMAX (R215). -/
def wAmmax (iq : BitVec 2) (x y : BitVec 5) (wd : BitVec 2) : Word :=
  atomicWord iq .max wd x (fun a => a.getS y) (fun _ => 0) none
def execAmmax (iq : BitVec 2) (x y : BitVec 5) (wd : BitVec 2) (s : State) : Host.Outcome State Fault Refusal :=
  issueAlone (wAmmax iq x y wd) s

/-- AMMAX.F (R215). -/
def wAmmaxF (iq c : BitVec 2) (x y : BitVec 5) (wd : BitVec 2) : Word :=
  atomicWord iq .max wd x (fun a => a.getS y) (fun _ => 0) (some c)
def execAmmaxF (iq c : BitVec 2) (x y : BitVec 5) (wd : BitVec 2) (s : State) : Host.Outcome State Fault Refusal :=
  issueAlone (wAmmaxF iq c x y wd) s

/-- AMMIN (R215). -/
def wAmmin (iq : BitVec 2) (x y : BitVec 5) (wd : BitVec 2) : Word :=
  atomicWord iq .min wd x (fun a => a.getS y) (fun _ => 0) none
def execAmmin (iq : BitVec 2) (x y : BitVec 5) (wd : BitVec 2) (s : State) : Host.Outcome State Fault Refusal :=
  issueAlone (wAmmin iq x y wd) s

/-- AMMIN.F (R215). -/
def wAmminF (iq c : BitVec 2) (x y : BitVec 5) (wd : BitVec 2) : Word :=
  atomicWord iq .min wd x (fun a => a.getS y) (fun _ => 0) (some c)
def execAmminF (iq c : BitVec 2) (x y : BitVec 5) (wd : BitVec 2) (s : State) : Host.Outcome State Fault Refusal :=
  issueAlone (wAmminF iq c x y wd) s

/-- AMXCHG (R215). -/
def wAmxchg (iq c : BitVec 2) (x y : BitVec 5) (wd : BitVec 2) : Word :=
  atomicWord iq .xchg wd x (fun a => a.getS y) (fun _ => 0) (some c)
def execAmxchg (iq c : BitVec 2) (x y : BitVec 5) (wd : BitVec 2) (s : State) : Host.Outcome State Fault Refusal :=
  issueAlone (wAmxchg iq c x y wd) s

/-- AMCAS (R215): compares with s2, new value in s2 + 1. -/
def wAmcas (iq c : BitVec 2) (x : BitVec 5) (y : BitVec 4) (wd : BitVec 2) : Word :=
  atomicWord iq .cas wd x (fun a => a.getS (y ++ 0#1)) (fun a => a.getS (y ++ 1#1)) (some c)
def execAmcas (iq c : BitVec 2) (x : BitVec 5) (y : BitVec 4) (wd : BitVec 2) (s : State) :
    Host.Outcome State Fault Refusal := issueAlone (wAmcas iq c x y wd) s

/-- WCADD (R216). -/
def wWcadd (iq : BitVec 2) (x y : BitVec 5) (code : BitVec 8) : Word :=
  cmdWord iq (fun a => addrRefuses (a.getS x) 64 64) (fun a => .wcAdd (a.getS x) code ((a.getS y).setWidth 32))
def execWcadd (iq : BitVec 2) (x y : BitVec 5) (code : BitVec 8) (s : State) : Host.Outcome State Fault Refusal :=
  issueAlone (wWcadd iq x y code) s

/-- WCADDV (R216): one withheld command. -/
def wWcaddv (iq : BitVec 2) (x : BitVec 5) (q : BitVec 4) (code : BitVec 8) : Word :=
  { cmdWord iq (fun a => addrRefuses (a.getS x) 64 8192) (fun a => .wcAddV (a.getS x) code (a.head q)) with
    prof := coreOnly
    ops := [⟨q, false⟩] }
def execWcaddv (iq : BitVec 2) (x : BitVec 5) (q : BitVec 4) (code : BitVec 8) (s : State) :
    Host.Outcome State Fault Refusal := issueAlone (wWcaddv iq x q code) s

/-- The WCREAD that a bundle has just withheld holds its pitch, on every rank (R109). -/
def raiseRead (s : State) (n : Nat) : State :=
  (s.members n).foldl (fun s m =>
    match (s.agent m).wb.getLast? with
    | some (.wcRead _ _ ks _) => s.raise ks
    | _ => s) s

/-- WCREAD (R216): rent-checked at issue too, SYNC required, and translated there (R305); INFLIGHT rises at once (R109). -/
def wWcread (iq c : BitVec 2) (x : BitVec 5) : Word :=
  let chk (a : Agent) : Option (Byte × W64) := addrRefuses (a.getS x) 64 64
  { Word.base 7 iq with
    cmd := 1
    pushes := [gated c]
    act := fun s n a =>
      let va := (s.agent n).getS x
      { a with wb := a.wb ++ [.wcRead va (gated c) (s.pitchAt n va.toNat).toList (s.storage n (s.agent n).who.pasid va.toNat)] }
    post := raiseRead
    chk := fun s n => (chk (s.agent n)).or (s.wideRefuses n (s.agent n).who askSync ((s.agent n).getS x) 64) }
def execWcread (iq c : BitVec 2) (x : BitVec 5) (s : State) : Host.Outcome State Fault Refusal :=
  issueAlone (wWcread iq c x) s

/-! ## Engine operations (R206, R217, 08 R202, 11 R251–R255) -/

/-- The number that the next operation of context `c` receives (R205, R206). -/
def Agent.nextNum (a : Agent) (c : BitVec 3) : W64 := Tab.get 0 a.r.next c.toNat + 1

/-- An engine operation: numbered and captured at issue, withheld. `op` is its opcode, `c` the context code, `hs` the named
records. -/
def engineWord (iq : BitVec 2) (op : BitVec 6) (c : BitVec 3) (sw : BitVec 1) (hs : List (BitVec 2)) (dst src : Agent → Shape)
    (x y : Agent → W64) (enc : Bool) : Word :=
  { Word.base 7 iq with
    cmd := 1
    act := fun s n a =>
      let pre := s.agent n
      let e : EngOp :=
        { op := op, ctx := c, num := pre.nextNum c, dst := dst pre, src := src pre, s := x pre, s2 := y pre, enc := enc,
          docreg := pre.r.docreg, kvslot := pre.r.kvslot, kvtok := pre.r.kvtok, kvlayer := pre.r.kvlayer,
          devthr := pre.r.devthr.setWidth 32 }
      let a := { a with
        wb := a.wb ++ [Cmd.engine e]
        r := { a.r with next := Tab.modify 0 a.r.next c.toNat (· + 1) } }
      a.exchange sw hs }

/-- An operation's unused record and scalar. -/
def noShape (_ : Agent) : Shape := Shape.reset
def noScalar (_ : Agent) : W64 := 0

/-- Context codes of x0–x3, w0, and k0, k1 (R24). -/
def copyCtx (c : BitVec 2) : BitVec 3 := c.setWidth 3
def spliceCtx (c : BitVec 2) : BitVec 3 := 5 + c.setWidth 3

/-- XCOPY (R217). -/
def wXcopy (iq c h : BitVec 2) (sw : BitVec 1) (hsrc : BitVec 2) : Word :=
  engineWord iq 0x10 (copyCtx c) sw [h, hsrc] (fun a => recOf a h sw) (fun a => recOf a hsrc sw) noScalar noScalar false
def execXcopy (iq c h : BitVec 2) (sw : BitVec 1) (hsrc : BitVec 2) (s : State) : Host.Outcome State Fault Refusal :=
  issueAlone (wXcopy iq c h sw hsrc) s

/-- XGATHER (R217). -/
def wXgather (iq c h : BitVec 2) (sw : BitVec 1) (x y : BitVec 5) (hsrc : BitVec 2) : Word :=
  engineWord iq 0x11 (copyCtx c) sw [h, hsrc] (fun a => recOf a h sw) (fun a => recOf a hsrc sw) (fun a => a.getS x)
    (fun a => a.getS y) false
def execXgather (iq c h : BitVec 2) (sw : BitVec 1) (x y : BitVec 5) (hsrc : BitVec 2) (s : State) :
    Host.Outcome State Fault Refusal := issueAlone (wXgather iq c h sw x y hsrc) s

/-- XSCATTER (R217). -/
def wXscatter (iq c h : BitVec 2) (sw : BitVec 1) (x y : BitVec 5) (hsrc : BitVec 2) : Word :=
  engineWord iq 0x12 (copyCtx c) sw [h, hsrc] (fun a => recOf a h sw) (fun a => recOf a hsrc sw) (fun a => a.getS x)
    (fun a => a.getS y) false
def execXscatter (iq c h : BitVec 2) (sw : BitVec 1) (x y : BitVec 5) (hsrc : BitVec 2) (s : State) :
    Host.Outcome State Fault Refusal := issueAlone (wXscatter iq c h sw x y hsrc) s

/-- XFILL (R217). -/
def wXfill (iq c h : BitVec 2) (sw : BitVec 1) (x : BitVec 5) : Word :=
  engineWord iq 0x13 (copyCtx c) sw [h] (fun a => recOf a h sw) noShape (fun a => a.getS x) noScalar false
def execXfill (iq c h : BitVec 2) (sw : BitVec 1) (x : BitVec 5) (s : State) : Host.Outcome State Fault Refusal :=
  issueAlone (wXfill iq c h sw x) s

/-- WSTREAM (08 R202). -/
def wWstream (iq h : BitVec 2) (sw enc : BitVec 1) (hsrc : BitVec 2) : Word :=
  { engineWord iq 0x14 4 sw [h, hsrc] (fun a => recOf a h sw) (fun a => recOf a hsrc sw) noScalar noScalar (enc == 1) with
    prof := coreOnly }
def execWstream (iq h : BitVec 2) (sw enc : BitVec 1) (hsrc : BitVec 2) (s : State) : Host.Outcome State Fault Refusal :=
  issueAlone (wWstream iq h sw enc hsrc) s

/-- XSPLICE (11 R251). -/
def wXsplice (iq c h : BitVec 2) (sw : BitVec 1) (x y : BitVec 5) : Word :=
  { engineWord iq 0x15 (spliceCtx c) sw [h] noShape (fun a => recOf a h sw) (fun a => a.getS x) (fun a => a.getS y) false with
    prof := coreOnly }
def execXsplice (iq c h : BitVec 2) (sw : BitVec 1) (x y : BitVec 5) (s : State) : Host.Outcome State Fault Refusal :=
  issueAlone (wXsplice iq c h sw x y) s

/-- XDARN (11 R253). -/
def wXdarn (iq c h : BitVec 2) (sw : BitVec 1) (x y : BitVec 5) : Word :=
  { engineWord iq 0x16 (spliceCtx c) sw [h] noShape (fun a => recOf a h sw) (fun a => a.getS x) (fun a => a.getS y) false with
    prof := coreOnly }
def execXdarn (iq c h : BitVec 2) (sw : BitVec 1) (x y : BitVec 5) (s : State) : Host.Outcome State Fault Refusal :=
  issueAlone (wXdarn iq c h sw x y) s

/-- XDARNC (11 R255). -/
def wXdarnc (iq c : BitVec 2) (x : BitVec 5) : Word :=
  { engineWord iq 0x17 (spliceCtx c) 0 [] noShape noShape (fun a => a.getS x) noScalar false with prof := coreOnly }
def execXdarnc (iq c : BitVec 2) (x : BitVec 5) (s : State) : Host.Outcome State Fault Refusal :=
  issueAlone (wXdarnc iq c x) s

/-! ## Notes and counter reads (R221, R223) -/

/-- A context code for an agent: a loom controller has x0–x3 only (R205). -/
def ctxOk (c : BitVec 3) (p : Prof) : Bool := !p.ctl || decide (c.toNat ≤ 3)

/-- The timeline of a context as the agent's task holds it (R208, R209). -/
def Agent.timeline (a : Agent) (c : BitVec 3) : EngCtx := a.ctx a.who.tslot.toNat c.toNat

/-- XNOTE (R221): a request that COUNT has already reached makes the note pending at once. -/
def wXnote (iq : BitVec 2) (x : BitVec 5) (c : BitVec 3) : Word :=
  { Word.base 7 iq with
    prof := fun p => profBase 7 p && ctxOk c p
    act := fun s n a =>
      let v := (s.agent n).getS x
      let t := (s.agent n).timeline c
      if v ≠ 0 ∧ v.toNat ≤ t.count.toNat then
        let note : Note := { num := t.count.setWidth 64, status := t.lastst }
        { a with r := { a.r with
          noteReq := Tab.set 0 a.r.noteReq c.toNat 0
          notes := Tab.set none a.r.notes c.toNat (some note) } }
      else { a with r := { a.r with noteReq := Tab.set 0 a.r.noteReq c.toNat v } } }
def execXnote (iq : BitVec 2) (x : BitVec 5) (c : BitVec 3) (s : State) : Host.Outcome State Fault Refusal :=
  issueAlone (wXnote iq x c) s

/-- TREAD (R223): the cell sampled at issue. -/
def wTread (iq : BitVec 2) (x : BitVec 5) (c : BitVec 3) : Word :=
  { Word.base 7 iq with
    prof := fun p => profQuery p && ctxOk c p
    writes := [.s x]
    act := fun s n a => a.fly (s.agent n).icyc 1 (.s x ((s.agent n).timeline c).cell) }
def execTread (iq : BitVec 2) (x : BitVec 5) (c : BitVec 3) (s : State) : Host.Outcome State Fault Refusal :=
  issueAlone (wTread iq x c) s

/-! ## Rent instructions (04 R105, R115–R117) -/

/-- A rent instruction: its request is at Genay once the bundle has issued, and issue stalls for the reply (R105). `k` counts
the withheld command, `d` is the output register. -/
def rentWord (iq : BitVec 2) (op : BitVec 6) (k : Nat) (d : BitVec 5) (x y : Agent → W64) (att tier : BitVec 3) : Word :=
  { Word.base 7 iq with
    writes := [.s d]
    cmd := k
    act := fun s n a =>
      let pre := s.agent n
      { a with stall := .genay { op := op, x := x pre, y := y pre, d := d, att := att, tier := tier, cyc := pre.icyc } } }

/-- RENT (R117). -/
def wRent (iq : BitVec 2) (x y : BitVec 5) (att tier : BitVec 3) : Word :=
  rentWord iq 0x20 1 x (fun a => a.getS x) (fun a => a.getS y) att tier
def execRent (iq : BitVec 2) (x y : BitVec 5) (att tier : BitVec 3) (s : State) : Host.Outcome State Fault Refusal :=
  issueAlone (wRent iq x y att tier) s

/-- RENEW (R117). -/
def wRenew (iq : BitVec 2) (x y : BitVec 5) (tier : BitVec 3) : Word :=
  rentWord iq 0x21 1 y (fun a => a.getS x) (fun a => a.getS y) 0 tier
def execRenew (iq : BitVec 2) (x y : BitVec 5) (tier : BitVec 3) (s : State) : Host.Outcome State Fault Refusal :=
  issueAlone (wRenew iq x y tier) s

/-- PREPAY (R117). -/
def wPrepay (iq : BitVec 2) (x y : BitVec 5) (tier : BitVec 3) : Word :=
  rentWord iq 0x22 1 y (fun a => a.getS x) (fun a => a.getS y) 0 tier
def execPrepay (iq : BitVec 2) (x y : BitVec 5) (tier : BitVec 3) (s : State) : Host.Outcome State Fault Refusal :=
  issueAlone (wPrepay iq x y tier) s

/-- SUBLET (R117): the rw bit travels as the attribute. -/
def wSublet (iq : BitVec 2) (x y : BitVec 5) (rw : BitVec 1) (tier : BitVec 3) : Word :=
  rentWord iq 0x23 1 y (fun a => a.getS x) (fun a => a.getS y) (rw.setWidth 3) tier
def execSublet (iq : BitVec 2) (x y : BitVec 5) (rw : BitVec 1) (tier : BitVec 3) (s : State) :
    Host.Outcome State Fault Refusal := issueAlone (wSublet iq x y rw tier) s

/-- VACATE (R117). -/
def wVacate (iq : BitVec 2) (x y : BitVec 5) (tier : BitVec 3) : Word :=
  rentWord iq 0x24 1 y (fun a => a.getS x) noScalar 0 tier
def execVacate (iq : BitVec 2) (x y : BitVec 5) (tier : BitVec 3) (s : State) : Host.Outcome State Fault Refusal :=
  issueAlone (wVacate iq x y tier) s

/-- RENTQ (R117): a query, not withheld. -/
def wRentq (iq : BitVec 2) (x y : BitVec 5) (tier : BitVec 3) : Word :=
  { rentWord iq 0x25 0 y (fun a => a.getS x) noScalar 0 tier with prof := profQuery }
def execRentq (iq : BitVec 2) (x y : BitVec 5) (tier : BitVec 3) (s : State) : Host.Outcome State Fault Refusal :=
  issueAlone (wRentq iq x y tier) s

/-- ALLOWQ (R117): a query, not withheld. -/
def wAllowq (iq : BitVec 2) (x : BitVec 5) : Word := { rentWord iq 0x26 0 x noScalar noScalar 0 0 with prof := profQuery }
def execAllowq (iq : BitVec 2) (x : BitVec 5) (s : State) : Host.Outcome State Fault Refusal := issueAlone (wAllowq iq x) s

/-! ## Fabric, mailbox and launch commands (16 R334–R340, 13 R296) -/

/-- The agent that is its die's communication master (00 R2, 23 R372). -/
def State.isMaster (s : State) (n : Nat) : Bool :=
  isCtl n && decide (loomOf n % 6 = (Tab.get 0 s.cfg.master (dieOf n)).toNat)

/-- The master of a die. -/
def State.masterOf (s : State) (d : Nat) : Nat := 288 + 6 * d + (Tab.get 0 s.cfg.master d).toNat

/-- XQP, XMBOX and XLAUNCH: loom controllers only, in no handler (R37). -/
def ctlOnly (p : Prof) : Bool := p.ctl && decide (p.mode = .task)

/-- The checks of the 64 bytes at `x` (R334, R335, R296). -/
def State.entryRefuses (s : State) (n : Nat) (va : W64) : Option (Byte × W64) :=
  (addrRefuses va 64 64).or (s.refuses n (s.agent n).who askLoad va 64)

/-- XQP (R334, R335): ENTRY_READ ends the stall and captures the entry. -/
def wXqp (iq : BitVec 2) (x y : BitVec 5) : Word :=
  { Word.base 7 iq with
    prof := ctlOnly
    perm := fun s n => !s.isMaster n
    cmd := 1
    chk := fun s n =>
      let a := s.agent n
      if (a.getS x).toNat % 64 ≠ 0 then some (0x0D, a.getS x)
      else if 1024 ≤ (a.getS y).toNat then some (0x14, a.r.pc)
      else s.entryRefuses n (a.getS x)
    act := fun s n a => { a with stall := .xqp ((s.agent n).getS x) (((s.agent n).getS y).setWidth 10) } }
def execXqp (iq : BitVec 2) (x y : BitVec 5) (s : State) : Host.Outcome State Fault Refusal := issueAlone (wXqp iq x y) s

/-- XMBOX (R334, R340). -/
def wXmbox (iq : BitVec 2) (x y : BitVec 5) : Word :=
  { Word.base 7 iq with
    prof := ctlOnly
    perm := fun s n => s.isMaster n
    writes := [.s y]
    cmd := 1
    chk := fun s n => s.entryRefuses n ((s.agent n).getS x)
    act := fun s n a => { a with stall := .xmbox ((s.agent n).getS x) y (s.agent n).icyc } }
def execXmbox (iq : BitVec 2) (x y : BitVec 5) (s : State) : Host.Outcome State Fault Refusal := issueAlone (wXmbox iq x y) s

/-- XARM (R334, R339): where its counter lies is checked at release. -/
def wXarm (iq : BitVec 2) (x y : BitVec 5) : Word :=
  cmdWord iq
    (fun a =>
      if (a.getS x).toNat % 16 ≠ 0 then some (0x0D, a.getS x)
      else if a.getS y &&& ~~~0x000001FF3FFFFFFF#64 ≠ 0 then some (0x14, a.r.pc) else none)
    (fun a => .xarm (a.getS x) (a.getS y))
def execXarm (iq : BitVec 2) (x y : BitVec 5) (s : State) : Host.Outcome State Fault Refusal := issueAlone (wXarm iq x y) s

/-- XLAUNCH (13 R296). -/
def wXlaunch (iq : BitVec 2) (x y : BitVec 5) : Word :=
  { Word.base 7 iq with
    prof := ctlOnly
    writes := [.s y]
    cmd := 1
    chk := fun s n => s.entryRefuses n ((s.agent n).getS x)
    act := fun s n a => { a with stall := .xlaunch ((s.agent n).getS x) y (s.agent n).icyc } }
def execXlaunch (iq : BitVec 2) (x y : BitVec 5) (s : State) : Host.Outcome State Fault Refusal :=
  issueAlone (wXlaunch iq x y) s

end Sys2Proof.Machine
end

