-- ==== Sys2Proof/Machine/Lapse.lean ====
section
/-!
DEFINITION. Events reaching a latch, and what follows when a pitch lapses or its INFLIGHT falls (04 R102, R109–R113, 10 R237, R241,
16 R333, R339).
-/

namespace Sys2Proof.Machine

/-! ## Events (R237, R241) -/

/-- The size of one save-area region (13 R282). -/
def saveRegion : Nat := 0x18000

/-- The agents of a loom task (R284): the twelve ranks of a ganged loom, else its one agent. -/
def LoomTask.agents (x : LoomTask) : List Nat :=
  if x.task.kind = 1 then (List.range 12).map (fun k => 12 * loomOf x.agent + k) else [x.agent]

/-- The save-area region of agent `b` of a loom task (R282). -/
def LoomTask.region (x : LoomTask) (b : Nat) : Nat := x.task.save.toNat + (if x.task.kind = 1 then saveRegion * rankOf b else 0)

/-- Every loom task with the numbers of its set and its place. -/
def State.loomTasks (s : State) : List (Nat × Nat × LoomTask) :=
  s.tasksets.flatMap (fun e => match e.2 with
    | some t => t.tasks.zipIdx.map (fun x => (e.1, x.2, x.1))
    | none => [])

/-- Whether a loom task is stopped. -/
def LoomTask.isStopped (x : LoomTask) : Bool :=
  match x.stat with
  | .stopped _ => true
  | _ => false

/-- An event for a stopped task sets the latch in its save area (R241): bit 1 of MISC (12 R277). -/
def State.eventStopped (s : State) (b : Nat) (acct : BitVec 10) (ctx : BitVec 16) : State :=
  match s.loomTasks.find? (fun x => x.2.2.isStopped && x.2.2.task.account == acct && x.2.2.task.context == ctx &&
      x.2.2.agents.contains b) with
  | none => s
  | some (_, _, x) =>
    let a := s.storage b x.task.pasid (x.region b + 7)
    s.put a [s.mem.read a ||| 2]

/-- An event sets the latch of agent `b` (R237). -/
def State.latchEvent (s : State) (b : Nat) : State :=
  let a := s.agent b
  s.setAgent b { a with r := { a.r with latch := true }, evSince := true }

/-- An event for the task of a context placed at agent `b` (R241). -/
def State.deliverEvent (s : State) (b : Nat) (acct : BitVec 10) (ctx : BitVec 16) : State :=
  match (s.agent b).task with
  | some t => if t.account = acct ∧ t.context = ctx then s.latchEvent b else s.eventStopped b acct ctx
  | none => s.eventStopped b acct ctx

/-! ## The lapse (R112, R339) -/

/-- The contexts that a lapse releases with their expiry causes: the owner's, and each sublessee's (R112). -/
def Pitch.waiters (p : Pitch) : List (BitVec 10 × BitVec 16 × Byte) :=
  (p.account, p.context, 0x08) :: p.subs.map (fun x => (x.account, x.context, 0x09))

/-- The cause for a context. -/
def Pitch.causeFor (p : Pitch) (w : Who) : Option Byte :=
  (p.waiters.find? (fun x => x.1 == w.account && x.2.1 == w.context)).map (fun x => x.2.2)

/-- Whether the address that agent `m` names lies in pitch `p`. -/
def Pitch.covers (p : Pitch) (m : Nat) (va : Nat) : Bool :=
  match regionOf va with
  | .rented => p.holds 4 0 va
  | .loom off => p.holds 3 (loomOf m) off
  | _ => false

/-- A core in TWAITA on a cell of the pitch takes the expiry fault; a core in WFE receives an event (R112 step 2). -/
def State.releaseWaiter (p : Pitch) (s : State) (m : Nat) : State :=
  let a := s.agent m
  match a.wait, p.causeFor a.who with
  | .twaita va _, some c =>
    if p.covers m va.toNat then s.takeTrap m { cause := c, slot := 0, imm := 0, faddr := va } false else s
  | .wfe, some _ => s.latchEvent m
  | _, _ => s

/-- An arm counter of a lapsed pitch: EXPIRED := 1, ARMED := 0 (R339). -/
def State.expireArm (s : State) (va : Nat) : State :=
  let a := s.storage 0 none va + 11
  s.put a [(s.mem.read a &&& 0xEF) ||| 0x40]

/-- TRIG of a work entry (R336). -/
def trigOf (e : BitVec 512) : W64 := e.extractLsb' 256 64

/-- The entries that wait on counters of a lapsed pitch complete EXPIRED (R112, R337). -/
def Work.expire (p : Pitch) (w : Work) : Work :=
  if !w.handed && decide (trigOf w.entry ≠ 0) && p.holds 4 0 (trigOf w.entry).toNat then
    { w with handed := true, received := true, cc := 0x01 }
  else w

/-- Steps 2 and 3 of R112 for a SYNC pitch. -/
def State.releaseWaiters (s : State) (p : Pitch) : State :=
  let s := (s.agents.map (·.1)).foldl (State.releaseWaiter p) s
  let s := ((s.arms.map (fun x => 16 * x.1)).filter (fun va => p.holds 4 0 va)).foldl State.expireArm s
  { s with work := s.work.map (Work.expire p) }

/-- A pitch enters the lapsed state (R102, R112): its sublets end, the host's copies of its lines are recalled (R114), and its waiters
are released. -/
def State.lapse (s : State) (k : Nat) : State :=
  let p := s.pitch k
  let s := s.setPitch k { p with
    state := .lapsed, lapsedAt := s.now.toNat, endedSubs := p.subs, subs := [], vacWhenIdle := false, drained := false, tentBy := none }
  let s := if 3 ≤ p.tier.toNat then s.withdraw p else s
  if p.att.getLsbD 0 then s.releaseWaiters p else s

/-- A charge on a pitch. -/
def State.chargePitch (s : State) (k : Nat) (x : Nat) : State :=
  (s.modAccount (s.pitch k).account (·.charge x)).modPitch k (fun p => { p with charged := p.charged + x })

/-- Whether the expiry rows of R102 apply to a pitch now (R103). -/
def State.expiryDue (s : State) (k : Nat) : Bool :=
  let p := s.pitch k
  decide (p.state = .leased) && decide (p.paid ≤ s.now.toNat) && !s.extensionPending k

/-- An overstay tick is charged (R102, R119). -/
def State.chargeOverstay (s : State) (k : Nat) : State :=
  let p := s.pitch k
  let x := 2 * p.length * p.rate
  let s := (s.chargePitch k x).modAccount p.account (fun c => { c with overstay := satAdd c.overstay x })
  s.modPitch k (fun p => { p with lapsedAt := s.now.toNat })

/-- PITCH_EXPIRY (R102, R103): the tick has reached P. -/
def State.pitchExpiry (s : State) (k : Nat) : State :=
  if s.expiryDue k then
    if (s.pitch k).inflight = 0 then s.lapse k
    else (s.modPitch k (fun p => { p with state := .overstay })).chargeOverstay k
  else s

/-- OVERSTAY_TICK (R102): a tick that begins with INFLIGHT above 0. -/
def State.overstayTick (s : State) (k : Nat) : State :=
  let p := s.pitch k
  if p.state = .overstay ∧ p.lapsedAt < s.now.toNat then s.chargeOverstay k else s

/-- A pitch with INFLIGHT 0: an overstay ends, and a deferred vacating takes place (R102, R111); one that a drain asked for releases the
waiters of a SYNC pitch first (13 R298). -/
def State.settleIdle (s : State) (k : Nat) : State :=
  let p := s.pitch k
  match p.state with
  | .overstay => s.lapse k
  | .leased => if p.vacWhenIdle then (if p.drained && p.att.getLsbD 0 then s.releaseWaiters p else s).vacate k else s
  | _ => s

/-- INFLIGHT of a pitch falls by 1. What a tick that began with INFLIGHT above 0 owes the pitch comes first (R102). -/
def State.fall (s : State) (k : Nat) : State :=
  let s := (s.pitchExpiry k).overstayTick k
  let p := s.pitch k
  let s := s.setPitch k { p with inflight := p.inflight - 1 }
  if p.inflight = 1 then s.settleIdle k else s

/-- INFLIGHT falls on every pitch that an access held. -/
def State.fallAll (s : State) (ks : List Nat) : State := ks.foldl State.fall s

end Sys2Proof.Machine
end

