-- ==== Sys2Proof/Machine/Fabric.lean ====
section
/-!
DEFINITION. Queue pairs, work entries, arm counters and the mailbox (16 R331–R340).
-/

namespace Sys2Proof.Machine

/-! ## Bytes over many pages -/

/-- The pieces of a range, page by page: address and length. -/
def pagePieces (va len : Nat) : List (Nat × Nat) :=
  (List.range ((va % 4096 + len + 4095) / 4096)).map (fun i =>
    let lo := max va (4096 * (va / 4096 + i))
    (lo, min (va + len) (4096 * (va / 4096 + i + 1)) - lo))

/-- The first poisoned address of a range. -/
def State.vaPoison (s : State) (n : Nat) (q : Option (BitVec 20)) (va len : Nat) : Option Nat :=
  (pagePieces va len).findSome? (fun p =>
    match regionOf p.1 with
    | .counter _ => none
    | _ => (poisonedAt s (s.storage n q p.1) p.2).map (fun x => p.1 + (x - s.storage n q p.1)))

/-- Write a range of any length. -/
def State.vaStore (s : State) (n : Nat) (q : Option (BitVec 20)) (va : Nat) (bs : List Byte) : State :=
  (pagePieces va bs.length).foldl (fun t p => t.put (s.storage n q p.1) ((bs.drop (p.1 - va)).take p.2)) s

/-- What an access of the device to a range does beside reading or writing it (04 R114, 14 R310). -/
def State.touchVa (s : State) (n : Nat) (q : Option (BitVec 20)) (va len : Nat) : State :=
  (pagePieces va len).foldl (fun t p => t.touch (s.storage n q p.1) p.2) s

/-! ## Fields of a work entry (R336) -/

def workOp (e : BitVec 512) : Byte := byteAt e 0
def workRed (e : BitVec 512) : Byte := byteAt e 1
def workFmt (e : BitVec 512) : Byte := byteAt e 2
def workIdx (e : BitVec 512) : Nat := (byteAt e 3).toNat
def workN (e : BitVec 512) : Nat := (byteAt e 4).toNat
def workSrc (e : BitVec 512) : W64 := e.extractLsb' 64 64
def workDst (e : BitVec 512) : W64 := e.extractLsb' 128 64
def workLen (e : BitVec 512) : Nat := (e.extractLsb' 192 32).toNat
def workRctr (e : BitVec 512) : W64 := e.extractLsb' 320 64
def workLctr (e : BitVec 512) : W64 := e.extractLsb' 384 64
def workDone (e : BitVec 512) : W64 := e.extractLsb' 448 64

/-- Whether RED asks for fixed order, and for a switch reduction point. -/
def workFixed (e : BitVec 512) : Bool := (workRed e).getLsbD 3
def workSwitch (e : BitVec 512) : Bool := workOp e == 2 && (workRed e).getLsbD 2

/-- Bytes of an element that WRITERED reduces. -/
def redWidth (fmt : Byte) : Nat := if fmt = 0x01 then 2 else 4

/-- Whether SRC may lie at an address: tiers 3 to 5, the loom window being tier 3's (R213, R336). -/
def srcFits (va : W64) : Bool :=
  match regionOf va.toNat with
  | .rented => true
  | .loom _ => true
  | _ => false

/-- Whether every field is in its place (R336). -/
def workFits (e : BitVec 512) : Bool :=
  let len := workLen e
  e.extractLsb' 40 24 == 0 && e.extractLsb' 224 32 == 0 && decide (1 ≤ len ∧ len ≤ 2 ^ 24) &&
    decide ((trigOf e).toNat % 16 = 0) && decide ((workRctr e).toNat % 16 = 0) && decide ((workLctr e).toNat % 16 = 0) &&
    decide ((workDone e).toNat % 8 = 0) && srcFits (workSrc e) &&
    (match (workOp e).toNat with
    | 1 => e.extractLsb' 8 32 == 0
    | 2 =>
      (workRed e).extractLsb' 4 4 == 0 && (workRed e).extractLsb' 0 2 != 3 &&
        (workFmt e == 0x00 || workFmt e == 0x01 || workFmt e == 0x03) && decide (len % redWidth (workFmt e) = 0) &&
        (if workFixed e then decide (1 ≤ workN e ∧ workN e ≤ 16 ∧ workIdx e < workN e)
         else decide (workIdx e = 0 ∧ workN e = 0))
    | 3 => e.extractLsb' 8 32 == 0 && decide (len % 64 = 0) && workSrc e == 0 && workRctr e == 0
    | _ => false)

/-! ## Arm counters (R332, R333) -/

/-- The checks of an arm counter for a context: SYNC, tier 4 or 5, else 0x0C (R110, R335, R339). -/
def State.armRefuses (s : State) (n : Nat) (w : Who) (wr : Bool) (va : W64) : Option (Byte × W64) :=
  match regionOf va.toNat with
  | .rented => s.refuses n w { wr := wr, sync := true, rent := true, trans := true, near := false } va 16
  | .outside => some (0x0B, va)
  | _ => some (0x0C, va)

/-- Word `k` of the counter at `va`. -/
def State.armWord (s : State) (va k : Nat) : Nat := s.mem.num (s.storage 0 none va + 8 * k) 8

/-- Write word `k` of the counter at `va`. -/
def State.putArmWord (s : State) (va k x : Nat) : State := s.put (s.storage 0 none va + 8 * k) (bytesOfNat 8 x)

/-- The event of a firing leaves the VOP for agent `b` (R227, R333). -/
def State.armEvent (s : State) (va b : Nat) : State :=
  match Tab.get none s.arms (va / 16) with
  | some (acct, ctx) =>
    if b < 312 then
      let owner : Who := { account := acct, context := ctx, pasid := none, tslot := 0, ts := 0, j := 0 }
      let t : Transit :=
        { agent := 312, owner := owner, seq := 0, load := .cmd (.event (BitVec.ofNat 64 b)), passed := .vop,
          route := [.dop (dieOf b), .lop (loomOf b), .agent b], home := .agent b }
      { s with transit := s.transit ++ [t] }
    else s
  | none => s

/-! ## Handing an entry to its queue pair (R335, R337) -/

/-- A queue-pair record. -/
def State.qpair (s : State) (k : Nat) : QPair := Tab.get QPair.reset s.qpairs k

/-- Requests of an account in a die's mailbox, oldest first, at most `k` (R337 TAKE). -/
def oldest (acct : BitVec 10) (k : Nat) (l : List Slot) : List Slot :=
  (l.filter (fun x => x.account == acct && x.req.isSome)).take k

/-- TAKE moves the oldest requests of the poster's account to DST and frees their slots (R337, R340). -/
def State.takeRequests (s : State) (w : Work) : State × Nat :=
  let d := dieOf w.agent
  let xs := oldest w.owner.account (workLen w.entry / 64) (Tab.get [] s.mailbox d)
  let data := xs.flatMap (fun x => bytesOf (x.req.getD 0) 64)
  let s := s.vaStore w.agent w.owner.pasid (workDst w.entry).toNat data
  ({ s with mailbox := Tab.modify [] s.mailbox d (fun l => l.filter (fun x => !xs.contains x)) }, xs.length)

/-- Count fabric bytes (R119). -/
def State.fabricBytes (s : State) (acct : BitVec 10) (k : Nat) : State :=
  s.modAccount acct (fun c => { c with fabric := satAdd c.fabric k })

/-- An entry is handed to its queue pair: SRC, or DST of a TAKE, is checked and read (R337). -/
def State.handWork (s : State) (w : Work) : State × Work :=
  let e := w.entry
  let len := workLen e
  let h := { w with handed := true }
  if workOp e = 3 then
    match s.refuses w.agent w.owner askStore (workDst e) len with
    | some _ => (s, { h with received := true, cc := 0x09 })
    | none =>
      let (s, k) := s.takeRequests w
      (s, { h with received := true, moved := k })
  else
    match s.refuses w.agent w.owner askLoad (workSrc e) len, s.vaPoison w.agent w.owner.pasid (workSrc e).toNat len with
    | none, none =>
      let data := s.vaBytes w.agent w.owner.pasid (workSrc e).toNat len
      let q := s.qpair w.qp.toNat
      let s := (s.touchVa w.agent w.owner.pasid (workSrc e).toNat len).fabricBytes w.owner.account len
      (if q.loop then s else { s with sent := s.sent ++ [.fabric q.node e data] }, { h with data := data })
    | _, _ => (s, { h with received := true, cc := 0x09 })

/-- Hand over entry number `k`: it takes its place behind those handed before (R335). -/
def State.hand (s : State) (k : Nat) : State :=
  match s.work.find? (fun w => w.num == k) with
  | none => s
  | some w =>
    let (s, w) := s.handWork w
    { s with work := s.work.filter (fun x => x.num != k) ++ [w] }

/-- Every entry that waits on the counter at `va`, in post order. -/
def State.waitingOn (s : State) (va : Nat) : List Nat :=
  (s.work.filter (fun w => !w.handed && decide ((trigOf w.entry).toNat = va))).map (·.num)

/-- The counter at `va` fires when ARMED = 1 and COUNT ≥ THRESH (R333). -/
def State.fire (s : State) (va : Nat) : State :=
  let w1 := s.armWord va 1
  if w1.testBit 28 && decide (w1 % 2 ^ 28 ≤ s.armWord va 0 % 2 ^ 28) then
    let s := s.putArmWord va 1 (w1 - 2 ^ 28 + (if w1.testBit 29 then 0 else 2 ^ 29))
    let s := (s.waitingOn va).foldl State.hand s
    if w1.testBit 31 then s.armEvent va (w1 / 2 ^ 32 % 512) else s
  else s

/-- A credit of `k` bytes: COUNT saturates at 2^28 − 1 (R332), then R333. -/
def State.credit (s : State) (va k : Nat) : State :=
  (s.putArmWord va 0 (min (s.armWord va 0 % 2 ^ 28 + k) (2 ^ 28 - 1))).fire va

/-- XARM at the VOP (R339). -/
def State.armStep (s : State) (va : Nat) (x : W64) (w : Who) : State :=
  let s := if x.getLsbD 28 then s.putArmWord va 0 0 else s
  let even := if x.getLsbD 29 then 2 ^ 31 else 0
  let w1 := (x.extractLsb' 0 28).toNat + 2 ^ 28 + even + 2 ^ 32 * (x.extractLsb' 32 9).toNat
  { s.putArmWord va 1 w1 with arms := Tab.set none s.arms (va / 16) (some (w.account, w.context)) }.fire va

/-- A credit under a context; a refused one is dropped (R337). -/
def State.creditAs (s : State) (n : Nat) (w : Who) (va : W64) (k : Nat) : State :=
  if va = 0 then s
  else match s.armRefuses n w true va with
    | some _ => s
    | none => s.credit va.toNat k

/-- The completion word of a status (R337). -/
def completionWord (cc : Byte) : W64 := 0x8000000000000000#64 ||| cc.setWidth 64

/-- The write of a DONE cell under a context; a refused or misaligned one is dropped (R337, R288). -/
def State.writeDone (s : State) (n : Nat) (w : Who) (va : W64) (cc : Byte) : State :=
  if va = 0 ∨ va.toNat % 8 ≠ 0 then s
  else match s.refuses n w askAtomic va 8 with
    | some _ => s
    | none => s.vaPut n w.pasid va.toNat (bytesOf (completionWord cc) 8)

/-! ## Posting (R335) -/

/-- The checks of TRIG: refused for expiry gives EXPIRED, for another reason MALFORMED (R335). -/
inductive Trig where
  | fine
  | expired
  | bad
deriving DecidableEq, Repr

/-- TRIG at post. -/
def State.trigState (s : State) (n : Nat) (w : Who) (e : BitVec 512) : Trig :=
  if trigOf e = 0 then .fine
  else match s.armRefuses n w false (trigOf e) with
    | some (c, _) => if c = 0x08 ∨ c = 0x09 then .expired else .bad
    | none => if (s.armWord (trigOf e).toNat 1).testBit 30 then .expired else .fine

/-- The first failing status of a post (R335). A TAKE does not use the queue pair (R337). -/
def State.postStatus (s : State) (n : Nat) (w : Who) (e : BitVec 512) (qp : BitVec 10) : Byte :=
  let q := s.qpair qp.toNat
  let take := workOp e == 3
  let t := s.trigState n w e
  if !workFits e || t == .bad then 0x03
  else if !take && (!q.valid || q.account != w.account || q.context != w.context) then 0x04
  else if !take && q.e2e && workSwitch e then 0x02
  else if t == .expired then 0x01
  else if !take && decide (256 ≤ q.posted) then 0x08
  else 0x00

/-- POSTED changes. -/
def State.posted (s : State) (qp : BitVec 10) (f : Nat → Nat) : State :=
  { s with qpairs := Tab.modify QPair.reset s.qpairs qp.toNat (fun q => { q with posted := f q.posted }) }

/-- QP_POST (R335). -/
def State.post (s : State) (n : Nat) (w : Who) (e : BitVec 512) (qp : BitVec 10) : State :=
  let cc := s.postStatus n w e qp
  let s := if trigOf e = 0 then s else s.touchVa n w.pasid (trigOf e).toNat 16
  if cc ≠ 0 then s.writeDone n w (workDone e) cc
  else
    let k := s.workSeq
    let x : Work :=
      { qp := qp, entry := e, owner := w, agent := n, handed := false, data := [], received := false, cc := 0, moved := 0,
        num := k }
    let s := if workOp e = 3 then s else s.posted qp (· + 1)
    let s := { s with work := s.work ++ [x], workSeq := k + 1 }
    if trigOf e = 0 || (s.armWord (trigOf e).toNat 1).testBit 29 then s.hand k else s

/-! ## The remote end (R337, R338) -/

/-- Little-endian elements of `k` bytes. -/
def elementsOf (k : Nat) (bs : List Byte) : List Nat :=
  (List.range (bs.length / k)).map (fun i => natOfBytes ((bs.drop (k * i)).take k))

/-- op(d, x) of WRITERED (R337). -/
def reduceOp (fmt red : Byte) (d x : Nat) : Nat :=
  let a : W32 := BitVec.ofNat 32 d
  let b : W32 := BitVec.ofNat 32 x
  let wide (v : Nat) : W32 := bf16ToF32 (BitVec.ofNat 16 v)
  match fmt.toNat, (red.toNat % 4) with
  | 0x00, 0 => (f32Add a b).toNat
  | 0x00, 1 => (f32MaxOf a b).toNat
  | 0x00, _ => (f32Min a b).toNat
  | 0x01, 0 => toFmt 0x01 .rne 1 (numAdd (fmtNum 0x01 d) (fmtNum 0x01 x))
  | 0x01, 1 => (f32MaxOf (wide d) (wide x)).toNat / 2 ^ 16
  | 0x01, _ => (f32Min (wide d) (wide x)).toNat / 2 ^ 16
  | _, 0 => (a + b).toNat
  | _, 1 => (if a.toInt < b.toInt then b else a).toNat
  | _, _ => (if a.toInt < b.toInt then a else b).toNat

/-- The bytes that replace DST. -/
def reduceBytes (fmt red : Byte) (old data : List Byte) : List Byte :=
  let k := redWidth fmt
  ((elementsOf k old).zip (elementsOf k data)).flatMap (fun p => bytesOfNat k (reduceOp fmt red p.1 p.2))

/-- A received entry performs its write (R337). -/
def State.applyWork (s : State) (n : Nat) (e : BitVec 512) (data : List Byte) : State :=
  let va := (workDst e).toNat
  if workOp e = 2 then
    s.vaStore n none va (reduceBytes (workFmt e) (workRed e) (s.vaBytes n none va data.length) data)
  else s.vaStore n none va data

/-- The context of a remote queue pair (R331). -/
def QPair.who (q : QPair) : Who :=
  { account := q.account, context := q.context, pasid := none, tslot := 0, ts := 0, j := 0 }

/-- The remote end's checks of DST and RCTR under queue pair `q`; an invalid one refuses (R331, R337), and so does a DST that a WRITERED
reads as poison (log 78). -/
def State.remoteRefuses (s : State) (n : Nat) (q : QPair) (e : BitVec 512) : Bool :=
  !q.valid || (s.refuses n q.who askStore (workDst e) (workLen e)).isSome ||
    (workOp e == 2 && (s.vaPoison n none (workDst e).toNat (workLen e)).isSome) ||
    (decide (workRctr e ≠ 0) && (s.armRefuses n q.who true (workRctr e)).isSome)

/-- An entry is acknowledged: a local one may complete, another node's completion is sent (R337). -/
def State.acknowledge (s : State) (work : Option Nat) (node : BitVec 16) (cc : Byte) : State :=
  match work with
  | some k => { s with work := s.work.map (fun w => if w.num = k then { w with received := true, cc := cc } else w) }
  | none => { s with sent := s.sent ++ [.fabricDone node cc] }

/-- What names a reduction (R338). -/
def Reduction.matchesEntry (r : Reduction) (e : BitVec 512) : Bool :=
  r.dst == workDst e && r.len == workLen e && r.fmt == workFmt e && r.red == workRed e && r.rctr == workRctr e

/-- Write, credit RCTR, acknowledge. -/
def State.performWork (s : State) (n : Nat) (q : QPair) (e : BitVec 512) (data : List Byte) (work : Option Nat)
    (node : BitVec 16) : State :=
  let s := (s.applyWork n e data).fabricBytes q.account data.length
  let s := s.creditAs n q.who (workRctr e) data.length
  s.acknowledge work node 0x00

/-- Apply the held contributions whose turn has come, at most `f`; one that the remote end refuses at its turn writes nothing and has
had it (R337, R338; log 69). -/
def State.drainHeld (n : Nat) (e : BitVec 512) : Nat → Reduction → State → State × Reduction
  | 0, r, s => (s, r)
  | f + 1, r, s =>
    match r.heldBack.find? (fun c => c.idx == r.applied) with
    | none => (s, r)
    | some c =>
      let q := s.qpair c.rqp.toNat
      let s := if s.remoteRefuses n q e then s.acknowledge c.work c.node 0x05 else s.performWork n q e c.data c.work c.node
      State.drainHeld n e f { r with applied := r.applied + 1, heldBack := r.heldBack.erase c } s

/-- A contribution in fixed order (R338). -/
def State.contribute (s : State) (n : Nat) (e : BitVec 512) (c : Contrib) : State :=
  let r := (s.reductions.find? (fun r => r.matchesEntry e)).getD
    { dst := workDst e, len := workLen e, fmt := workFmt e, red := workRed e, rctr := workRctr e, applied := 0, heldBack := [] }
  if c.idx < r.applied ∨ r.heldBack.any (fun x => x.idx == c.idx) then s.acknowledge c.work c.node 0x03
  else
    let rest := s.reductions.filter (fun r => !r.matchesEntry e)
    let (s, r) := State.drainHeld n e 16 { r with heldBack := r.heldBack ++ [c] } s
    { s with reductions := if r.applied < workN e then rest ++ [r] else rest }

/-- An entry reaches queue pair `rqp` (R337, R338). -/
def State.receive (s : State) (n : Nat) (rqp : BitVec 10) (e : BitVec 512) (data : List Byte) (work : Option Nat)
    (node : BitVec 16) : State :=
  let q := s.qpair rqp.toNat
  if !workFits e then s.acknowledge work node 0x03
  else if s.remoteRefuses n q e then s.acknowledge work node 0x05
  else if workOp e = 2 && workFixed e then
    s.contribute n e { idx := workIdx e, data := data, work := work, node := node, rqp := rqp }
  else s.performWork n q e data work node

/-- Whether a reduction holds a local entry. -/
def State.heldWork (s : State) (k : Nat) : Bool := s.reductions.any (fun r => r.heldBack.any (fun c => c.work == some k))

/-- FABRIC_RECEIVE (R337): the oldest entry handed to a LOOP queue pair, or an entry from another node. -/
def State.fabricReceive (s : State) (src : ReceiveFrom) : State :=
  match src with
  | .loop qp =>
    match s.work.find? (fun w => w.qp == qp && w.handed && !w.received && !s.heldWork w.num) with
    | some w => if (s.qpair qp.toNat).loop then s.receive w.agent (s.qpair qp.toNat).rqp w.entry w.data (some w.num) 0 else s
    | none => s
  | .node qp e data =>
    if data.length = workLen e ∧ workOp e ≠ 3 then s.receive (s.masterOf 0) qp e data none (s.qpair qp.toNat).node else s
def execFabricReceive (src : ReceiveFrom) (s : State) : Host.Outcome State Fault Refusal := .next (s.fabricReceive src)

/-! ## Completion (R337) -/

/-- An entry completes: LCTR, DONE, POSTED. -/
def State.completeWork (s : State) (w : Work) (cc : Byte) : State :=
  let e := w.entry
  let s := { s with work := s.work.filter (fun x => x.num != w.num) }
  let s := if workOp e = 3 then s else s.posted w.qp (· - 1)
  let s := if cc = 0 then
      s.creditAs w.agent w.owner (workLctr e) (if workOp e = 3 then 64 * w.moved else workLen e)
    else s
  s.writeDone w.agent w.owner (workDone e) cc

/-- The oldest entry handed to a queue pair. A TAKE uses none (R337): with `take` it is the oldest TAKE posted with the number. -/
def State.oldestHanded (s : State) (qp : BitVec 10) (take : Bool) : Option Work :=
  s.work.find? (fun w => w.qp == qp && w.handed && (workOp w.entry == 3) == take)

/-- WORK_ENTRY_COMPLETE (R337): a TAKE completes once it is handed over, else the oldest entry handed to the queue pair. An entry that
left the package completes with the status `cc` that the remote end sends. -/
def State.workEntryComplete (s : State) (qp : BitVec 10) (cc : Byte) : State :=
  match (s.oldestHanded qp true).or (s.oldestHanded qp false) with
  | none => s
  | some w =>
    if w.received then s.completeWork w w.cc
    else if (s.qpair qp.toNat).loop then s
    else if cc = 0 ∨ cc = 3 ∨ cc = 5 then s.completeWork w cc
    else s
def execWorkEntryComplete (qp : BitVec 10) (cc : BitVec 8) (s : State) : Host.Outcome State Fault Refusal :=
  .next (s.workEntryComplete qp cc)

/-- LINK_FAILURE (R337): an entry that could not leave completes LINK. -/
def State.linkFailure (s : State) (qp : BitVec 10) : State :=
  match s.oldestHanded qp false with
  | none => s
  | some w => if !w.received && !(s.qpair qp.toNat).loop then s.completeWork w 0x06 else s
def execLinkFailure (qp : BitVec 10) (s : State) : Host.Outcome State Fault Refusal := .next (s.linkFailure qp)

/-- QP_RECORD_WRITE (R331): ignored while posted entries have not completed; zero fields and POSTED are not written. -/
def State.qpRecordWrite (s : State) (qp : BitVec 10) (x : BitVec 512) : State :=
  let q := s.qpair qp.toNat
  if q.posted ≠ 0 then s
  else
    let r : QPair :=
      { valid := x.getLsbD 0, loop := x.getLsbD 1, e2e := x.getLsbD 2, account := x.extractLsb' 3 10,
        context := x.extractLsb' 13 16, node := x.extractLsb' 32 16, rqp := x.extractLsb' 48 10, ports := x.extractLsb' 64 16,
        keyslot := x.extractLsb' 80 16, posted := 0 }
    { s with qpairs := Tab.set QPair.reset s.qpairs qp.toNat r }
def execQpRecordWrite (qp : BitVec 10) (x : BitVec 512) (s : State) : Host.Outcome State Fault Refusal :=
  .next (s.qpRecordWrite qp x)

/-! ## The mailbox (R340) -/

/-- The request with the sender's fields in bytes 56–63 (R340). -/
def mailRequest (n : Nat) (w : Who) (req : BitVec 512) : BitVec 512 :=
  let tail : W64 := BitVec.ofNat 64 (n + 2 ^ 9 * w.account.toNat + 2 ^ 19 * w.context.toNat)
  (req &&& ~~~(0xFFFFFFFFFFFFFFFF#512 <<< 448)) ||| (tail.setWidth 512 <<< 448)

/-- MAILBOX_FILL (R340): the reserved slot is filled, 0x08 is counted, and the master's latch is set. -/
def State.fillMailbox (s : State) (n : Nat) (w : Who) (d : Nat) (k : Nat) (req : BitVec 512) : State :=
  let m := s.masterOf d
  let fill (x : Slot) : Slot := if x.order = k then { x with req := some (mailRequest n w req) } else x
  let s := { s with mailbox := Tab.modify [] s.mailbox d (fun l => l.map fill) }
  (s.setAgent m ((s.agent m).loomEvent 0x08 1)).latchEvent m

end Sys2Proof.Machine
end

