-- ==== Sys2Proof/Machine/Order.lean ====
section
/-!
DEFINITION. The abstract machine of queues and order points: homes, routes, channels, and the moves that depart, hop, perform and
arrive (10 R225–R241, 09 R214–R216, 04 R112, 14 R313–R315).
-/

namespace Sys2Proof.Machine

/-! ## Homes and routes (R226, R227) -/

/-- The point at which a rented byte is kept: the die of its HBM pitch, or the VOP (R226, R308). -/
def State.pitchHome (s : State) (a : Nat) : Point :=
  match s.findPitch 4 0 a with
  | some (_, p) => if p.tier = 4 then .dop (p.dieAt a) else .vop
  | none => .vop

/-- Whether an address lies in an arm counter: one that an XARM has armed (R226, 16 R332; log 70). -/
def State.isArm (s : State) (va : Nat) : Bool := (Tab.get none s.arms (va / 16)).isSome

/-- The home of a device virtual address that agent `n` names and that lies at storage address `phys` (R226). -/
def State.homeAt (s : State) (n va phys : Nat) : Point :=
  match regionOf va with
  | .loom _ => .lop (loomOf n)
  | .counter off => .lop (off / 0x100000)
  | .near _ => .agent n
  | .host _ => .hcp
  | .rented => if s.isArm va then .vop else s.pitchHome phys
  | _ => .vop

/-- The home of a device virtual address for agent `n` and a PASID. -/
def State.homeOf (s : State) (n : Nat) (q : Option (BitVec 20)) (va : Nat) : Point := s.homeAt n va (s.storage n q va)

/-- The fixed route from agent `n` to a home (R227). -/
def routeTo (n : Nat) (h : Point) : List Point :=
  let l := loomOf n
  let d := dieOf n
  let toLop (m : Nat) : List Point :=
    if m = l then [.lop l]
    else if m / 6 = d then [.lop l, .dop d, .lop m]
    else [.lop l, .dop d, .vop, .dop (m / 6), .lop m]
  match h with
  | .agent b => toLop (loomOf b) ++ [.agent b]
  | .lop m => toLop m
  | .dop e => if e = d then [.lop l, .dop d] else [.lop l, .dop d, .vop, .dop e]
  | .vop => [.lop l, .dop d, .vop]
  | .hcp => [.lop l, .dop d, .vop, .hcp]

/-- The route from the HCP to a home (R227, R235). -/
def routeHost (h : Point) : List Point :=
  match h with
  | .vop => [.vop]
  | h => [.vop, h]

/-- The places of an element access that translation reaches. -/
def Micro.elems (m : Micro) : List Elem :=
  let at0 (p : Spot) (k : Nat) : List Elem := if p.tier.toNat ≤ 3 then [] else [{ addr := p.addr, len := k }]
  match m with
  | .copy src _ k => at0 src k
  | .put dst bs => at0 dst bs.length
  | .dict src _ bf16 => at0 src (if bf16 then 144 else 272)
  | .keep src k _ => at0 src k
  | .entry src _ => at0 src 16
  | .tag _ e _ _ _ _ _ => [{ addr := e, len := 16 }]
  | .look _ _ _ _ r _ _ => [{ addr := r, len := 16 }]
  | .stale _ e _ => [{ addr := e, len := 16 }]
  | .amend e _ _ => [{ addr := e, len := 16 }]
  | .turn _ => []
  | .judge _ _ _ _ _ => []
  | .gate _ => []
  | .join _ _ => []

/-- The elements that an entry touches. -/
def Load.elems : Load → List Elem
  | .read x => x.es
  | .element _ _ m => m.elems
  | .host a k d _ => [{ addr := a, len := match d with | some bs => bs.length | none => k }]
  | .cmd c => match c with
    | .store es _ => es
    | .atomic _ wide a _ _ _ => [{ addr := a, len := if wide then 8 else 4 }]
    | .wcAdd a _ _ => [{ addr := a, len := 64 }]
    | .wcAddV a _ _ => [{ addr := a, len := 8192 }]
    | .wcRead a _ _ _ => [{ addr := a, len := 64 }]
    | .xarm a _ => [{ addr := a, len := 16 }]
    | _ => []

/-- The home of an entry whose bytes have one home (R226, R227). -/
def State.loadHome (s : State) (n : Nat) (q : Option (BitVec 20)) (l : Load) : Point :=
  match l with
  | .cmd (.event t) => .agent t.toNat
  | .cmd (.xmbox d _ _) => .agent (s.masterOf d.toNat)
  | .cmd (.xarm _ _) => .vop
  | _ => match l.elems with
    | e :: _ => s.homeOf n q e.addr.toNat
    | [] => .agent n

/-- A range cut at the multiples of `g`: the offset and length of each piece. -/
def piecesOf (g a len : Nat) : List (Nat × Nat) :=
  (List.range ((a % g + len + g - 1) / g)).map (fun i =>
    let lo := max a (g * (a / g + i))
    (lo - a, min (a + len) (g * (a / g + i) + g) - lo))

/-- An element cut into 16-byte cells where an arm counter lies in it: each then has one home. -/
def State.cut (s : State) (e : Elem) : List Elem :=
  let ps := piecesOf 16 e.addr.toNat e.len
  if ps.any (fun p => s.isArm (e.addr.toNat + p.1)) then
    ps.map (fun p => { addr := e.addr + BitVec.ofNat 64 p.1, len := p.2, off := e.off + p.1, phys := e.phys + p.1 })
  else [e]

/-- An element joins those of its home. -/
def joinHome (h : Point) (e : Elem) : List (Point × List Elem) → List (Point × List Elem)
  | [] => [(h, [e])]
  | (g, es) :: t => if g = h then (g, es ++ [e]) :: t else (g, es) :: joinHome h e t

/-- The elements by home, the homes in the order in which they are met (R226). -/
def State.byHome (s : State) (n : Nat) (es : List Elem) : List (Point × List Elem) :=
  (es.flatMap s.cut).foldl (fun t e => joinHome (s.homeAt n e.addr.toNat e.phys) e t) []

/-- The entries as which a load or a command travels: one for each home of its bytes (R233). -/
def State.split (s : State) (n : Nat) (q : Option (BitVec 20)) (l : Load) : List (Point × Load) :=
  match l with
  | .read x =>
    let gs := s.byHome n x.es
    gs.map (fun g => (g.1, .read { x with es := g.2, id := s.loadSeq, parts := gs.length }))
  | .cmd (.store es d) => (s.byHome n (s.placed n q es)).map (fun g => (g.1, .cmd (.store g.2 d)))
  | l => [(s.loadHome n q l, l)]

/-! ## Departing (R228 M4, R234, R239, R241) -/

/-- Whether an entry touches a TSO page (R234). -/
def State.isTso (s : State) (n : Nat) (l : Load) : Bool :=
  l.elems.any (fun e => match s.pitchAt n e.addr.toNat with
    | some k => (s.pitch k).att.getLsbD 1
    | none => false)

/-- Whether an entry is a far load. -/
def Load.isRead : Load → Bool
  | .read _ => true
  | _ => false

/-- Whether an entry is a released command. -/
def Load.isCmd : Load → Bool
  | .cmd _ => true
  | _ => false

/-- Whether an entry has come from an FSQ. -/
def Load.isStored : Load → Bool
  | .cmd (.xmbox _ _ _) => false
  | .cmd _ => true
  | _ => false

/-- The entries of agent `n`'s FLQ or FSQ that have departed and not performed. -/
def State.travelling (s : State) (n : Nat) (reads : Bool) : List Transit :=
  s.transit.filter (fun t => t.agent == n && (if reads then t.load.isRead else t.load.isStored))

/-- A load or a command enters the first channel of its route, as one entry for each home. -/
def State.enter (s : State) (n : Nat) (owner : Who) (seq : Nat) (l : Load) : State :=
  let ts : List Transit := (s.split n owner.pasid l).map (fun g =>
    { agent := n, owner := owner, seq := seq, load := g.2, passed := .agent n, route := routeTo n g.1, home := g.1 })
  { s with transit := s.transit ++ ts, loadSeq := if l.isRead then s.loadSeq + 1 else s.loadSeq }

/-- Whether an entry has passed a point of its route. -/
def Transit.hasPassed (t : Transit) (p : Point) : Bool := (routeTo t.agent t.home).contains p && !t.route.contains p

/-- Whether a home lies within a scope of agent `n` (R230); an agent's home counts with its loom's LOP. -/
def homeWithin (n : Nat) (scope : Nat) (h : Point) : Bool :=
  let lopIn (m : Nat) : Bool := (scope == 1 && m == loomOf n) || (scope == 2 && m / 6 == dieOf n) || decide (3 ≤ scope)
  match h with
  | .agent b => b == n || lopIn (loomOf b)
  | .lop m => lopIn m
  | .dop d => (scope == 2 && d == dieOf n) || decide (3 ≤ scope)
  | .vop => decide (3 ≤ scope)
  | .hcp => decide (4 ≤ scope)

/-- The point of a scope (R230). -/
def scopePoint (n : Nat) (scope : Nat) : Point :=
  match scope with
  | 0 => .agent n
  | 1 => .lop (loomOf n)
  | 2 => .dop (dieOf n)
  | 3 => .vop
  | _ => .hcp

/-- Whether a departed entry no longer holds a marker of a scope (R239). The agent itself has been passed by departing. -/
def Transit.clears (t : Transit) (scope : Nat) : Bool :=
  !homeWithin t.agent scope t.home && (scope == 0 || t.hasPassed (scopePoint t.agent scope))

/-- Whether every entry that departed before lets an event go (R241). -/
def Transit.letsEvent (t : Transit) : Bool := t.home == .hcp && t.hasPassed .vop

/-- Whether a released command is a marker. -/
def Held.isMarker (h : Held) : Bool := match h.cmd with | .marker _ => true | _ => false

/-- The first marker is gone from the ECB. -/
def dropMarker : List Held → List Held
  | [] => []
  | h :: t => if h.isMarker then t else h :: dropMarker t

/-- The 128 adds of a WCADDV, each an entry of its own (R216). -/
def wcAdds (a : W64) (fmt : Byte) (x : Vec) : List Load :=
  (List.range 128).map (fun l =>
    .cmd (.wcAdd (a + BitVec.ofNat 64 (64 * l)) fmt (BitVec.ofNat 32 (element x (fmtBits fmt) l))))

/-- The head of the FLQ departs (M4, R234). -/
def State.departLoad (s : State) (n : Nat) : State :=
  let a := s.agent n
  match a.flq with
  | [] => s
  | x :: xs =>
    if s.isTso n (.read x) && (s.travelling n true).any (fun t => s.isTso n t.load) then s
    else (s.setAgent n { a with flq := xs }).enter n a.who 0 (.read x)

/-- Whether a command is one that R234 holds: a far store, an atomic or a wide-cell add. -/
def Cmd.ordered (c : Cmd) : Bool :=
  match c with
  | .store _ _ => true
  | .atomic _ _ _ _ _ _ => true
  | .wcAdd _ _ _ => true
  | .wcAddV _ _ _ => true
  | _ => false

/-- The head of the FSQ departs, or a marker there is cleared (M4, R234, R239, R241). -/
def State.departStore (s : State) (n : Nat) : State :=
  let a := s.agent n
  match a.fsq with
  | [] => s
  | h :: xs =>
    let gone := s.setAgent n { a with fsq := xs }
    let ahead := s.travelling n false
    match h.cmd with
    | .marker scope =>
      if ahead.all (fun t => t.clears scope.toNat) then s.setAgent n { a with fsq := xs, ecb := dropMarker a.ecb } else s
    | .event t =>
      if ahead.all Transit.letsEvent then (if t.toNat < 312 then gone.enter n h.owner h.seq (.cmd h.cmd) else gone) else s
    | c =>
      if c.ordered && s.isTso n (.cmd c) && ahead.any (fun t => s.isTso n t.load) then s
      else match c with
        | .wcAddV va fmt x => (wcAdds va fmt x).foldl (fun t l => t.enter n h.owner h.seq l) gone
        | _ => gone.enter n h.owner h.seq (.cmd c)

/-- HOP (M5): the head of a channel passes the next point; it takes its place behind the entries that reached that point
before. -/
def State.hop (s : State) (k : Nat) : State :=
  match s.transit[k]? with
  | none => s
  | some t =>
    match t.route with
    | [] => s
    | p :: rest =>
      if (s.transit.take k).any (fun u => u.passed == t.passed && u.route.head? == some p) then s
      else { s with transit := s.transit.eraseIdx k ++ [{ t with passed := p, route := rest }] }
def execHop (k : Nat) (s : State) : Host.Outcome State Fault Refusal := .next (s.hop k)

/-! ## Performing (R228 M6, R233) -/

/-- The tier of an address for the usage counters (R119); host and counter bytes count in none. -/
def State.tierAt (s : State) (_n va : Nat) : Option Nat :=
  match regionOf va with
  | .loom _ => some 3
  | .near _ => some 1
  | .rented => (s.findPitch 4 0 va).map (fun kp => kp.2.tier.toNat)
  | _ => none

/-- Bytes moved in a tier by an account (R119). -/
def State.movedIn (s : State) (acct : BitVec 10) (tier : Option Nat) (k : Nat) : State :=
  match tier with
  | none => s
  | some t => s.modAccount acct (fun c => { c with moved := Tab.modify 0 c.moved t (fun x => satAdd x k) })

/-- Whether a released access still reaches a live pitch of its context (R112 step 3); host memory carries no rent. -/
def State.live (s : State) (n : Nat) (w : Who) (va : W64) : Bool :=
  match regionOf va.toNat with
  | .host _ => true
  | _ =>
    match s.pitchAt n va.toNat with
    | none => false
    | some k =>
      let p := s.pitch k
      !p.vacated && (p.state == .tentative || p.state == .leased || p.state == .overstay) &&
        ((p.account == w.account && p.context == w.context) ||
          p.subs.any (fun x => x.account == w.account && x.context == w.context))

/-- The first poisoned line that a write covers only in part. -/
def State.partPoison (s : State) (n : Nat) (q : Option (BitVec 20)) (va : W64) (len : Nat) : Option W64 :=
  let a := s.storage n q va.toNat
  ((List.range ((a % 64 + len + 63) / 64)).find? (fun i =>
    let l := 64 * (a / 64 + i)
    Tab.get false s.poison (l / 64) && !(decide (a ≤ l) && decide (l + 64 ≤ a + len)))).map
    (fun i => va + BitVec.ofNat 64 (max a (64 * (a / 64 + i)) - a))

/-- A fault met by a released store or atomic waits for its task's next TWAIT or checkpoint (R214, R314). -/
def State.farFail (s : State) (n : Nat) (w : Who) (c : Byte) (va : W64) : State :=
  let a := s.agent n
  if a.who = w ∧ a.task.isSome ∧ a.farFault = none then s.setAgent n { a with farFault := some (c, va) } else s

/-- A released store writes its elements in index order from the bytes of its entry; poison stops it (R214, log 14). -/
def State.storeElems (n : Nat) (w : Who) (bs : List Byte) : List Elem → State → State
  | [], s => s
  | e :: es, s =>
    if !s.live n w e.addr then State.storeElems n w bs es s
    else match s.partPoison n w.pasid e.addr e.len with
      | some va => s.farFail n w 0x11 va
      | none =>
        let x := (bs.drop e.off).take e.len
        State.storeElems n w bs es ((s.vaStore n w.pasid e.addr.toNat x).movedIn w.account (s.tierAt n e.addr.toNat) e.len)

/-- The new word of an atomic (R215). -/
def atomicNew (op : AtOp) (w : Nat) (old v v2 : BitVec w) : BitVec w :=
  match op with
  | .add => old + v
  | .max => if old.toInt < v.toInt then v else old
  | .min => if v.toInt < old.toInt then v else old
  | .xchg => v
  | .cas => if old = v then v2 else old

/-- A result of a released command becomes ready to arrive; its entry is owed (R86, R89). -/
def State.deliver (s : State) (n : Nat) (w : Who) (q : BitVec 4) (x : Vec) (pitches : List Nat)
    (trap : Option (Byte × W64)) : State :=
  let t : Arrival :=
    { agent := n, owner := w, q := q, entry := x, pitches := pitches, owed := true, dropped := false, trap := trap }
  { s with arrivals := s.arrivals ++ [t] }

/-- Deliver a fetch form's entry. -/
def State.fetched (s : State) (n : Nat) (w : Who) (q : Option (BitVec 4)) (x : Vec) : State :=
  match q with
  | some q => s.deliver n w q x [] none
  | none => s

/-- The loom atomic unit counts its operations (23 R375). -/
def State.atomicEvent (s : State) (h : Point) : State :=
  match h with
  | .lop l => s.setAgent (288 + l) ((s.agent (288 + l)).loomEvent 0x02 1)
  | _ => s

/-- ATOMIC_EXECUTE (R215): lapsed, it performs nothing (R112); on poison neither (R314). -/
def State.performAtomic (s : State) (n : Nat) (w : Who) (h : Point) (op : AtOp) (wide : Bool) (va v v2 : W64)
    (q : Option (BitVec 4)) : State :=
  let k := if wide then 8 else 4
  if !s.live n w va then s.fetched n w q expiredEntry
  else match s.vaPoison n w.pasid va.toNat k with
    | some p => (s.fetched n w q 0).farFail n w 0x11 (BitVec.ofNat 64 p)
    | none =>
      let old := natOfBytes (s.vaBytes n w.pasid va.toNat k)
      let new := (atomicNew op (8 * k) (BitVec.ofNat (8 * k) old) (v.setWidth (8 * k)) (v2.setWidth (8 * k))).toNat
      let s := (s.vaStore n w.pasid va.toNat (bytesOfNat k new)).movedIn w.account (s.tierAt n va.toNat) k
      (s.atomicEvent h).fetched n w q (entryOf (BitVec.ofNat 64 old))

/-- The wide cell at a storage address (06 R150). -/
def State.wideCell (s : State) (a : Nat) : Wide := { v := BitVec.ofNat 512 (s.mem.num a 64), st := Tab.get 0 s.wcStatus a }

/-- WIDE_CELL_ADD (06 R151). -/
def State.performWcAdd (s : State) (n : Nat) (w : Who) (h : Point) (va : W64) (fmt : Byte) (x : W32) : State :=
  if !s.live n w va then s
  else match s.vaPoison n w.pasid va.toNat 64 with
    | some p => s.farFail n w 0x11 (BitVec.ofNat 64 p)
    | none =>
      let c := (s.wideCell (s.storage n w.pasid va.toNat)).add (fmtNum fmt (x.toNat % 2 ^ fmtBits fmt))
      let s := (s.vaStore n w.pasid va.toNat (bytesOf c.v 64)).movedIn w.account (s.tierAt n va.toNat) 64
      { s with wcStatus := Tab.set 0 s.wcStatus (s.storage n w.pasid va.toNat) c.st }.atomicEvent h

/-- WCREAD performs (R216, R112 step 3, R314) at the storage address that its translation gave: its pitches' INFLIGHT falls on
arrival. -/
def State.performWcRead (s : State) (n : Nat) (w : Who) (h : Point) (va : W64) (q : BitVec 4) (ks : List Nat) (a : Nat) : State :=
  if !s.live n w va then s.deliver n w q expiredEntry ks none
  else match poisonedAt s a 64 with
    | some p => s.deliver n w q 0 ks (some (0x11, va + BitVec.ofNat 64 (p - a)))
    | none =>
      let c := s.wideCell a
      let x : Vec := (c.st.setWidth 32 ++ c.read).setWidth 4096
      ((s.movedIn w.account (s.tierAt n va.toNat) 64).atomicEvent h).deliver n w q x ks none

/-- The bytes of an element at its home: a counter cell, or the storage that its translation named. -/
def State.bytesAt (s : State) (n : Nat) (e : Elem) : List Byte :=
  match regionOf e.addr.toNat with
  | .counter _ => s.vaBytes n none e.addr.toNat e.len
  | _ => s.mem.bytes e.phys e.len

/-- The first poisoned address of an element (R314). -/
def State.elemPoison (s : State) (e : Elem) : Option W64 :=
  (poisonedAt s e.phys e.len).map (fun p => e.addr + BitVec.ofNat 64 (p - e.phys))

/-- A part of a far load has performed: it joins the parts that have (R233). -/
def State.gather (s : State) (t : Arrival) : State :=
  let mine (x : Arrival) : Bool := x.agent == t.agent && !x.owed && decide (x.parts ≠ 0) && x.id == t.id
  if s.arrivals.any mine then
    { s with arrivals := s.arrivals.map (fun x =>
        if mine x then { x with entry := x.entry ||| t.entry, trap := x.trap.or t.trap, parts := x.parts - 1 } else x) }
  else { s with arrivals := s.arrivals ++ [t] }

/-- A far load, or the part of it that has this home, performs: it reads the cells of its elements (R214, R233); poison traps on
arrival unless the load was dropped (R263). -/
def State.performRead (s : State) (n : Nat) (w : Who) (x : FarLoad) : State :=
  let entry : Vec := x.es.foldl (fun v e => v ||| (BitVec.ofNat 4096 (natOfBytes (s.bytesAt n e)) <<< (8 * e.off))) 0
  let t : Arrival :=
    { agent := n, owner := w, q := x.q, entry := entry, pitches := x.pitches, owed := false, dropped := x.dropped,
      trap := (x.es.findSome? s.elemPoison).map (fun p => (0x11, p)), id := x.id, parts := x.parts - 1 }
  let s := x.es.foldl (fun s e => s.movedIn w.account (s.tierAt n e.addr.toNat) e.len) s
  s.gather t

/-- Before a device access performs, the host's copies of its lines are recalled; its rows are activated (04 R114, 14 R310). -/
def State.touchAll (s : State) (n : Nat) (q : Option (BitVec 20)) (es : List Elem) : State :=
  es.foldl (fun s e => s.touchVa n q e.addr.toNat e.len) s

/-- What a far load or a released command does at its home. -/
def State.performEntry (s : State) (t : Transit) : State :=
  let n := t.agent
  let w := t.owner
  match t.load with
  | .read x => s.performRead n w x
  | .cmd c => match c with
    | .store es data => State.storeElems n w (bytesOf data 512) es s
    | .atomic op wide va v v2 q => s.performAtomic n w t.home op wide va v v2 q
    | .wcAdd va fmt x => s.performWcAdd n w t.home va fmt x
    | .wcRead va q ks a => s.performWcRead n w t.home va q ks a
    | .xmbox d k req => s.fillMailbox n w d.toNat k req
    | .xarm va x => if s.live n w va then s.armStep va.toNat x w else s
    | .event b => s.deliverEvent b.toNat w.account w.context
    | _ => s
  | _ => s

/-- The bytes that an element is about to overwrite, unless the task has stored there before (02 R53). -/
def State.keepElem (s : State) (n : Nat) (q : Option (BitVec 20)) (e : Elem) (t : Tab (Option Byte)) : Tab (Option Byte) :=
  let a := s.storage n q e.addr.toNat
  (List.range e.len).foldl (fun t i =>
    if (Tab.get none t (a + i)).isSome then t else Tab.set none t (a + i) (some (s.mem.read (a + i)))) t

/-- A store of a task is not visible to the task's own fetch before its next launch: what stood there is kept (02 R53). -/
def State.keepCode (s : State) (t : Transit) : State :=
  if !t.load.isCmd then s
  else
    let w := t.owner
    let keep (x : LoomTask) : LoomTask :=
      { x with code := t.load.elems.foldl (fun c e => s.keepElem t.agent w.pasid e c) x.code }
    let f (o : Option TaskSet) : Option TaskSet :=
      o.map (fun u => { u with tasks := u.tasks.mapIdx (fun i x => if i = w.j then keep x else x) })
    { s with tasksets := Tab.modify none s.tasksets w.ts f }

/-- The entry at place `k`, if it has reached its home before every other entry that waits there (R227, R233). -/
def State.atHome (s : State) (k : Nat) : Option Transit :=
  match s.transit[k]? with
  | some t => if t.route = [] ∧ (s.transit.take k).all (fun u => decide (u.route ≠ [] ∨ u.home ≠ t.home)) then some t else none
  | none => none

/-- Whether an entry is the host's own. -/
def Load.isHost : Load → Bool
  | .host _ _ _ _ => true
  | _ => false

/-- An entry leaves its channel; for a device access the host's copies of its lines are recalled. -/
def State.leaveHome (s : State) (k : Nat) (t : Transit) : State :=
  let s := { s with transit := s.transit.eraseIdx k }
  if t.load.isHost then s else s.touchAll t.agent t.owner.pasid t.load.elems

/-! ## The host's accesses to device memory (04 R114, R235) -/

/-- Whether a range lies in one leased or overstaying pitch of tiers 4 and 5; anything else is refused as free storage (R114). -/
def State.hostReaches (s : State) (a len : Nat) : Bool :=
  match regionOf a with
  | .rented =>
    match s.findPitch 4 0 a with
    | some (_, p) => !p.vacated && (p.state == .leased || p.state == .overstay) && decide (a + len ≤ p.base + p.length)
    | none => false
  | _ => false

/-- Whether the host may hold a line at an address: its pitch is HOST-SHARED. -/
def State.hostShared (s : State) (a : Nat) : Bool :=
  match s.findPitch 4 0 a with
  | some (_, p) => p.att.getLsbD 2
  | none => false

/-- A host access to bytes of one line performs at their home: a write, or a read whose bytes go out, none of them where the line is
poisoned. The host keeps a line that it asked for as a cacheable copy, of a HOST-SHARED pitch only. -/
def State.performHost (s : State) (addr : W64) (len : Nat) (data : Option (List Byte)) (cached : Bool) : State :=
  let a := addr.toNat
  let k := match data with
    | some bs => bs.length
    | none => len
  if !s.hostReaches a k then s
  else
    let l := s.storage 0 none a / 64
    let held := if cached && s.hostShared a && !s.hostLines.contains l then s.hostLines ++ [l] else s.hostLines
    match data with
    | some bs => { s.vaStore 0 none a bs with hostLines := held }
    | none =>
      let out : Sent := .hostRead addr (if (s.vaPoison 0 none a len).isSome then [] else s.vaBytes 0 none a len)
      { s.touchVa 0 none a len with sent := s.sent ++ [out], hostLines := held }

/-- A host access to bytes of one line that have one home: where the host holds the line it is made at once, else it enters the route
from the HCP (R235). -/
def State.enterHost (s : State) (addr : W64) (len : Nat) (data : Option (List Byte)) (cached : Bool) : State :=
  let a := s.storage 0 none addr.toNat
  if s.hostLines.contains (a / 64) then s.performHost addr len data cached
  else
    let h := s.homeAt 0 addr.toNat a
    let t : Transit :=
      { agent := 313, owner := { account := 0, context := 0, pasid := none, tslot := 0, ts := 0, j := 0 }, seq := 0,
        load := .host addr len data cached, passed := .hcp, route := routeHost h, home := h }
    { s with transit := s.transit ++ [t] }

/-- The pieces of a host access: lines, cut where an arm counter lies in one. -/
def State.hostPieces (s : State) (a len : Nat) : List (Nat × Nat) :=
  (piecesOf 64 a len).flatMap (fun p =>
    (s.cut { addr := BitVec.ofNat 64 (a + p.1), len := p.2, off := p.1 }).map (fun e => (e.off, e.len)))

/-- HOST_MEMORY_ACCESS (R114, R235): the host's own memory changes or is read at once; an access to device memory enters at the HCP, line
by line, and a range that the host does not reach is refused. -/
def State.hostAccess (s : State) (addr : W64) (len : Nat) (data : Option (List Byte)) (cached : Bool) : State :=
  let a := addr.toNat
  let k := match data with
    | some bs => bs.length
    | none => len
  match regionOf a with
  | .host _ =>
    if 2 ^ 57 < a + k then s
    else match data with
      | some bs => s.vaStore 0 none a bs
      | none => { s with sent := s.sent ++ [.hostRead addr (if (s.vaPoison 0 none a len).isSome then [] else s.vaBytes 0 none a len)] }
  | _ =>
    if s.hostReaches a k then
      (s.hostPieces a k).foldl (fun s p =>
        s.enterHost (addr + BitVec.ofNat 64 p.1) p.2 (data.map (fun bs => (bs.drop p.1).take p.2)) cached) s
    else s
def execHostMemoryAccess (addr : BitVec 64) (len : Nat) (op : HostOp) (s : State) : Host.Outcome State Fault Refusal :=
  match op with
  | .read cached => .next (s.hostAccess addr len none cached)
  | .write bytes cached => .next (s.hostAccess addr bytes.length (some bytes) cached)

/-! ## Arriving (R228 M9) -/

/-- Whether the agent runs the task that an entry acts for. -/
def State.runs (s : State) (n : Nat) (w : Who) : Bool :=
  match (s.agent n).task with
  | some t => t.ts == w.ts && t.j == w.j
  | none => w == { account := 0, context := 0, pasid := none, tslot := 0, ts := 0, j := 0 }

/-- An entry enters its gated queue: a load's place was reserved in this interval, a released command's is owed (R86, R89). -/
def Agent.arrive (a : Agent) (owed : Bool) (q : BitVec 4) (x : Vec) : Agent :=
  if owed then
    { a with
      owed := Tab.modify 0 a.owed q.toNat (· - 1)
      arrived := a.arrived ++ [(q, x)]
      r := { a.r with q := Tab.set [] a.r.q q.toNat (a.queue q ++ [x]) } }
  else a.landEntry q x

/-- ARRIVE (M9), once every part of a load has performed: INFLIGHT falls; a dropped load leaves nothing; poison traps (R214, R263, R314). -/
def State.arrive (s : State) (k : Nat) : State :=
  match s.arrivals[k]? with
  | none => s
  | some x =>
    if x.parts ≠ 0 then s else
    let s := { s with arrivals := s.arrivals.eraseIdx k }.fallAll x.pitches
    if x.dropped || !s.runs x.agent x.owner then s
    else
      let s := s.setAgent x.agent ((s.agent x.agent).arrive x.owed x.q x.entry)
      match x.trap with
      | some (c, f) => s.takeTrap x.agent { cause := c, slot := 0, imm := 0, faddr := f } false
      | none => s
def execArrive (k : Nat) (s : State) : Host.Outcome State Fault Refusal := .next (s.arrive k)

end Sys2Proof.Machine
end

