-- ==== Sys2Proof/Machine/Spot.lean ====
section
/-!
DEFINITION. The places that an engine operation names: where they lie, how they are checked, read and written (09 R211–R218).
-/

namespace Sys2Proof.Machine

/-- The storage address of a spot of agent `n`, under a PASID. -/
def State.spotAddr (s : State) (n : Nat) (q : Option (BitVec 20)) (p : Spot) : Nat :=
  match p.tier.toNat with
  | 0 => accAddr n p.addr.toNat
  | 1 => nearAddr n p.addr.toNat
  | 2 => canopyAddr n p.addr.toNat
  | 3 => loomAddr (loomOf n) p.addr.toNat
  | _ => s.storage n q p.addr.toNat

/-- The home of a spot of agent `n` (10 R226). -/
def State.spotHome (s : State) (n : Nat) (q : Option (BitVec 20)) (p : Spot) : Point :=
  if p.tier.toNat ≤ 2 then .agent n
  else if p.tier = 3 then .lop (loomOf n)
  else s.homeOf n q p.addr.toNat

/-- The parts of a place by home: home, offset and length of each (10 R226). A place with one home is one part. -/
def State.partsOf (s : State) (n : Nat) (q : Option (BitVec 20)) (p : Spot) (len : Nat) : List (Point × Nat × Nat) :=
  let a := p.addr.toNat
  let pages : List Elem := (pagePieces a len).map (fun x => { addr := BitVec.ofNat 64 x.1, len := x.2, off := x.1 - a })
  match ((s.placed n q pages).flatMap s.cut).map (fun e => (s.homeAt n e.addr.toNat e.phys, e.off, e.len)) with
  | [] => [(s.spotHome n q p, 0, len)]
  | h :: t => if p.tier.toNat ≤ 3 ∨ t.all (fun x => x.1 == h.1) then [(s.spotHome n q p, 0, len)] else h :: t

/-- The place at an offset from another. -/
def Spot.shift (p : Spot) (k : Nat) : Spot := { p with addr := p.addr + BitVec.ofNat 64 k }

/-- The address that FADDR reports (R110, R213). -/
def Spot.report (p : Spot) : W64 := if p.tier = 3 then loomWindow p.addr else p.addr

/-- The space of a spot and its offset there: equal spaces can overlap (R218 check 4). -/
def Spot.space (p : Spot) : Nat × Nat :=
  if p.tier.toNat ≤ 3 then (p.tier.toNat, p.addr.toNat)
  else match regionOf p.addr.toNat with
    | .loom o => (3, o)
    | .near o => (1, o)
    | .counter o => (6, o)
    | .host o => (5, o)
    | _ => (4, p.addr.toNat)

/-- The rent check of a spot with the window rules (R109, R110, R213): cause and refused address. `list` opens the near window to an
index list. -/
def State.spotRefuses (s : State) (n : Nat) (w : Who) (wr list : Bool) (p : Spot) (len : Nat) : Option (Byte × W64) :=
  if len = 0 then none else
  match p.tier.toNat with
  | 0 => (s.rentCheck n w wr false 0 n p.addr.toNat len).map (fun r => (r.1, BitVec.ofNat 64 r.2))
  | 1 => (s.rentCheck n w wr false 1 n p.addr.toNat len).map (fun r => (r.1, BitVec.ofNat 64 r.2))
  | 2 => (s.rentCheck n w wr false 2 n p.addr.toNat len).map (fun r => (r.1, BitVec.ofNat 64 r.2))
  | 3 => (s.rentCheck n w wr false 3 (loomOf n) p.addr.toNat len).map (fun r => (r.1, loomWindow (BitVec.ofNat 64 r.2)))
  | _ => s.refuses n w { wr := wr, sync := false, rent := true, trans := false, near := list } p.addr len

/-- Translation of a spot (R305): tiers 0 to 3 have none. -/
def State.spotFault (s : State) (n : Nat) (w : Who) (wr : Bool) (p : Spot) (len : Nat) : Option W64 :=
  if p.tier.toNat ≤ 3 then none
  else (s.refuses n w { wr := wr, sync := false, rent := false, trans := true, near := true } p.addr len).map (·.2)

/-- The first poisoned address that an engine meets in a spot (R314); a saved copy counts for itself (05 R125, R129). -/
def State.spotPoison (s : State) (n : Nat) (q : Option (BitVec 20)) (p : Spot) (len : Nat) : Option W64 :=
  let own : Bool := decide (p.tier.toNat ≤ 3) || (match regionOf p.addr.toNat with
    | .near _ => true
    | _ => false)
  if own then
    (enginePoison s (s.spotAddr n q p) len).map (fun a => p.report + BitVec.ofNat 64 (a - s.spotAddr n q p))
  else (s.vaPoison n q p.addr.toNat len).map (BitVec.ofNat 64)

/-- The bytes that an engine reads (05 R125, R129). -/
def State.spotBytes (s : State) (n : Nat) (q : Option (BitVec 20)) (p : Spot) (len : Nat) : List Byte :=
  if p.tier.toNat ≤ 3 then engineBytes s (s.spotAddr n q p) len
  else match regionOf p.addr.toNat with
    | .near o => engineBytes s (nearAddr n o) len
    | _ => s.vaBytes n q p.addr.toNat len

/-- An engine's write. -/
def State.spotPut (s : State) (n : Nat) (q : Option (BitVec 20)) (p : Spot) (bs : List Byte) : State :=
  if p.tier.toNat ≤ 3 then enginePut s (s.spotAddr n q p) bs else s.vaStore n q p.addr.toNat bs

/-- The tier of a spot for the usage counters (R119). -/
def State.spotTier (s : State) (n : Nat) (p : Spot) : Option Nat :=
  if p.tier.toNat ≤ 3 then some p.tier.toNat else s.tierAt n p.addr.toNat

/-- Whether a pitch shares a byte with a spot. -/
def Pitch.touches (q : Pitch) (n : Nat) (p : Spot) (len : Nat) : Bool :=
  let (sp, off) := p.space
  let same := match sp with
    | 3 => q.tier == 3 && q.unit == loomOf n
    | 4 => decide (4 ≤ q.tier.toNat)
    | 5 => false
    | 6 => false
    | t => q.tier.toNat == t && q.unit == n
  same && decide (q.state ≠ .free) && decide (q.base < off + len) && decide (off < q.base + q.length)

/-- The pitches that a list of spots touches, each once (R109). -/
def State.pitchesTouched (s : State) (n : Nat) (xs : List (Spot × Nat)) : List Nat :=
  (s.pitches.filter (fun kp => xs.any (fun x => kp.2.touches n x.1 x.2))).map (·.1)

/-! ## Starting an operation (R211) -/

/-- The status that ends an operation, with the failing address, and what its start has read until then. -/
structure Halt where
  status : Byte
  faddr : W64
  sub : Bool
  read : List (Spot × Nat) := []
deriving DecidableEq, Repr

/-- What a started operation will do: its element accesses, the status so far, the places whose pitches it holds, its slot header, and
what its start has read. -/
structure Plan where
  todo : List Micro
  status : Byte
  touched : List (Spot × Nat)
  hdr : Option W64
  read : List (Spot × Nat) := []
deriving DecidableEq, Repr

/-- The rest of a start, behind a read of `xs` (R119 counts the bytes). -/
def counted (xs : List (Spot × Nat)) (p : Except Halt Plan) : Except Halt Plan :=
  match p with
  | .ok p => .ok { p with read := xs ++ p.read }
  | .error h => .error { h with read := xs ++ h.read }

/-- FAULT, OVERLAP and INDEX report the operation's number (R212). -/
def halted (status : Byte) (faddr : W64) : Halt := { status := status, faddr := faddr, sub := false }

/-- A refused access as a status (R211). -/
def refusedAs (r : Byte × W64) : Halt := { status := statusOfCause r.1, faddr := r.2, sub := r.1 == 0x09 }

/-- A condition whose failure completes with FAULT. -/
def need (c : Bool) : Except Halt Unit := if c then .ok () else .error (halted 0x04 0)

/-- The rent check over reads and writes: the lowest refused address decides (R110, R218 check 5). -/
def State.rentAll (s : State) (n : Nat) (w : Who) (reads writes : List (Spot × Nat)) : Except Halt Unit :=
  match lowest (reads.filterMap (fun x => s.spotRefuses n w false false x.1 x.2) ++
      writes.filterMap (fun x => s.spotRefuses n w true false x.1 x.2)) with
  | some r => .error (refusedAs r)
  | none => .ok ()

/-- A read that an operation makes at its start: TRANSLATION and POISON stop it (R211). -/
def State.readNow (s : State) (n : Nat) (w : Who) (p : Spot) (len : Nat) : Except Halt (List Byte) :=
  match s.spotFault n w false p len with
  | some a => .error (halted 0x05 a)
  | none =>
    match s.spotPoison n w.pasid p len with
    | some a => .error (halted 0x06 a)
    | none => .ok (s.spotBytes n w.pasid p len)

/-- A spot at a device virtual address. -/
def vaSpot (a : W64) : Spot := { tier := 4, addr := a }

end Sys2Proof.Machine
end

