-- ==== Sys2Proof/Machine/Trans.lean ====
section
/-!
DEFINITION. The transcendental functions of 07 R168, R175, R181 and 11 R252. The manual asks for the correctly rounded value
of the exact function. Each is computed here in fixed point with 320 bits (640 for the rotary angles), far beyond the point
at which an FP32 result can still be undecided, and rounded once (log 7).
-/

namespace Sys2Proof.Machine

/-- Fixed-point product with `w` fraction bits. -/
def fixMul (w : Nat) (a b : Int) : Int := (a * b) >>> w

/-- n / d in fixed point, rounded down. -/
def fixOf (w n d : Nat) : Nat := (n <<< w) / d

/-- A signed dyadic value in fixed point. -/
def fixNum (w : Nat) (neg : Bool) (m : Nat) (e : Int) : Int :=
  let (n, d) := magRat m e
  signInt neg (fixOf w n d)

/-- Σ x^(2j+1) / (2j+1) from the term `p` = x^(2j+1) on, `n` terms: the series of atanh. -/
def atanhFrom (w : Nat) (x2 : Int) : Nat → Nat → Int → Int → Int
  | 0, _, _, acc => acc
  | n + 1, j, p, acc => atanhFrom w x2 n (j + 1) (fixMul w p x2) (acc + p / ((2 * j + 1 : Nat) : Int))

/-- atanh x for 0 ≤ x ≤ 1/3. -/
def fixAtanh (w : Nat) (x : Int) : Int := atanhFrom w (fixMul w x x) (w / 3 + 8) 0 x 0

/-- ln 2 = 2 atanh(1/3). -/
def fixLn2 (w : Nat) : Int := 2 * fixAtanh w (fixOf w 1 3)

/-- ln(n / d) for n, d > 0. -/
def fixLn (w n d : Nat) : Int :=
  let k := ilog2 n d
  let (a, b) := shiftRat n d (-k)
  -- a / b lies in [1, 2)
  2 * fixAtanh w (fixOf w (a - b) (a + b)) + k * fixLn2 w

/-- Σ x^j / j! from the term `t` = x^(j−1) / (j−1)! on, `n` terms. -/
def expFrom (w : Nat) (x : Int) : Nat → Nat → Int → Int → Int
  | 0, _, _, acc => acc
  | n + 1, j, t, acc => expFrom w x n (j + 1) (fixMul w t x / (j : Int)) (acc + t)

/-- e^x as a fraction, for a fixed-point x: the argument is reduced by ln 2. Beyond ±200 the result is past every FP32 value
and stands for itself as 2^±300. -/
def expRat (w : Nat) (x : Int) : Nat × Nat :=
  if x > (200 : Int) <<< w then (1 <<< 300, 1) else if x < -((200 : Int) <<< w) then (1, 1 <<< 300) else
    let l := fixLn2 w
    let k := (x + l / 2) / l
    let y := expFrom w (x - k * l) (w / 4 + 8) 1 ((1 : Int) <<< w) 0
    shiftRat y.toNat (1 <<< w) k

/-- The width of FP32 work. -/
def transBits : Nat := 320

/-- e^x of an exact dyadic x. -/
def expNum (neg : Bool) (m : Nat) (e : Int) : Nat × Nat :=
  if m = 0 then (1, 1)
  else if (Nat.log2 m : Int) + e > 9 then (if neg then (1, 1 <<< 300) else (1 <<< 300, 1))
  else expRat transBits (fixNum transBits neg m e)

/-- 2^x of an exact dyadic x; exact when x is an integer. -/
def exp2Num (neg : Bool) (m : Nat) (e : Int) : Nat × Nat :=
  if m = 0 then (1, 1)
  else if (Nat.log2 m : Int) + e > 9 then (if neg then (1, 1 <<< 300) else (1 <<< 300, 1))
  else
    let w := transBits
    let x := fixNum w neg m e
    let k := x >>> w
    let f := x - k <<< w
    if f = 0 then shiftRat 1 1 k
    else
      let y := expFrom w (fixMul w f (fixLn2 w)) (w / 4 + 8) 1 ((1 : Int) <<< w) 0
      shiftRat y.toNat (1 <<< w) k

/-- A fixed-point value rounded to FP32. -/
def f32OfFix (mode : RMode) (w : Nat) (x : Int) : W32 :=
  if x = 0 then 0 else f32Round mode (decide (x < 0)) x.natAbs (1 <<< w)

/-- A positive fraction that is a power of two: its exponent. -/
def pow2Of (n d : Nat) : Option Int :=
  let k := ilog2 n d
  let (a, b) := shiftRat n d (-k)
  if a = b then some k else none

/-- VEXP (07 R168). -/
def f32ExpMode (mode : RMode) (x : W32) : W32 :=
  match f32Num x with
  | .nan => f32NaN
  | .inf a => if a then 0 else f32Inf false
  | .fin a m e => let (n, d) := expNum a m e; f32Round mode false n d

/-- VEXP2. -/
def f32Exp2 (x : W32) : W32 :=
  match f32Num x with
  | .nan => f32NaN
  | .inf a => if a then 0 else f32Inf false
  | .fin a m e => let (n, d) := exp2Num a m e; f32Round .rne false n d

/-- VLOG2. -/
def f32Log2 (x : W32) : W32 :=
  match f32Num x with
  | .nan => f32NaN
  | .inf a => if a then f32NaN else f32Inf false
  | .fin a m e =>
    if m = 0 then f32Inf true else if a then f32NaN
    else
      let (n, d) := magRat m e
      match pow2Of n d with
      | some k => f32OfInt .rne false k 0
      | none =>
        let w := transBits
        f32OfFix .rne w ((fixLn w n d <<< w) / fixLn2 w)

/-- ln x rounded under `mode`, x > 0 finite; ln 1 is exact (07 R181). -/
def f32LnMode (mode : RMode) (x : W32) : W32 :=
  match f32Num x with
  | .nan => f32NaN
  | .inf a => if a then f32NaN else f32Inf false
  | .fin a m e =>
    if m = 0 then f32Inf true else if a then f32NaN
    else
      let (n, d) := magRat m e
      if n = d then 0 else f32OfFix mode transBits (fixLn transBits n d)

/-- VSIG: 1 / (1 + e^−x). -/
def f32Sig (x : W32) : W32 :=
  match f32Num x with
  | .nan => f32NaN
  | .inf a => if a then 0 else 0x3F800000#32
  | .fin a m e => let (n, d) := expNum (!a) m e; f32Round .rne false d (d + n)

/-- VTANH: (e^2x − 1) / (e^2x + 1), odd in x. -/
def f32Tanh (x : W32) : W32 :=
  match f32Num x with
  | .nan => f32NaN
  | .inf a => if a then 0xBF800000#32 else 0x3F800000#32
  | .fin a m e =>
    if m = 0 then f32Zero a else let (n, d) := expNum false m (e + 1); f32Round .rne a (n - d) (n + d)

/-! ## Rotary angles (11 R252) -/

/-- The width of the angle's work: θ can reach 2^173. -/
def rotBits : Nat := 640

/-- Σ (−1)^j x^(2j+1) / (2j+1): the series of arctan. -/
def atanFrom (w : Nat) (x2 : Int) : Nat → Nat → Int → Int → Int
  | 0, _, _, acc => acc
  | n + 1, j, p, acc => atanFrom w x2 n (j + 1) (-(fixMul w p x2)) (acc + p / ((2 * j + 1 : Nat) : Int))

/-- π = 16 arctan(1/5) − 4 arctan(1/239). -/
def fixPi (w : Nat) : Int :=
  let f (d : Nat) : Int := let x : Int := fixOf w 1 d; atanFrom w (fixMul w x x) (w / 4 + 8) 0 x 0
  16 * f 5 - 4 * f 239

/-- Σ of every second term of the exponential series with alternating sign: cosine from t = 1, j = 1; sine from t = x, j = 2. -/
def trigFrom (w : Nat) (x2 : Int) : Nat → Nat → Int → Int → Int
  | 0, _, _, acc => acc
  | n + 1, j, t, acc => trigFrom w x2 n (j + 2) (-(fixMul w t x2 / ((j * (j + 1) : Nat) : Int))) (acc + t)

/-- (round_rne(cos θ), round_rne(sin θ)) for θ = δ × ω^(−2i / rd), ω = n / d > 0 (R252). -/
def rotPair (delta : Int) (n d : Nat) (i rd : Nat) : W32 × W32 :=
  let w := rotBits
  let y := -(fixLn w n d * (2 * i : Nat)) / (rd : Int)
  let (p, q) := if i = 0 then (1, 1) else expRat w y
  let theta := delta * (fixOf w p q : Int)
  let tau := 2 * fixPi w
  let r := theta - (theta + tau / 2) / tau * tau
  let r2 := fixMul w r r
  let c := trigFrom w r2 (w / 4 + 8) 1 ((1 : Int) <<< w) 0
  let s := trigFrom w r2 (w / 4 + 8) 2 r 0
  (f32OfFix .rne w c, f32OfFix .rne w s)

end Sys2Proof.Machine
end

