-- ==== Sys2Proof/Machine/Arena.lean ====
section
/-!
DEFINITION. The key-value arena: descriptor, provenance, registry, the three slot operations and the tag check (11 R243–R258).
-/

namespace Sys2Proof.Machine

/-! ## Descriptor and addresses (R243–R249) -/

/-- The `k` bytes from offset `o` of a list of bytes, as a number. -/
def numAt (bs : List Byte) (o k : Nat) : Nat := natOfBytes ((bs.drop o).take k)

/-- The descriptor in 64 bytes. -/
def arenaOf (op : EngOp) (bs : List Byte) : Arena :=
  { docreg := op.docreg, key := BitVec.ofNat 64 (numAt bs 0 8), val := BitVec.ofNat 64 (numAt bs 8 8),
    prov := BitVec.ofNat 64 (numAt bs 16 8), slots := numAt bs 0x18 4, lmax := numAt bs 0x1C 4, layers := numAt bs 0x20 4,
    entries := numAt bs 0x24 4, elems := numAt bs 0x28 4, fmt := BitVec.ofNat 8 (numAt bs 0x2C 1),
    zero := (bs.drop 0x2D).all (· == 0), kvslot := op.kvslot, kvtok := op.kvtok, kvlayer := op.kvlayer }

/-- Bytes of an element and of a row (R243). -/
def Arena.width (d : Arena) : Nat := if d.fmt = 0x00 then 4 else 2
def Arena.rowBytes (d : Arena) : Nat := d.elems * d.width

/-- The length of a region (R245). -/
def Arena.region (d : Arena) : Nat := d.slots * d.kvslot.toNat

/-- The geometry that R245 requires. -/
def Arena.fits (d : Arena) : Bool :=
  d.zero && decide (d.key.toNat % 64 = 0 ∧ d.val.toNat % 64 = 0 ∧ d.prov.toNat % 64 = 0) &&
    decide (1 ≤ d.slots ∧ d.slots ≤ 65536) && decide (d.lmax % 16 = 0 ∧ 16 ≤ d.lmax ∧ d.lmax ≤ 2 ^ 24) &&
    decide (2 ≤ d.layers ∧ d.layers ≤ 256) && decide (1 ≤ d.entries ∧ d.entries ≤ 2 ^ 20) &&
    decide (1 ≤ d.elems ∧ d.elems ≤ 16384) && (d.fmt == 0x00 || d.fmt == 0x01) && decide (d.kvtok.toNat % 64 = 0) &&
    decide (d.rowBytes ≤ d.kvtok.toNat) && decide (d.lmax * d.kvtok.toNat ≤ d.kvlayer.toNat) &&
    decide (d.layers * d.kvlayer.toNat ≤ d.kvslot.toNat) &&
    decide (d.key.toNat + d.region ≤ d.val.toNat ∨ d.val.toNat + d.region ≤ d.key.toNat)

/-- Row κ of token t, layer λ, slot σ (R243). -/
def Arena.row (d : Arena) (kappa slot layer tok : Nat) : Spot :=
  vaSpot ((if kappa = 0 then d.key else d.val) +
    BitVec.ofNat 64 (slot * d.kvslot.toNat + layer * d.kvlayer.toNat + tok * d.kvtok.toNat))

/-- The slot header and a provenance entry (R246). -/
def Arena.header (d : Arena) (slot : Nat) : W64 := d.prov + BitVec.ofNat 64 (slot * (64 + d.lmax))
def Arena.entry (d : Arena) (slot b : Nat) : W64 := d.header slot + BitVec.ofNat 64 (64 + 16 * b)

/-- The registry entry at which a document is looked up (R249); with no entries it is entry 0 (log 89). -/
def regEntry (docreg : W64) (count doc : Nat) : W64 := docreg + BitVec.ofNat 64 (64 + 16 * (doc % max 1 count))

/-- Fields of a provenance entry (R247). -/
def provDoc (e : Nat) : Nat := e % 2 ^ 48
def provVer (e : Nat) : Nat := e / 2 ^ 48 % 2 ^ 32
def provWm (e : Nat) : Nat := e / 2 ^ 100 % 2 ^ 8
def provSpliced (e : Nat) : Bool := e.testBit 108
def provUnder (e : Nat) : Bool := e.testBit 109
def provStale (e : Nat) : Bool := e.testBit 110

/-- Replace `w` bits at bit `lo`. -/
def setField (e lo w v : Nat) : Nat := e - e / 2 ^ lo % 2 ^ w * 2 ^ lo + v % 2 ^ w * 2 ^ lo

/-- Whether a registry entry holds the document at the version (R249). -/
def isCurrent (reg : List Byte) (doc ver : Nat) : Bool := provDoc (natOfBytes reg) == doc && provVer (natOfBytes reg) == ver

/-- Whether a block is complete for a layer (R248). -/
def completeFor (e layer : Nat) : Bool := !provUnder e || decide (layer ≤ provWm e)

/-- A provenance entry as the engine writes it: bit 111 is 0 (R247). -/
def entryBytes (e : Nat) : List Byte := bytesOfNat 16 (setField e 111 1 0)

/-- The write of a provenance entry. -/
def putEntry (d : Arena) (slot b e : Nat) : Micro := .put (vaSpot (d.entry slot b)) (entryBytes e)

/-! ## Common beginnings -/

/-- The descriptor, rent-checked and read at the start of the operation (R244, R252; log 71). -/
def State.readArena (s : State) (n : Nat) (w : Who) (op : EngOp) : Except Halt Arena := do
  s.rentAll n w [(vaSpot op.docreg, 64)] []
  let bs ← s.readNow n w (vaSpot op.docreg) 64
  .ok (arenaOf op bs)

/-- The slot header: LEN, and whether it keeps R246. -/
def State.readHeader (s : State) (n : Nat) (w : Who) (d : Arena) (slot : Nat) : Except Halt (Nat × Bool) := do
  s.rentAll n w [(vaSpot (d.header slot), 64)] []
  let bs ← s.readNow n w (vaSpot (d.header slot)) 64
  let len := numAt bs 0 4
  .ok (len, decide (len ≤ d.lmax) && (bs.drop 4).all (· == 0))

/-- The provenance entries of blocks b … b + k − 1. -/
def State.readEntries (s : State) (n : Nat) (w : Who) (d : Arena) (slot b k : Nat) : Except Halt (List Nat) := do
  let bs ← if k = 0 then Except.ok [] else s.readNow n w (vaSpot (d.entry slot b)) (16 * k)
  .ok ((List.range k).map (fun i => numAt bs (16 * i) 16))

/-- Blocks that hold `len` tokens. -/
def blocksOf (len : Nat) : Nat := (len + 15) / 16

/-! ## XSPLICE (R251, R252) -/

/-- The record's rotary base and rotated dimension count (R251). -/
def ropeBase (x : Shape) : W32 := x.rot.extractLsb' 0 32
def ropeDims (x : Shape) : Nat := (x.rot.extractLsb' 32 16).toNat

/-- Whether ω is finite and above 0. -/
def ropeFits (omega : W32) : Bool :=
  match f32Num omega with
  | .fin false m _ => decide (m ≠ 0)
  | _ => false

/-- The record fields that R251 requires. -/
def spliceRecFits (x : Shape) (d : Arena) : Bool :=
  let hd := x.size1.toNat
  let rd := ropeDims x
  decide (x.base.toNat % 64 = 0) && (x.tier == 4 || x.tier == 5) && x.fmt == d.fmt && decide (x.size0.toNat = d.elems) &&
    decide (0 < hd) && decide (d.elems % hd = 0) && decide (rd % 2 = 0 ∧ rd ≤ hd) && x.flags &&& 15 == 0 &&
    (rd == 0 || ropeFits (ropeBase x))

/-- Row κ of library token j in layer λ (R250). -/
def libRow (x : Shape) (d : Arena) (blocks layer kappa j : Nat) : Spot :=
  vaSpot (x.base.setWidth 64 + BitVec.ofNat 64 (64 + ((layer * 2 + kappa) * (16 * blocks) + j) * d.rowBytes))

/-- Element `e` of a row. -/
def rowPlace (d : Arena) (r : Spot) (e : Nat) : Spot := { r with addr := r.addr + BitVec.ofNat 64 (e * d.width) }

/-- A row moved element by element (10 R233). -/
def copyRow (d : Arena) (src dst : Spot) : List Micro :=
  (List.range d.elems).map (fun e => .copy (rowPlace d src e) (rowPlace d dst e) d.width)

/-- The rows that step 5 of R252 moves: layer by layer, keys before values, from the last token down. They are written in this order. -/
def spliceShift (d : Arena) (slot len p g : Nat) : List Micro :=
  (List.range d.layers).flatMap (fun l => [0, 1].flatMap (fun k => (List.range (len - p)).flatMap (fun i =>
    copyRow d (d.row k slot l (len - 1 - i)) (d.row k slot l (len - 1 - i + g)) ++ [.gate false])))

/-- The number under which a read is kept for a later computation; the odd numbers are those of parts (10 R226). -/
def keepKey (k : Nat) : Nat := 2 * k

/-- Key row `row` of a splice rotated head by head: a pair of elements is read, rotated and written; those beyond rd are copied (R252). -/
def turnRow (x : Shape) (d : Arena) (row : Nat) (src dst : Spot) (delta : Int) : List Micro :=
  let hd := x.size1.toNat
  let rd := ropeDims x
  (List.range d.elems).flatMap (fun e =>
    let r := e % hd
    if rd ≤ r then [.copy (rowPlace d src e) (rowPlace d dst e) d.width]
    else if r % 2 = 1 then []
    else
      let k := row * d.elems + e
      [.keep (rowPlace d src e) d.width (keepKey k), .keep (rowPlace d src (e + 1)) d.width (keepKey (k + 1)),
        .turn { even := keepKey k, odd := keepKey (k + 1), dst := rowPlace d dst e, fmt := d.fmt, width := d.width, i := r / 2,
                rd := rd, omega := ropeBase x, delta := delta }])

/-- The library rows: values copied, keys rotated by δ = p − SRCPOS (R252 step 6). -/
def spliceFill (x : Shape) (d : Arena) (slot p blocks : Nat) (delta : Int) : List Micro :=
  (List.range d.layers).flatMap (fun l => (List.range (16 * blocks)).flatMap (fun j =>
    copyRow d (libRow x d blocks l 1 j) (d.row 1 slot l (p + j)) ++
      (if delta = 0 ∨ ropeDims x = 0 then copyRow d (libRow x d blocks l 0 j) (d.row 0 slot l (p + j))
       else turnRow x d (l * (16 * blocks) + j) (libRow x d blocks l 0 j) (d.row 0 slot l (p + j)) delta)))

/-- The entry of inserted block i (R252 step 7). -/
def splicedEntry (d : Arena) (doc ver srcb : Nat) : Nat :=
  doc + 2 ^ 48 * ver + 2 ^ 80 * (srcb % 2 ^ 20) + 2 ^ 100 * ((d.layers - 1) % 256) + 2 ^ 108

/-- The part of SPLICE_START behind its first reads: LEN and the library header `lh`, of which bits that R252 does not check are ignored
(log 90). -/
def State.spliceRest (s : State) (n : Nat) (w : Who) (op : EngOp) (d : Arena) (len : Nat) (hdrOk : Bool) (lh : List Byte) :
    Except Halt Plan := do
  let x := op.src
  let slot := op.s.toNat
  let p := op.s2.toNat
  let doc := numAt lh 0 8 % 2 ^ 48
  let ver := numAt lh 8 4
  let srcpos := numAt lh 0x0C 4
  let blocks := numAt lh 0x10 4
  let nb := blocksOf len
  let reg := vaSpot (regEntry d.docreg d.entries doc)
  let table := (vaSpot (d.entry slot 0), 16 * nb)
  if len ≤ d.lmax then s.rentAll n w [table] []
  need (d.fits && hdrOk && spliceRecFits x d && decide (slot < d.slots) && decide (p % 16 = 0) && decide (p ≤ len) &&
    decide (1 ≤ blocks ∧ blocks ≤ 64) && decide (numAt lh 0x14 4 = d.layers) && decide (srcpos % 16 = 0) &&
    decide (srcpos + 16 * blocks ≤ 2 ^ 24) && decide (len + 16 * blocks ≤ d.lmax))
  let es ← s.readEntries n w d slot 0 nb
  counted [table] (do
    need (es.all (fun e => !provUnder e))
    let g := 16 * blocks
    let layers := List.range d.layers
    let sources := layers.flatMap (fun l => [0, 1].flatMap (fun k =>
      (libRow x d blocks l k 0, g * d.rowBytes) :: (List.range (len - p)).map (fun i => (d.row k slot l (p + i), d.rowBytes))))
    let targets := layers.flatMap (fun l => [0, 1].flatMap (fun k =>
      (List.range (len + g - p)).map (fun i => (d.row k slot l (p + i), d.rowBytes))))
    let tables := [(vaSpot (d.entry slot (p / 16)), 16 * (nb + blocks - p / 16)), (vaSpot (d.header slot), 4)]
    s.rentAll n w sources (targets ++ tables)
    let rb ← s.readNow n w reg 16
    let touched := (vaSpot d.docreg, 64) :: (vaSpot (d.header slot), 64) :: (reg, 16) :: (vaSpot (x.base.setWidth 64), 64) :: table ::
      sources ++ targets ++ tables
    counted [(reg, 16)] (
      if isCurrent rb doc ver then
        let shiftEntries : List Micro := (List.range (nb - p / 16)).flatMap (fun i =>
          [.entry (vaSpot (d.entry slot (nb - 1 - i))) (vaSpot (d.entry slot (nb - 1 - i + blocks))), .gate false])
        let inserted := (List.range blocks).map (fun i => putEntry d slot (p / 16 + i) (splicedEntry d doc ver (srcpos / 16 + i)))
        let lenPut : Micro := .put (vaSpot (d.header slot)) (bytesOfNat 4 (len + g))
        .ok { todo := spliceShift d slot len p g ++ shiftEntries ++ .gate true :: spliceFill x d slot p blocks ((p : Int) - srcpos) ++
                .gate true :: inserted ++ [.gate true, lenPut],
              status := 0, touched := touched, hdr := some (d.header slot) }
      else .ok { todo := [], status := 0x0A, touched := touched, hdr := some (d.header slot) }))

/-- SPLICE_START (R252). -/
def State.beginSplice (s : State) (n : Nat) (w : Who) (op : EngOp) : Except Halt Plan := do
  let lib := vaSpot (op.src.base.setWidth 64)
  let slot := op.s.toNat
  let d ← s.readArena n w op
  counted [(vaSpot op.docreg, 64)] (do
    s.rentAll n w [(vaSpot (d.header slot), 64), (lib, 64)] []
    let lh ← s.readNow n w lib 64
    counted [(lib, 64)] (do
      s.rentAll n w [(vaSpot (regEntry d.docreg d.entries (numAt lh 0 8 % 2 ^ 48)), 16)] []
      let (len, hdrOk) ← s.readHeader n w d slot
      counted [(vaSpot (d.header slot), 64)] (s.spliceRest n w op d len hdrOk lh)))

/-- The two elements of a rotated pair (R252): one rounding to FP32, then the conversion to AFMT with RNE and SATINF. -/
def Turn.results (t : Turn) (x y : List Byte) : List Byte × List Byte :=
  let (on, od) := match f32Num t.omega with
    | .fin _ m e => magRat m e
    | _ => (1, 1)
  let (c, z) := rotPair t.delta on od t.i t.rd
  let a := fmtNum t.fmt (natOfBytes x)
  let b := fmtNum t.fmt (natOfBytes y)
  let out (v : W32) : List Byte := bytesOfNat t.width (convert 0x00 t.fmt .rne 1 v.toNat)
  (out (numF32 .rne (numAdd (numMul a (f32Num c)) (numNeg (numMul b (f32Num z))))),
    out (numF32 .rne (numAdd (numMul a (f32Num z)) (numMul b (f32Num c)))))

/-- The bytes that were kept under a number. -/
def keptAt (kept : List (Nat × List Byte)) (k : Nat) : List Byte := ((kept.find? (fun x => x.1 == k)).map (·.2)).getD []

/-- The writes of a rotated pair. -/
def Turn.puts (t : Turn) (kept : List (Nat × List Byte)) : List Micro :=
  let r := t.results (keptAt kept t.even) (keptAt kept t.odd)
  [.put t.dst r.1, .put { t.dst with addr := t.dst.addr + BitVec.ofNat 64 t.width } r.2]

/-! ## XDARN (R253, R254) -/

/-- An exact value as a multiple of 2^−149; none for a NaN or an infinity. -/
def fixed149 (x : Num) : Option Int :=
  match x with
  | .fin neg m e => some (signInt neg (if 0 ≤ e + 149 then m <<< (e + 149).toNat else m >>> (-(e + 149)).toNat))
  | _ => none

/-- The deviation of a row, as a fraction; none is +infinity (R254 step 4). -/
def rowDev (fmt : Byte) (fresh stored : List Byte) : Option (Nat × Nat) :=
  let k := if fmt = 0x00 then 4 else 2
  let step (acc : Option (Nat × Nat)) (fs : Nat × Nat) : Option (Nat × Nat) :=
    match acc, fixed149 (fmtNum fmt fs.1), fixed149 (fmtNum fmt fs.2) with
    | some (a, b), some f, some t => some (max a (f - t).natAbs, max b t.natAbs)
    | _, _, _ => none
  match ((elementsOf k fresh).zip (elementsOf k stored)).foldl step (some (0, 0)) with
  | none => none
  | some (a, b) => if b = 0 then (if a = 0 then some (0, 1) else none) else some (a, b)

/-- The larger of two deviations. -/
def devMax (x y : Option (Nat × Nat)) : Option (Nat × Nat) :=
  match x, y with
  | some (a, b), some (c, d) => if a * d < c * b then some (c, d) else some (a, b)
  | _, _ => none

/-- d(t) from the largest deviation (R254). -/
def devF32 (x : Option (Nat × Nat)) : W32 :=
  match x with
  | none => f32Inf false
  | some (a, b) => f32Round .rne false a b

/-- IEEE binary16 of a nonnegative FP32 value, overflow to +infinity (R254 step 7). -/
def toBinary16 (x : W32) : Nat := toFloatCode .rne 1 10 (-24) 0x7BFF 0x7C00 0x7E00 0x8000 (f32Num x)

/-- Element (e, j, κ, λ) of the scratch record (R253). -/
def scratchSpot (x : Shape) (e j k l : Nat) : Spot :=
  let part (i : Nat) (st : BitVec 32) : W64 := BitVec.ofNat 64 i * st.signExtend 64
  { tier := x.tier,
    addr := x.base.setWidth 64 + part e x.stride0 + part j x.stride1 + part k x.stride2 + part l x.stride3 }

/-- The fields that R253 requires. -/
def darnFits (op : EngOp) (d : Arena) : Bool :=
  let x := op.src
  let c := (op.s2.extractLsb' 0 13).toNat
  op.s2 &&& ~~~0x01FFFFFF00011FFF#64 == 0 && decide ((op.s2.extractLsb' 32 25).toNat % 64 = 0) && decide (c ≤ 4096) &&
    decide (3 ≤ x.tier.toNat ∧ x.tier.toNat ≤ 5) && x.fmt == d.fmt && decide (x.size0.toNat = d.elems) &&
    decide (x.size1.toNat = 16 * c) && x.size2 == 2 && decide (1 ≤ x.size3.toNat ∧ x.size3.toNat + 1 ≤ d.layers) &&
    x.size4 == 1 && x.size5 == 1 && x.flags &&& 15 == 0

/-- The rows of a darning: token of the range, layer, κ. -/
def darnRows (x : Shape) (c : Nat) : List (Nat × Nat × Nat) :=
  (List.range (16 * c)).flatMap (fun j => (List.range x.size3.toNat).flatMap (fun l => [(j, l, 0), (j, l, 1)]))

/-- The place of the list (R253). -/
def darnList (op : EngOp) : Spot :=
  { tier := if op.s2.getLsbD 16 then 3 else 1, addr := (op.s2.extractLsb' 32 25).setWidth 64 }

/-- The numbers under which step 4 keeps element `e` of fresh and of stored row `r`. -/
def freshKey (d : Arena) (r e : Nat) : Nat := keepKey (2 * (r * d.elems + e))
def storedKey (d : Arena) (r e : Nat) : Nat := keepKey (2 * (r * d.elems + e) + 1)

/-- The places of element `e` of a row in the scratch record and in the slot. -/
def freshPlace (op : EngOp) (row : Nat × Nat × Nat) (e : Nat) : Spot := scratchSpot op.src e row.1 row.2.2 row.2.1
def storedPlace (d : Arena) (slot b0 : Nat) (row : Nat × Nat × Nat) (e : Nat) : Spot :=
  rowPlace d (d.row row.2.2 slot row.2.1 (16 * b0 + row.1)) e

/-- The reads of step 4 of R254, row by row: each element of a token below LEN in the scratch record and in the slot (log 82). -/
def darnReads (op : EngOp) (d : Arena) (slot b0 c len : Nat) : List Micro :=
  ((darnRows op.src c).zipIdx.filter (fun r => decide (16 * b0 + r.1.1 < len))).flatMap (fun r => (List.range d.elems).flatMap (fun e =>
    [.keep (freshPlace op r.1 e) d.width (freshKey d r.2 e), .keep (storedPlace d slot b0 r.1 e) d.width (storedKey d r.2 e)]))

/-- Steps 5 to 7 of R254 from what step 4 kept: the stored rows, from their scratch rows where the token lies at or past LEN, then the
list, then the entries. -/
def judged (op : EngOp) (d : Arena) (slot b0 c len : Nat) (kept : List (Nat × List Byte)) : List Micro :=
  let x := op.src
  let rows := (darnRows x c).zipIdx
  let fresh (r : Nat) : List Byte := (List.range d.elems).flatMap (fun e => keptAt kept (freshKey d r e))
  let stored (r : Nat) : List Byte := (List.range d.elems).flatMap (fun e => keptAt kept (storedKey d r e))
  let dOf (j : Nat) : W32 :=
    devF32 ((rows.filter (fun r => r.1.1 == j)).foldl (fun a r => devMax a (rowDev d.fmt (fresh r.2) (stored r.2))) (some (0, 1)))
  let listed := ((List.range (16 * c)).filter (fun j => decide (16 * b0 + j < len) && f32Lt op.devthr (dOf j))).map (16 * b0 + ·)
  let newEntry (i : Nat) : Micro :=
    let mine := (List.range 16).filter (fun t => decide (16 * (b0 + i) + t < len))
    let top := mine.foldl (fun a t => f32MaxOf a (dOf (16 * i + t))) 0
    .amend (d.entry slot (b0 + i)) (toBinary16 top)
      (if listed.any (fun t => t / 16 == b0 + i) then some (x.size3.toNat - 1) else none)
  let list := darnList op
  let word (k v : Nat) : Micro := .put { list with addr := list.addr + BitVec.ofNat 64 (4 * k) } (bytesOfNat 4 v)
  let store (r : (Nat × Nat × Nat) × Nat) (e : Nat) : Micro :=
    let dst := storedPlace d slot b0 r.1 e
    if 16 * b0 + r.1.1 < len then .put dst (keptAt kept (freshKey d r.2 e)) else .copy (freshPlace op r.1 e) dst d.width
  rows.flatMap (fun r => (List.range d.elems).map (store r)) ++
    (.gate true :: word 0 listed.length :: (List.range 15).map (fun k => word (k + 1) 0)) ++
    listed.zipIdx.map (fun t => word (16 + t.2) t.1) ++ .gate true :: (List.range c).map newEntry

/-- A provenance entry as step 7 of R254 writes it: MAXDEV, and where a token is listed UNDER and the watermark. -/
def amended (e dev : Nat) (wm : Option Nat) : Nat :=
  let x := setField e 112 16 dev
  match wm with
  | some k => setField (setField x 109 1 1) 100 8 k
  | none => x

/-- DARN_START (R254). -/
def State.beginDarn (s : State) (n : Nat) (w : Who) (op : EngOp) : Except Halt Plan := do
  let x := op.src
  let b0 := (op.s.extractLsb' 0 32).toNat
  let slot := (op.s.extractLsb' 32 32).toNat
  let c := (op.s2.extractLsb' 0 13).toNat
  let d ← s.readArena n w op
  counted [(vaSpot op.docreg, 64)] (do
    let (len, hdrOk) ← s.readHeader n w d slot
    counted [(vaSpot (d.header slot), 64)] (do
      need (d.fits && hdrOk && darnFits op d && decide (slot < d.slots) && decide (0 < c) && decide (b0 + c ≤ blocksOf len))
      let rows := darnRows x c
      let fresh := rows.flatMap (fun r => (List.range d.elems).map (fun e => (freshPlace op r e, d.width)))
      let stored := rows.map (fun r => (d.row r.2.2 slot r.2.1 (16 * b0 + r.1), d.rowBytes))
      let tables := [(vaSpot (d.entry slot b0), 16 * c), (darnList op, 64 + 64 * c)]
      s.rentAll n w fresh (stored ++ tables)
      .ok { todo := darnReads op d slot b0 c len ++ [.judge d slot b0 c len], status := 0,
            touched := (vaSpot d.docreg, 64) :: (vaSpot (d.header slot), 64) :: fresh ++ stored ++ tables,
            hdr := some (d.header slot) }))

/-! ## XDARNC (R255) -/

/-- The start of an XDARNC whose waits are over (R255). Step 1 asks for a write of every entry (log 91). -/
def State.beginDarnc (s : State) (n : Nat) (w : Who) (op : EngOp) : Except Halt Plan := do
  let layer := (op.s.extractLsb' 0 8).toNat
  let slot := (op.s.extractLsb' 32 32).toNat
  let d ← s.readArena n w op
  counted [(vaSpot op.docreg, 64)] (do
    let (len, hdrOk) ← s.readHeader n w d slot
    let nb := blocksOf len
    let table := (vaSpot (d.entry slot 0), 16 * nb)
    counted [(vaSpot (d.header slot), 64)] (do
      if len ≤ d.lmax then s.rentAll n w [] [table]
      need (d.fits && hdrOk && decide (slot < d.slots) && decide (layer < d.layers) && op.s.extractLsb' 8 24 == 0)
      let es ← s.readEntries n w d slot 0 nb
      let under := (es.zipIdx).filter (fun e => provUnder e.1)
      let touched := [(vaSpot d.docreg, 64), (vaSpot (d.header slot), 64), table]
      counted [table] (
        if under.any (fun e => decide (provWm e.1 + 1 ≠ layer)) then
          .ok { todo := [], status := 0x0D, touched := touched, hdr := some (d.header slot) }
        else
          let newEntry (e : Nat) : Nat :=
            let e := setField e 100 8 layer
            if layer + 1 = d.layers then setField e 109 1 0 else e
          .ok { todo := under.map (fun e => putEntry d slot e.2 (newEntry e.1)), status := 0, touched := touched,
                hdr := some (d.header slot) })))

/-! ## Tag-checked reads (R257) -/

/-- The slot and token of an element's address; none outside both regions. -/
def Arena.place (d : Arena) (a : W64) : Option (Nat × Nat) :=
  let x := a.toNat
  let off := if d.key.toNat ≤ x ∧ x < d.key.toNat + d.region then some (x - d.key.toNat)
    else if d.val.toNat ≤ x ∧ x < d.val.toNat + d.region then some (x - d.val.toNat) else none
  off.map (fun o => (o / d.kvslot.toNat, o % d.kvslot.toNat % d.kvlayer.toNat / d.kvtok.toNat))

/-- Put the check of each block before the first access whose source lies in it; `seen` are the blocks met, and `may` tells whether an
entry may be written. -/
def tagged (d : Arena) (layer : Nat) (strict : Bool) (may : W64 → Bool) : List (Nat × Nat) → List Micro → List Micro
  | _, [] => []
  | seen, m :: ms =>
    match m with
    | .copy src _ _ =>
      match d.place src.addr with
      | some (slot, tok) =>
        if seen.contains (slot, tok / 16) then m :: tagged d layer strict may seen ms
        else
          let e := d.entry slot (tok / 16)
          .tag src.addr e layer strict d.docreg d.entries (may e) :: m :: tagged d layer strict may ((slot, tok / 16) :: seen) ms
      | none => m :: tagged d layer strict may seen ms
    | _ => m :: tagged d layer strict may seen ms

/-- The entries that the tag checks of a plan read. -/
def tagEntries (todo : List Micro) : List W64 :=
  todo.filterMap (fun m => match m with
    | .tag _ e _ _ _ _ _ => some e
    | _ => none)

/-- The descriptor of a tag-checked source, read and held to R245 with the first checks of an operation; none where the record asks for
no tag check (R257). -/
def State.openArena (s : State) (n : Nat) (w : Who) (op : EngOp) (x : Shape) : Except Halt (Option Arena) := do
  if x.flags.getLsbD 1 then
    let d ← s.readArena n w op
    if d.fits then .ok (some d) else .error { halted 0x04 0 with read := [(vaSpot op.docreg, 64)] }
  else .ok none

/-- The plan with its tag checks: every source element lies in a region (R257). Whether the context may write an entry is asked here,
once (R109, log 72). -/
def State.tagPlan (s : State) (n : Nat) (w : Who) (d : Arena) (x : Shape) (todo : List Micro) : Except Halt (List Micro) := do
  need (todo.all (fun m => match m with | .copy src _ _ => (d.place src.addr).isSome | _ => true))
  let may (e : W64) : Bool := (s.spotRefuses n w true false (vaSpot e) 16).isNone
  .ok (tagged d (x.flags.extractLsb' 8 8).toNat (x.flags.getLsbD 2) may [] todo)

/-- The rent that the tag checks of a plan need, checked before any element (R109, R211): every entry and the registry entry that a
spliced block names; the entry of a block that is stale as it stands is written too. Answers the places (log 72). -/
def State.tagRent (s : State) (n : Nat) (w : Who) (d : Arena) (todo : List Micro) : Except Halt (List (Spot × Nat)) := do
  let entries := (tagEntries todo).map (fun e => (vaSpot e, 16))
  s.rentAll n w entries []
  let now (p : Spot) : Nat := natOfBytes (s.spotBytes n w.pasid p 16)
  let reg (e : Nat) : Spot := vaSpot (regEntry d.docreg d.entries (provDoc e))
  let live := entries.filter (fun p => provSpliced (now p.1) && !provStale (now p.1))
  let regs := live.map (fun p => (reg (now p.1), 16))
  s.rentAll n w regs []
  let out (p : Spot × Nat) : Bool :=
    let e := now p.1
    provStale e || (provSpliced e && !isCurrent (s.spotBytes n w.pasid (reg e) 16) (provDoc e) (provVer e))
  s.rentAll n w [] (entries.filter out)
  .ok ((vaSpot d.docreg, 64) :: entries ++ regs)

/-- What a tag check finds (R257). -/
inductive TagResult where
  | stale
  | partly
  | unrepaired
  | pass
deriving DecidableEq, Repr

/-- The row of R257 for an entry: `old` when it is stale or out of date. -/
def tagResult (e layer : Nat) (strict old : Bool) : TagResult :=
  if old then .stale else if completeFor e layer then .pass else if strict then .unrepaired else .partly

end Sys2Proof.Machine
end

