-- ==== Sys2Proof/Machine/Engine.lean ====
section
/-!
DEFINITION. The engines: copies, gathers, scatters, fills and the weight stream, and the start, the element accesses and the
completion of every engine operation (08 R202–R204, 09 R205–R221, 11 R255–R258).
-/

namespace Sys2Proof.Machine

/-! ## Places and hulls (R213, R218) -/

/-- Bytes of an element that an engine moves: a code 0x30 element is one byte (R218). -/
def elemBytes (fmt : Byte) : Nat := max 1 (fmtBits fmt / 8)

/-- The place of an element of a record. -/
def spotIn (x : Shape) (a : W64) : Spot := { tier := x.tier, addr := a }

/-- The places of every element of a record, in index order. -/
def Shape.spots (x : Shape) : List Spot := x.addrs.map (spotIn x)

/-- The lowest and one past the highest byte of the places in a space. -/
def hullOf (space : Nat) (xs : List (Spot × Nat)) : Option (Nat × Nat) :=
  let mine := xs.filterMap (fun x => if x.1.space.1 = space then some (x.1.space.2, x.1.space.2 + x.2) else none)
  match mine with
  | [] => none
  | y :: ys => some (ys.foldl (fun h z => (min h.1 z.1, max h.2 z.2)) y)

/-- Two lists of places overlap by their hulls (R218 check 4). -/
def hullsMeet (xs ys : List (Spot × Nat)) : Bool :=
  (List.range 7).any (fun sp =>
    match hullOf sp xs, hullOf sp ys with
    | some h, some k => decide (h.1 < k.2) && decide (k.1 < h.2)
    | _, _ => false)

/-! ## The record checks (R218 check 1, R257) -/

/-- A record of agent `n`'s operation: `table` may set FLAGS bit 0, `read` marks a source that may be tag-checked. -/
def recFits (n : Nat) (x : Shape) (table read : Bool) : Bool :=
  decide (x.tier.toNat ≤ 5) && !(isCtl n && decide (x.tier.toNat < 3)) && decide (fmtBits x.fmt ≠ 0) &&
    (table || !x.flags.getLsbD 0) &&
    (x.flags &&& 6 == 0 || (read && x.flags.getLsbD 1 && decide (4 ≤ x.tier.toNat)))

/-! ## What each operation will do -/

/-- A list of places, each of `k` bytes. -/
def sized (k : Nat) (xs : List Spot) : List (Spot × Nat) := xs.map (fun p => (p, k))

/-- The places of a record, every element of it. -/
def Shape.sizedSpots (x : Shape) (k : Nat) : List (Spot × Nat) := sized k x.spots

/-- The checks from OVERLAP on, common to the four operations of R217: the hulls of the two records, and rent over every byte that they
and the tag checks touch (R218 checks 4 and 5). -/
def State.finishPlan (s : State) (n : Nat) (w : Who) (tag : Option (Arena × Shape)) (listed sources targets : List (Spot × Nat))
    (todo : List Micro) : Except Halt Plan := do
  let plan ← match tag with
    | some (d, x) => s.tagPlan n w d x todo
    | none => .ok todo
  if hullsMeet sources targets then .error (halted 0x07 0) else pure ()
  s.rentAll n w sources targets
  let extra ← match tag with
    | some (d, _) => s.tagRent n w d plan
    | none => .ok []
  .ok { todo := plan, status := 0, touched := listed ++ sources ++ targets ++ extra, hdr := none }

/-- What reading the descriptor of a tag-checked source adds to a start's reads. -/
def arenaRead (op : EngOp) (d : Option Arena) : List (Spot × Nat) := if d.isSome then [(vaSpot op.docreg, 64)] else []

/-- XCOPY (R219). -/
def State.planCopy (s : State) (n : Nat) (w : Who) (op : EngOp) : Except Halt Plan := do
  let k := elemBytes op.src.fmt
  need (recFits n op.dst false false && recFits n op.src false true && op.dst.fmt == op.src.fmt &&
    decide (op.dst.count = op.src.count))
  let d ← s.openArena n w op op.src
  counted (arenaRead op d) (s.finishPlan n w (d.map (fun d => (d, op.src))) [] (op.src.sizedSpots k) (op.dst.sizedSpots k)
    ((op.src.spots.zip op.dst.spots).map (fun p => .copy p.1 p.2 k)))

/-- XFILL (R219). -/
def State.planFill (s : State) (n : Nat) (w : Who) (op : EngOp) : Except Halt Plan := do
  let k := elemBytes op.dst.fmt
  need (recFits n op.dst false false)
  s.finishPlan n w none [] [] (op.dst.sizedSpots k) (op.dst.spots.map (fun p => .put p (bytesOf op.s k)))

/-- The place of element `e` of the table row that index `i` selects (R220). -/
def rowElem (t : Shape) (i e : Nat) : Spot :=
  spotIn t (t.base.setWidth 64 + BitVec.ofNat 64 i * t.stride1.signExtend 64 + BitVec.ofNat 64 e * t.stride0.signExtend 64)

/-- The index that marks a hole (R220). -/
def holeIndex : Nat := 0xFFFFFFFF

/-- The record checks of R220. -/
def indexFits (op : EngOp) (table packed : Shape) : Bool :=
  table.size2 == 1 && table.size3 == 1 && table.size4 == 1 && table.size5 == 1 && table.fmt == packed.fmt &&
    decide (packed.count = op.s2.toNat * table.size0.toNat) && decide (op.s2.toNat ≤ 65536) && decide (op.s.toNat % 4 = 0)

/-- The index list as a place. -/
def indexList (op : EngOp) : Spot × Nat := (vaSpot op.s, 4 * op.s2.toNat)

/-- The index list, rent-checked and read whole (R218 check 2). -/
def State.readIndexes (s : State) (n : Nat) (w : Who) (op : EngOp) : Except Halt (List Nat) := do
  let (p, len) := indexList op
  match s.spotRefuses n w false true p len with
  | some r => .error (refusedAs r)
  | none => pure ()
  let bs ← if len = 0 then Except.ok [] else s.readNow n w p len
  .ok (elementsOf 4 bs)

/-- INDEX for an entry outside the table that is no hole (R218 check 3, R220). -/
def checkIndexes (table : Shape) (xs : List Nat) : Except Halt Unit :=
  if xs.any (fun x => !(table.flags.getLsbD 0 && x == holeIndex) && decide (table.size1.toNat ≤ x)) then .error (halted 0x08 0)
  else .ok ()

/-- XGATHER (R220). -/
def State.planGather (s : State) (n : Nat) (w : Who) (op : EngOp) : Except Halt Plan := do
  let t := op.src
  let p := op.dst
  let k := elemBytes t.fmt
  need (recFits n t true true && recFits n p false false && indexFits op t p)
  let d ← s.openArena n w op t
  counted (arenaRead op d) (do
    let xs ← s.readIndexes n w op
    let row (r : Nat × Nat) : List Micro := (List.range t.size0.toNat).map (fun e =>
      let dst := spotIn p (p.addr (r.2 * t.size0.toNat + e))
      if t.flags.getLsbD 0 && r.1 == holeIndex then .put dst (List.replicate k 0) else .copy (rowElem t r.1 e) dst k)
    counted [indexList op] (do
      checkIndexes t xs
      s.finishPlan n w (d.map (fun d => (d, t))) [indexList op] (t.sizedSpots k) (p.sizedSpots k) (xs.zipIdx.flatMap row)))

/-- XSCATTER (R220): of a repeated index the later row remains. -/
def State.planScatter (s : State) (n : Nat) (w : Who) (op : EngOp) : Except Halt Plan := do
  let t := op.dst
  let p := op.src
  let k := elemBytes t.fmt
  need (recFits n t true false && recFits n p false false && indexFits op t p)
  let xs ← s.readIndexes n w op
  let row (r : Nat × Nat) : List Micro :=
    if t.flags.getLsbD 0 && r.1 == holeIndex then []
    else (List.range t.size0.toNat).map (fun e =>
      .copy (spotIn p (p.addr (r.2 * t.size0.toNat + e))) (rowElem t r.1 e) k)
  counted [indexList op] (do
    checkIndexes t xs
    s.finishPlan n w none [indexList op] (p.sizedSpots k) (t.sizedSpots k) (xs.zipIdx.flatMap row))

/-- Elements of a dictionary block: 512 binary8 codes, 256 BF16 values (R203). -/
def dictSize (fmt : Byte) : Nat := if fmt = 0x01 then 256 else 512

/-- WSTREAM (R203). -/
def State.planStream (s : State) (n : Nat) (w : Who) (op : EngOp) : Except Halt Plan := do
  let d := op.dst
  let x := op.src
  let blocks := dictSize d.fmt
  need (d.tier == 2 && (x.tier == 4 || x.tier == 5) && d.flags &&& 15 == 0 && x.flags &&& 15 == 0 &&
    decide (fmtBits d.fmt ≠ 0) &&
    (if op.enc then (isBinary8 d.fmt || d.fmt == 0x01) && decide (d.count = blocks * x.count)
     else d.fmt == x.fmt && decide (d.count = x.count)))
  let k := elemBytes d.fmt
  let len := if op.enc then 16 + blocks / 2 else k
  let sources := sized len x.spots
  let targets := sized k d.spots
  s.rentAll n w sources targets
  let raw := (x.spots.zip d.spots).map (fun p => Micro.copy p.1 p.2 k)
  let dict := x.spots.zipIdx.map (fun p =>
    Micro.dict p.1 ((d.addrs.drop (blocks * p.2)).take blocks) (d.fmt == 0x01))
  .ok { todo := if op.enc then dict else raw, status := 0, touched := sources ++ targets, hdr := none }

/-- The checks of an operation at its start, by its opcode (R35). -/
def State.planOf (s : State) (n : Nat) (w : Who) (op : EngOp) : Except Halt Plan :=
  match op.op.toNat with
  | 0x10 => s.planCopy n w op
  | 0x11 => s.planGather n w op
  | 0x12 => s.planScatter n w op
  | 0x13 => s.planFill n w op
  | 0x14 => s.planStream n w op
  | 0x15 => s.beginSplice n w op
  | 0x16 => s.beginDarn n w op
  | _ => s.beginDarnc n w op

/-! ## Starting (R207, R228, R239, R255, R256) -/

/-- The slot header that a slot operation names: XDARN and XDARNC hold the slot in the upper half of s (R251, R253, R255). -/
def State.slotHeader (s : State) (n : Nat) (w : Who) (op : EngOp) : Option W64 :=
  if op.op.toNat < 0x15 then none
  else match s.readArena n w op with
    | .ok d => some (d.header (if op.op = 0x15 then op.s.toNat else (op.s.extractLsb' 32 32).toNat))
    | .error _ => none

/-- Whether another operation works on the same slot (R256). -/
def State.slotBusy (s : State) (h : Option W64) : Bool := h.isSome && s.running.any (fun r => r.slotHdr == h)

/-- The bytes that a start has read count as moved (04 R119). -/
def State.movedAll (s : State) (n : Nat) (w : Who) (xs : List (Spot × Nat)) : State :=
  xs.foldl (fun s x => s.movedIn w.account (s.spotTier n x.1) x.2) s

/-- The host's copies of the lines that a start reads are recalled, and their rows are activated (04 R114, 14 R310). -/
def State.touchReads (s : State) (n : Nat) (w : Who) (xs : List (Spot × Nat)) : State :=
  s.touchAll n w.pasid (xs.filterMap (fun x => if x.1.tier.toNat ≤ 3 then none else some { addr := x.1.addr, len := x.2 }))

/-- An operation that starts: its pitches' INFLIGHT rises, or it ends with the status of the first failing check. -/
def State.begin (s : State) (n : Nat) (h : Held) (op : EngOp) : State :=
  match s.planOf n h.owner op with
  | .ok p =>
    let ks := s.pitchesTouched n p.touched
    let r : Running :=
      { agent := n, owner := h.owner, op := op, todo := p.todo.zipIdx.map (fun x => (x.2, x.1)), kept := [], status := p.status,
        faddr := 0, sub := false, pitches := ks, slotHdr := p.hdr, seq := h.seq }
    { ((s.movedAll n h.owner p.read).touchReads n h.owner p.read).raise ks with running := s.running ++ [r] }
  | .error x =>
    let r : Running :=
      { agent := n, owner := h.owner, op := op, todo := [], kept := [], status := x.status, faddr := x.faddr, sub := x.sub,
        pitches := [], slotHdr := none, seq := h.seq }
    { (s.movedAll n h.owner x.read).touchReads n h.owner x.read with running := s.running ++ [r] }

/-- The engine operation of a context that is next in an ECB, with its place. -/
def nextOp (c : BitVec 3) (ecb : List Held) : Option (Nat × Held × EngOp) :=
  ecb.zipIdx.findSome? (fun x => match x.1.cmd with
    | .engine e => if e.ctx = c then some (x.2, x.1, e) else none
    | _ => none)

/-- The next fabric, mailbox or launch command of an ECB. -/
def nextOther (ecb : List Held) : Option (Nat × Held) :=
  ecb.zipIdx.findSome? (fun x => match x.1.cmd with
    | .xqp _ _ => some (x.2, x.1)
    | .xmbox _ _ _ => some (x.2, x.1)
    | .xlaunch _ => some (x.2, x.1)
    | _ => none)

/-- No marker stands before place `k` (R239). -/
def openTo (ecb : List Held) (k : Nat) : Bool := (ecb.take k).all (fun h => !h.isMarker)

/-- Whether an operation of a context runs. -/
def State.ctxBusy (s : State) (n : Nat) (c : BitVec 3) : Bool := s.running.any (fun r => r.agent == n && r.op.ctx == c)

/-- A command leaves the ECB at place `k`. -/
def State.leaveEcb (s : State) (n k : Nat) : State :=
  let a := s.agent n
  s.setAgent n { a with ecb := a.ecb.eraseIdx k }

/-- The effect of a fabric, mailbox or launch command (R335, R340, R296). -/
def State.startOther (s : State) (n : Nat) (h : Held) : State :=
  match h.cmd with
  | .xqp e qp => s.post n h.owner e qp
  | .xmbox _ _ _ => s.enter n h.owner h.seq (.cmd h.cmd)
  | .xlaunch l => { s with tileLaunches := s.tileLaunches ++ [(n, h.owner, l)] }
  | _ => s

/-- START (R228, R207): context codes 0 to 6 start the context's next engine operation, code 7 the next fabric, mailbox or
launch command. -/
def State.start (s : State) (n : Nat) (c : BitVec 3) : State :=
  let ecb := (s.agent n).ecb
  if c = 7 then
    match nextOther ecb with
    | some (k, h) => if openTo ecb k then (s.leaveEcb n k).startOther n h else s
    | none => s
  else
    match nextOp c ecb with
    | some (k, h, e) =>
      if openTo ecb k ∧ e.op ≠ 0x17 ∧ !s.ctxBusy n c ∧ !s.slotBusy (s.slotHeader n h.owner e) then
        (s.leaveEcb n k).begin n h e
      else s
    | none => s
def execStart (n : BitVec 9) (c : BitVec 3) (s : State) : Host.Outcome State Fault Refusal := .next (s.start n.toNat c)

/-- Whether everything that an agent released before place `seq` in the order of releases has completed (R255). -/
def State.doneBefore (s : State) (n seq : Nat) : Bool :=
  let a := s.agent n
  let early (h : Held) : Bool := decide (h.seq < seq) && !h.isMarker
  !a.ecb.any early && !a.fsq.any early && !s.running.any (fun r => r.agent == n && decide (r.seq < seq)) &&
    !s.transit.any (fun t => t.agent == n && t.load.isCmd && decide (t.seq < seq))

/-- DARNC_START (R255): an XDARNC waits until every earlier release of its agent has completed. -/
def State.darncStart (s : State) (n : Nat) (c : BitVec 3) : State :=
  let ecb := (s.agent n).ecb
  match nextOp c ecb with
  | some (k, h, e) =>
    if openTo ecb k ∧ e.op = 0x17 ∧ !s.ctxBusy n c ∧ s.doneBefore n h.seq ∧ !s.slotBusy (s.slotHeader n h.owner e) then
      (s.leaveEcb n k).begin n h e
    else s
  | none => s
def execDarncStart (n : BitVec 9) (c : BitVec 3) (s : State) : Host.Outcome State Fault Refusal :=
  .next (s.darncStart n.toNat c)

/-! ## Element accesses (R211, R228 M7 and M6, R233) -/

/-- The place that an access reads. -/
def Micro.reads (m : Micro) : Option (Spot × Nat) :=
  match m with
  | .copy src _ k => some (src, k)
  | .dict src _ bf16 => some (src, if bf16 then 144 else 272)
  | .keep src k _ => some (src, k)
  | .entry src _ => some (src, 16)
  | .tag _ e _ _ _ _ _ => some (vaSpot e, 16)
  | .look _ _ _ _ r _ _ => some (vaSpot r, 16)
  | .amend e _ _ => some (vaSpot e, 16)
  | _ => none

/-- The place that an access writes, with the bytes. -/
def Micro.writes (m : Micro) : Option (Spot × List Byte) :=
  match m with
  | .put dst bs => some (dst, bs)
  | .stale _ e x => some (vaSpot e, entryBytes x)
  | _ => none

/-- The place of an access. -/
def Micro.place (m : Micro) : Option (Spot × Nat) := m.reads.or (m.writes.map (fun x => (x.1, x.2.length)))

/-- Two places share a byte. -/
def placesMeet (x y : Spot × Nat) : Bool :=
  x.1.space.1 == y.1.space.1 && decide (x.1.space.2 < y.1.space.2 + y.2) && decide (y.1.space.2 < x.1.space.2 + x.2)

/-- The operation that runs on a context of an agent. -/
def State.runningOn (s : State) (n : Nat) (c : BitVec 3) : Option Running :=
  s.running.find? (fun r => r.agent == n && r.op.ctx == c)

/-- The accesses of the operation on context `c` of agent `n` that travel, with their numbers. -/
def State.flying (s : State) (n : Nat) (c : BitVec 3) : List (Nat × Micro) :=
  s.transit.filterMap (fun t => match t.load with
    | .element k i m => if t.agent = n ∧ k = c then some (i, m) else none
    | _ => none)

/-- Whether an access is a plain write, sharing no byte with a place. -/
def Micro.passes (m : Micro) (p : Spot × Nat) : Bool :=
  match m with
  | .put dst bs => !placesMeet p (dst, bs.length)
  | _ => false

/-- Whether an access is a plain write. -/
def Micro.isPut (m : Micro) : Bool :=
  match m with
  | .put _ _ => true
  | _ => false

/-- Whether access `j` may be made. Nothing orders the reads (R228 M7) but the steps of a slot operation (11 R252, R254). A write waits for
every read, check and step before it in index order, so that one that stops the operation stops it there (R211, 11 R257), and behind a
write of the same bytes (R220). A computation waits for what it is made of. -/
def State.mayEnter (s : State) (r : Running) (j : Nat) : Bool :=
  let ahead := (r.todo.take j).map (·.2)
  let has (k : Nat) : Bool := r.kept.any (fun x => x.1 == k)
  match r.todo[j]? with
  | none => false
  | some (i, m) =>
    let before := (s.flying r.agent r.op.ctx).filter (fun x => decide (x.1 < i))
    match m with
    | .turn t => has t.even && has t.odd
    | .join _ keys => keys.all has
    | .gate _ => decide (j = 0) && before.isEmpty
    | .judge _ _ _ _ _ => decide (j = 0) && before.isEmpty
    | m => match m.place with
      | none => false
      | some p => !ahead.contains (.gate true) &&
          (m.reads.isSome || (ahead.all (fun x => x.passes p) && before.all (fun x => x.2.isPut)))

/-- The operation changes. -/
def State.setRunning (s : State) (r x : Running) : State :=
  { s with running := s.running.map (fun y => if y = r then x else y) }

/-- Accesses take their places in index order. -/
def insertAt (i : Nat) (ms : List Micro) (todo : List (Nat × Micro)) : List (Nat × Micro) :=
  todo.takeWhile (fun x => decide (x.1 < i)) ++ ms.map (fun m => (i, m)) ++ todo.dropWhile (fun x => decide (x.1 < i))

/-- A stop at access number `i` (R211): what comes before it in index order still runs, and nothing after it. -/
def State.stopAt (s : State) (r : Running) (i : Nat) (h : Halt) : State :=
  let x := { r with todo := r.todo.filter (fun y => decide (y.1 < i)), status := h.status, faddr := h.faddr, sub := h.sub }
  let gone (t : Transit) : Bool := match t.load with
    | .element c k _ => t.agent == r.agent && c == r.op.ctx && decide (i < k)
    | _ => false
  { s.setRunning r x with transit := s.transit.filter (fun t => !gone t) }

/-- The translation of an access (14 R305). -/
def State.accessFault (s : State) (n : Nat) (w : Who) (m : Micro) : Option W64 :=
  match m.reads with
  | some p => s.spotFault n w false p.1 p.2
  | none => m.writes.bind (fun x => s.spotFault n w true x.1 x.2.length)

/-- The first of some accesses, in index order, that does not translate: its number and the address. -/
def State.firstFault (s : State) (n : Nat) (w : Who) (xs : List (Nat × Micro)) : Option (Nat × W64) :=
  xs.findSome? (fun x => (s.accessFault n w x.2).map (fun a => (x.1, a)))

/-- An access in its channel, from the agent's LOP (R227, R228 M7). -/
def Running.entry (r : Running) (i : Nat) (m : Micro) (h : Point) : Transit :=
  { agent := r.agent, owner := r.owner, seq := r.seq, load := .element r.op.ctx i m, passed := .lop (loomOf r.agent),
    route := (routeTo r.agent h).tail, home := h }

/-- The number under which part `k` of access `i` is kept. -/
def partKey (i k : Nat) : Nat := 2 * (64 * i + k) + 1

/-- Access `i` enters its route; `rest` is what is still to do. One whose bytes have several homes enters one for each (R226): the parts of
a write are writes, those of a read are kept until all have performed. -/
def State.sendElement (s : State) (r : Running) (i : Nat) (m : Micro) (p : Spot × Nat) (rest : List (Nat × Micro)) : State :=
  let go (todo : List (Nat × Micro)) (ts : List Transit) : State :=
    { s.setRunning r { r with todo := todo } with transit := s.transit ++ ts }
  match s.partsOf r.agent r.owner.pasid p.1 p.2 with
  | [x] => go rest [r.entry i m x.1]
  | xs => match m.writes with
    | some (dst, bs) => go rest (xs.map (fun x => r.entry i (.put (dst.shift x.2.1) ((bs.drop x.2.1).take x.2.2)) x.1))
    | none =>
      go (insertAt i [.join m ((List.range xs.length).map (fun k => partKey i k))] rest)
        (xs.zipIdx.map (fun x => r.entry i (.keep (p.1.shift x.1.2.1) x.1.2.2 (partKey i x.2)) x.1.1))

/-- The destination bytes of a dictionary block, element by element (R203). -/
def dictBytes (bf16 : Bool) (block : List Byte) : List (List Byte) :=
  (List.range (2 * (block.length - 16))).map (fun j =>
    let b := (block.getD (16 + j / 2) 0).toNat
    let d := block.getD (if j % 2 = 0 then b % 16 else b / 16) 0
    if bf16 then [0, d] else [d])

/-- What a tag check leads to (11 R257): a stop that a later element has met before stands, and PARTIAL is no stop. The STALE write is made
where the context may write (log 72). -/
def State.afterTag (s : State) (r : Running) (i : Nat) (elem entry : W64) (e : Nat) (write : Bool) (g : TagResult) : State :=
  match g with
  | .pass => s
  | .partly => s.setRunning r (if r.status = 0 then { r with status := 0x09 } else r)
  | .unrepaired => s.stopAt r i (halted 0x0C elem)
  | .stale =>
    if write then s.setRunning r { r with todo := insertAt i [.stale elem entry (setField e 110 1 1)] r.todo }
    else s.stopAt r i (halted 0x0B elem)

/-- What follows when an access has read its bytes. -/
def State.afterRead (s : State) (r : Running) (i : Nat) (m : Micro) (bs : List Byte) : State :=
  let add (ms : List Micro) : State := s.setRunning r { r with todo := insertAt i ms r.todo }
  match m with
  | .copy _ dst _ => add [.put dst bs]
  | .dict _ dsts bf16 => add ((dsts.zip (dictBytes bf16 bs)).map (fun p => .put { tier := 2, addr := p.1 } p.2))
  | .keep _ _ k => s.setRunning r { r with kept := r.kept ++ [(k, bs)] }
  | .entry _ dst => add [.put dst (entryBytes (natOfBytes bs))]
  | .amend entry dev wm => add [.put (vaSpot entry) (entryBytes (amended (natOfBytes bs) dev wm))]
  | .tag elem entry layer strict registry count write =>
    let e := natOfBytes bs
    if provSpliced e && !provStale e then add [.look elem entry layer strict (regEntry registry count (provDoc e)) e write]
    else s.afterTag r i elem entry e write (tagResult e layer strict (provStale e))
  | .look elem entry layer strict _ e write =>
    s.afterTag r i elem entry e write (tagResult e layer strict (!isCurrent bs (provDoc e) (provVer e)))
  | _ => s

/-- The operation as access `j` leaves its list. -/
def Running.without (r : Running) (j : Nat) : Running := { r with todo := r.todo.eraseIdx j }

/-- Access `j` of an operation is made: it enters its route, once it and those before it in index order translate (R211), or what it
computes or orders is done at once. -/
def State.makeElement (s : State) (r : Running) (j i : Nat) (m : Micro) : State :=
  let x := r.without j
  let spent (keys : List Nat) : List (Nat × List Byte) := r.kept.filter (fun y => !keys.contains y.1)
  match m with
  | .gate _ => s.setRunning r x
  | .turn t => s.setRunning r { x with todo := insertAt i (t.puts r.kept) x.todo, kept := spent [t.even, t.odd] }
  | .judge d slot b0 k len =>
    s.setRunning r { x with todo := x.todo ++ (judged r.op d slot b0 k len r.kept).zipIdx.map (fun y => (i + y.2, y.1)), kept := [] }
  | .join m keys =>
    let y := { x with kept := spent keys }
    (s.setRunning r y).afterRead y i m (keys.flatMap (keptAt r.kept))
  | m => match m.place with
    | none => s
    | some p => match s.firstFault r.agent r.owner (r.todo.take (j + 1)) with
      | some (k, a) => s.stopAt r k (halted 0x05 a)
      | none => s.sendElement r i m p x.todo

/-- DEPART of an element access (R228 M7). -/
def State.departElement (s : State) (n : Nat) (c : BitVec 3) (j : Nat) : State :=
  match s.runningOn n c with
  | none => s
  | some r => match r.todo[j]? with
    | none => s
    | some (i, m) => if s.mayEnter r j then s.makeElement r j i m else s

/-- DEPART (R228 M4, M7). -/
def execDepart (n : BitVec 9) (what : DepartOf) (s : State) : Host.Outcome State Fault Refusal :=
  match what with
  | .load => .next (s.departLoad n.toNat)
  | .store => .next (s.departStore n.toNat)
  | .element c j => .next (s.departElement n.toNat c j)

/-- The read that a kept part belongs to; none where a stop has given it up. -/
def Running.partOf (r : Running) (k : Nat) : Option Micro :=
  r.todo.findSome? (fun x => match x.2 with
    | .join m keys => if keys.contains k then some m else none
    | _ => none)

/-- The place that a read reads as a whole: a part stands for the read that waits for it. -/
def Running.wholePlace (r : Running) (m : Micro) : Option (Spot × Nat) :=
  match m with
  | .keep _ _ k => if k % 2 = 1 then (r.partOf k).bind Micro.reads else m.reads
  | _ => m.reads

/-- Poison stops an operation at a read, with the lowest poisoned address of all that it reads (R211, R212, R314). -/
def State.poisonStop (s : State) (r : Running) (i : Nat) (m : Micro) (a : W64) : State :=
  match r.wholePlace m with
  | none => s
  | some (p, k) => s.stopAt r i (halted 0x06 ((s.spotPoison r.agent r.owner.pasid p k).getD a))

/-- An access performs at its home (R228 M6): poison stops the operation (R211, R314). -/
def State.performElement (s : State) (t : Transit) (c : BitVec 3) (i : Nat) (m : Micro) : State :=
  let n := t.agent
  let q := t.owner.pasid
  match s.runningOn n c with
  | none => s
  | some r =>
    match m.reads with
    | some (p, k) =>
      match s.spotPoison n q p k with
      | some a => s.poisonStop r i m a
      | none => (s.movedIn t.owner.account (s.spotTier n p) k).afterRead r i m (s.spotBytes n q p k)
    | none =>
      match m with
      | .put dst bs => (s.spotPut n q dst bs).movedIn t.owner.account (s.spotTier n dst) bs.length
      | .stale elem e x =>
        ((s.spotPut n q (vaSpot e) (entryBytes x)).movedIn t.owner.account (s.spotTier n (vaSpot e)) 16).stopAt r i (halted 0x0B elem)
      | _ => s

/-- An entry that has reached its home performs there (R228 M6, R233). -/
def State.performAt (s : State) (k : Nat) : State :=
  match s.atHome k with
  | none => s
  | some t =>
    let s := (s.keepCode t).leaveHome k t
    match t.load with
    | .element c i m => s.performElement t c i m
    | .host a len data cached => s.performHost a len data cached
    | _ => s.performEntry t
def execPerform (k : Nat) (s : State) : Host.Outcome State Fault Refusal := .next (s.performAt k)

/-! ## Completion (R208, R212, R221) -/

/-- A completion makes a note pending when COUNT has reached NOTEREQ (R221); a NOTEREQ that a trap has restored is asked anew (log 88). -/
def Agent.noteDone (a : Agent) (c : Nat) (num : W64) (status : Byte) : Agent :=
  let q := Tab.get 0 a.r.noteReq c
  if q ≠ 0 ∧ q.toNat ≤ num.toNat then
    let note : Note := { num := num, status := status }
    { a with r := { a.r with noteReq := Tab.set 0 a.r.noteReq c 0, notes := Tab.set none a.r.notes c (some note) } }
  else a

/-- The loom task that an owner names. -/
def State.taskOf (s : State) (w : Who) : Option LoomTask :=
  match Tab.get none s.tasksets w.ts with
  | some t => t.tasks[w.j]?
  | none => none

/-- The same for a stopped task, whose engine contexts stand in its save area (12 R276). -/
def State.noteStopped (s : State) (n : Nat) (w : Who) (c : Nat) (num : W64) (status : Byte) : State :=
  match s.taskOf w with
  | some x =>
    if x.isStopped ∧ x.agents.contains n then
      let at0 := s.storage n none (x.region n + 0x2A0 + 32 * c)
      let q := s.mem.num (at0 + 8) 8
      if q ≠ 0 ∧ q ≤ num.toNat then
        s.put (at0 + 8) (bytesOfNat 8 0 ++ bytesOf num 8 ++ bytesOfNat 8 (2 ^ 63 + status.toNat))
      else s
    else s
  | none => s

/-- COMPLETE (R208, 10 R228 M8), once every element access has performed: INFLIGHT falls, the counter, LASTST and FREC advance in the
owner's timeline slot, and a note may become pending. The loom counts the operation (23 R375). -/
def State.complete (s : State) (n : Nat) (c : BitVec 3) : State :=
  match s.runningOn n c with
  | none => s
  | some r =>
    if r.todo = [] ∧ s.flying n c = [] then
      let s := { s with running := s.running.filter (fun x => x ≠ r) }.fallAll r.pitches
      let a := s.agent n
      let slot := r.owner.tslot.toNat
      let x := ((a.ctx slot c.toNat).advance r.op.num r.status).record r.op.num r.status r.faddr r.sub
      let s := s.setAgent n (a.setCtx slot c.toNat x)
      let s := if s.runs n r.owner then s.setAgent n ((s.agent n).noteDone c.toNat r.op.num r.status)
        else s.noteStopped n r.owner c.toNat r.op.num r.status
      let l := 288 + loomOf n
      let ev := (s.agent l).loomEvent 0x04 1
      s.setAgent l (if 5 ≤ c.toNat ∧ c.toNat ≤ 6 then ev.loomEvent 0x03 1 else ev)
    else s
def execComplete (n : BitVec 9) (c : BitVec 3) (s : State) : Host.Outcome State Fault Refusal := .next (s.complete n.toNat c)

end Sys2Proof.Machine
end

