-- ==== Sys2Proof/Machine/Genay.lean ====
section
/-!
DEFINITION. Genay: replies to rent instructions, commits, the rent clock and the sweeps over pitches (04 R95–R118, 14 R301–R308).
-/

namespace Sys2Proof.Machine

/-! ## Storage (R98, R104, R301, R303, R308) -/

/-- The storage that a pitch of a tier takes on a unit: every pitch not free. -/
def State.taken (s : State) (tier unit : Nat) (scrub : Bool) : List (Nat × Nat) :=
  s.pitches.filterMap (fun kp =>
    let p := kp.2
    let same := if 4 ≤ tier then decide (4 ≤ p.tier.toNat) else p.tier.toNat == tier && p.unit == unit
    if same && decide (p.state ≠ .free) && (scrub || decide (p.state ≠ .scrubbing)) then some (p.base, p.length) else none)

/-- Whether a range of `len` bytes at `b` is aligned, lies in lo … hi and meets none of the ranges. -/
def spaceAt (ranges : List (Nat × Nat)) (lo hi align len b : Nat) : Bool :=
  decide (b % align = 0) && decide (lo ≤ b) && decide (b + len ≤ hi) &&
    ranges.all (fun r => decide (b + len ≤ r.1) || decide (r.1 + r.2 ≤ b))

/-- The lowest base that fits: the start of the space, or the end of a taken range. -/
def lowestFit (ranges : List (Nat × Nat)) (lo hi align len : Nat) : Option Nat :=
  let up (x : Nat) : Nat := (x + align - 1) / align * align
  let starts := ((up lo) :: ranges.map (fun r => up (r.1 + r.2))).filter (spaceAt ranges lo hi align len)
  match starts with
  | [] => none
  | x :: xs => some (xs.foldl min x)

/-- The rent window that the launch record gives an agent's task (R281). -/
def windowOf (w : W64) : Nat × Nat :=
  let lo := (w.extractLsb' 30 27).toNat * 2 ^ 30
  (lo, lo + (w.extractLsb' 0 16).toNat * 2 ^ 30)

/-- The range in which Genay places a pitch of a tier for agent `n`. -/
def State.room (s : State) (tier n : Nat) : Nat × Nat :=
  if 4 ≤ tier then
    match (s.agent n).task with
    | some t => windowOf t.rentwin
    | none => (0, 0)
  else (0, tierSize tier)

/-- The alignment of a pitch's base: its granule, or 1 GiB for a large pitch of tiers 4 and 5 (R98, R303). -/
def placeAlign (tier g : Nat) : Nat := if 4 ≤ tier ∧ 2 ^ 30 ≤ g then 2 ^ 30 else granule tier

/-- The bytes of a pitch that lie on HBM die `d`. -/
def Pitch.onDie (p : Pitch) (d : Nat) : Nat :=
  if p.tier = 4 ∧ p.state ≠ .free then (p.dies.map (fun x => if x.1 = d then x.2 else 0)).sum else 0

/-- What a quarantine of channel `c` withdraws from renting: the channel's bytes that no pitch placed before holds (R315). -/
def State.withdrawn (s : State) (c : BitVec 8 × BitVec 16) : Nat :=
  let far := c.1 = 12
  let held := (s.pitches.map (fun kp =>
    let p := kp.2
    if p.avoid.contains c then 0
    else if far then (if p.tier = 5 ∧ p.state ≠ .free then p.length / (64 - p.avoid.length) else 0)
    else
      let d := c.1.toNat / 3
      p.onDie d / (192 - (p.avoid.filter (fun x => decide (x.1.toNat / 3 = d))).length))).sum
  (if far then 2 ^ 36 else 2000000000) - held

/-- Free HBM of a die in whole 4 KiB granules: 3 stacks of 128 GB, without what quarantines withdraw (00 R3, R308, R315). -/
def State.hbmFree (s : State) (d : Nat) : Nat :=
  let used := (s.pitches.map (fun kp => kp.2.onDie d)).sum
  let bad := ((s.quarantined.filter (fun q => decide (q.1.toNat / 3 = d))).map s.withdrawn).sum
  (384000000000 - bad - used) / 4096 * 4096

/-- Free far storage. -/
def State.farFree (s : State) : Nat :=
  let used := (s.pitches.map (fun kp => if kp.2.tier = 5 ∧ kp.2.state ≠ .free then kp.2.length else 0)).sum
  let bad := ((s.quarantined.filter (fun q => q.1 == 12)).map s.withdrawn).sum
  2 ^ 42 - bad - used

/-- The die with the most free HBM, the lowest on a tie. -/
def State.freestDie (s : State) : Nat :=
  [1, 2, 3].foldl (fun b d => if s.hbmFree b < s.hbmFree d then d else b) 0

/-- Storage of `g` bytes over several dies, filled in the order of a list (log 61). -/
def State.overDies (s : State) : Nat → List Nat → List (Nat × Nat)
  | _, [] => []
  | g, d :: ds =>
    let k := min g (s.hbmFree d)
    if k = 0 then s.overDies g ds else (d, k) :: s.overDies (g - k) ds

/-- The dies of a new HBM pitch (R308): the renting agent's, else the freest, else several where no single die has room. -/
def State.diesFor (s : State) (n g : Nat) : List (Nat × Nat) :=
  if g ≤ s.hbmFree (dieOf n) then [(dieOf n, g)]
  else if g ≤ s.hbmFree s.freestDie then [(s.freestDie, g)]
  else s.overDies g [0, 1, 2, 3]

/-- Whether the physical storage of a tier has room. -/
def State.hasRoom (s : State) (tier g : Nat) : Bool :=
  if tier = 4 then decide (g ≤ s.hbmFree 0 + s.hbmFree 1 + s.hbmFree 2 + s.hbmFree 3)
  else if tier = 5 then decide (g ≤ s.farFree)
  else true

/-- Where a pitch of G bytes goes: the base asked for if it fits, else the lowest that does (log 3). -/
def State.place (s : State) (tier n g : Nat) (base : Nat) : Option Nat :=
  let r := s.taken tier (unitOf tier n) true
  let (lo, hi) := s.room tier n
  let al := placeAlign tier g
  if !s.hasRoom tier g then none
  else if spaceAt r lo hi al g base then some base else lowestFit r lo hi al g

/-- Whether only scrubbing storage stands in the way (R104). -/
def State.scrubWait (s : State) (tier n g : Nat) : Bool :=
  let free : State := { s with pitches := s.pitches.filter (fun kp => decide (kp.2.state ≠ .scrubbing)) }
  (free.place tier n g 0).isSome

/-- Whether an operation on descriptor `k` is still to be committed or cancelled. -/
def State.mentions (s : State) (k : Nat) : Bool :=
  s.commits.any (fun c => c.op.about == some k) ||
    s.agents.any (fun na => na.2.wb.any (fun c => match c with | .rent r => r.about == some k | _ => false))

/-- A free descriptor. -/
def State.freshPitch (s : State) : Option Nat :=
  let bound := s.pitches.length + s.commits.length + (s.agents.map (fun na => na.2.wb.length)).sum
  (List.range (bound + 1)).find? (fun k => decide ((s.pitch k).state = .free) && !s.mentions k)

/-- Storage of a tier becomes zero, sound and untouched (R102, R104); its rows in HBM and the far tier are activated (14 R310). -/
def State.clearStore (s : State) (tier unit base len : Nat) : State :=
  let a := tierAddr tier unit base
  let s := { s with
    mem := s.mem.filter (fun c => decide (c.1 < a) || decide (a + len ≤ c.1))
    wcStatus := s.wcStatus.filter (fun c => decide (c.1 < a) || decide (a + len ≤ c.1))
    poison := s.poison.filter (fun c => decide (64 * c.1 < a) || decide (a + len ≤ 64 * c.1))
    arms := if 4 ≤ tier then s.arms.filter (fun c => decide (16 * c.1 < a) || decide (a + len ≤ 16 * c.1)) else s.arms
    wiped := if 4 ≤ tier then (base, len, s.now.toNat / 1000) :: s.wiped else s.wiped }
  let g := s.agent unit
  if tier = 1 then
    s.setAgent unit { g with journal := g.journal.map (fun x =>
      if base ≤ 64 * x.1 ∧ 64 * x.1 < base + len then (x.1, some 0) else x) }
  else if tier = 0 then
    s.setAgent unit { g with touched := g.touched.map (fun x =>
      if base ≤ 512 * x.1 ∧ 512 * x.1 < base + len then (x.1, some 0) else x) }
  else s

/-! ## Finding the pitch that an instruction names (R115–R117) -/

/-- How a context holds the pitch at an address. -/
inductive Holding where
  | none
  | own (k : Nat) (p : Pitch)
  | sub (k : Nat) (p : Pitch)
deriving DecidableEq, Repr

/-- The pitch that a context holds, as owner or as sublessee. -/
def Holding.pitch : Holding → Option (Nat × Pitch)
  | .none => Option.none
  | .own k p => some (k, p)
  | .sub k p => some (k, p)

/-- The pitch of a tier that holds an address for agent `n`'s context. -/
def State.holding (s : State) (n tier addr : Nat) : Holding :=
  let w := (s.agent n).who
  match s.findPitch tier (unitOf tier n) addr with
  | .none => .none
  | some (k, p) =>
    if p.tier.toNat ≠ tier then .none
    else if p.account = w.account ∧ p.context = w.context then
      if p.state = .tentative ∧ p.tentBy ≠ some n then .none else .own k p
    else if p.subs.any (fun x => x.account == w.account && x.context == w.context && x.covers p addr) then .sub k p
    else .none

/-- Whether a pitch counts as lapsed: overstay, lapsed, scrubbing, or the tick has reached P (R116, R102). -/
def State.lapsedFor (s : State) (k : Nat) (p : Pitch) : Bool :=
  match p.state with
  | .overstay => true
  | .lapsed => true
  | .scrubbing => true
  | .leased => decide (p.paid ≤ s.now.toNat) && !s.extensionPending k
  | _ => false

/-- A sublet joins a list: an earlier one to its context is replaced, one of no granule only ends it (R113). The list's order is the
order of the descriptor's SUB fields, and those after one that ends move down (log 62). -/
def Sublet.enter (l : List Sublet) (x : Sublet) : List Sublet :=
  let rest := l.filter (fun y => !(y.account == x.account && y.context == x.context))
  if x.count = 0 then rest else rest ++ [x]

/-- The sublet of an operation on pitch `k`. -/
def RentOp.subletOf (k : Nat) (l : List Sublet) (r : RentOp) : List Sublet :=
  match r with
  | .sublet j acct ctx first count rw =>
    if j = k then Sublet.enter l { account := acct, context := ctx, rw := rw, first := first, count := count } else l
  | _ => l

/-- The sublets of pitch `k` as agent `n` sees them. -/
def State.subletsFor (s : State) (n k : Nat) : List Sublet := (s.rentOps n).foldl (RentOp.subletOf k) (s.pitch k).subs

/-! ## Replies (R116–R118) -/

/-- Genay's reply: a state and the output value, or it waits for a scrub (R104). -/
inductive Reply where
  | wait
  | answer (s : State) (v : W64)

/-- A failing instruction changes nothing but its output register (R116). -/
def fails (s : State) (cc : Byte) : Reply := .answer s (statusWord cc)

/-- The available allowance as a register value (R97). -/
def State.allowance (s : State) (acct : BitVec 10) : W64 := fit64 (s.account acct).available

/-- Whether an account cannot pay a charge. -/
def State.short (s : State) (acct : BitVec 10) (x : Nat) : Bool := decide ((s.account acct).available < x)

/-- The holds of a list of rent operations. -/
def RentOp.holdOf (r : RentOp) : Nat :=
  match r with
  | .rent _ h => h
  | .prepay _ h _ => h
  | .renew _ h _ => h
  | _ => 0

/-- The task set under whose cap a set's charges stand: a tile's are its conductor's (13 R296, 16 R341). -/
def State.payer (s : State) (ts : Nat) : Nat :=
  match Tab.get none s.tasksets ts with
  | some t => (match t.source with
    | .conductor _ p _ => if (Tab.get none s.tasksets p).isSome then p else ts
    | _ => ts)
  | none => ts

/-- The hold of a withheld command. -/
def Cmd.hold (c : Cmd) : Nat :=
  match c with
  | .rent r => r.holdOf
  | _ => 0

/-- The charges that stand tentative or released under a task set's cap (16 R341). -/
def State.tentativeFor (s : State) (ts : Nat) : Nat :=
  (s.agents.map (fun na => if s.payer na.2.who.ts = ts then (na.2.wb.map Cmd.hold).sum else 0)).sum +
    (s.commits.map (fun c => if s.payer c.ts = ts then c.op.holdOf else 0)).sum

/-- Whether a charge of a task set would bring it above its allowance cap (16 R341). -/
def State.capped (s : State) (ts x : Nat) : Bool :=
  match Tab.get none s.tasksets (s.payer ts) with
  | some t => (match t.cap with
    | some c => decide (c.toNat < t.charged + s.tentativeFor (s.payer ts) + x)
    | none => false)
  | none => false

/-- Units charged to a task set (16 R341). -/
def State.book (s : State) (ts x : Nat) : State :=
  { s with tasksets := Tab.modify none s.tasksets (s.payer ts) (fun o => o.map (fun t => { t with charged := t.charged + x })) }

/-- Whether a charge cannot be reserved: INSUFFICIENT (R116, 16 R341). -/
def State.cannotPay (s : State) (n : Nat) (acct : BitVec 10) (x : Nat) : Bool := s.short acct x || s.capped (s.agent n).who.ts x

/-- Whether an account is insolvent (R97). -/
def State.insolvent (s : State) (acct : BitVec 10) : Bool := decide ((s.account acct).committed.toInt < 0)

/-- Reserve a hold (R117). -/
def State.holdFor (s : State) (acct : BitVec 10) (x : Nat) : State := s.modAccount acct (fun c => { c with hold := c.hold + x })

/-- A rent operation joins the withhold buffer (R105). -/
def State.withhold (s : State) (n : Nat) (r : RentOp) : State :=
  let a := s.agent n
  s.setAgent n { a with wb := a.wb ++ [.rent r] }

/-- Limits of R118. -/
def maxTicks : Nat := 2 ^ 48
def maxUnits : Nat := 2 ^ 63

/-- Pitches of an account in every state but free (R118). -/
def State.heldBy (s : State) (acct : BitVec 10) : Nat :=
  (s.pitches.filter (fun kp => decide (kp.2.state ≠ .free) && kp.2.account == acct)).length

/-- Descriptors in use. -/
def State.inUse (s : State) : Nat := (s.pitches.filter (fun kp => decide (kp.2.state ≠ .free))).length

/-- RENT (R117): `base` is where Genay would place the pitch (log 3). -/
def State.replyRent (s : State) (n : Nat) (r : RentReq) (base : Nat) : Reply :=
  let w := (s.agent n).who
  let tier := r.tier.toNat
  let g := roundUp tier r.x.toNat
  let rho := (s.rates.at tier).toNat
  let ticks := r.y.toNat
  let cost := g * rho * ticks
  let p := s.now.toNat + ticks
  if r.x.toNat = 0 ∨ largestPitch tier < r.x.toNat ∨ ticks = 0 ∨ maxTicks ≤ ticks ∨ maxUnits ≤ p ∨ maxUnits ≤ cost then
    fails s 0x0A
  else if tier ≤ 2 ∧ isCtl n then fails s 0x07
  else if s.insolvent w.account then fails s 0x02
  else if 65536 ≤ s.heldBy w.account ∨ 262144 ≤ s.inUse then fails s 0x03
  else match s.place tier n g base, s.freshPitch with
    | some b, some k =>
      if s.cannotPay n w.account cost then fails s 0x01
      else
        let d : Pitch := { Pitch.free with
          account := w.account, context := w.context, tier := r.tier, state := .tentative, att := r.att, base := b, length := g,
          paid := p, rate := rho, unit := if tier ≤ 3 then unitOf tier n else 0,
          dies := if tier = 4 then s.diesFor n g else [], avoid := s.quarantined,
          tentBy := some n }
        let s := ((s.clearStore tier (unitOf tier n) b g).setPitch k d).holdFor w.account cost
        .answer (s.withhold n (.rent k cost)) (BitVec.ofNat 64 b)
    | _, _ => if s.scrubWait tier n g then .wait else fails s 0x03

/-- RENEW and PREPAY (R117). -/
def State.replyExtend (s : State) (n : Nat) (r : RentReq) : Reply :=
  let w := (s.agent n).who
  let tier := r.tier.toNat
  let ticks := r.y.toNat
  let prepay := r.op == 0x22
  let h := s.holding n tier r.x.toNat
  let newP (k : Nat) : Nat := if prepay then s.paidFor n k + ticks else max (s.paidFor n k) (s.now.toNat + ticks)
  let cost (k : Nat) (p : Pitch) : Nat := (newP k - s.paidFor n k) * p.length * p.rate
  let far : Bool := match h.pitch with
    | some (k, p) => decide (maxUnits ≤ newP k ∨ maxUnits ≤ cost k p)
    | none => false
  if maxTicks ≤ ticks ∨ (prepay ∧ ticks = 0) ∨ far then fails s 0x0A
  else if tier ≤ 2 ∧ isCtl n then fails s 0x07
  else match h with
    | .none => fails s 0x04
    | .sub _ _ => fails s 0x05
    | .own k p =>
      if s.lapsedFor k p then fails s 0x08
      else if s.insolvent w.account then fails s 0x02
      else if s.cannotPay n w.account (cost k p) then fails s 0x01
      else if newP k = s.paidFor n k then .answer (s.withhold n .none) 0
      else
        let op : RentOp := if prepay then .prepay k (cost k p) ticks else .renew k (cost k p) (s.now.toNat + ticks)
        .answer ((s.holdFor w.account (cost k p)).withhold n op) 0

/-- SUBLET (R117, R113). A grant whose bits 63:56 are not zero answers LIMIT (log 63). -/
def State.replySublet (s : State) (n : Nat) (r : RentReq) : Reply :=
  let tier := r.tier.toNat
  let acct : BitVec 10 := r.y.extractLsb' 0 10
  let ctx : BitVec 16 := r.y.extractLsb' 10 16
  let count := (r.y.extractLsb' 26 30).toNat
  let h := s.holding n tier r.x.toNat
  let g := granule tier
  let far : Bool := match h.pitch with
    | some (_, p) => decide (p.length < r.x.toNat - p.base + count * g)
    | none => false
  if r.y.extractLsb' 56 8 ≠ 0 ∨ r.x.toNat % g ≠ 0 ∨ far then fails s 0x0A
  else if tier ≤ 2 then fails s 0x07
  else match h with
    | .none => fails s 0x04
    | .sub _ _ => fails s 0x05
    | .own k p =>
      let subs := s.subletsFor n k
      let has := subs.any (fun x => x.account == acct && x.context == ctx)
      if s.lapsedFor k p then fails s 0x08
      else if 4 ≤ subs.length ∧ !has then fails s 0x06
      else if count = 0 ∧ !has then .answer (s.withhold n .none) 0
      else .answer (s.withhold n (.sublet k acct ctx ((r.x.toNat - p.base) / g) count (r.att == 1))) 0

/-- VACATE (R117). -/
def State.replyVacate (s : State) (n : Nat) (r : RentReq) : Reply :=
  let tier := r.tier.toNat
  if tier ≤ 2 ∧ isCtl n then fails s 0x07
  else match s.holding n tier r.x.toNat with
    | .none => fails s 0x04
    | .sub _ _ => fails s 0x05
    | .own k p =>
      if s.lapsedFor k p then fails s 0x08
      else if p.inflight ≠ 0 then fails s 0x09
      else .answer (s.withhold n (.vacate k)) 0

/-- RENTQ (R117). -/
def State.replyQuery (s : State) (n : Nat) (r : RentReq) : Reply :=
  let tier := r.tier.toNat
  if tier ≤ 2 ∧ isCtl n then fails s 0x07
  else match s.holding n tier r.x.toNat with
    | .none => fails s 0x04
    | .sub k p => if s.lapsedFor k p then fails s 0x08 else .answer s (BitVec.ofNat 64 p.paid)
    | .own k p => if s.lapsedFor k p then fails s 0x08 else .answer s (BitVec.ofNat 64 (s.paidFor n k))

/-- Genay's reply by the opcode of the request (R35). -/
def State.replyOf (s : State) (n : Nat) (r : RentReq) (base : Nat) : Reply :=
  match r.op.toNat with
  | 0x20 => s.replyRent n r base
  | 0x21 => s.replyExtend n r
  | 0x22 => s.replyExtend n r
  | 0x23 => s.replySublet n r
  | 0x24 => s.replyVacate n r
  | 0x25 => s.replyQuery n r
  | _ => .answer s (s.allowance (s.agent n).who.account)

/-- The reply reaches the core: the stall ends, ALLOW is refreshed, and the result lands 1 issue cycle after the bundle (R97,
R105). A return that waited for it takes place (R50). -/
def State.takeReply (s : State) (n : Nat) (r : RentReq) (v : W64) : State :=
  let a := s.agent n
  (s.setAgent n ({ a with stall := .none, allow := s.allowance a.who.account }.fly r.cyc 1 (.s r.d v))).finishReturn n

/-- GENAY_REPLY (R105): `base` is where Genay would place a new pitch (log 3). -/
def State.genayReply (s : State) (n base : Nat) : State :=
  match (s.agent n).stall with
  | .genay r =>
    match s.replyOf n r base with
    | .answer t v => t.takeReply n r v
    | .wait => s
  | _ => s
def execGenayReply (n : BitVec 9) (base : BitVec 57) (s : State) : Host.Outcome State Fault Refusal :=
  .next (s.genayReply n.toNat base.toNat)

/-- RENT_SCRUB_WAIT (R104): a RENT that waited for a scrub receives its reply. -/
def State.rentScrubWait (s : State) (n base : Nat) : State :=
  match (s.agent n).stall with
  | .genay r => if r.op = 0x20 then s.genayReply n base else s
  | _ => s
def execRentScrubWait (n : BitVec 9) (base : BitVec 57) (s : State) : Host.Outcome State Fault Refusal :=
  .next (s.rentScrubWait n.toNat base.toNat)

/-! ## Commits (R106) -/

/-- PITCH_EXPIRY (R102). -/
def execPitchExpiry (k : Nat) (s : State) : Host.Outcome State Fault Refusal := .next (s.pitchExpiry k)

/-- The hold of an operation on pitch `k` is released. -/
def State.unholdOf (s : State) (k h : Nat) : State := s.modAccount (s.pitch k).account (·.unhold h)

/-- Genay applies a commit (R106). -/
def State.applyRent (s : State) (r : RentOp) : State :=
  match r with
  | .rent k h =>
    let s := s.unholdOf k h
    if (s.pitch k).state = .tentative then
      ((s.chargePitch k h).modPitch k (fun p => { p with state := .leased, tentBy := none })).pitchExpiry k
    else s
  | .void k h =>
    let p := s.pitch k
    let s := s.unholdOf k h
    if p.state = .tentative then (s.modPitch k Pitch.toScrub).forgetPages p else s
  | .prepay k h t =>
    let s := s.unholdOf k h
    if (s.pitch k).state = .leased then ((s.chargePitch k h).modPitch k (fun p => { p with paid := p.paid + t })).pitchExpiry k
    else s
  | .renew k h target =>
    let s := s.unholdOf k h
    let p := s.pitch k
    if p.state = .leased then
      let newP := max p.paid target
      ((s.chargePitch k ((newP - p.paid) * p.length * p.rate)).modPitch k (fun p => { p with paid := newP })).pitchExpiry k
    else s
  | .sublet k acct ctx first count rw =>
    let x : Sublet := { account := acct, context := ctx, rw := rw, first := first, count := count }
    let p := s.pitch k
    let subs := Sublet.enter p.subs x
    if p.state = .leased ∧ subs.length ≤ 4 then s.setPitch k { p with subs := subs } else s
  | .drop k h => s.unholdOf k h
  | .vacate k => s.vacateNow k
  | .endVacate k => s.vacate k
  | .none => s

/-- RENT_COMMIT (R106): the oldest released rent operation of agent `n` reaches Genay. The core counts it (23 R374). -/
def State.rentCommit (s : State) (n : Nat) : State :=
  match s.commits.find? (fun c => c.agent == n) with
  | none => s
  | some c =>
    let k := c.op.about.getD 0
    let before := (s.pitch k).charged
    let s := { s with commits := s.commits.erase c }.applyRent c.op
    let s := s.book c.ts ((s.pitch k).charged - before).toNat
    match c.op with
    | .endVacate _ => s
    | _ => s.setAgent n ((s.agent n).event 0x0D 1)
def execRentCommit (n : BitVec 9) (s : State) : Host.Outcome State Fault Refusal := .next (s.rentCommit n.toNat)

/-! ## The clock and the sweeps (R96, R102) -/

/-- A pitch still owes a step of this tick. -/
def State.sweepDue (s : State) (k : Nat) : Bool :=
  let p := s.pitch k
  s.expiryDue k || (decide (p.state = .overstay) && decide (p.lapsedAt < s.now.toNat)) ||
    (decide (p.state = .lapsed) && decide (p.lapsedAt < s.now.toNat))

/-- OVERSTAY_TICK (R102). -/
def execOverstayTick (k : Nat) (s : State) : Host.Outcome State Fault Refusal := .next (s.overstayTick k)

/-- SCRUB_START (R102): the tick after the lapse; the pitch's pages are unmapped (R302). -/
def State.scrubStart (s : State) (k : Nat) : State :=
  let p := s.pitch k
  if p.state = .lapsed ∧ p.lapsedAt < s.now.toNat then (s.setPitch k { p with state := .scrubbing }).forgetPages p else s
def execScrubStart (k : Nat) (s : State) : Host.Outcome State Fault Refusal := .next (s.scrubStart k)

/-- SCRUB_DONE (R102): every granule is zero, and the descriptor is free. -/
def State.scrubDone (s : State) (k : Nat) : State :=
  let p := s.pitch k
  if p.state = .scrubbing ∧ p.inflight = 0 then (s.clearStore p.tier.toNat p.unit p.base p.length).setPitch k Pitch.free
  else s
def execScrubDone (k : Nat) (s : State) : Host.Outcome State Fault Refusal := .next (s.scrubDone k)

end Sys2Proof.Machine
end

