-- ==== Sys2Proof/Machine/Save.lean ====
section
/-!
DEFINITION. Save areas: their layout, what a stop writes, and what a resume reads and refuses (12 R275–R278, 13 R282, R292–R294).
-/

namespace Sys2Proof.Machine

/-! ## Layout (R276, R277) -/

/-- The bytes of a number. -/
def le (k : Nat) (x : Nat) : List Byte := bytesOfNat k x

/-- The 64 bytes of a shape record. -/
def Shape.bytes (x : Shape) : List Byte :=
  [x.size0, x.size1, x.size2, x.size3, x.size4, x.size5].flatMap (fun v => le 3 v.toNat) ++
    [x.stride0, x.stride1, x.stride2, x.stride3, x.stride4, x.stride5].flatMap (fun v => le 4 v.toNat) ++
    le 8 x.base.toNat ++ le 1 x.tier.toNat ++ le 1 x.fmt.toNat ++ le 2 x.flags.toNat ++ le 6 x.rot.toNat ++ le 4 0

/-- Whether a record differs from its reset value (SHAPEMASK). -/
def Regs.shapeChanged (r : Regs) (k : Nat) : Bool := decide (Tab.get Shape.reset r.shapes k ≠ Shape.reset)

/-- A number from the bits that a list of keys names. -/
def maskOf (keys : List Nat) : Nat := (keys.map (fun k => 2 ^ k)).sum

/-- A level's stride flags. -/
def Level.flags (v : Level) : Nat := maskOf ((List.range 16).filter (fun k => (Tab.get none v.stride k).isSome))

/-- A loop level of a saved state. -/
def Regs.lv (r : Regs) (l : Nat) : Level := Tab.get Level.reset r.levels l

/-- The 48 bytes of a level. -/
def Level.bytes (v : Level) : List Byte :=
  le 8 v.count.toNat ++ le 8 v.index.toNat ++ le 8 v.start.toNat ++ le 8 v.last.toNat ++ le 8 v.flags ++ le 8 0

/-- The 16 bytes of a stride entry. -/
def Level.strideBytes (v : Level) (k : Nat) : List Byte :=
  le 8 ((Tab.get none v.stride k).getD 0).toNat ++ le 8 (Tab.get 0 v.entry k).toNat

/-- The header. -/
def headerBytes (r : Regs) (light : Bool) (reason : Nat) (ckpc : W64) : List Byte :=
  le 4 1 ++ le 1 (if light then 1 else 2) ++ le 1 reason ++
    le 1 (maskOf ((List.range 6).filter (fun l => (r.lv l).act))) ++
    le 1 (r.uimask.toNat + 2 * r.latch.toNat + 4 * r.npf.toNat) ++ le 8 r.pc.toNat ++ le 8 ckpc.toNat ++
    [r.ma, r.mb, r.aout, r.vin, r.vout, r.rnd] ++ le 2 0 ++ le 6 r.rsr.toNat ++ le 2 0 ++
    le 4 (maskOf ((List.range 24).filter r.shapeChanged)) ++ le 1 r.active.toNat ++ le 1 r.kc.toNat ++
    le 2 r.frame0.toNat ++ le 2 r.frame1.toNat ++ [r.pfault0, r.pfault1] ++ [r.repn] ++ le 3 0 ++ le 4 r.repw.toNat ++ le 4 0

/-- An engine context: NEXT is kept less 1. -/
def Regs.ctxBytes (r : Regs) (c : Nat) : List Byte :=
  let note := Tab.get none r.notes c
  le 8 (Tab.get 0 r.next c + 1).toNat ++ le 8 (Tab.get 0 r.noteReq c).toNat ++
    (match note with
    | some x => le 8 x.num.toNat ++ le 8 (2 ^ 63 + x.status.toNat)
    | none => le 8 0 ++ le 8 0)

/-- The queue held counts. -/
def Regs.heldBytes (r : Regs) : List Byte :=
  le 8 (packBits 4 ((List.range 16).map (fun q => (Tab.get [] r.q q).length)))

/-- The 4,096 bytes of a queue, head first. -/
def queueBytes (es : List Vec) : List Byte :=
  (List.range 8).flatMap (fun i => bytesOf (es.getD i 0) 512)

/-- The sections that both kinds write: offset and bytes. -/
def commonPieces (r : Regs) (shadow : Bank) (light : Bool) (reason : Nat) (ckpc : W64) : List (Nat × List Byte) :=
  [(0, headerBytes r light reason ckpc),
    (0x40, (List.range 32).flatMap (fun k => le 8 (if k = 0 then 0 else (Tab.get 0 r.s k).toNat))),
    (0x140, (List.range 16).flatMap (fun k => le 8 (Tab.get 0 r.a k).toNat)),
    (0x1C0, [r.ufvec, r.uivec, r.ithr, r.seqlen, r.kvbase, r.kvslot, r.kvtok, r.kvlayer, r.devthr, r.docreg,
      r.srseed].flatMap (fun v => le 8 v.toNat) ++ le 40 0),
    (0x240, (List.range 8).flatMap (fun k => le 8 (Tab.get 0 shadow.s (24 + k)).toNat) ++
      (List.range 4).flatMap (fun k => le 8 (Tab.get 0 shadow.a (12 + k)).toNat)),
    (0x2A0, (List.range 7).flatMap r.ctxBytes),
    (0x10A0, r.heldBytes)]

/-- The loop levels that a light save writes (R277). -/
def Regs.liveLevels (r : Regs) : List Nat := (List.range 6).filter (fun l => (r.lv l).act || decide ((r.lv l).flags ≠ 0))

/-- What a light save writes beside the common sections. -/
def lightPieces (r : Regs) : List (Nat × List Byte) :=
  r.liveLevels.map (fun l => (0x380 + 48 * l, (r.lv l).bytes)) ++
    r.liveLevels.flatMap (fun l => ((List.range 16).filter (fun k => (Tab.get none (r.lv l).stride k).isSome)).map (fun k =>
      (0x4A0 + 256 * l + 16 * k, (r.lv l).strideBytes k))) ++
    ((List.range 24).filter r.shapeChanged).map (fun k => (0xAA0 + 64 * k, (Tab.get Shape.reset r.shapes k).bytes)) ++
    ([12, 13, 14, 15].map (fun q => (0x7200 + 4096 * q, (Tab.get [] r.q q).flatMap (fun e => bytesOf e 512))))

/-- What a full save writes beside the common sections. -/
def fullPieces (r : Regs) : List (Nat × List Byte) :=
  [(0x380, (List.range 6).flatMap (fun l => (r.lv l).bytes)),
    (0x4A0, (List.range 6).flatMap (fun l => (List.range 16).flatMap (r.lv l).strideBytes)),
    (0xAA0, (List.range 24).flatMap (fun k => (Tab.get Shape.reset r.shapes k).bytes)),
    (0x10A8, le 88 0),
    (0x1100, (List.range 32).flatMap (fun k => bytesOf (Tab.get 0 r.v k) 512)),
    (0x5100, (List.range 8).flatMap (fun k => bytesOf (if k = 0 then BitVec.allOnes 128 else Tab.get 0 r.p k) 16)),
    (0x5180, (List.range 16).flatMap (fun k => bytesOf (Tab.get 0 r.i k) 512)),
    (0x7180, le 128 0),
    (0x7200, (List.range 16).flatMap (fun q => queueBytes (Tab.get [] r.q q)))]

/-- A stopped agent's state goes to its region at `base` (R276). -/
def State.saveAgent (s : State) (n base reason : Nat) : State :=
  let a := s.agent n
  let r := a.savedRegs
  let pieces := commonPieces r a.shadow a.dupLight reason a.ckpc ++ (if a.dupLight then lightPieces r else fullPieces r)
  pieces.foldl (fun t x => if x.2 = [] then t else t.vaStore n none (base + x.1) x.2) s

/-! ## Where a save area may lie (R282) -/

/-- Whether `len` bytes at `va` lie in one leased tier-4 pitch of a context. -/
def State.saveAreaOk (s : State) (acct : BitVec 10) (ctx : BitVec 16) (va len : Nat) : Bool :=
  decide (va % 4096 = 0) &&
    (match s.findPitch 4 0 va with
    | some (_, p) =>
      p.tier == 4 && p.state == .leased && !p.vacated && p.account == acct && p.context == ctx &&
        decide (va + len ≤ p.base + p.length)
    | none => false)

/-- The bytes that a loom task's agents need. -/
def areaOf (kind : BitVec 2) : Nat := if kind = 1 then 12 * saveRegion else saveRegion

/-! ## Reading a save area back (R277, R278) -/

/-- A number at offset `o` of a region. -/
def State.saved (s : State) (n base o k : Nat) : Nat := natOfBytes (s.vaBytes n none (base + o) k)

/-- A saved register. -/
def State.saved64 (s : State) (n base o : Nat) : W64 := BitVec.ofNat 64 (s.saved n base o 8)

/-- A table of `k` values read at a stride. -/
def readTab {α : Type} [DecidableEq α] (d : α) (first k : Nat) (f : Nat → α) : Tab α :=
  (List.range k).foldl (fun t i => Tab.set d t (first + i) (f i)) []

/-- A shape record; bits that the record does not hold are dropped (03 R92). -/
def State.readShape (s : State) (n at0 : Nat) : Shape :=
  let v (o k : Nat) : Nat := natOfBytes (s.vaBytes n none (at0 + o) k)
  { size0 := BitVec.ofNat 24 (v 0 3), size1 := BitVec.ofNat 24 (v 3 3), size2 := BitVec.ofNat 24 (v 6 3),
    size3 := BitVec.ofNat 24 (v 9 3), size4 := BitVec.ofNat 24 (v 12 3), size5 := BitVec.ofNat 24 (v 15 3),
    stride0 := BitVec.ofNat 32 (v 18 4), stride1 := BitVec.ofNat 32 (v 22 4), stride2 := BitVec.ofNat 32 (v 26 4),
    stride3 := BitVec.ofNat 32 (v 30 4), stride4 := BitVec.ofNat 32 (v 34 4), stride5 := BitVec.ofNat 32 (v 38 4),
    base := BitVec.ofNat 57 (v 42 8), tier := BitVec.ofNat 3 (v 50 1), fmt := BitVec.ofNat 8 (v 51 1),
    flags := BitVec.ofNat 16 (v 52 2) &&& 0xFF0F#16, rot := BitVec.ofNat 48 (v 54 6) }

/-- A loop level. -/
def State.readLevel (s : State) (n base l : Nat) (act light : Bool) : Level :=
  let at0 := 0x380 + 48 * l
  let flags := s.saved n base (at0 + 32) 8
  let entry (k o : Nat) : W64 := s.saved64 n base (0x4A0 + 256 * l + 16 * k + o)
  { act := act, count := s.saved64 n base at0, index := s.saved64 n base (at0 + 8), start := s.saved64 n base (at0 + 16),
    last := s.saved64 n base (at0 + 24),
    stride := readTab none 0 16 (fun k => if flags.testBit k then some (entry k 0) else none),
    entry := readTab 0 0 16 (fun k => if flags.testBit k || !light then entry k 8 else 0) }

/-- Whether a word is a selected MMA or MMAZ word. -/
def isMmaWord (w : W32) : Bool :=
  match decodeSlot 6 w with
  | .ok (.mma _ _ _ _ _) => true
  | .ok (.mmaz _ _ _ _ _) => true
  | _ => false

/-- Whether the repeat fields can stand (R278, R198). -/
def repeatOk (repn : Nat) (repw : W32) : Bool :=
  decide (repn = 0) || repw == 0 || (isMmaWord repw && decide (repn ≠ 255))

/-- The values of PFAULT (08 R186, R199). -/
def pfaultOk (x : Nat) : Bool := x == 0 || x == 0x08 || x == 0x0A || x == 0x11

/-- What makes Rhory refuse a region (R278). `levels` are the levels that the save wrote. A region that reads as poison cannot be read back
(14 R314; log 78). -/
def State.areaOk (s : State) (n base : Nat) (levels : List Nat) : Bool :=
  let v (o k : Nat) : Nat := s.saved n base o k
  let zero (o k : Nat) : Bool := v o k == 0
  let kind := v 4 1
  let full := kind == 2
  let mask := v 6 1
  let shown (l : Nat) : Bool := full || mask.testBit l || levels.contains l
  v 0 4 == 1 && (kind == 1 || full) && (v 5 1 == 1 || v 5 1 == 2) && decide (mask < 64) && decide (v 7 1 < 8) &&
    decide (v 8 8 ≠ 0) && decide (v 8 8 % 32 = 0) && zero 0x1E 2 && zero 0x26 2 && zero 0x35 3 && zero 0x3C 4 &&
    decide (v 0x2C 1 < 2) && decide (v 0x2D 1 ≤ 127) &&
    (List.range 6).all (fun f => famAccepts (BitVec.ofNat 3 f) (BitVec.ofNat 8 (v (0x18 + f) 1))) &&
    decide (v 0x2E 2 < 512) && decide (v 0x30 2 < 512) && pfaultOk (v 0x32 1) && pfaultOk (v 0x33 1) &&
    repeatOk (v 0x34 1) (BitVec.ofNat 32 (v 0x38 4)) && zero 0x218 40 &&
    (List.range 16).all (fun q => decide (v 0x10A0 8 / 16 ^ q % 16 ≤ 8)) &&
    (List.range 6).all (fun l => !shown l ||
      (decide (v (0x380 + 48 * l + 16) 8 % 32 = 0) && decide (v (0x380 + 48 * l + 24) 8 % 32 = 0) &&
        zero (0x380 + 48 * l + 40) 8)) &&
    (List.range 24).all (fun k => !(full || (v 0x28 4).testBit k) || zero (0xAA0 + 64 * k + 60) 4) &&
    (!full || (zero 0x10A8 88 && zero 0x7180 128)) && (s.vaPoison n none base saveRegion).isNone

/-- The queues of a region: full, all of them; light, q12 to q15. -/
def State.readQueues (s : State) (n base : Nat) (light : Bool) : Tab (List Vec) :=
  let held := s.saved n base 0x10A0 8
  readTab [] 0 16 (fun q =>
    if light && decide (q < 12) then []
    else (List.range (held / 16 ^ q % 16)).map (fun i =>
      BitVec.ofNat 4096 (s.saved n base (0x7200 + 4096 * q + 512 * i) 512)))

/-- A pending note of a region. -/
def State.readNote (s : State) (n base c : Nat) : Option Note :=
  let w := s.saved n base (0x2A0 + 32 * c + 24) 8
  if w.testBit 63 then some { num := s.saved64 n base (0x2A0 + 32 * c + 16), status := BitVec.ofNat 8 w } else none

/-- The registers of a region; what a light save did not write takes its reset or inactive value. -/
def State.readRegs (s : State) (n base : Nat) (levels : List Nat) : Regs :=
  let v (o k : Nat) : Nat := s.saved n base o k
  let b (o : Nat) : Byte := BitVec.ofNat 8 (v o 1)
  let d (o : Nat) : W64 := s.saved64 n base o
  let light := v 4 1 == 1
  let mask := v 6 1
  let shapes := v 0x28 4
  { pc := d 8
    s := readTab 0 1 31 (fun k => d (0x48 + 8 * k))
    a := readTab 0 0 16 (fun k => d (0x140 + 8 * k))
    shapes := readTab Shape.reset 0 24 (fun k =>
      if light && !shapes.testBit k then Shape.reset else s.readShape n (base + 0xAA0 + 64 * k))
    ma := b 0x18
    mb := b 0x19
    aout := b 0x1A
    vin := b 0x1B
    vout := b 0x1C
    rnd := b 0x1D
    rsr := BitVec.ofNat 48 (v 0x20 6)
    ufvec := d 0x1C0
    uivec := d 0x1C8
    ithr := d 0x1D0
    seqlen := d 0x1D8
    kvbase := d 0x1E0
    kvslot := d 0x1E8
    kvtok := d 0x1F0
    kvlayer := d 0x1F8
    devthr := d 0x200
    docreg := d 0x208
    srseed := d 0x210
    v := readTab 0 0 32 (fun k => if light then 0 else BitVec.ofNat 4096 (v (0x1100 + 512 * k) 512))
    p := readTab 0 1 7 (fun k => if light then 0 else BitVec.ofNat 128 (v (0x5110 + 16 * k) 16))
    i := readTab 0 0 16 (fun k => if light then 0 else BitVec.ofNat 4096 (v (0x5180 + 512 * k) 512))
    npf := (v 7 1).testBit 2
    q := s.readQueues n base light
    levels := readTab Level.reset 0 6 (fun l =>
      if light && !mask.testBit l && !levels.contains l then Level.reset else s.readLevel n base l (mask.testBit l) light)
    uimask := (v 7 1).testBit 0
    next := readTab 0 0 7 (fun c => d (0x2A0 + 32 * c) - 1)
    noteReq := readTab 0 0 7 (fun c => d (0x2A8 + 32 * c))
    notes := readTab none 0 7 (fun c => s.readNote n base c)
    active := BitVec.ofNat 1 (v 0x2C 1)
    kc := BitVec.ofNat 7 (v 0x2D 1)
    frame0 := BitVec.ofNat 9 (v 0x2E 2)
    frame1 := BitVec.ofNat 9 (v 0x30 2)
    pfault0 := b 0x32
    pfault1 := b 0x33
    repn := b 0x34
    repw := BitVec.ofNat 32 (v 0x38 4)
    latch := (v 7 1).testBit 1 }

/-- The shadow bank of a region. -/
def State.readShadow (s : State) (n base : Nat) : Bank :=
  { s := readTab 0 24 8 (fun k => s.saved64 n base (0x240 + 8 * k))
    a := readTab 0 12 4 (fun k => s.saved64 n base (0x280 + 8 * k)) }

/-- A stopped agent's state comes back (R278, R293): it becomes the duplicate set, and the core restores from it. The entries that
a light save kept are those of released commands, so a later restore keeps them too (03 R89). -/
def State.loadAgent (s : State) (n base : Nat) (levels : List Nat) (task : Task) : State :=
  let r := s.readRegs n base levels
  let light := s.saved n base 4 1 == 1
  let kept : List (BitVec 4 × Vec) := if light then
      [12, 13, 14, 15].flatMap (fun q => (Tab.get [] r.q q).map (fun e => (BitVec.ofNat 4 q, e)))
    else []
  let a := s.agent n
  let a := { a.clearInterval with
    dup := if light then r.dead else r, dupLight := light, arrived := kept, shadow := s.readShadow n base, owed := [],
    evSince := false, ckpc := s.saved64 n base 0x10, task := some task, stop := StopReq.none, farFault := none,
    allow := s.allowance task.account, ratec := s.rates, evsel := [], evcnt := [], levsel := [], levcnt := [] }
  let s := s.setAgent n { a with r := { r with notes := [] } }
  let (p0, f0) := s.reload n (s.agent n).who r.frame0
  let (p1, f1) := s.reload n (s.agent n).who r.frame1
  let a := s.agent n
  s.setAgent n { a with r := { a.savedRegs with pfault0 := f0, pfault1 := f1 }, plane0 := p0, plane1 := p1 }

/-- A level with the count and addresses of another; its strides and entries are its own. -/
def Level.steer (x y : Level) : Level := { x with act := y.act, count := y.count, index := y.index, start := y.start, last := y.last }

/-- The PC and the loop stack of rank 0 in place of a rank's own (R61). -/
def Regs.steer (r y : Regs) : Regs :=
  { r with pc := y.pc, levels := (List.range 6).foldl (fun t l => Tab.set Level.reset t l ((r.lv l).steer (y.lv l))) r.levels }

/-- The ranks of a gang follow the PC and the loop stack that rank 0 has read back, whatever stands in their own regions (R61). -/
def State.followLead (s : State) (ms : List Nat) : State :=
  ms.foldl (fun s m =>
    let a := s.agent m
    let b := s.agent (ms.headD m)
    s.setAgent m { a with r := a.r.steer b.r, dup := a.dup.steer b.dup }) s

end Sys2Proof.Machine
end

