-- ==== Sys2Proof/Machine/Ckpt.lean ====
section
/-!
DEFINITION. The checkpoint: its drain, checks, duplicate set and release, the requests it serves, the stops; and the ends of the
waiting instructions (02 R64–R71, 04 R106–R108, 09 R212, 10 R237–R242, 12 R272–R279, 13 R291–R294, 16 R335–R340).
-/

namespace Sys2Proof.Machine

/-! ## What a wait still needs -/

/-- Nothing of the agent's own is in flight (R50). -/
def Agent.landed (a : Agent) : Bool := a.landKeys == []

/-- Nothing of the agent's own is in flight, and its last bundle is stalled no more: a drain is over (R50). -/
def Agent.settled (a : Agent) : Bool := a.landed && decide (a.stall = .none) && decide (a.mdrain = none)

/-- The far loads of the present interval that have still to perform: queued, travelling (R239). -/
def State.loadsDue (s : State) (n : Nat) : List FarLoad :=
  ((s.agent n).flq ++ s.transit.filterMap (fun t => match t.load with
    | .read x => if t.agent = n then some x else none
    | _ => none)).filter (fun x => !x.dropped)

/-- Every far load that was issued before cycle `cyc` has performed (R239, R240). -/
def State.loadsPerformed (s : State) (n cyc : Nat) : Bool := (s.loadsDue n).all (fun x => decide (cyc ≤ x.cyc))

/-- Every near store that was issued before cycle `cyc` has landed (R123, R240): it lands 3 cycles after its bundle. -/
def Agent.storesLanded (a : Agent) (cyc : Nat) : Bool := a.nsq.all (fun x => decide (cyc + 3 ≤ x.due))

/-- Every far load of the interval has arrived (R64 step 1). -/
def State.loadsArrived (s : State) (n : Nat) : Bool :=
  decide (s.loadsDue n = []) && !s.arrivals.any (fun x => x.agent == n && !x.owed && !x.dropped)

/-- No entry is owed to any queue. -/
def Agent.paidUp (a : Agent) : Bool := (List.range 16).all (fun q => Tab.get 0 a.owed q == 0)

/-- Whether an agent is in a waiting instruction (R71). -/
def Agent.inWait (a : Agent) : Bool :=
  match a.wait with
  | .waitt _ => true
  | .sleepc _ => true
  | .qwait _ _ => true
  | .wfe => true
  | .twait _ _ => true
  | .twaita _ _ => true
  | _ => false

/-- Whether a stop request abandons a wait of the agent (R71). In a handler a pre-emption waits for its end (13 R291), and in a trap's
handler so does a debug stop (12 R279). -/
def Agent.abandons (a : Agent) : Bool :=
  let inTrap : Bool := match a.mode with
    | .userFault => true
    | .super => true
    | _ => false
  a.stop.watchdog.isSome || (a.stop.debug && !inTrap) || (a.stop.preempt.isSome && decide (a.mode = .task))

/-- A stop request that meets a waiting instruction abandons the wait: every rank restores to its last checkpoint and stops there
(R71). -/
def State.abandon (s : State) (n : Nat) : State :=
  let ms := s.members n
  let s := ms.foldl State.restore s
  ms.foldl (fun s m => s.setAgent m { s.agent m with wait := .stop }) s

/-- A wait of agent `n` ends as `f` says, unless a stop request abandons it: one that was pending as the wait began abandons it as well
(log 81). -/
def State.endWait (s : State) (n : Nat) (f : State → State) : State :=
  if (s.agent n).abandons then s.abandon n else if (s.agent n).settled then f s else s

/-- The wait is over. -/
def State.waitOver (s : State) (n : Nat) : State := s.setAgent n { s.agent n with wait := .none }

/-- The WAITT is over; the next bundle follows in the same tick (18 R356). -/
def State.wake (s : State) (n : Nat) : State := s.setAgent n { s.agent n with wait := .none, woken := true }

/-- A trap of a wait, in slot 0. -/
def State.trap0 (s : State) (n : Nat) (c : Byte) (f : W64) : State :=
  s.takeTrap n { cause := c, slot := 0, imm := 0, faddr := f } false

/-- A far fault that a released store or atomic met is taken (R214, R314). -/
def State.takeFar (s : State) (n : Nat) (f : Byte × W64) : State :=
  (s.setAgent n { s.agent n with farFault := none }).trap0 n f.1 f.2

/-! ## The ends of the waiting instructions (R70, R241, R242) -/

/-- WAITT_END (R70). -/
def State.waittEnd (s : State) (n : Nat) : State :=
  match (s.agent n).wait with
  | .waitt t => s.endWait n (fun s => if t.toNat ≤ s.now.toNat then s.wake n else s)
  | _ => s
def execWaittEnd (n : BitVec 9) (s : State) : Host.Outcome State Fault Refusal := .next (s.waittEnd n.toNat)

/-- SLEEPC_END (R70): real cycles are not counted here, so the wait may end at any time after the drain. -/
def State.sleepcEnd (s : State) (n : Nat) : State :=
  match (s.agent n).wait with
  | .sleepc _ => s.endWait n (fun s => s.waitOver n)
  | _ => s
def execSleepcEnd (n : BitVec 9) (s : State) : Host.Outcome State Fault Refusal := .next (s.sleepcEnd n.toNat)

/-- QWAIT_END (R70). -/
def State.qwaitEnd (s : State) (n : Nat) : State :=
  match (s.agent n).wait with
  | .qwait q k => s.endWait n (fun s => if k.toNat ≤ ((s.agent n).queue q).length then s.waitOver n else s)
  | _ => s
def execQwaitEnd (n : BitVec 9) (s : State) : Host.Outcome State Fault Refusal := .next (s.qwaitEnd n.toNat)

/-- WFE_WAKE (R241): the latch is consumed. -/
def State.wfeWake (s : State) (n : Nat) : State :=
  match (s.agent n).wait with
  | .wfe => s.endWait n (fun s =>
      let a := s.agent n
      if a.r.latch then s.setAgent n { a with wait := .none, r := { a.r with latch := false } } else s)
  | _ => s
def execWfeWake (n : BitVec 9) (s : State) : Host.Outcome State Fault Refusal := .next (s.wfeWake n.toNat)

/-- Whether the waits of the ranks below `n` are over: a trap of `n`'s wait is reported only then, so that the lowest rank that traps
in the bundle is the one reported, whenever its wait ends (R63, R212). -/
def State.firstToWait (s : State) (n : Nat) : Bool :=
  ((s.members n).takeWhile (fun m => m != n)).all (fun m => decide ((s.agent m).wait = .none))

/-- FREC of a context is delivered when its number is at most `t` (R212). -/
def State.deliverFrec (s : State) (n c : Nat) (t : W64) : State :=
  let a := s.agent n
  let slot := a.who.tslot.toNat
  let x := a.ctx slot c
  match x.frec with
  | some f =>
    if f.num.toNat ≤ t.toNat then
      if s.firstToWait n then (s.setAgent n (a.setCtx slot c { x with frec := none })).trap0 n (frecCause f) (frecAddr f) else s
    else s.waitOver n
  | none => s.waitOver n

/-- TWAIT_END (R242, R212): a fault of a released store comes first (R214). -/
def State.twaitEnd (s : State) (n : Nat) : State :=
  match (s.agent n).wait with
  | .twait c t => s.endWait n (fun s =>
      match (s.agent n).farFault with
      | some f => if s.firstToWait n then s.takeFar n f else s
      | none =>
        if t.toNat ≤ ((s.agent n).timeline c).count.toNat then s.deliverFrec n c.toNat t else s)
  | _ => s
def execTwaitEnd (n : BitVec 9) (s : State) : Host.Outcome State Fault Refusal := .next (s.twaitEnd n.toNat)

/-- The value of the cell at `e`, as agent `n` names it under a PASID: bits 55:0 of a counter-window cell, else the 64 bits (R242). -/
def State.cellValue (s : State) (n : Nat) (q : Option (BitVec 20)) (e : W64) : Nat :=
  let v := natOfBytes (s.vaBytes n q e.toNat 8)
  match regionOf e.toNat with
  | .counter _ => v % 2 ^ 56
  | _ => v

/-- What a poll of the cell at `e` by agent `n` yields. -/
def State.pollValue (s : State) (n : Nat) (e : W64) : Nat := s.cellValue n (s.agent n).who.pasid e

/-- What refuses a poll: a check of R242, or poison. -/
def State.pollRefuses (s : State) (n : Nat) (e : W64) : Option (Byte × W64) :=
  (twaitaCheck s n e).or ((s.vaPoison n (s.agent n).who.pasid e.toNat 8).map (fun f => (0x11, BitVec.ofNat 64 f)))

/-- A poll of the cell at `e` against `t` (R242). -/
def State.poll (n : Nat) (e t : W64) (s : State) : State :=
  match s.pollRefuses n e with
  | some r => if s.firstToWait n then s.trap0 n r.1 r.2 else s
  | none =>
    let s := s.touchVa n (s.agent n).who.pasid e.toNat 8
    if t.toNat ≤ s.pollValue n e then s.waitOver n else s

/-- TWAITA_POLL (R242): checked at its tick, then performed in one step (log 18). -/
def State.twaitaPoll (s : State) (n : Nat) : State :=
  match (s.agent n).wait with
  | .twaita e t => s.endWait n (State.poll n e t)
  | _ => s
def execTwaitaPoll (n : BitVec 9) (s : State) : Host.Outcome State Fault Refusal := .next (s.twaitaPoll n.toNat)

/-- Whether QALIGN or an acquire still holds the next bundle (R239, R240). -/
def State.held (s : State) (n : Nat) : Bool :=
  match (s.agent n).wait with
  | .qalign far near cyc =>
    (near && !(s.agent n).storesLanded cyc) ||
      (far && (!s.loadsPerformed n cyc || decide ((s.agent n).fsq ≠ []) || decide (s.travelling n false ≠ [])))
  | .acquire cyc => !s.loadsPerformed n cyc
  | _ => false

/-- The hold of a QALIGN or an acquire is over. -/
def State.release (s : State) (n : Nat) : State :=
  match (s.agent n).wait with
  | .qalign _ _ _ => if s.held n then s else s.waitOver n
  | .acquire _ => if s.held n then s else s.waitOver n
  | _ => s

/-! ## Completing a checkpoint (R64) -/

/-- The checks of a released command, at step 4 (R109, R110, R272): cause and FADDR. -/
def State.cmdRefuses (s : State) (n : Nat) (w : Who) (c : Cmd) : Option (Byte × W64) :=
  match c with
  | .store es _ => lowest (es.filterMap (fun e => s.refuses n w askStore e.addr e.len))
  | .atomic _ wide a _ _ _ => s.refuses n w askAtomic a (if wide then 8 else 4)
  | .wcAdd a _ _ => s.wideRefuses n w askAtomic a 64
  | .wcAddV a _ _ =>
    match s.wideRefuses n w askAtomic a 8192 with
    | some r => some r
    | none =>
      -- the 8 KiB lie in one pitch (R216; cause and FADDR: log 83)
      (s.pitchAt n a.toNat).bind (fun k =>
        let p := s.pitch k
        let off := if p.tier = 3 then a.toNat - 0x00FFE00000000000 else a.toNat
        if off + 8192 ≤ p.base + p.length then none else some (0x0A, a + BitVec.ofNat 64 (p.base + p.length - off)))
  | .wcRead a _ _ _ => s.wideRefuses n w { askSync with trans := false } a 64
  | .xarm a _ => s.armRefuses n w true a
  | _ => none

/-- The first entry of an agent's withhold buffer that step 4 refuses. -/
def State.firstRefused (s : State) (n : Nat) : Option (Byte × W64) :=
  (s.agent n).wb.findSome? (s.cmdRefuses n (s.agent n).who)

/-- An operation that an insolvent account may not commit (R108): withheld, it counts whatever a later VACATE makes of it (log 75). -/
def Cmd.charges (c : Cmd) : Bool :=
  match c with
  | .rent (.rent _ _) => true
  | .rent (.prepay _ _ _) => true
  | .rent (.renew _ _ _) => true
  | _ => false

/-- Whether R108 stops the checkpoint of an agent. -/
def State.blocksInsolvent (s : State) (n : Nat) : Bool :=
  s.insolvent (s.agent n).who.account && (s.agent n).wb.any Cmd.charges

/-- Whether a withheld command counts as a command (R66, R374): stores and markers do not. -/
def Cmd.counts (c : Cmd) : Bool :=
  match c with
  | .store _ _ => false
  | .marker _ => false
  | _ => true

/-- What a later VACATE of pitch `k` in the same interval makes of an entry: a RENT is given up at its commit, and the commit of an
extension releases its hold (R102, R117). -/
def Cmd.vacated (k : Nat) (c : Cmd) : Cmd :=
  match c with
  | .rent (.rent j h) => if j = k then .rent (.void k h) else c
  | .rent (.prepay j h _) => if j = k then .rent (.drop k h) else c
  | .rent (.renew j h _) => if j = k then .rent (.drop k h) else c
  | _ => c

/-- The pitch that an entry vacates. -/
def Cmd.vacates (c : Cmd) : Option Nat :=
  match c with
  | .rent (.vacate k) => some k
  | _ => none

/-- An interval's commands as they leave the withhold buffer. -/
def leaving : List Cmd → List Cmd
  | [] => []
  | c :: cs => (cs.filterMap Cmd.vacates).foldl (fun c k => c.vacated k) c :: leaving cs

/-- One entry of the withhold buffer leaves it (R64 step 4, R228 M3); `h` carries its place in the order of releases. -/
def State.releaseCmd (n : Nat) (s : State) (h : Held) : State :=
  let a := s.agent n
  match h.cmd with
  | .rent r => { s with commits := s.commits ++ [{ agent := n, ts := h.owner.ts, op := r }] }
  | .engine _ => s.setAgent n { a with ecb := a.ecb ++ [h] }
  | .xqp _ _ => s.setAgent n { a with ecb := a.ecb ++ [h] }
  | .xmbox _ _ _ => s.setAgent n { a with ecb := a.ecb ++ [h] }
  | .xlaunch _ => s.setAgent n { a with ecb := a.ecb ++ [h] }
  | .marker _ => s.setAgent n { a with fsq := a.fsq ++ [h], ecb := a.ecb ++ [h] }
  | _ => s.setAgent n { a with fsq := a.fsq ++ [h] }

/-- The reservations of the interval's fetch forms become owed entries (R86, R89). -/
def Agent.owe (a : Agent) : Agent :=
  { a with
    owed := (List.range 16).foldl (fun t q => Tab.modify 0 t q (· + Tab.get 0 a.resv q)) a.owed
    resv := [] }

/-- Steps 2, 3 and 5 on one agent (R64): the duplicate set, the journal and touched bits, the counters and CKPC. -/
def Agent.snapshot (a : Agent) (light : Bool) (pc : W64) : Agent :=
  { (a.owe.event 0x04 1) with
    dup := a.r, dupLight := light, journal := [], touched := [], journalBad := [], shadowBad := [], counted := [], arrived := []
    evSince := false, bundles := 0, hbundles := 0, stores := 0, cmds := 0, ckpc := pc, wait := .none, wb := [] }

/-- The checkpoint of one agent completes. -/
def State.snapshotAgent (light : Bool) (pc : W64) (s : State) (n : Nat) : State :=
  let a := s.agent n
  let w := a.who
  let hs : List Held := (leaving a.wb).zipIdx.map (fun x => { owner := w, cmd := x.1, seq := s.relSeq + x.2 })
  let b := (a.snapshot light pc).event 0x0C (a.wb.filter Cmd.counts).length
  let s := s.setAgent n { b with allow := s.allowance w.account, ratec := s.rates }
  hs.foldl (State.releaseCmd n) { s with relSeq := s.relSeq + hs.length }

/-! ## Requests that a completed checkpoint serves (R67–R69, R291) -/

/-- Every rank waits for its stop. -/
def State.beginStop (s : State) (ms : List Nat) : State :=
  ms.foldl (fun s m => s.setAgent m { s.agent m with wait := .stop }) s

/-- Whether a pre-emption stops the agent at the checkpoint just completed: a light one, or enough bundles since the request. -/
def Agent.preempts (a : Agent) : Bool :=
  match a.stop.preempt with
  | some k => a.dupLight || decide (a.lightWait.toNat ≤ k)
  | none => false

/-- The lowest context code whose note is pending on every rank (R69). -/
def State.noteReady (s : State) (ms : List Nat) : Option Nat :=
  (List.range 7).find? (fun c => ms.all (fun m => (Tab.get none (s.agent m).r.notes c).isSome))

/-- The entry of the user-interrupt handler at `vec` on one rank (R68, R222). -/
def Agent.enterNote (vec : W64) (c : Nat) (a : Agent) : Agent :=
  let x := (Tab.get none a.r.notes c).getD { num := 0, status := 0 }
  let cell := (a.timeline (BitVec.ofNat 3 c)).cell
  let bank := Tab.set 0 (Tab.set 0 (Tab.set 0 (Tab.set 0 a.shadow.s 24 (BitVec.ofNat 64 c)) 25 x.num) 26 cell) 27
    (x.status.setWidth 64)
  { a with
    mode := .userInt
    hbundles := 0
    resume := a.r.pc
    shadow := { a.shadow with s := bank }
    r := { a.r with notes := Tab.set none a.r.notes c none, pc := vec } }.event 0x10 1

/-- Whether UIVEC makes a handler's entry fail (R68). -/
def Agent.badUivec (a : Agent) : Bool := decide (a.r.uivec = 0) || askew a.r.uivec

/-- Serve a pending note (R67 item 3): every rank enters at rank 0's UIVEC, unless some rank's is bad; of those the lowest is
reported (R63, R68; log 57). A repetition in force defers the note (08 R198), and so does UIMASK. -/
def State.serveNote (s : State) (n : Nat) (ms : List Nat) : State :=
  let a := s.agent (s.lead n)
  if a.r.uimask || decide (a.r.repn ≠ 0) then s
  else match s.noteReady ms with
    | none => s
    | some c =>
      match ms.find? (fun m => (s.agent m).badUivec) with
      | some m => s.takeTrap m { cause := 0x0D, slot := 0, imm := 0, faddr := (s.agent m).r.uivec } true
      | none => ms.foldl (fun t m => t.setAgent m ((t.agent m).enterNote a.r.uivec c)) s

/-- The requests in their order (R67, R298 step 3). -/
def State.serve (s : State) (n : Nat) (ms : List Nat) : State :=
  let a := s.agent n
  if a.stop.debug || a.stop.watchdog.isSome || ms.any (fun m => (s.agent m).preempts) then s.beginStop ms
  else s.serveNote n ms

/-- What stops the checkpoint of one agent: a far fault due, else an insolvent account (R108), else the first entry that step 4
refuses. -/
def State.ckptRefuses (s : State) (m : Nat) (pc : W64) : Option (Byte × W64) :=
  (s.agent m).farFault.or ((if s.blocksInsolvent m then some (0x15, pc) else none).or (s.firstRefused m))

/-- Whether a drain stops the agent at a checkpoint whose bundle issued after the request: then the interval is discarded (13 R298
step 3, R299). -/
def Agent.drains (a : Agent) : Bool :=
  match a.stop.watchdog with
  | some k => !a.stop.debug && decide (0 < k)
  | none => false

/-- The checkpoint of an agent or gang, once nothing of the interval is in flight: a drain discards the interval; the lowest rank that
a check stops is reported (R63), and a far fault that it takes is no longer due. -/
def State.ckptDone (s : State) (n : Nat) (ms : List Nat) (light final : Bool) (pc : W64) : State :=
  if (s.agent n).drains then s.abandon n
  else match ms.findSome? (fun m => (s.ckptRefuses m pc).map (fun r => (m, r))) with
  | some (m, r) => s.takeFar m r
  | none =>
    let s := ms.foldl (State.snapshotAgent light pc) s
    if final then ms.foldl (fun s m => s.endAgent m 0x00) s else s.serve n ms

/-- Whether agent `n` has a released WCREAD that has met poison or will: its trap comes before the next checkpoint completes (14
R314). -/
def State.poisonDue (s : State) (n : Nat) : Bool :=
  let bad (c : Cmd) : Bool := match c with
    | .wcRead _ _ _ a => (poisonedAt s a 64).isSome
    | _ => false
  s.arrivals.any (fun x => x.agent == n && x.trap.isSome && s.runs n x.owner) ||
    (s.agent n).fsq.any (fun h => s.runs n h.owner && bad h.cmd) ||
    s.transit.any (fun t => t.agent == n && s.runs n t.owner && (match t.load with
      | .cmd c => bad c
      | _ => false))

/-- Whether a command is an engine operation of a context. -/
def Cmd.isOn (c : Cmd) (k : BitVec 3) : Bool :=
  match c with
  | .engine e => e.ctx == k
  | _ => false

/-- Whether each context of an agent has room for what step 4 would release to it: 64 operations released and not completed (R207). -/
def State.roomToRelease (s : State) (n : Nat) : Bool :=
  let a := s.agent n
  (List.range 7).all (fun c =>
    let k : BitVec 3 := BitVec.ofNat 3 c
    let fresh := a.wb.countP (·.isOn k)
    decide (fresh = 0) ||
      decide (fresh + a.ecb.countP (fun h => h.cmd.isOn k) + s.running.countP (fun r => r.agent == n && r.op.ctx == k) ≤ 64))

/-- Whether every rank stands at the checkpoint with nothing in flight (R64 step 1), no poison to report, and room for its release. -/
def State.ckptReady (s : State) (ms : List Nat) : Bool :=
  ms.all (fun m =>
    let a := s.agent m
    (match a.wait with | .ckpt _ _ _ => true | _ => false) && a.settled && s.loadsArrived m && !s.poisonDue m && s.roomToRelease m)

/-! ## Stops (R275, R292, R298) -/

/-- The pitches of tiers 0 and 1 that a graph-node stop vacates (R292). -/
def State.nodePitches (s : State) (ms : List Nat) (w : Who) : List (Nat × Pitch) :=
  s.pitches.filter (fun kp => decide (kp.2.tier.toNat ≤ 1) && ms.contains kp.2.unit && kp.2.account == w.account &&
    kp.2.context == w.context && kp.2.state == .leased)

/-- The record of a vacated pitch (R294). -/
def rerentOf (now : Nat) (p : Pitch) : Rerent :=
  { agent := p.unit, tier := p.tier, base := p.base, length := p.length, att := p.att, ticks := p.paid - now - 1 }

/-- The agent is free: its task is stopped. -/
def Agent.free (a : Agent) : Agent := { a with task := none, mode := .task, wait := .none, stop := StopReq.none }

/-- Write the save areas and free the agents (R275, R292). -/
def State.saveTask (s : State) (ms : List Nat) (w : Who) (t : TaskSet) (x : LoomTask) (node : Bool) : State :=
  let debug := ms.any (fun m => (s.agent m).stop.debug)
  let light := ms.all (fun m => (s.agent m).dupLight)
  let levels := match ms.head? with
    | some m => (s.agent m).savedRegs.liveLevels
    | none => []
  let ps := if node then s.nodePitches ms w else []
  let s := ms.foldl (fun s m => s.saveAgent m (x.region m) (if debug then 2 else 1)) s
  let s := ps.foldl (fun s kp => s.vacate kp.1) s
  let y := { x with
    stat := .stopped debug, lightStop := light, lightLevels := levels, graph := ps.map (fun kp => rerentOf s.now.toNat kp.2) }
  let u := { t with tasks := t.tasks.set w.j y }
  let s := ms.foldl (fun s m => s.setAgent m (s.agent m).free) { s with tasksets := Tab.set none s.tasksets w.ts (some u) }
  s.settlePass w.ts w.j

/-- The stop of agent `n`'s task completes once no entry is owed (R275): a drain discards it, else its state is saved; without a
usable save area the task ends SAVELOST. At a graph-node boundary the pitches' INFLIGHT falls to 0 first (R292). -/
def State.stopDone (s : State) (n : Nat) (ms : List Nat) : State :=
  let a := s.agent n
  let w := a.who
  if !a.stop.debug && a.stop.watchdog.isSome then ms.foldl (fun s m => s.endAgent m 0x04) s
  else
    match Tab.get none s.tasksets w.ts with
    | none => s
    | some t =>
      match t.tasks[w.j]? with
      | none => s
      | some x =>
        let ok := s.saveAreaOk w.account w.context x.task.save.toNat (areaOf x.task.kind)
        let node := !a.stop.debug && decide (a.ckpc ≠ 0) && t.nodes.contains a.ckpc
        if !ok then ms.foldl (fun s m => s.endAgent m 0x05) s
        else if node && (s.nodePitches ms w).any (fun kp => decide (kp.2.inflight ≠ 0)) then s
        else s.saveTask ms w t x node

/-- Whether every rank stands at its stop with nothing owed (R275). -/
def State.stopReady (s : State) (ms : List Nat) : Bool :=
  ms.all (fun m => decide ((s.agent m).wait = .stop) && (s.agent m).paidUp && s.committed m && decide ((s.agent m).stall = .none))

/-- CHECKPOINT_COMPLETE (R64, R275): the checkpoint that agent `n`'s task waits for, or its stop, completes. -/
def State.checkpointComplete (s : State) (n : Nat) : State :=
  let ms := s.members n
  match (s.agent n).wait with
  | .ckpt light final pc => if s.ckptReady ms then s.ckptDone n ms light final pc else s
  | .stop => if s.stopReady ms then s.stopDone n ms else s
  | _ => s
def execCheckpointComplete (n : BitVec 9) (s : State) : Host.Outcome State Fault Refusal :=
  .next (s.checkpointComplete n.toNat)

/-! ## Slot-7 reads (R335, R340, 13 R296) -/

/-- A result of a stalled bundle lands 1 issue cycle after it, and the stall ends. -/
def Agent.answer (a : Agent) (cyc : Nat) (d : BitVec 5) (v : W64) : Agent := { a with stall := .none }.fly cyc 1 (.s d v)

/-- An answer that withholds nothing: the command does not count (R66, R296, R340). -/
def Agent.turnedAway (a : Agent) (cyc : Nat) (d : BitVec 5) (v : W64) : Agent := { a with cmds := a.cmds - 1 }.answer cyc d v

/-- Whether the master of a die holds a task of an account (R340). -/
def State.masterHolds (s : State) (d : Nat) (acct : BitVec 10) : Bool :=
  match (s.agent (s.masterOf d)).task with
  | some t => t.account == acct
  | none => false

/-- XMBOX with its request read (R340). -/
def State.fileRequest (s : State) (n : Nat) (d : BitVec 5) (cyc : Nat) (req : BitVec 512) : State :=
  let a := s.agent n
  let die := dieOf n
  let box := Tab.get [] s.mailbox die
  if 16 ≤ box.length then s.setAgent n (a.turnedAway cyc d (statusWord 0x01))
  else if !s.masterHolds die a.who.account then s.setAgent n (a.turnedAway cyc d (statusWord 0x02))
  else
    let k := s.mailSeq
    let slot : Slot := { agent := n, account := a.who.account, req := none, order := k }
    let s := { s with mailbox := Tab.set [] s.mailbox die (box ++ [slot]), mailSeq := k + 1 }
    s.setAgent n ({ a with wb := a.wb ++ [Cmd.xmbox (BitVec.ofNat 2 die) k req] }.answer cyc d 0)

/-! ### A launch header (R280) -/

/-- Every zero field of a header is zero. -/
def hdrZeros (h : BitVec 512) : Bool :=
  h.extractLsb' 57 7 == 0 && h.extractLsb' 104 24 == 0 && h.extractLsb' 448 64 == 0

/-- Whether a start address can be a bundle's. -/
def hdrPcOk (h : BitVec 512) : Bool := hdrPc h != 0 && hdrPc h &&& 31 == 0

/-- XLAUNCH's header check: the first failing code (R296). -/
def launchStatus (h : BitVec 512) (w : Who) : Byte :=
  if !hdrZeros h || hdrKind h != 0 then 0x01
  else if 11 < hdrRank h then 0x02
  else if hdrAccount h ≠ w.account ∨ hdrContext h ≠ w.context then 0x03
  else if !hdrPcOk h then 0x04
  else 0x00

/-- A tile launch of a conductor: what the tile inherits (R296). -/
def State.launchOf (s : State) (w : Who) (h : BitVec 512) : Launch :=
  match Tab.get none s.tasksets w.ts with
  | some t => { hdr := h, part := t.part, cls := t.cls, rentwin := t.rentwin }
  | none => { hdr := h, part := 0, cls := 0, rentwin := 0 }

/-- XLAUNCH with its header read. -/
def State.fileLaunch (s : State) (n : Nat) (d : BitVec 5) (cyc : Nat) (h : BitVec 512) : State :=
  let a := s.agent n
  let cc := launchStatus h a.who
  if cc ≠ 0 then s.setAgent n (a.turnedAway cyc d (statusWord cc))
  else s.setAgent n ({ a with wb := a.wb ++ [Cmd.xlaunch (s.launchOf a.who h)] }.answer cyc d 0)

/-- The 64 bytes at an address. -/
def State.entryAt (s : State) (n : Nat) (q : Option (BitVec 20)) (va : W64) : BitVec 512 :=
  BitVec.ofNat 512 (natOfBytes (s.vaBytes n q va.toNat 64))

/-- Poison met in reading the 64 bytes traps in slot 7 (14 R314). -/
def State.readEntry (s : State) (n : Nat) (va : W64) (f : State → BitVec 512 → State) : State :=
  let q := (s.agent n).who.pasid
  (s.vaPoison n q va.toNat 64).elim (f (s.touchVa n q va.toNat 64) (s.entryAt n q va))
    (fun p => s.takeTrap n { cause := 0x11, slot := 7, imm := 0, faddr := BitVec.ofNat 64 p } false)

/-- ENTRY_READ (R335, R340, R296): the stall of XQP, XMBOX or XLAUNCH ends. -/
def State.entryRead (s : State) (n : Nat) : State :=
  match (s.agent n).stall with
  | .xqp va qp => s.readEntry n va (fun s e =>
      let a := s.agent n
      s.setAgent n { a with stall := .none, wb := a.wb ++ [.xqp e qp] })
  | .xmbox va d cyc => s.readEntry n va (fun s e => s.fileRequest n d cyc e)
  | .xlaunch va d cyc => s.readEntry n va (fun s e => s.fileLaunch n d cyc e)
  | _ => s
def execEntryRead (n : BitVec 9) (s : State) : Host.Outcome State Fault Refusal := .next (s.entryRead n.toNat)

end Sys2Proof.Machine
end

