-- ==== Sys2Proof/Machine/Queue.lean ====
section
/-!
DEFINITION. Queue interfaces: records, request packets, completions and messages (15 R317–R323).
-/

namespace Sys2Proof.Machine

/-- The record of interface `q`. -/
def State.qrec (s : State) (q : BitVec 6) : QRec := Tab.get QRec.reset s.queues q.toNat

/-- Write a record. -/
def State.setQrec (s : State) (q : BitVec 6) (r : QRec) : State := { s with queues := Tab.set QRec.reset s.queues q.toNat r }

/-- ERRCNT + 1, saturating (R318). -/
def QRec.bad (r : QRec) : QRec := { r with errcnt := if r.errcnt = BitVec.allOnes 32 then r.errcnt else r.errcnt + 1 }

/-! ## Completions (R322, R323) -/

/-- The 32 bytes of a completion packet. -/
def completionBytes (r : QRec) (tag : W64) (status : Byte) (result : W64) : List Byte :=
  le 8 tag.toNat ++ [status] ++ le 1 r.phase.toNat ++ le 2 r.sqhead.toNat ++ le 4 0 ++ le 8 result.toNat ++ le 8 0

/-- The record after a completion: CQTAIL, PHASE, and the completions not yet signalled. -/
def QRec.posted (r : QRec) (now : Nat) : QRec :=
  let tail := (r.cqtail.toNat + 1) % 2 ^ r.cqlog.toNat
  { r with
    cqtail := BitVec.ofNat 16 tail
    phase := if tail = 0 then !r.phase else r.phase
    unsignalled := if r.rvalid then r.unsignalled + 1 else r.unsignalled
    firstAt := if r.rvalid && decide (r.unsignalled = 0) then now else r.firstAt }

/-- The message of an interface is sent (R323). -/
def State.signal (s : State) (q : BitVec 6) : State :=
  let r := s.qrec q
  { s.setQrec q { r with unsignalled := 0 } with sent := s.sent ++ [.msix r.vector] }

/-- Post a completion; a disabled interface receives none. -/
def State.postDone (s : State) (q : BitVec 6) (tag : W64) (status : Byte) (result : W64) : State :=
  let r := s.qrec q
  if !r.state then s
  else
    let s := s.put (hostAddr (r.cqbase.toNat + 32 * r.cqtail.toNat)) (completionBytes r tag status result)
    let s := s.setQrec q (r.posted s.now.toNat)
    if r.rvalid && decide (r.count.toNat ≤ (s.qrec q).unsignalled) then s.signal q else s

/-- An EVENT goes to every enabled interface that has PRIV (R322). -/
def State.postEvent (s : State) (code : W64) : State :=
  (List.range 64).foldl (fun s k =>
    let q := BitVec.ofNat 6 k
    if (s.qrec q).priv then s.postDone q (BitVec.allOnes 64) 0x0D code else s) s

/-- MSIX_TIMER (R323): TIMER µs after the first unsignalled completion. -/
def State.msixTimer (s : State) (q : BitVec 6) : State :=
  let r := s.qrec q
  if r.rvalid && decide (0 < r.unsignalled) && r.timer != 0 && decide (r.firstAt + r.timer.toNat ≤ s.now.toNat) then s.signal q
  else s
def execMsixTimer (q : BitVec 6) (s : State) : Host.Outcome State Fault Refusal := .next (s.msixTimer q)

/-! ## Requests (R318, R320, R321) -/

/-- Whether the fields of a packet that must be zero are zero. -/
def packetZeros (p : BitVec 512) : Bool := p.extractLsb' 8 24 == 0 && p.extractLsb' 52 12 == 0

/-- A request packet. One with a nonzero zero field keeps opcode 0, which is unknown (R320). -/
def reqOf (q : BitVec 6) (num : Nat) (prio : BitVec 2) (p : BitVec 512) : Req :=
  { q := q, num := num, prio := prio, opcode := if packetZeros p then p.extractLsb' 0 8 else 0,
    pasid := p.extractLsb' 32 20, tag := p.extractLsb' 64 64,
    a0 := p.extractLsb' 128 64, a1 := p.extractLsb' 192 64, a2 := p.extractLsb' 256 64, a3 := p.extractLsb' 320 64,
    a4 := p.extractLsb' 384 64, a5 := p.extractLsb' 448 64 }

/-- Whether a packet is MALFORMED by its own words: an unknown opcode, a selector outside its list, or an unused operand that is
not zero (R320, R321). -/
def Req.malformed (r : Req) : Bool :=
  let unused (k : Nat) : Bool :=
    (decide (k ≤ 0) && r.a0 != 0) || (decide (k ≤ 1) && r.a1 != 0) || (decide (k ≤ 2) && r.a2 != 0) ||
      (decide (k ≤ 3) && r.a3 != 0) || (decide (k ≤ 4) && r.a4 != 0) || (decide (k ≤ 5) && r.a5 != 0)
  match r.opcode.toNat with
  | 0x01 => unused 1
  | 0x02 => unused 0
  | 0x10 => unused 2 || decide (1024 ≤ r.a0.toNat) || decide (2 ^ 63 ≤ r.a1.toNat)
  | 0x11 => unused 2 || decide (1024 ≤ r.a0.toNat) || decide (r.a1.toNat % 64 ≠ 0)
  | 0x12 => unused 3 || decide (1024 ≤ r.a0.toNat) || decide (2 ^ 24 ≤ r.a2.toNat)
  | 0x13 => unused 2 || decide (2 ^ 24 ≤ r.a1.toNat)
  | 0x14 => unused 2 || decide (64 ≤ r.a0.toNat)
  | 0x15 => unused 2 || decide (2 ^ 20 ≤ r.a0.toNat) || decide (2 ≤ r.a1.toNat)
  | 0x16 =>
    (match r.a2.toNat with
    | 1 => unused 3
    | 2 => unused 3
    | 3 => unused 3
    | 4 => unused 4 || !(r.a3 == 12 || r.a3 == 16 || r.a3 == 21 || r.a3 == 30)
    | 5 => r.a3 != 0 || r.a4 == 0 || decide (r.a1.toNat % 4096 ≠ 0 ∨ r.a4.toNat % 4096 ≠ 0 ∨ r.a5.toNat % 4096 ≠ 0)
    | _ => true) || decide (2 ^ 26 ≤ r.a0.toNat)
  | 0x17 => unused 3 || decide (2 ^ 26 ≤ r.a1.toNat)
  | 0x18 => unused 1 || decide (1024 ≤ r.a0.toNat)
  | 0x19 => unused 2 || !(r.a1 == 1 || r.a1 == 2)
  | 0x1A => decide (2 ≤ r.a5.toNat) || decide (saveRegion < r.a3.toNat + r.a4.toNat)
  | 0x1B => unused 1
  | 0x1C => unused 2
  | 0x1D => unused 1
  | _ => true

/-- The oldest fetched request of an interface. -/
def State.headReq (s : State) (q : BitVec 6) : Option Req := s.requests.find? (fun r => r.q == q)

/-- A request is done with. -/
def State.dropReq (s : State) (r : Req) : State := { s with requests := s.requests.erase r }

/-- MALFORMED requests at the head of an interface's queue complete in fetch order, at most `f` of them. -/
def State.flush (q : BitVec 6) : Nat → State → State
  | 0, s => s
  | f + 1, s =>
    match s.headReq q with
    | some r => if r.malformed then State.flush q f ((s.dropReq r).postDone q r.tag 0x08 0) else s
    | none => s

/-- Flush as far as it goes. -/
def State.flushAll (s : State) (q : BitVec 6) : State := State.flush q s.requests.length s

/-- Fetch the packets from SQHEAD to SQTAIL − 1 in ring order (R318). -/
def State.fetchRing (s : State) (q : BitVec 6) : State :=
  let r := s.qrec q
  let size := 2 ^ r.sqlog.toNat
  let k := (r.sqtail.toNat + size - r.sqhead.toNat % size) % size
  let req (i : Nat) : Req :=
    reqOf q (s.reqNo + i) r.prio (BitVec.ofNat 512 (s.mem.num (hostAddr (r.sqbase.toNat + 64 * ((r.sqhead.toNat + i) % size))) 64))
  let s := { s with requests := s.requests ++ (List.range k).map req, reqNo := s.reqNo + k }
  (s.setQrec q { r with sqhead := r.sqtail }).flushAll q

/-- The two halves of R320's checks that need the interface: REVOKED, then PRIV. -/
def State.reqStatus (s : State) (r : Req) : Option Byte :=
  let x := s.qrec r.q
  if r.pasid ≠ x.pasid ∨ s.revoked.contains r.pasid then some 0x06
  else if 0x10 ≤ r.opcode.toNat ∧ !x.priv then some 0x09
  else none

/-- What a request leads to: it stays, it completes now, or its completion comes later. -/
inductive Served where
  | wait (s : State)
  | done (s : State) (status : Byte) (result : W64)
  | later (s : State)

/-- The service of a request of an interface. -/
def State.serve1 (s : State) (q : BitVec 6) (r : Req) (run : Req → State → Served) : State :=
  match s.reqStatus r with
  | some st => ((s.dropReq r).postDone q r.tag st 0).flushAll q
  | none =>
    match run r s with
    | .wait t => t
    | .done t st v => ((t.dropReq r).postDone q r.tag st v).flushAll q
    | .later t => (t.dropReq r).flushAll q

/-- The service of the head request of an interface by a row: `pick` selects the requests that the row serves. An interface that leaves
its TDISP state is served no more (R325). -/
def State.serveReq (s : State) (q : BitVec 6) (pick : Req → Bool) (run : Req → State → Served) : State :=
  if (s.qrec q).leaving.isSome then s
  else
    let s := s.flushAll q
    match s.headReq q with
    | none => s
    | some r => if pick r then s.serve1 q r run else s

/-- A row that serves one opcode. -/
def State.serveOp (s : State) (q : BitVec 6) (op : Byte) (run : Req → State → Served) : State :=
  s.serveReq q (fun r => r.opcode == op) run

/-- Whether a request waits for something else before it completes, so that a later LAUNCH is accepted meanwhile (R286, R321). -/
def Req.lingers (r : Req) : Bool := r.opcode == 0x02 || r.opcode == 0x16

/-- The LAUNCH that an interface's row serves: the oldest, behind requests that linger only. -/
def firstLaunch : List Req → Option Req
  | [] => none
  | r :: rs => if r.opcode == 0x01 && !r.malformed then some r else if r.lingers then firstLaunch rs else none

/-- Every enabled interface's ring is fetched again. -/
def State.fetchAll (s : State) : State :=
  (List.range 64).foldl (fun s k =>
    let q := BitVec.ofNat 6 k
    if (s.qrec q).state then s.fetchRing q else s) s

/-- An update whose request has left its interface, refused or cleared, holds placement no more. -/
def State.settleUpdate (s : State) : State :=
  match s.fw.updating with
  | some (q, tag, _) =>
    if s.requests.any (fun r => r.q == q && r.opcode == 0x1D && r.tag == tag) then s
    else State.fetchAll { s with fw := { s.fw with updating := none } }
  | none => s
/-! ## Leaving a TDISP state (R325) -/

/-- The record that a transition out of CONFIG_LOCKED or RUN leaves: every field but LAYOUT cleared (R325). -/
def QRec.cleared (r : QRec) (st : BitVec 2) : QRec :=
  { QRec.reset with prio := 0, sqlog := 0, cqlog := 0, phase := false, count := 0, layout := r.layout, tdisp := st }

/-- An interface that has left CONFIG_LOCKED or RUN is cleared once none of its task sets is left. -/
def State.settleLeaving (s : State) (q : BitVec 6) : State :=
  let r := s.qrec q
  match r.leaving with
  | some st =>
    if s.tasksets.any (fun e => match e.2 with
        | some t => decide (t.source = .silent q)
        | none => false) then s
    else State.settleUpdate { s.setQrec q (r.cleared st) with requests := s.requests.filter (fun x => x.q != q) }
  | none => s

/-! ## Addresses in commands -/

/-- Whom a command acts for: the interface's PASID translates host-region addresses (14 R306). -/
def State.issuer (s : State) (q : BitVec 6) : Who :=
  { account := (s.qrec q).account, context := 0, pasid := some (s.qrec q).pasid, tslot := 0, ts := 0, j := 0 }

/-- Whether Rhory can reach `len` bytes at a device virtual address for an interface: the rented region, or host memory under the
interface's PASID. What reads as poison it cannot read (14 R313; log 78). -/
def State.reaches (s : State) (w : Who) (wr : Bool) (va : W64) (len : Nat) : Bool :=
  (match regionOf va.toNat with
    | .rented => decide (va.toNat + len ≤ 0x00FFD00000000000)
    | .host _ => (s.hostCheck w wr va.toNat len).isNone
    | _ => false) && (wr || (s.vaPoison 0 w.pasid va.toNat len).isNone)

/-- What Rhory's read of `len` bytes for an interface does beside reading them (04 R114, 14 R310). -/
def State.touchFor (s : State) (w : Who) (va : W64) (len : Nat) : State := s.touchVa 0 w.pasid va.toNat len

end Sys2Proof.Machine
end

