-- ==== Sys2Proof/Machine/Rhory.lean ====
section
/-!
DEFINITION. Rhory: launch checks, partitions and fair share, placement, starts, dependences, slices, watchdogs and drains, and the
completion of task sets (13 R280–R299, 09 R210, 16 R341).
-/

namespace Sys2Proof.Machine

/-! ## Launch records (R280–R284, R286) -/

/-- The word of a loop table for level `l`, and the two graph-node boundaries. -/
def loopWordOf (t : BitVec 512) (l : Nat) : W64 := t.extractLsb' (64 * l) 64
def loopKind (t : BitVec 512) (l : Nat) : Nat := (loopWordOf t l).toNat % 4
def loopTrip (t : BitVec 512) (l : Nat) : Nat := (loopWordOf t l).toNat / 2 ^ 32

/-- Whether a loop table is well formed (R283). -/
def loopFits (t : BitVec 512) : Bool :=
  (List.range 6).all (fun l => (loopWordOf t l).extractLsb' 2 30 == 0 && loopKind t l != 3 &&
    (loopKind t l == 0 || decide (1 ≤ loopTrip t l)))

/-- The product of the trip counts of the levels of a kind: D for 2, C for 1 (R284). -/
def loopProduct (t : BitVec 512) (kind : Nat) : Nat :=
  (((List.range 6).filter (fun l => loopKind t l == kind)).map (loopTrip t)).prod

/-- The graph-node boundaries (R283). -/
def loopNodes (t : BitVec 512) : List W64 := [loopWordOf t 6, loopWordOf t 7].filter (· != 0)

/-- A launch record as read: header, parameter block, loop table (zero where there is none). -/
structure Record where
  hdr : BitVec 512
  param : List Byte
  table : BitVec 512
deriving DecidableEq, Repr

/-- SAVE and RENTWIN of the parameter block (R281). -/
def Record.save (r : Record) : W64 := BitVec.ofNat 64 (numAt r.param 0x80 8)
def Record.rentwin (r : Record) : W64 := BitVec.ofNat 64 (numAt r.param 0x88 8)
def Record.dies (r : Record) : Nat := loopProduct r.table 2
def Record.cores (r : Record) : Nat := loopProduct r.table 1

/-- Agents per loom task (R282). -/
def agentsOf (kind : BitVec 2) : Nat := if kind = 1 then 12 else 1

/-- The number that stands for no agent where a launch is asked about that no agent holds yet. -/
def nobody : Nat := 313

/-- The pitches without their sublets: what a context owns. -/
def State.owned (s : State) : State :=
  { s with pitches := s.pitches.map (fun e => (e.1, { e.2 with subs := [], endedSubs := [] })) }

/-- Whether `len` bytes at a device virtual address lie in pitches of a context, as agent `n` names them; a sublet is no pitch of its
context. A launch that no agent holds yet names none of a loom's windows, and no pitch that one core alone sees (04 R102). -/
def State.inPitches (s : State) (n : Option Nat) (w : Who) (q : Ask) (va : W64) (len : Nat) : Bool :=
  (match regionOf va.toNat with
    | .rented => true
    | .loom _ => n.isSome
    | _ => false) &&
    (s.owned.refuses (n.getD nobody) w q va len).isNone

/-- Whether the window is the context's, in the rented region (R281, R301): it meets no live window of another context and equals
that of a live set of the same one. -/
def State.windowOk (s : State) (w : Who) (win : W64) : Bool :=
  let (lo, hi) := windowOf win
  let clash (t : TaskSet) : Bool :=
    let (lo', hi') := windowOf t.rentwin
    if hdrAccount t.hdr = w.account ∧ hdrContext t.hdr = w.context then t.rentwin != win
    else decide (lo < hi') && decide (lo' < hi)
  win &&& ~~~0x01FFFFFFC000FFFF#64 == 0 && decide (lo < hi) && decide (hi ≤ 0x00FFD00000000000) &&
    s.tasksets.all (fun e => match e.2 with
      | some t => !clash t
      | none => true)

/-- Whether an account is bound to a partition (R286). -/
def State.bound (s : State) (acct : BitVec 10) (part : Nat) : Bool := (s.account acct).parts.getLsbD part

/-- The looms of a partition. -/
def State.loomsOf (s : State) (part : Nat) : List Nat :=
  (List.range 24).filter (fun l => (Tab.get Partition.reset s.parts part).looms.getLsbD l)

/-- The fields of a header that every launch must keep (R280). -/
def hdrFits (h : BitVec 512) : Bool :=
  hdrZeros h && hdrPcOk h && hdrKind h != 3 && (if hdrKind h = 0 then decide (hdrRank h ≤ 11) else decide (hdrRank h = 0)) &&
    decide ((hdrParam h).toNat % 64 = 0) && decide ((hdrDone h).toNat % 8 = 0) && decide ((hdrDep h).toNat % 8 = 0)

/-- The fields of a parameter block that every launch must keep (R281). -/
def paramFits (p : List Byte) : Bool := numAt p 0x6C 4 == 0 && numAt p 0x90 48 == 0

/-- The places that Rhory reads of a record beside its header. -/
def recordParts (h : BitVec 512) : List (W64 × Nat) :=
  (hdrParam h, 192) :: (if hdrLooptab h = 0 then [] else [(hdrLooptab h, 64)])

/-- Whether Rhory meets poison in reading a record: the launch is refused (14 R314; log 78). -/
def State.recordPoison (s : State) (n : Nat) (h : BitVec 512) : Bool :=
  (recordParts h).any (fun x => (s.vaPoison n none x.1.toNat x.2).isSome)

/-- What reading a record does beside reading it (04 R114, 14 R310). -/
def State.touchRecord (s : State) (n : Nat) (h : BitVec 512) : State :=
  (recordParts h).foldl (fun s x => s.touchVa n none x.1.toNat x.2) s

/-- The rest of the record, read for the context; it lies in pitches (R286). -/
def State.readRecord (s : State) (n : Nat) (h : BitVec 512) : Record :=
  { hdr := h, param := s.vaBytes n none (hdrParam h).toNat 192
    table := if hdrLooptab h = 0 then 0 else s.entryAt n none (hdrLooptab h) }

/-- PARAM, LOOPTAB and DONE lie where R286 wants them. -/
def State.pointersOk (s : State) (n : Option Nat) (w : Who) (h : BitVec 512) : Bool :=
  s.inPitches n w askLoad (hdrParam h) 192 && (hdrLooptab h == 0 || s.inPitches n w askLoad (hdrLooptab h) 64) &&
    (hdrDone h == 0 || s.inPitches n w askAtomic (hdrDone h) 8)

/-- The checks of R286 on a launch from a host queue or the fabric, at acceptance and again at the first start (`n`). -/
def State.launchOk (s : State) (n : Option Nat) (w : Who) (part : Nat) (h : BitVec 512) : Bool :=
  let r := s.readRecord (n.getD nobody) h
  hdrFits h && s.bound w.account part && s.pointersOk n w h && !s.recordPoison (n.getD nobody) h && paramFits r.param && loopFits r.table &&
    decide (r.dies ≤ (s.loomsOf part).length) && (hdrKind h != 1 || decide (r.cores ≤ 12)) &&
    (hdrKind h != 0 || decide (r.cores = 1)) &&
    s.saveAreaOk w.account w.context r.save.toNat (saveRegion * agentsOf (hdrKind h) * r.dies) &&
    s.windowOk w r.rentwin

/-- Whom a task of a launch acts for. -/
def whoOf (h : BitVec 512) (pasid : Option (BitVec 20)) (ts j : Nat) : Who :=
  { account := hdrAccount h, context := hdrContext h, pasid := pasid, tslot := hdrTslot h, ts := ts, j := j }

/-- Loom task `j` of a launch. -/
def loomTaskOf (r : Record) (cls : BitVec 2) (rentwin : W64) (pasid : Option (BitVec 20)) (ts j : Nat) : LoomTask :=
  let kind := hdrKind r.hdr
  let task : Task :=
    { account := hdrAccount r.hdr, context := hdrContext r.hdr, cls := cls, kind := kind, tslot := hdrTslot r.hdr, ts := ts,
      j := j, rentwin := rentwin, pasid := pasid, save := r.save + BitVec.ofNat 64 (saveRegion * agentsOf kind * j) }
  { stat := .waiting, agent := 0, task := task, lightStop := false, lightLevels := [], held := 0, slice := 1, due := false,
    graph := [], code := [] }

/-- A task set of a launch. -/
def taskSetOf (src : Source) (r : Record) (part : BitVec 5) (cls : BitVec 2) (rentwin : W64) (pasid : Option (BitVec 20))
    (cap : Option W64) (ts : Nat) : TaskSet :=
  { source := src, hdr := r.hdr, part := part, cls := cls, rentwin := rentwin, pasid := pasid, ready := hdrDep r.hdr == 0,
    nodes := loopNodes r.table, tasks := (List.range r.dies).map (loomTaskOf r cls rentwin pasid ts), heldTicks := 0, heldAt := 0, code := 0,
    cause := 0, charged := 0, cap := cap, overdue := false, dep := none, swept := false }

/-! ## Fair share (R289, R290) -/

/-- Whether a loom task could run or runs: it makes its account active in the partition. -/
def TaskSet.active (t : TaskSet) (x : LoomTask) : Bool :=
  match x.stat with
  | .waiting => t.ready
  | .placed => true
  | .running => true
  | .stopped d => !d
  | .ended => false

/-- The accounts that hold a loom or have a runnable loom task in a partition. -/
def State.activeIn (s : State) (part : Nat) : List Nat :=
  s.tasksets.flatMap (fun e => match e.2 with
    | some t =>
      if t.part.toNat = part ∧ t.tasks.any t.active then [(hdrAccount t.hdr).toNat] else []
    | none => [])

/-- The pass of an account in a partition. -/
def State.passOf (s : State) (part acct : Nat) : Nat := (Tab.get 0 s.passes (1024 * part + acct)).toNat

/-- An account that becomes runnable after holding nothing catches up with the lowest active pass. -/
def State.joinPass (s : State) (part acct : Nat) : State :=
  let act := s.activeIn part
  if act.contains acct then s
  else match act.map (s.passOf part) with
    | [] => s
    | p :: ps =>
      { s with passes := Tab.set 0 s.passes (1024 * part + acct) (BitVec.ofNat 64 (max (s.passOf part acct) (ps.foldl min p))) }

/-- A task set that has become ready makes its account active. -/
def State.makeReady (s : State) (ts : Nat) : State :=
  match Tab.get none s.tasksets ts with
  | some t =>
    let s := s.joinPass t.part.toNat (hdrAccount t.hdr).toNat
    { s with tasksets := Tab.set none s.tasksets ts (some { t with ready := true }) }
  | none => s

/-- Change a loom task. -/
def State.modTask (s : State) (ts j : Nat) (f : LoomTask → LoomTask) : State :=
  let g (o : Option TaskSet) : Option TaskSet := o.map (fun t => { t with tasks := t.tasks.mapIdx (fun i x => if i = j then f x else x) })
  { s with tasksets := Tab.modify none s.tasksets ts g }

/-- Change a task set. -/
def State.modSet (s : State) (ts : Nat) (f : TaskSet → TaskSet) : State :=
  { s with tasksets := Tab.modify none s.tasksets ts (fun o => o.map f) }

/-- The passes of a set's tasks that hold their looms no more advance (R290). -/
def State.settleSet (s : State) (ts : Nat) (t : TaskSet) : State :=
  (List.range t.tasks.length).foldl (fun s j => s.settlePass ts j) s

/-- A task set ends without running, all of its tasks at once (R287, 15 R324). -/
def State.endSet (s : State) (ts : Nat) (code : Byte) : State :=
  match Tab.get none s.tasksets ts with
  | none => s
  | some t =>
    (s.modSet ts (fun t => { t with
      code := if t.code.toNat < code.toNat then code else t.code
      tasks := t.tasks.map (fun x => { x with stat := .ended }) })).settleSet ts t

/-! ## Dependences (R287) -/

/-- What becomes of a dependence: it holds, it may still come to hold, or it ends the launch with a completion code. -/
inductive Dep where
  | met
  | unmet
  | ends (code : Byte)
deriving DecidableEq, Repr

/-- Whether the pitch of a cell has reached its expiry and has not lapsed yet: it is about to (04 R102). -/
def State.expiring (s : State) (n : Nat) (va : W64) : Bool :=
  match s.pitchAt n va.toNat with
  | some k => (s.pitch k).state == .overstay || ((s.pitch k).state == .leased && !(s.pitch k).vacated)
  | none => false

/-- Rhory's read of the DEP cell for the launching context (R287), as agent `n` names it; no agent names a host launch's. What was noted as
the cell's pitch went decides from then on. While a pitch that has reached its expiry has not lapsed, nothing is decided (log 79); poison
is refused (log 78). -/
def State.depState (s : State) (n : Nat) (w : Who) (h : BitVec 512) (noted : Option Bool) : Dep :=
  let va := hdrDep h
  match noted with
  | some held => if held then .met else .ends 0x02
  | none =>
    if va = 0 then .met
    else match (match regionOf va.toNat with
      | .loom _ => if n = nobody then some ((0x0A : Byte), va) else s.refuses n w askLoad va 8
      | _ => s.refuses n w askLoad va 8) with
    | some r => if (r.1 = 0x08 ∨ r.1 = 0x09) ∧ s.expiring n va then .unmet else .ends 0x01
    | none =>
      if (s.vaPoison n w.pasid va.toNat 8).isSome then .ends 0x01
      else if (hdrDepcount h).toNat ≤ s.cellValue n w.pasid va then .met else .unmet

/-- What reading the DEP cell does beside reading it (04 R114, 14 R310). -/
def State.touchDep (s : State) (n : Nat) (w : Who) (h : BitVec 512) : State :=
  if hdrDep h = 0 then s else s.touchVa n w.pasid (hdrDep h).toNat 8

/-- DEPENDENCE_MET (R287): the set becomes runnable, or ends REFUSED or DEPEXPIRED. -/
def State.dependenceMet (s : State) (ts : Nat) : State :=
  match Tab.get none s.tasksets ts with
  | none => s
  | some t =>
    if t.ready || t.tasks.all (fun x => decide (x.stat = .ended)) then s
    else
      let w := whoOf t.hdr t.pasid ts 0
      let s := s.touchDep nobody w t.hdr
      match s.depState nobody w t.hdr t.dep with
      | .met => s.makeReady ts
      | .unmet => s
      | .ends c => s.endSet ts c
def execDependenceMet (ts : Nat) (s : State) : Host.Outcome State Fault Refusal := .next (s.dependenceMet ts)

/-! ## Accepting a launch (R286) -/

/-- The runnable sets of a partition that are queued: a task of theirs waits (R289). -/
def State.queuedIn (s : State) (part : BitVec 5) : Nat :=
  (s.tasksets.filter (fun e => match e.2 with
    | some t => t.part == part && t.ready && t.tasks.any (fun x => decide (x.stat = .waiting))
    | none => false)).length

/-- A launch that has passed its checks enters Rhory, and the first read of its DEP cell may end it (R287). -/
def State.enterLaunch (s : State) (src : Source) (h : BitVec 512) (part : BitVec 5) (cls : BitVec 2)
    (pasid : Option (BitVec 20)) (cap : Option W64) : State :=
  let ts := s.nextTs + 1
  let r := s.readRecord nobody h
  let t := taskSetOf src r part cls r.rentwin pasid cap ts
  let s := { s.touchRecord nobody h with nextTs := ts }
  let s := { s with tasksets := Tab.set none s.tasksets ts (some { t with ready := false }) }
  s.dependenceMet ts

/-! ## Placement (R284, R290, R295) -/

/-- The agents of a loom. -/
def loomAgents (l : Nat) : List Nat := (List.range 12).map (fun k => 12 * l + k) ++ [288 + l]

/-- Whether a set was launched by a conductor. -/
def TaskSet.isTile (t : TaskSet) : Bool :=
  match t.source with
  | .conductor _ _ _ => true
  | _ => false

/-- Whether a stopped task on an agent holds a timeline slot (R210). -/
def State.slotHeld (s : State) (m : Nat) (k : BitVec 6) : Bool :=
  s.loomTasks.any (fun x => x.2.2.isStopped && x.2.2.agents.contains m && x.2.2.task.tslot == k)

/-- Whether a loom is free. -/
def State.loomFree (s : State) (l : Nat) : Bool :=
  (loomAgents l).all (fun m => (s.agent m).task.isNone) &&
    s.loomTasks.all (fun x => !(x.2.2.holds && decide (loomOf x.2.2.agent = l)))

/-- The looms that a task set's tasks have been bound to: they are distinct (R284). -/
def TaskSet.boundLooms (t : TaskSet) : List Nat :=
  t.tasks.filterMap (fun x => match x.stat with
    | .waiting => none
    | _ => some (loomOf x.agent))

/-- The first agent of a loom task on a loom. -/
def firstAgent (h : BitVec 512) (l : Nat) : Nat :=
  match (hdrKind h).toNat with
  | 0 => 12 * l + hdrRank h
  | 1 => 12 * l
  | _ => 288 + l

/-- Whether a loom can take a loom task of a set: it is free, no other task of the set has run on it (R284), and no stopped task holds
the timeline slot there (R210; log 74). -/
def State.loomFits (s : State) (t : TaskSet) (x : LoomTask) (l : Nat) : Bool :=
  s.loomFree l && !t.boundLooms.contains l &&
    (LoomTask.agents { x with agent := firstAgent t.hdr l }).all (fun m => !s.slotHeld m x.task.tslot)

/-- The loom for loom task `j` of a set, the dies in round-robin order of `j` (R284): the lowest that fits of the first die that has one (log
93). -/
def State.pickLoom (s : State) (t : TaskSet) (j : Nat) (x : LoomTask) : Option Nat :=
  let ls := s.loomsOf t.part.toNat
  let dies := (ls.map (· / 6)).dedup
  let turn := (dies.drop (j % max 1 dies.length)) ++ dies.take (j % max 1 dies.length)
  turn.findSome? (fun d => ls.find? (fun l => decide (l / 6 = d) && s.loomFits t x l))

/-- The effective slice of a task's next turn, and whether SLICE was clamped (R295). -/
def State.sliceOf (s : State) (part : Nat) (light : Bool) : Nat × Bool :=
  let sl := (Tab.get Partition.reset s.parts part).slice.toNat
  let least := if light then 8 else 36
  (max sl least, decide (sl < least))

/-- The slice begins, of the task whose loom it is. -/
def State.beginSlice (s : State) (ts j : Nat) (part : Nat) (x : LoomTask) : State :=
  let (k, clamped) := s.sliceOf part x.lightStop
  let s := if clamped then s.modAccount x.task.account (fun c => { c with clamped := true }) else s
  let b := s.bearer ts j
  s.modTask b.1 b.2 (fun x => { x with held := 0, slice := k })

/-- Whether a task of a set holds a loom or core, a conductor's tiles included (R291). -/
def State.setHolds (s : State) (ts : Nat) (t : TaskSet) : Bool := t.tasks.zipIdx.any (fun x => s.loomHeld ts x.2 x.1)

/-- A tick in which a task of the set holds a loom or core (`holds`) counts once, the current one included (13 R297, 22 R365). -/
def TaskSet.count (t : TaskSet) (holds : Bool) (now : Nat) : TaskSet :=
  if holds ∧ t.heldAt ≠ now + 1 then { t with heldTicks := t.heldTicks + 1, heldAt := now + 1 } else t

/-- A task of the set has begun to hold a loom. -/
def State.countHeld (s : State) (ts : Nat) : State := s.modSet ts (fun t => t.count (s.setHolds ts t) s.now.toNat)

/-- A loom task, or a tile of it, has begun to hold its loom: the tick counts (R297), and the pass of its account is due (R290). -/
def State.takeLoom (s : State) (ts j : Nat) : State :=
  let b := s.bearer ts j
  (s.modTask b.1 b.2 (fun x => { x with due := true })).countHeld b.1

/-- Whether the range of a recorded pitch is free (R294). -/
def State.rangeFree (s : State) (g : Rerent) : Bool :=
  spaceAt (s.taken g.tier.toNat (unitOf g.tier.toNat g.agent) true) 0 (tierSize g.tier.toNat) 1 g.length g.base

/-- The stopped tiles of a conductor (R296). -/
def State.tilesOf (s : State) (ts j : Nat) : List (Nat × Nat × LoomTask) :=
  s.loomTasks.filter (fun x => x.2.2.isStopped && (match Tab.get none s.tasksets x.1 with
    | some t => t.tileOf ts j
    | none => false))

/-- The group that resumes with a stopped loom task: itself and the tiles of a conductor, or the tiles of one conductor that has ended
(R296). -/
def State.resumeGroup (s : State) (ts j : Nat) (x : LoomTask) : List (Nat × Nat × LoomTask) :=
  let b := s.bearer ts j
  if b = (ts, j) then (ts, j, x) :: (if x.task.kind = 2 then s.tilesOf ts j else []) else s.tilesOf b.1 b.2

/-- Whether every region of a group can be read back and its recorded ranges are free (R278, R294). -/
def State.canResume (s : State) (g : List (Nat × Nat × LoomTask)) : Bool :=
  g.all (fun x => x.2.2.agents.all (fun m => s.areaOk m (x.2.2.region m) x.2.2.lightLevels) &&
    x.2.2.graph.all (fun k => decide (k.ticks = 0) || s.rangeFree k))

/-- Whether a tile's conductor is still in service: then the tile resumes with it only. -/
def State.conductorLives (s : State) (t : TaskSet) : Bool :=
  match t.source with
  | .conductor _ p j => s.loomTasks.any (fun x => x.1 == p && x.2.1 == j && decide (x.2.2.stat ≠ .ended))
  | _ => false

/-- Whether a loom task can be placed on a free loom now. -/
def State.placeable (s : State) (t : TaskSet) (ts j : Nat) (x : LoomTask) : Bool :=
  match x.stat with
  | .waiting => t.ready && !t.isTile && (s.pickLoom t j x).isSome
  | .stopped false =>
    !s.conductorLives t && s.loomFree (loomOf x.agent) && s.canResume (s.resumeGroup ts j x)
  | _ => false

/-- The next loom task of a partition (R290): lowest pass, lowest account, highest class, earliest acceptance, in the order
of its set (log 93). -/
def State.nextTask (s : State) (part : Nat) : Option (Nat × Nat) :=
  let all := s.loomTasks.filterMap (fun y => match Tab.get none s.tasksets y.1 with
    | some t =>
      if t.part.toNat = part ∧ !t.overdue ∧ s.placeable t y.1 y.2.1 y.2.2 then
        let a := y.2.2.task.account.toNat
        some ([s.passOf part a, a, 3 - t.cls.toNat, y.1, y.2.1], (y.1, y.2.1))
      else none
    | none => none)
  match all with
  | [] => none
  | y :: ys => some (ys.foldl (fun b c => if c.1 < b.1 then c else b) y).2

/-- The recorded pitches are rented again, charged at once (R294): the state, and whether every charge could be made. -/
def State.rerentAll (s : State) (w : Who) : List Rerent → State × Bool
  | [] => (s, true)
  | g :: gs =>
    if g.ticks = 0 then s.rerentAll w gs
    else
      let rho := (s.rates.at g.tier.toNat).toNat
      let cost := g.length * rho * g.ticks
      if s.insolvent w.account || s.short w.account cost || s.capped w.ts cost then (s, false)
      else match s.freshPitch with
        | none => (s, false)
        | some k =>
          let p : Pitch := { Pitch.free with
            account := w.account, context := w.context, tier := g.tier, state := .leased, att := g.att, base := g.base,
            length := g.length, paid := s.now.toNat + g.ticks, rate := rho, charged := cost, unit := g.agent }
          let s := (s.clearStore g.tier.toNat g.agent g.base g.length).setPitch k p
          ((s.modAccount w.account (·.charge cost)).book w.ts cost).rerentAll w gs

/-- A resume that a charge stops ends its task SAVELOST: the slice that has begun counts, and what is rented in the cores is vacated
(R290, R294, R111). -/
def State.loseTask (s : State) (w : Who) (x : LoomTask) : State :=
  x.agents.foldl (fun s m => s.vacateCore m w) ((s.takeLoom w.ts w.j).markEnded w 0x05 0)

/-- An agent of a stopped task is read back from its region of the save area (R293). -/
def State.readAgent (x : LoomTask) (s : State) (m : Nat) : State :=
  (s.loadAgent m (x.region m) x.lightLevels x.task).touchVa m none (x.region m) saveRegion

/-- The agents of a stopped task are read back (R293); the ranks of a gang follow rank 0 (02 R61). -/
def State.readTask (s : State) (x : LoomTask) : State :=
  let t := x.agents.foldl (State.readAgent x) s
  if x.task.kind = 1 then t.followLead x.agents else t

/-- A stopped loom task comes back on its agents (R293). -/
def State.resumeOne (s : State) (y : Nat × Nat × LoomTask) : State :=
  let x := y.2.2
  let k := x.task
  let w : Who := { account := k.account, context := k.context, pasid := k.pasid, tslot := k.tslot, ts := y.1, j := y.2.1 }
  let (s, paid) := s.rerentAll w x.graph
  if !paid then s.loseTask w x
  else
    ((s.readTask x).modTask y.1 y.2.1 (fun x => { x with stat := .running, graph := [] })).takeLoom y.1 y.2.1

/-- TASK_PLACEMENT (R290, R293): a free loom of a partition takes its next loom task; a stopped one resumes. -/
def State.taskPlacement (s : State) (part : Nat) : State :=
  if (Tab.get Partition.reset s.parts part).stopping || s.fw.updating.isSome then s
  else match s.nextTask part with
    | none => s
    | some (ts, j) =>
      match Tab.get none s.tasksets ts with
      | none => s
      | some t =>
        match t.tasks[j]? with
        | none => s
        | some x =>
          let s := s.beginSlice ts j part x
          match x.stat with
          | .waiting =>
            match s.pickLoom t j x with
            | some l => (s.modTask ts j (fun x => { x with stat := .placed, agent := firstAgent t.hdr l })).takeLoom ts j
            | none => s
          | _ => (s.resumeGroup ts j x).foldl State.resumeOne s
def execTaskPlacement (part : BitVec 5) (s : State) : Host.Outcome State Fault Refusal := .next (s.taskPlacement part.toNat)

/-! ## Starting (R46, R210, R281, R286) -/

/-- Whether no engine operation of an earlier holder of timeline slot `k` of an agent is in flight (R210), and no rent operation
that an earlier task released. -/
def State.slotFree (s : State) (m : Nat) (k : BitVec 6) : Bool :=
  s.committed m && !s.running.any (fun r => r.agent == m && r.owner.tslot == k) &&
    !(s.agent m).ecb.any (fun h => h.owner.tslot == k && (match h.cmd with | .engine _ => true | _ => false))

/-- Registers at launch (R46, R281, R284): `arg7` replaces ARG7. -/
def launchRegs (h : BitVec 512) (p : List Byte) (arg7 : Option Nat) : Regs :=
  let d (o : Nat) : W64 := BitVec.ofNat 64 (numAt p o 8)
  let s := readTab 0 1 8 (fun k => if k = 7 then (arg7.map (BitVec.ofNat 64)).getD (d 0x38) else d (8 * k))
  { Regs.reset with
    pc := hdrPc h, s := s, seqlen := d 0x40, kvbase := d 0x48, kvslot := d 0x50, kvtok := d 0x58, kvlayer := d 0x60,
    devthr := BitVec.ofNat 64 (numAt p 0x68 4), docreg := d 0x70, srseed := d 0x78 }

/-- A task starts on an agent: every register at its launch value, its timeline slot's cells zero (R210), the event counters cleared
(23 R376). -/
def State.launchAgent (s : State) (m : Nat) (t : Task) (r : Regs) : State :=
  let a := s.agent m
  let slot := t.tslot.toNat
  let ctxs := (List.range 7).foldl (fun x c => Tab.set EngCtx.reset x (8 * slot + c) EngCtx.reset) a.ctxs
  s.setAgent m { Agent.reset with
    r := r, dup := r, svec := a.svec, skew := a.skew, even := a.even, lightWait := a.lightWait, cycle := a.cycle, icyc := a.icyc,
    super := a.super, flq := a.flq.map (fun x => { x with dropped := true }), fsq := a.fsq, ecb := a.ecb, ctxs := ctxs,
    holders := Tab.set none a.holders slot (some t.account), task := some t, allow := s.allowance t.account, ratec := s.rates }

/-- Whether Rhory places no task in a partition, nor starts one: a drain holds it (R298 step 1). -/
def State.draining (s : State) (part : Nat) : Bool := (Tab.get Partition.reset s.parts part).stopping

/-- TASK_START (R286, R210): a placed loom task starts once its timeline slots are free, no stopped task holds them and no drain holds its
partition; a launch that no longer passes its checks ends REFUSED. The registers are those of the record as it stands; the rent window is
the one accepted (log 84). -/
def State.taskStart (s : State) (ts j : Nat) : State :=
  match Tab.get none s.tasksets ts with
  | none => s
  | some t =>
    match t.tasks[j]? with
    | none => s
    | some x =>
      if x.stat ≠ .placed ∨ s.draining t.part.toNat ∨ !x.agents.all (fun m => s.slotFree m x.task.tslot && !s.slotHeld m x.task.tslot) then s
      else
        let w := whoOf t.hdr t.pasid ts j
        let others : State := { s with tasksets := Tab.set none s.tasksets ts none }
        if !others.launchOk (some x.agent) w t.part.toNat t.hdr then s.markEnded w 0x01 0
        else
          let r := s.readRecord x.agent t.hdr
          let s := s.touchRecord x.agent t.hdr
          let y := loomTaskOf r t.cls t.rentwin t.pasid ts j
          let regs := launchRegs t.hdr r.param (if 1 < t.tasks.length then some j else none)
          let s := x.agents.foldl (fun s m => s.launchAgent m y.task regs) s
          s.modTask ts j (fun x => { x with stat := .running, task := y.task })
def execTaskStart (ts j : Nat) (s : State) : Host.Outcome State Fault Refusal := .next (s.taskStart ts j)

/-- The checks of a tile's start (R286, R296): the header was accepted at issue. -/
def State.tileOk (s : State) (m : Nat) (w : Who) (part : Nat) (h : BitVec 512) : Bool :=
  let r := s.readRecord m h
  hdrFits h && s.bound w.account part && s.pointersOk (some m) w h && !s.recordPoison m h && paramFits r.param && loopFits r.table &&
    decide (r.dies = 1) && decide (r.cores = 1) && s.saveAreaOk w.account w.context r.save.toNat saveRegion && r.rentwin == 0

/-- The target of a tile launch by conductor `n`. -/
def tileTarget (n : Nat) (h : BitVec 512) : Nat := 12 * loomOf n + hdrRank h

/-- Whether a conductor's loom is still its own: it runs, or it has ended and nothing else has taken the loom. -/
def State.ownsLoom (s : State) (n : Nat) (w : Who) : Bool :=
  s.runs n w || ((match s.taskOf w with
    | some x => decide (x.stat = .ended)
    | none => true) && s.loomTasks.all (fun x => !(x.2.2.holds && decide (loomOf x.2.2.agent = loomOf n)) ||
      (match Tab.get none s.tasksets x.1 with
      | some t => t.tileOf w.ts w.j
      | none => false)))

/-- The dependence of a tile launch of controller `n` (R287). -/
def State.tileDep (s : State) (n : Nat) (w : Who) (l : Launch) : Dep := s.depState n (whoOf l.hdr w.pasid 0 0) l.hdr l.dep

/-- The next launch of controller `n`, if it can start: its launches start in release order, and one whose loom, rank or timeline slot
is not free, or whose dependence is still open, holds back those behind it (20 R360, R287). -/
def State.nextTile (s : State) (n : Nat) : Option (Nat × Who × Launch) :=
  match s.tileLaunches.find? (fun y => y.1 == n) with
  | some y =>
    let m := tileTarget y.1 y.2.2.hdr
    let k := hdrTslot y.2.2.hdr
    if s.ownsLoom n y.2.1 ∧ !s.draining y.2.2.part.toNat ∧ (s.agent m).task.isNone ∧ s.slotFree m k ∧ !s.slotHeld m k ∧
        s.tileDep n y.2.1 y.2.2 ≠ .unmet then some y
    else none
  | none => none

/-- The requests of a conductor that runs reach a tile that starts after them (R291, R296). -/
def State.inheritStop (s : State) (n m : Nat) (w : Who) : State :=
  let r := (s.agent n).stop
  if s.runs n w then
    s.setAgent m { s.agent m with
      stop := { debug := r.debug, preempt := r.preempt.map (fun _ => 0), watchdog := r.watchdog.map (fun _ => 0) } }
  else s

/-- TILE_LAUNCH_START (R296): a refused start writes REFUSED to DONE, and a dependence that cannot be met its own code (R287). -/
def State.tileLaunchStart (s : State) (n : Nat) : State :=
  match s.nextTile n with
  | none => s
  | some y =>
    let w0 := y.2.1
    let l := y.2.2
    let h := l.hdr
    let m := tileTarget n h
    let ts := s.nextTs + 1
    let w := whoOf h w0.pasid ts 0
    let dep := s.tileDep n w0 l
    let s := { s with tileLaunches := s.tileLaunches.erase y }.touchDep n w h
    match dep with
    | .ends c => s.writeDone m w (hdrDone h) c
    | _ =>
    if !s.tileOk m w l.part.toNat h then s.writeDone m w (hdrDone h) 0x01
    else
      let r := s.readRecord m h
      let s := s.touchRecord m h
      let u := taskSetOf (.conductor n w0.ts w0.j) r l.part l.cls l.rentwin w0.pasid none ts
      let (k, _) := s.sliceOf l.part.toNat false
      let tasks := u.tasks.map (fun x => { x with stat := .running, agent := m, slice := k })
      let s := { s with nextTs := ts, tasksets := Tab.set none s.tasksets ts (some { u with ready := true, tasks := tasks }) }
      let s := s.takeLoom ts 0
      match tasks with
      | x :: _ => (s.launchAgent m x.task (launchRegs h r.param none)).inheritStop n m w0
      | [] => s
def execTileLaunchStart (n : BitVec 9) (s : State) : Host.Outcome State Fault Refusal := .next (s.tileLaunchStart n.toNat)

/-! ## Stop requests (R71, R291, R297, R298) -/

/-- A stop request reaches the agents `ms`; those in a waiting instruction abandon it (R71). -/
def State.askStop (s : State) (ms : List Nat) (f : StopReq → StopReq) : State :=
  let live := ms.filter (fun m => (s.agent m).task.isSome)
  let s := live.foldl (fun s m => s.setAgent m { s.agent m with stop := f (s.agent m).stop }) s
  live.foldl (fun s m => if (s.agent m).inWait && (s.agent m).abandons then s.abandon m else s) s

/-- A pre-emption request; one already pending stands. -/
def StopReq.askPreempt (r : StopReq) : StopReq := { r with preempt := if r.preempt.isSome then r.preempt else some 0 }

/-- A drain's request. -/
def StopReq.askDrain (r : StopReq) : StopReq := { r with watchdog := if r.watchdog.isSome then r.watchdog else some 0 }

/-- The looms that a set's tasks hold, themselves or through their tiles. -/
def State.heldLooms (s : State) (ts : Nat) (t : TaskSet) : List Nat :=
  t.tasks.zipIdx.filterMap (fun x => if s.loomHeld ts x.2 x.1 then some (loomOf x.1.agent) else none)

/-- SLICE_EXPIRY (R291): the request reaches every agent of the task, its tiles included. -/
def State.sliceExpiry (s : State) (ts j : Nat) : State :=
  match Tab.get none s.tasksets ts with
  | none => s
  | some t =>
    match t.tasks[j]? with
    | none => s
    | some x =>
      if (x.stat = .running ∨ s.tilesHold ts j) ∧ x.slice ≤ x.held ∧ !t.isTile then
        s.askStop (loomAgents (loomOf x.agent)) StopReq.askPreempt
      else s
def execSliceExpiry (ts j : Nat) (s : State) : Host.Outcome State Fault Refusal := .next (s.sliceExpiry ts j)

/-- Step 1 of a drain, and the discards that need no stop: the set is marked, its waiting tasks will not start. -/
def State.beginDrain (s : State) (ts : Nat) (t : TaskSet) : State :=
  let looms := s.heldLooms ts t
  let s := (s.modSet ts (fun t => { t with
    overdue := true
    tasks := t.tasks.map (fun x => if x.stat = .placed ∨ x.stat = .waiting then { x with stat := .ended } else x) })).settleSet ts t
  s.askStop (looms.flatMap loomAgents) StopReq.askDrain

/-- Whether step 1 of R298 is due for a set: its held ticks exceed the watchdog period of its queue (R297). -/
def State.drainDue (s : State) (t : TaskSet) : Bool :=
  match t.source with
  | .queue q _ _ =>
    let wd := (s.qrec q).wdog.toNat
    decide (wd ≠ 0) && decide (wd < t.heldTicks) && !t.overdue && !(Tab.get Partition.reset s.parts t.part.toNat).stopping
  | _ => false

/-- WATCHDOG_EXPIRY (R297, R298 steps 1 and 2). -/
def State.watchdogExpiry (s : State) (ts : Nat) : State :=
  match Tab.get none s.tasksets ts with
  | none => s
  | some t =>
    if s.drainDue t then
      let part := t.part.toNat
      let s := { s with parts := Tab.modify Partition.reset s.parts part (fun p => { p with stopping := true }) }
      let mine := s.heldLooms ts t
      let s := s.beginDrain ts t
      s.askStop (((s.loomsOf part).filter (fun l => !mine.contains l)).flatMap loomAgents) StopReq.askPreempt
    else s
def execWatchdogExpiry (ts : Nat) (s : State) : Host.Outcome State Fault Refusal := .next (s.watchdogExpiry ts)

/-- DRAIN_FORCE_STOP (R298 step 3): no checkpoint within 4,096 bundles of the request. -/
def State.drainForceStop (s : State) (n : Nat) : State :=
  match (s.agent n).stop.watchdog with
  | some k =>
    if 4096 ≤ k then
      let ms := s.members n
      let s := ms.foldl State.restore s
      ms.foldl (fun s m => s.endAgent m 0x04) s
    else s
  | none => s
def execDrainForceStop (n : BitVec 9) (s : State) : Host.Outcome State Fault Refusal := .next (s.drainForceStop n.toNat)

/-! ## Completion (R288, R298 steps 4 to 7, 15 R323) -/

/-- Whether every entry that a task set released has performed at its home. -/
def State.setPerformed (s : State) (ts : Nat) : Bool :=
  !s.agents.any (fun na => na.2.fsq.any (fun h => h.owner.ts == ts && !h.isMarker)) &&
    !s.transit.any (fun t => t.load.isCmd && t.owner.ts == ts) && s.commits.all (fun c => c.ts != ts)

/-- The agent that names the DONE cell: that of the first task, where one has been placed. -/
def TaskSet.doneAgent (t : TaskSet) : Nat :=
  match t.tasks with
  | x :: _ => if x.slice ≤ 1 then nobody else x.agent
  | [] => nobody

/-- The completion goes to the set's source, and DONE is written. -/
def State.report (s : State) (t : TaskSet) (ts : Nat) : State :=
  let s := match t.source with
    | .queue q tag _ => s.postDone q tag t.code (if t.code = 0x03 then t.cause else 0)
    | .fabric node => { s with sent := s.sent ++ [.fabricDone node (if t.code = 0 then 0x00 else 0x07)] }
    | _ => s
  match t.source with
  | .silent _ => s
  | _ => s.writeDone t.doneAgent (whoOf t.hdr t.pasid ts 0) (hdrDone t.hdr) t.code

/-- The set leaves Rhory. -/
def State.forget (s : State) (ts : Nat) : State := { s with tasksets := Tab.set none s.tasksets ts none }

/-- The tile sets of a set's conductors. -/
def State.tileSets (s : State) (ts : Nat) : List Nat :=
  s.tasksets.filterMap (fun e => match e.2 with
    | some u => (match u.source with
      | .conductor _ p _ => if p = ts then some e.1 else none
      | _ => none)
    | none => none)

/-- The agents on which a set's tasks stood. -/
def TaskSet.looms (t : TaskSet) : List Nat :=
  (t.tasks.filterMap (fun x => if x.slice ≤ 1 then none else some (loomOf x.agent))).dedup

/-- Whether an engine operation of a set has still to complete (R298 step 4). -/
def State.enginesBusy (s : State) (sets : List Nat) : Bool :=
  s.running.any (fun r => sets.contains r.owner.ts) ||
    s.agents.any (fun na => na.2.ecb.any (fun h => sets.contains h.owner.ts && (match h.cmd with | .engine _ => true | _ => false)))

/-- Step 5 (R298): a pitch of the context is vacated, once its INFLIGHT is 0; a SYNC pitch releases its waiters first. -/
def State.drainPitch (s : State) (k : Nat) : State :=
  let p := s.pitch k
  match p.state with
  | .leased =>
    if p.inflight = 0 then (if p.att.getLsbD 0 then s.releaseWaiters p else s).vacateNow k
    else s.setPitch k { p with vacWhenIdle := true, drained := true }
  | .tentative => s.vacate k
  | _ => s

/-- Whether a timeline slot of agent `m` belongs to another set than those discarded: a stopped task holds it (R210), or an engine
operation of its holder has still to complete (R207). -/
def State.slotKept (s : State) (sets : List Nat) (m k : Nat) : Bool :=
  s.loomTasks.any (fun x => x.2.2.isStopped && x.2.2.agents.contains m && x.2.2.task.tslot.toNat == k && !sets.contains x.1) ||
    s.running.any (fun r => r.agent == m && r.owner.tslot.toNat == k && !sets.contains r.owner.ts) ||
    (s.agent m).ecb.any (fun h => h.owner.tslot.toNat == k && !sets.contains h.owner.ts)

/-- Step 6 (R298): an agent that holds no other task returns to its reset state. Loads that are still to arrive keep their pitches; what
was released stays released, and so do the timeline slots of other sets (R207, R210, R299). -/
def State.resetAgent (sets : List Nat) (s : State) (m : Nat) : State :=
  let a := s.agent m
  if a.task.isSome then s
  else s.setAgent m { Agent.reset with
    flq := a.flq.map (fun x => { x with dropped := true }), fsq := a.fsq, ecb := a.ecb
    ctxs := a.ctxs.filter (fun e => s.slotKept sets m (e.1 / 8)), holders := a.holders.filter (fun e => s.slotKept sets m e.1) }

/-- The mailbox requests of an account are dropped with the reset of a die's master (R340). -/
def State.dropMail (s : State) (acct : BitVec 10) (l : Nat) : State :=
  if loomOf (s.masterOf (l / 6)) = l then
    { s with mailbox := Tab.modify [] s.mailbox (l / 6) (fun b => b.filter (fun x => x.account != acct)) }
  else s

/-- Steps 4 to 6 of R298 for a discarded set. -/
def State.finishDrain (s : State) (t : TaskSet) (ts : Nat) : State :=
  let tiles := s.tileSets ts
  let sets := ts :: tiles
  let w := whoOf t.hdr t.pasid ts 0
  let s := sets.foldl (fun s k => s.endSet k 0x04) s
  let ks := (s.pitches.filter (fun kp => kp.2.account == w.account && kp.2.context == w.context)).map (·.1)
  let s := ks.foldl State.drainPitch s
  let ls := t.looms
  let s := (ls.flatMap loomAgents).foldl (State.resetAgent sets) s
  let s := ls.foldl (State.dropMail · w.account) s
  let s := tiles.foldl State.forget s
  let s := s.modSet ts (fun t => { t with swept := true, code := 0x04 })
  { s with tileLaunches := s.tileLaunches.filter (fun y => !sets.contains y.2.1.ts) }

/-- Whether a discarded set's agents have stopped; in a watchdog drain every agent of the partition has. -/
def State.drained (s : State) (t : TaskSet) (ts : Nat) : Bool :=
  let sets := ts :: s.tileSets ts
  let quiet (l : Nat) : Bool := (loomAgents l).all (fun m => (s.agent m).task.isNone)
  let silent : Bool := match t.source with
    | .silent _ => true
    | _ => false
  !s.agents.any (fun na => (match na.2.task with
    | some x => sets.contains x.ts
    | none => false)) &&
    !s.enginesBusy sets && (silent || (s.loomsOf t.part.toNat).all quiet)

/-- Step 7 (R298): a discarded set is reported and its partition places tasks again; that of an interface which leaves its TDISP state
is not, and the last such set clears the interface (R325). -/
def State.endDrain (s : State) (t : TaskSet) (ts : Nat) : State :=
  let s := (s.report t ts).forget ts
  match t.source with
  | .silent q => s.settleLeaving q
  | _ => { s with parts := Tab.modify Partition.reset s.parts t.part.toNat (fun p => { p with stopping := false }) }

/-- Whether a tile that a task of a set has launched is still to start or to complete: it is an agent of that task (R291, R296; log 85). -/
def State.tilesOpen (s : State) (ts : Nat) : Bool :=
  decide (s.tileSets ts ≠ []) || s.tileLaunches.any (fun y => y.2.1.ts == ts) ||
    s.agents.any (fun na => na.2.ecb.any (fun h => h.owner.ts == ts && (match h.cmd with | .xlaunch _ => true | _ => false)))

/-- TASK_SET_COMPLETION (R288, R298): every task has ended, a conductor's tiles included, and every released entry has performed. A discarded
set is swept first, steps 4 to 6, and then reported, step 7, in that tick or a later one (22 R365). -/
def State.taskSetCompletion (s : State) (ts : Nat) : State :=
  match Tab.get none s.tasksets ts with
  | none => s
  | some t =>
    if t.overdue then
      if t.swept then s.endDrain t ts
      else if s.drained t ts ∧ s.setPerformed ts then s.finishDrain t ts
      else s
    else if t.tasks.all (fun x => decide (x.stat = .ended)) ∧ s.setPerformed ts ∧ !s.tilesOpen ts then (s.report t ts).forget ts
    else s
def execTaskSetCompletion (ts : Nat) (s : State) : Host.Outcome State Fault Refusal := .next (s.taskSetCompletion ts)

/-! ## Launches from the fabric (16 R341) -/

/-- FABRIC_LAUNCH: the launch-table entry of the sender decides, then R286. A launch that completes without running writes its code to
DONE (R288). -/
def State.fabricLaunch (s : State) (node : BitVec 16) (h : BitVec 512) (image len : W64) : State :=
  let refuse (s : State) (cc : Byte) : State :=
    State.writeDone { s with sent := s.sent ++ [.fabricDone node 0x07] } nobody (whoOf h none 0 0) (hdrDone h) cc
  match Tab.get none s.launchTable node.toNat with
  | none => refuse s 0x01
  | some e =>
    let bytes := s.vaBytes 0 none image.toNat len.toNat
    let s := s.touchVa 0 none image.toNat len.toNat
    if (s.vaPoison 0 none image.toNat len.toNat).isSome ∨ hdrAccount h ≠ e.account ∨ !e.digests.contains (Config.sha512 bytes) then
      refuse s 0x01
    else if 4096 ≤ s.queuedIn e.part then refuse s 0x07
    else if !s.launchOk none (whoOf h none 0 0) e.part.toNat h then refuse s 0x01
    else s.enterLaunch (.fabric node) h e.part (hdrClass h) none (some e.cap)
def execFabricLaunch (node : BitVec 16) (hdr : BitVec 512) (image len : BitVec 64) (s : State) :
    Host.Outcome State Fault Refusal := .next (s.fabricLaunch node hdr image len)

end Sys2Proof.Machine
end

