-- ==== Sys2Proof/Machine/HostRows.lean ====
section
/-!
DEFINITION. What the host does: notify writes, the request opcodes, CXL.mem accesses, invalidations, TDISP and SPDM messages
(15 R316–R330, 14 R302–R307, 12 R272–R278, 04 R97, R101, R114, R120).
-/

namespace Sys2Proof.Machine

/-! ## Notify writes (R318) -/

/-- NOTIFY_TAIL: bits 15:0 are the new SQTAIL; during a firmware update the ring is left as it is (R329). -/
def State.notifyTail (s : State) (q : BitVec 6) (v : W64) : State :=
  let r := s.qrec q
  let tail : BitVec 16 := v.setWidth 16
  if !r.state then s
  else if 2 ^ r.sqlog.toNat ≤ tail.toNat then s.setQrec q r.bad
  else
    let s := s.setQrec q { r with sqtail := tail }
    if s.fw.updating.isSome then s else s.fetchRing q
def execNotifyTail (q : BitVec 6) (v : BitVec 64) (s : State) : Host.Outcome State Fault Refusal := .next (s.notifyTail q v)

/-- NOTIFY_PRIO: bits 1:0 are the class ceiling. -/
def State.notifyPrio (s : State) (q : BitVec 6) (v : W64) : State :=
  let r := s.qrec q
  if r.state then s.setQrec q { r with prio := v.setWidth 2 } else s
def execNotifyPrio (q : BitVec 6) (v : BitVec 64) (s : State) : Host.Outcome State Fault Refusal := .next (s.notifyPrio q v)

/-- Whether a notify write is one of the two accepted kinds. -/
def notifyFits (off : BitVec 12) (size : Nat) : Bool := (off == 0 || off == 8) && (size == 4 || size == 8)

/-- NOTIFY_INVALID_WRITE: ignored and counted. -/
def State.notifyInvalid (s : State) (q : BitVec 6) (off : BitVec 12) (size : Nat) : State :=
  let r := s.qrec q
  if r.state && !notifyFits off size then s.setQrec q r.bad else s
def execNotifyInvalidWrite (q : BitVec 6) (off : BitVec 12) (size : Nat) (s : State) : Host.Outcome State Fault Refusal :=
  .next (s.notifyInvalid q off size)

/-- A host write of `size` bytes at BAR2 + `o` (R317): interface `o` >> 12, page offset `o` & 0xFFF. -/
def execBar2Write (o : BitVec 18) (size : Nat) (v : W64) (s : State) : Host.Outcome State Fault Refusal :=
  let q : BitVec 6 := o.extractLsb' 12 6
  let off : BitVec 12 := o.extractLsb' 0 12
  if notifyFits off size then (if off = 0 then execNotifyTail q v s else execNotifyPrio q v s)
  else execNotifyInvalidWrite q off size s

/-- A host read of a notify page finds zero (R318). -/
def State.notifyRead (s : State) (o : BitVec 18) : State := { s with sent := s.sent ++ [.bar2Read o 0] }

/-! ## LAUNCH and BARRIER (R321) -/

/-- The service of a LAUNCH: the record is read under the interface's PASID and checked (R280, R286, R289); one that completes without
running writes its code to DONE (R288). -/
def State.serveLaunch (q : BitVec 6) (r : Req) (s : State) : Served :=
  let x := s.qrec q
  if !s.reaches (s.issuer q) false r.a0 64 || decide (r.a0.toNat % 64 ≠ 0) then .done s 0x01 0
  else
    let h := s.entryAt 0 (some x.pasid) r.a0
    let s := s.touchFor (s.issuer q) r.a0 64
    let w := whoOf h (some x.pasid) 0 0
    let refuse (cc : Byte) : Served := .done (s.writeDone nobody w (hdrDone h) cc) cc 0
    if hdrAccount h ≠ x.account then refuse 0x01
    else if 4096 ≤ s.queuedIn x.part then refuse 0x07
    else if !s.launchOk none w x.part.toNat h then refuse 0x01
    else
      let cls := if hdrClass h ≤ r.prio then hdrClass h else r.prio
      .later (s.enterLaunch (.queue q r.tag r.num) h x.part cls (some x.pasid) none)

/-- LAUNCH. -/
def State.launchRow (s : State) (q : BitVec 6) : State :=
  if (s.qrec q).leaving.isSome then s
  else
    let s := s.flushAll q
    match firstLaunch (s.requests.filter (fun r => r.q == q)) with
    | none => s
    | some r => s.serve1 q r (State.serveLaunch q)
def execLaunch (q : BitVec 6) (s : State) : Host.Outcome State Fault Refusal := .next (s.launchRow q)

/-- Whether a launch that an interface asked for before request `k` has still to complete. -/
def State.launchBefore (s : State) (q : BitVec 6) (k : Nat) : Bool :=
  s.tasksets.any (fun e => match e.2 with
    | some t => (match t.source with
      | .queue p _ i => p == q && decide (i < k)
      | _ => false)
    | none => false)

/-- BARRIER completes after every earlier request of the interface. -/
def execBarrier (q : BitVec 6) (s : State) : Host.Outcome State Fault Refusal :=
  .next (s.serveOp q 0x02 (fun r s => if s.launchBefore q r.num then .wait s else .done s 0 0))

/-! ## Accounts, partitions, reports (R97, R120, R289, R295) -/

/-- CREDIT (R97): the committed allowance saturates at 2^63 − 1. -/
def State.serveCredit (r : Req) (s : State) : Served :=
  let acct : BitVec 10 := r.a0.setWidth 10
  let s := s.modAccount acct (fun c => { c with committed := BitVec.ofInt 64 (min (c.committed.toInt + r.a1.toNat) (2 ^ 63 - 1)) })
  .done s 0 (s.account acct).committed
def execCredit (q : BitVec 6) (s : State) : Host.Outcome State Fault Refusal := .next (s.serveOp q 0x10 State.serveCredit)

/-- The first 128 bytes of a usage report (R120). Bundle-cycles include the stalls that no rule counts: a free value (log 5). -/
def State.reportBody (s : State) (acct : BitVec 10) : List Byte :=
  let c := s.account acct
  le 4 1 ++ le 4 acct.toNat ++ le 8 s.reportNo.toNat ++ le 8 s.now.toNat ++ le 8 c.charged.toNat ++ le 8 c.refunded.toNat ++
    le 8 c.overstay.toNat ++ le 8 (c.bundleCycles + Config.stallCycles s.freeCtr).toNat ++
    (List.range 6).flatMap (fun t => le 8 (Tab.get 0 c.moved t).toNat) ++ le 8 c.fabric.toNat ++
    le 8 c.committed.toNat ++ le 8 0

/-- The device's signature over a list of bytes (R120, R330). -/
def State.signed (s : State) (bs : List Byte) : List Byte := (List.range 512).map (Config.signature s.attestKey bs s.freeCtr)

/-- REPORT (R120): 640 bytes, the signature among them, at A1. -/
def State.serveReport (q : BitVec 6) (r : Req) (s : State) : Served :=
  if !s.reaches (s.issuer q) true r.a1 640 then .done s 0x0C 0
  else
    let s := { s with reportNo := s.reportNo + 1 }
    let body := s.reportBody (r.a0.setWidth 10)
    let bytes := body ++ s.signed body
    let s := { s with freeCtr := s.freeCtr + 1 }
    .done (s.vaStore 0 (s.issuer q).pasid r.a1.toNat bytes) 0 s.reportNo
def execReport (q : BitVec 6) (s : State) : Host.Outcome State Fault Refusal := .next (s.serveOp q 0x11 (State.serveReport q))

/-- ACCOUNT (R289): a weight outside 1–65,535 is refused. -/
def State.serveAccount (r : Req) (s : State) : Served :=
  if r.a1 = 0 ∨ 65536 ≤ r.a1.toNat then .done s 0x01 0
  else .done (s.modAccount (r.a0.setWidth 10) (fun c => { c with weight := r.a1.setWidth 16, parts := r.a2.setWidth 24 })) 0 0
def execAccount (q : BitVec 6) (s : State) : Host.Outcome State Fault Refusal := .next (s.serveOp q 0x12 State.serveAccount)

/-- PARTITION (R289): a loom belongs to one partition. -/
def State.servePartition (r : Req) (s : State) : Served :=
  let mask : BitVec 24 := r.a1.setWidth 24
  if 24 ≤ r.a0.toNat then .done s 0x01 0
  else if (List.range 24).any (fun l => mask.getLsbD l && !s.loomFree l) then .done s 0x07 0
  else
    let put (t : Tab Partition) (k : Nat) : Tab Partition :=
      Tab.modify Partition.reset t k (fun p => { p with looms := if k = r.a0.toNat then mask else p.looms &&& ~~~mask })
    .done { s with parts := (List.range 24).foldl put s.parts } 0 0
def execPartition (q : BitVec 6) (s : State) : Host.Outcome State Fault Refusal := .next (s.serveOp q 0x13 State.servePartition)

/-- STATUS (R295): bit 0 is SLICE_CLAMPED, which the read clears. -/
def State.serveStatus (r : Req) (s : State) : Served :=
  let acct : BitVec 10 := r.a0.setWidth 10
  .done (s.modAccount acct (fun c => { c with clamped := false })) 0 (if (s.account acct).clamped then 1 else 0)
def execStatus (q : BitVec 6) (s : State) : Host.Outcome State Fault Refusal := .next (s.serveOp q 0x18 State.serveStatus)

/-! ## Queue records (R319, R325) -/

/-- The 64 bytes of a record, word by word. -/
def QRec.bytes (r : QRec) : List Byte :=
  le 8 (r.state.toNat + 2 * r.priv.toNat + 4 * r.tdisp.toNat + 16 * r.prio.toNat + 64 * r.account.toNat + 2 ^ 16 * r.part.toNat +
      2 ^ 32 * r.pasid.toNat) ++
    le 8 r.sqbase.toNat ++ le 8 (r.sqlog.toNat + 2 ^ 16 * r.sqhead.toNat + 2 ^ 32 * r.sqtail.toNat) ++ le 8 r.cqbase.toNat ++
    le 8 (r.cqlog.toNat + 2 ^ 16 * r.cqtail.toNat + 2 ^ 32 * r.phase.toNat) ++
    le 8 (r.rvalid.toNat + 2 * r.vector.toNat + 2 ^ 12 * r.count.toNat + 2 ^ 20 * r.timer.toNat) ++
    le 8 (r.wdog.toNat + 2 ^ 32 * r.errcnt.toNat) ++ le 8 r.layout.toNat

/-- Whether every S field of a 64-byte record lies in its range (R319). -/
def recordFits (x : BitVec 512) : Bool :=
  decide ((x.extractLsb' 16 5).toNat ≤ 23) && x.extractLsb' 21 11 == 0 && x.extractLsb' 52 12 == 0 && x.extractLsb' 64 6 == 0 &&
    decide (6 ≤ (x.extractLsb' 128 5).toNat) && decide ((x.extractLsb' 128 5).toNat ≤ 16) && x.extractLsb' 176 16 == 0 &&
    x.extractLsb' 192 5 == 0 && decide (5 ≤ (x.extractLsb' 256 5).toNat) && decide ((x.extractLsb' 256 5).toNat ≤ 16) &&
    x.extractLsb' 332 8 != 0

/-- The record with its S fields replaced. -/
def QRec.replace (r : QRec) (x : BitVec 512) : QRec :=
  { r with
    state := x.getLsbD 0, priv := x.getLsbD 1, account := x.extractLsb' 6 10, part := x.extractLsb' 16 5,
    pasid := x.extractLsb' 32 20, sqbase := x.extractLsb' 64 64, sqlog := x.extractLsb' 128 5, cqbase := x.extractLsb' 192 64,
    cqlog := x.extractLsb' 256 5, rvalid := x.getLsbD 320, vector := x.extractLsb' 321 11, count := x.extractLsb' 332 8,
    timer := x.extractLsb' 340 16, wdog := x.extractLsb' 384 32 }

/-- Whether TDISP holds a record (R325). -/
def QRec.locked (r : QRec) : Bool := r.tdisp == 1 || r.tdisp == 2

/-- QUEUE (R319, R325). -/
def State.serveQueue (q : BitVec 6) (r : Req) (s : State) : Served :=
  let p : BitVec 6 := r.a0.setWidth 6
  if (s.qrec p).locked then .done s 0x0A 0
  else if !s.reaches (s.issuer q) false r.a1 64 then .done s 0x0C 0
  else
    let x := s.entryAt 0 (s.issuer q).pasid r.a1
    let s := s.touchFor (s.issuer q) r.a1 64
    if recordFits x then .done (s.setQrec p ((s.qrec p).replace x)) 0 0 else .done s 0x08 0
def execQueue (q : BitVec 6) (s : State) : Host.Outcome State Fault Refusal := .next (s.serveOp q 0x14 (State.serveQueue q))

/-! ## Revocation (R324) -/

/-- Whether a task set has not started. -/
def TaskSet.unstarted (t : TaskSet) : Bool := t.tasks.all (fun x => decide (x.stat = .waiting ∨ x.stat = .placed))

/-- The revocation bit of a PASID is set: accepted launches that have not started end REVOKED. -/
def State.revoke (s : State) (p : BitVec 20) : State :=
  let hit (t : TaskSet) : Bool := decide (t.pasid = some p) && t.unstarted && (match t.source with
    | .queue _ _ _ => true
    | _ => false)
  let ks := (s.tasksets.filter (fun e => match e.2 with
    | some t => hit t
    | none => false)).map (·.1)
  let s := { s with revoked := if s.revoked.contains p then s.revoked else s.revoked ++ [p] }
  ks.foldl (fun s k => s.endSet k 0x06) s

/-- PASIDREV with A1 = 1. -/
def execPasidrevRevoke (q : BitVec 6) (s : State) : Host.Outcome State Fault Refusal :=
  .next (s.serveReq q (fun r => r.opcode == 0x15 && r.a1 == 1) (fun r s => .done (s.revoke (r.a0.setWidth 20)) 0 0))

/-- PASIDREV with A1 = 0: the one way to clear the bit. -/
def execPasidrevRestore (q : BitVec 6) (s : State) : Host.Outcome State Fault Refusal :=
  .next (s.serveReq q (fun r => r.opcode == 0x15 && r.a1 == 0)
    (fun r s => .done { s with revoked := s.revoked.filter (· != r.a0.setWidth 20) } 0 0))

/-- PASID_STOP: a PCIe PASID stop sets the bit too. -/
def execPasidStop (pasid : BitVec 20) (s : State) : Host.Outcome State Fault Refusal := .next (s.revoke pasid)

/-! ## Pages (R272, R273, R302, R303) -/

/-- The pitch of context `c` (account + 1,024 × context number) at an address of the rented region, if it is mapped (R302). -/
def State.ctxPitch (s : State) (c : W64) (va : Nat) : Option Pitch :=
  match regionOf va with
  | .rented =>
    match s.findPitch 4 0 va with
    | some (_, p) =>
      if !p.vacated && (p.state == .tentative || p.state == .leased || p.state == .overstay) && p.account == c.setWidth 10 &&
          p.context == c.extractLsb' 10 16 then some p
      else none
    | none => none
  | _ => none

/-- The page size of a pitch as Genay maps it: the largest that its base and length allow (R303). -/
def Pitch.pageLog (p : Pitch) : Nat :=
  (([30, 21, 16] : List Nat).find? (fun k => decide (p.base % 2 ^ k = 0 ∧ p.length % 2 ^ k = 0))).getD 12

/-- The page size at an address. -/
def State.pageLogAt (s : State) (p : Pitch) (va : Nat) : Nat := (s.page va).size.getD p.pageLog

/-- Change the 4 KiB frames of a range. -/
def State.modPages (s : State) (first count : Nat) (f : Nat → Page → Page) : State :=
  { s with pages := (List.range count).foldl (fun t i => Tab.modify Page.plain t (first + i) (f i)) s.pages }

/-- Whether a store released for bytes lo … hi − 1 by someone in `who` has still to perform (R273). -/
def State.pendingOn (s : State) (lo hi : Nat) (who : Who → Bool) : Bool :=
  let hits (l : Load) : Bool := l.elems.any (fun e => decide (e.addr.toNat < hi) && decide (lo < e.addr.toNat + e.len))
  s.agents.any (fun na => na.2.fsq.any (fun h => who h.owner && hits (.cmd h.cmd))) ||
    s.transit.any (fun t => !t.load.isRead && !t.load.isHost && who t.owner && hits t.load)

/-- A PAGE operation on the page that holds A1; a page in no pitch of the context is not found (log 92). -/
def State.servePage (f : Req → Nat → Page → Page) (fits : Req → Nat → Bool) (r : Req) (s : State) : Served :=
  let va := r.a1.toNat
  match s.ctxPitch r.a0 va with
  | none => .done s 0x0C 0
  | some p =>
    let k := s.pageLogAt p va
    let lo := va / 2 ^ k * 2 ^ k
    if !fits r k then .done s 0x08 0
    else if s.pendingOn lo (lo + 2 ^ k) (fun _ => true) then .wait s
    else .done (s.modPages (lo / 4096) (2 ^ k / 4096) (fun _ => f r k)) 0 0

/-- A row of PAGE. -/
def State.pageRow (s : State) (q : BitVec 6) (op : W64) (run : Req → State → Served) : State :=
  s.serveReq q (fun r => r.opcode == 0x16 && r.a2 == op) run

/-- PAGE op 1. -/
def execPageUnmap (q : BitVec 6) (s : State) : Host.Outcome State Fault Refusal :=
  .next (s.pageRow q 1 (State.servePage (fun _ _ g => { g with unmapped := true }) (fun _ _ => true)))

/-- PAGE op 2. -/
def execPageReadonly (q : BitVec 6) (s : State) : Host.Outcome State Fault Refusal :=
  .next (s.pageRow q 2 (State.servePage (fun _ _ g => { g with readOnly := true }) (fun _ _ => true)))

/-- PAGE op 3. -/
def execPageWritable (q : BitVec 6) (s : State) : Host.Outcome State Fault Refusal :=
  .next (s.pageRow q 3 (State.servePage (fun _ _ g => { g with readOnly := false }) (fun _ _ => true)))

/-- PAGE op 4: the page is demoted to pages of 2^A3 bytes; a larger size is MALFORMED. -/
def execPageDemote (q : BitVec 6) (s : State) : Host.Outcome State Fault Refusal :=
  .next (s.pageRow q 4 (State.servePage (fun r _ g => { g with size := some r.a3.toNat }) (fun r k => decide (r.a3.toNat ≤ k))))

/-- The frame of storage that backs an address. -/
def State.frameOf (s : State) (va : Nat) : Nat := (s.page va).share.getD (va / 4096)

/-- PAGE op 5: the storage of A4 bytes at A5 is mapped at A1. -/
def State.serveShare (r : Req) (s : State) : Served :=
  let lo := r.a1.toNat
  let len := r.a4.toNat
  match s.ctxPitch r.a0 lo with
  | none => .done s 0x0C 0
  | some p =>
    let source : Bool := match s.findPitch 4 0 r.a5.toNat with
      | some (_, p) => decide (r.a5.toNat + len ≤ p.base + p.length)
      | none => false
    if p.base + p.length < lo + len ∨ !source then .done s 0x0C 0
    else if s.pendingOn lo (lo + len) (fun _ => true) then .wait s
    else .done (s.modPages (lo / 4096) (len / 4096) (fun i g =>
      { g with share := some (s.frameOf (r.a5.toNat + 4096 * i)), unmapped := false, size := some 12 })) 0 0
def execPageShare (q : BitVec 6) (s : State) : Host.Outcome State Fault Refusal := .next (s.pageRow q 5 State.serveShare)

/-- ATS_INVALIDATION (R307): once every entry released under the old translation has performed, the host's new answer holds for the
pages of the range. -/
def State.atsInvalidation (s : State) (pasid : BitVec 20) (addr len : W64) (answer : AtsAnswer) (readOnly : Bool) : State :=
  let lo := 0x0100000000000000 + addr.toNat
  if s.pendingOn lo (lo + len.toNat) (fun w => decide (w.pasid = some pasid)) then s
  else
    let count := (addr.toNat % 4096 + len.toNat + 4095) / 4096
    let put (t : Tab HostPage) (i : Nat) : Tab HostPage :=
      Tab.set HostPage.plain t (hostPageKey pasid addr.toNat + i)
        (match answer with
        | .refused => { refused := true, readOnly := readOnly, frame := none }
        | .frames phys => { refused := false, readOnly := readOnly, frame := some (phys.toNat / 4096 + i) })
    { s with hostPages := (List.range count).foldl put s.hostPages }
def execAtsInvalidation (pasid : BitVec 20) (addr len : BitVec 64) (answer : AtsAnswer) (readOnly : Bool) (s : State) :
    Host.Outcome State Fault Refusal := .next (s.atsInvalidation pasid addr len answer readOnly)

/-! ## Descriptors (R101) -/

/-- STATE as the descriptor holds it. -/
def PState.code : PState → Nat
  | .free => 0
  | .tentative => 1
  | .leased => 2
  | .overstay => 3
  | .lapsed => 4
  | .scrubbing => 5

/-- The two words of sublet `k`. -/
def Pitch.subBytes (p : Pitch) (k : Nat) : List Byte :=
  match p.subs[k]? with
  | none => le 16 0
  | some x =>
    le 8 (x.account.toNat + 2 ^ 10 * x.context.toNat + 2 ^ 26 * x.rw.toNat + 2 ^ 27) ++ le 8 (x.first + 2 ^ 30 * x.count)

/-- The 128 bytes of a descriptor. -/
def Pitch.descriptor (p : Pitch) : List Byte :=
  le 8 (p.account.toNat + 2 ^ 10 * p.context.toNat + 2 ^ 26 * p.tier.toNat + 2 ^ 29 * p.state.code + 2 ^ 32 * p.att.toNat +
      2 ^ 35 * p.subs.length) ++
    le 8 p.base ++ le 8 p.length ++ le 8 p.paid ++ le 8 p.rate ++ le 8 p.inflight ++
    le 8 (BitVec.ofInt 64 p.charged).toNat ++ le 8 0 ++ (List.range 4).flatMap p.subBytes

/-- The pitch that a context holds at an address: in the rented region, or through a near or loom window offset. -/
def State.descPitch (s : State) (a c : W64) : Option Pitch :=
  let inTier (tier off : Nat) : Option Pitch :=
    (s.pitches.find? (fun kp => (decide (kp.2.tier.toNat = tier) || (decide (tier = 4) && kp.2.tier == 5)) &&
      kp.2.state != .free && kp.2.account == c.setWidth 10 && kp.2.context == c.extractLsb' 10 16 && decide (kp.2.base ≤ off) &&
      decide (off < kp.2.base + kp.2.length))).map (·.2)
  match regionOf a.toNat with
  | .rented => inTier 4 a.toNat
  | .near off => inTier 1 off
  | .loom off => inTier 3 off
  | _ => none

/-- DESC (R101). -/
def State.serveDesc (q : BitVec 6) (r : Req) (s : State) : Served :=
  match s.descPitch r.a0 r.a1 with
  | none => .done s 0x0C 0
  | some p =>
    if s.reaches (s.issuer q) true r.a2 128 then .done (s.vaStore 0 (s.issuer q).pasid r.a2.toNat p.descriptor) 0 0 else .done s 0x0C 0
def execDesc (q : BitVec 6) (s : State) : Host.Outcome State Fault Refusal := .next (s.serveOp q 0x17 (State.serveDesc q))

/-! ## Debugging (R275, R278) -/

/-- The task set that a launch of a tag made. -/
def State.setOfTag (s : State) (tag : W64) : Option (Nat × TaskSet) :=
  s.tasksets.findSome? (fun e => match e.2 with
    | some t => (match t.source with
      | .queue _ g _ => if g = tag then some (e.1, t) else none
      | _ => none)
    | none => none)

/-- Every loom task of a set and of its conductors' tiles changes: they stop and resume together (R296). -/
def State.modWith (s : State) (ts : Nat) (f : LoomTask → LoomTask) : State :=
  (ts :: s.tileSets ts).foldl (fun s k => s.modSet k (fun t => { t with tasks := t.tasks.map f })) s

/-- Every loom task of a set and of its conductors' tiles. -/
def State.tasksWith (s : State) (ts : Nat) : List LoomTask :=
  let sets := ts :: s.tileSets ts
  s.loomTasks.filterMap (fun x => if sets.contains x.1 then some x.2.2 else none)

/-- DEBUG stop (R275): every running task of the set, tiles included, is asked to stop; one that pre-emption has stopped stays stopped. -/
def State.serveStop (r : Req) (s : State) : Served :=
  match s.setOfTag r.a0 with
  | none => .done s 0x0C 0
  | some (ts, _) =>
    let ms := (s.tasksWith ts).flatMap (fun x => if x.stat = .running then x.agents else [])
    let s := s.modWith ts (fun x => if x.stat = .stopped false then { x with stat := .stopped true } else x)
    .done (s.askStop ms (fun q => { q with debug := true })) 0 0
def execDebugStop (q : BitVec 6) (s : State) : Host.Outcome State Fault Refusal :=
  .next (s.serveReq q (fun r => r.opcode == 0x19 && r.a1 == 1) State.serveStop)

/-- DEBUG resume (R278): each task that a debugger holds may run again, unless a region of one cannot be read back. -/
def State.serveResume (r : Req) (s : State) : Served :=
  match s.setOfTag r.a0 with
  | none => .done s 0x0C 0
  | some (ts, t) =>
    let held := (s.tasksWith ts).filter (fun x => decide (x.stat = .stopped true))
    if held = [] then .done s 0x0C 0
    else if !held.all (fun x => x.agents.all (fun m => s.areaOk m (x.region m) x.lightLevels)) then .done s 0x01 0
    else
      let s := s.joinPass t.part.toNat (hdrAccount t.hdr).toNat
      .done (s.modWith ts (fun x => if x.stat = .stopped true then { x with stat := .stopped false } else x)) 0 0
def execDebugResume (q : BitVec 6) (s : State) : Host.Outcome State Fault Refusal :=
  .next (s.serveReq q (fun r => r.opcode == 0x19 && r.a1 == 2) State.serveResume)

/-- The save region of agent index `k` of a task set, counted over its loom tasks in order: the task and the base. -/
def TaskSet.regionAt (t : TaskSet) (k : Nat) : Option (LoomTask × Nat) :=
  let per := agentsOf (hdrKind t.hdr)
  (t.tasks[k / per]?).map (fun x => (x, x.task.save.toNat + saveRegion * (k % per)))

/-- SAVEIO: the copy between the region of a stopped task and host memory. -/
def State.serveSaveio (q : BitVec 6) (wr : Bool) (r : Req) (s : State) : Served :=
  let len := r.a4.toNat
  match (s.setOfTag r.a0).bind (fun y => y.2.regionAt r.a1.toNat) with
  | none => .done s 0x0C 0
  | some (x, base) =>
    if !x.isStopped || !s.saveAreaOk x.task.account x.task.context x.task.save.toNat (areaOf x.task.kind) ||
        !s.reaches (s.issuer q) (!wr) r.a2 len then .done s 0x0C 0
    else if len = 0 then .done s 0 0
    else
      let at0 := base + r.a3.toNat
      let p := (s.issuer q).pasid
      if wr then .done ((s.touchFor (s.issuer q) r.a2 len).vaStore 0 none at0 (s.vaBytes 0 p r.a2.toNat len)) 0 0
      else if (s.vaPoison 0 none at0 len).isSome then .done s 0x0C 0
      else .done ((s.touchVa 0 none at0 len).vaStore 0 p r.a2.toNat (s.vaBytes 0 none at0 len)) 0 0

/-- SAVEIO with A5 = 0. -/
def execSaveioRead (q : BitVec 6) (s : State) : Host.Outcome State Fault Refusal :=
  .next (s.serveReq q (fun r => r.opcode == 0x1A && r.a5 == 0) (State.serveSaveio q false))

/-- SAVEIO with A5 = 1. -/
def execSaveioWrite (q : BitVec 6) (s : State) : Host.Outcome State Fault Refusal :=
  .next (s.serveReq q (fun r => r.opcode == 0x1A && r.a5 == 1) (State.serveSaveio q true))

/-! ## Firmware (R326–R329) -/

/-- The control-store image in use, and the slot that is not. -/
def Firmware.image (f : Firmware) : List Byte := if f.useB then f.imageB else f.imageA
def Firmware.stage (f : Firmware) (bs : List Byte) : Firmware :=
  { f with imageA := if f.useB then bs else f.imageA, imageB := if f.useB then f.imageB else bs, staged := true }

/-- Word `a` of the control store: the image in use, with the patched words replaced (R326, R327; log 65). -/
def Firmware.word (f : Firmware) (a : BitVec 12) : BitVec 96 :=
  match f.patches.find? (fun p => p.1 == a) with
  | some p => p.2
  | none => Config.imageWord f.image a

/-- Whether an image may be used, under the firmware key that the configuration record names (R326). -/
def Firmware.accepts (f : Firmware) (key : BitVec 512) (bs : List Byte) : Bool :=
  Config.imageVerifies key bs && decide (f.keptVersion ≤ Config.imageVersion bs)

/-- An entry takes its place in address order; it replaces an earlier one at its address. -/
def insertPatch (e : BitVec 12 × BitVec 96) : List (BitVec 12 × BitVec 96) → List (BitVec 12 × BitVec 96)
  | [] => [e]
  | p :: ps => if e.1 = p.1 then e :: ps else if e.1 < p.1 then e :: p :: ps else p :: insertPatch e ps

/-- The checks of one entry, and what it leaves: the patch RAM and how many entries were refused (R328). -/
def Firmware.takeEntry (f : Firmware) (key : BitVec 512) (acc : List (BitVec 12 × BitVec 96) × Nat) (bs : List Byte) :
    List (BitVec 12 × BitVec 96) × Nat :=
  let a : BitVec 12 := BitVec.ofNat 12 (numAt bs 0 2)
  let full := decide (64 ≤ acc.1.length) && !acc.1.any (fun p => p.1 == a)
  if !Config.signatureVerifies key (bs.take 512) (bs.drop 512) || decide (numAt bs 14 4 < f.keptVersion) || full then (acc.1, acc.2 + 1)
  else (insertPatch (a, BitVec.ofNat 96 (numAt bs 2 12)) acc.1, acc.2)

/-- FWPATCH (R327, R328). -/
def State.servePatch (q : BitVec 6) (r : Req) (s : State) : Served :=
  let va := r.a0.toNat
  let p := (s.issuer q).pasid
  let hdr := s.vaBytes 0 p va 64
  let count := numAt hdr 4 4
  let len := numAt hdr 8 4
  if !s.reaches (s.issuer q) false r.a0 64 then .done s 0x0C 0
  else
  let s := s.touchFor (s.issuer q) r.a0 64
  if numAt hdr 0 4 ≠ 1 ∨ count = 0 ∨ 64 < count ∨ len ≠ 64 + 1024 * count ∨ numAt hdr 12 4 ≠ 0 then .done s 0x08 0
  else if !s.reaches (s.issuer q) false r.a0 len then .done s 0x0C 0
  else
  let s := s.touchFor (s.issuer q) r.a0 len
  if numAt hdr 16 48 ≠ ((Config.sha512 s.fw.image).extractLsb' 0 384).toNat then .done s 0x0B 0
  else
    let es := (List.range count).map (fun k => s.vaBytes 0 p (va + 64 + 1024 * k) 1024)
    let (ps, bad) := es.foldl (s.fw.takeEntry s.cfg.fwkey) (s.fw.patches, 0)
    .done { s with fw := { s.fw with patches := ps } } (if bad = count then 0x0B else 0) (BitVec.ofNat 64 bad)
def execFwpatch (q : BitVec 6) (s : State) : Host.Outcome State Fault Refusal := .next (s.serveOp q 0x1B (State.servePatch q))

/-- FWSTAGE (R329 step 1). -/
def State.serveStage (q : BitVec 6) (r : Req) (s : State) : Served :=
  if !s.reaches (s.issuer q) false r.a0 r.a1.toNat then .done s 0x0C 0
  else
    let bs := s.vaBytes 0 (s.issuer q).pasid r.a0.toNat r.a1.toNat
    let s := s.touchFor (s.issuer q) r.a0 r.a1.toNat
    if s.fw.accepts s.cfg.fwkey bs then .done { s with fw := s.fw.stage bs } 0 0 else .done s 0x0B 0
def execFwstage (q : BitVec 6) (s : State) : Host.Outcome State Fault Refusal := .next (s.serveOp q 0x1C (State.serveStage q))

/-- Whether a task set runs: a task of it has been placed, and the set has not completed (R329). -/
def State.anyRunning (s : State) : Bool := s.loomTasks.any (fun x => decide (x.2.2.stat ≠ .waiting))

/-- The ring entries behind request `r` count as not fetched. -/
def State.unfetch (s : State) (q : BitVec 6) (r : Req) : State :=
  let behind := s.requests.filter (fun x => x.q == q && decide (r.num < x.num))
  let x := s.qrec q
  let size := 2 ^ x.sqlog.toNat
  let s := { s with requests := s.requests.filter (fun x => !(x.q == q && decide (r.num < x.num))) }
  s.setQrec q { x with sqhead := BitVec.ofNat 16 ((x.sqhead.toNat + size - behind.length % size) % size) }

/-- A pitch whose accesses the reset of the device ends: INFLIGHT is 0, once the tick has been charged that began with it above 0 (R102). -/
def State.idlePitch (s : State) (k : Nat) : State :=
  if (s.pitch k).inflight = 0 then s
  else
    let s := (s.pitchExpiry k).overstayTick k
    (s.setPitch k { s.pitch k with inflight := 0 }).settleIdle k

/-- Step 3 (R329): every pitch of tiers 0 to 3 is vacated with refund. -/
def State.vacateDevice (s : State) : State :=
  let s := (s.pitches.map (·.1)).foldl State.idlePitch s
  ((s.pitches.filter (fun kp => decide (kp.2.tier.toNat ≤ 3))).map (·.1)).foldl State.vacate s

/-- Whether a storage address lies in HBM, the far tier or the host: not in a store of the compute dies. -/
def keptAddr (a : Nat) : Bool := decide (a < 2 ^ 60) || decide (2 ^ 64 ≤ a)

/-- A record as the new image restores it (R329 step 5). -/
def QRec.restored (r : QRec) : QRec :=
  { r with state := r.state && r.layout == 1, tdisp := if r.locked then 3 else r.tdisp }

/-- The device is reset with the other image (R329 step 4): Genay's tables, RENTNOW, HBM and far storage stay, and so do what the
package management block, the host and the outside hold. -/
def State.fwReset (s : State) : State :=
  let fw := { s.fw with useB := !s.fw.useB, staged := false, patches := [], updating := none }
  { State.reset with
    cur := s.cur, sched := s.sched, freeCtr := s.freeCtr, mem := s.mem.filter (fun c => keptAddr c.1)
    wcStatus := s.wcStatus.filter (fun c => keptAddr c.1), poison := s.poison.filter (fun c => keptAddr (64 * c.1))
    quarantined := s.quarantined, now := s.now, rates := s.rates, accounts := s.accounts, pitches := s.pitches
    commits := s.commits, pages := s.pages, hostPages := s.hostPages, reportNo := s.reportNo, arms := s.arms
    queues := s.queues.map (fun e => (e.1, e.2.restored)), requests := s.requests, reqNo := s.reqNo, revoked := s.revoked
    cfg := s.cfg, fw := fw, certChain := s.certChain, attestKey := s.attestKey, powerHold := s.powerHold
    currentHold := s.currentHold, thermalHold := s.thermalHold, scrubLine := s.scrubLine
    refreshed := s.refreshed, activated := s.activated, wiped := s.wiped, sent := s.sent, nextTs := s.nextTs, relSeq := s.relSeq
    workSeq := s.workSeq, mailSeq := s.mailSeq }

/-- Steps 3 to 5 of an update that request `r` of interface `q` asked for. -/
def State.finishUpdate (s : State) (q : BitVec 6) (r : Req) : State :=
  let s := (s.dropReq r).vacateDevice
  ((s.postDone q r.tag 0 0).fwReset.postEvent 0x2).fetchAll

/-- FWUPDATE (R329): placement stops; once no task set runs, the update is made (log 87). -/
def State.serveUpdate (q : BitVec 6) (r : Req) (s : State) : Served :=
  if !s.fw.staged then .done s 0x0C 0
  else match s.fw.updating with
    | some (p, tag, _) =>
      if p = q ∧ tag = r.tag then (if s.anyRunning then .wait s else .wait (s.finishUpdate q r)) else .done s 0x07 0
    | none => .wait ({ s with fw := { s.fw with updating := some (q, r.tag, s.now.toNat + r.a0.toNat) } }.unfetch q r)

def execFwupdate (q : BitVec 6) (s : State) : Host.Outcome State Fault Refusal :=
  .next (s.serveOp q 0x1D (State.serveUpdate q)).settleUpdate

/-- Whether the deadline of an update has come and a task set still runs: this tick ends the wait (R329 step 2). -/
def State.updateLate (s : State) : Bool :=
  match s.fw.updating with
  | some (_, _, limit) => decide (limit ≤ s.now.toNat) && s.anyRunning
  | none => false

/-- FWUPDATE_TIMEOUT (R329 step 2): the deadline has come and a task set still runs. -/
def State.updateTimeout (s : State) : State :=
  match s.fw.updating with
  | none => s
  | some (q, tag, limit) =>
    if limit ≤ s.now.toNat ∧ s.anyRunning then
      let s := { s with fw := { s.fw with updating := none } }
      match s.requests.find? (fun r => r.q == q && r.opcode == 0x1D && r.tag == tag) with
      | some r => ((s.dropReq r).postDone q tag 0x07 0).fetchAll
      | none => s.fetchAll
    else s
def execFwupdateTimeout (s : State) : Host.Outcome State Fault Refusal := .next s.updateTimeout

/-! ## TDISP and SPDM (R325, R330) -/

/-- A task set of an interface that leaves its TDISP state is discarded without posting (R325). A drain that a watchdog had begun no
longer holds its partition. -/
def State.discardSet (s : State) (ts : Nat) : State :=
  match Tab.get none s.tasksets ts with
  | none => s
  | some t =>
    let s := if t.overdue then
        { s with parts := Tab.modify Partition.reset s.parts t.part.toNat (fun p => { p with stopping := false }) }
      else s
    let u := { t with source := match t.source with
      | .queue q _ _ => .silent q
      | x => x }
    (s.modSet ts (fun _ => u)).beginDrain ts u

/-- The task sets that an interface launched. -/
def State.setsOf (s : State) (q : BitVec 6) : List Nat :=
  s.tasksets.filterMap (fun e => match e.2 with
    | some t => (match t.source with
      | .queue p _ _ => if p = q then some e.1 else none
      | _ => none)
    | none => none)

/-- TDISP_MESSAGE (R325): the interface's TDISP state becomes `st`. A transition out of CONFIG_LOCKED or RUN discards its task sets
first and then clears its record. -/
def State.tdisp (s : State) (q : BitVec 6) (st : BitVec 2) : State :=
  let r := s.qrec q
  if r.leaving.isSome then s.setQrec q { r with leaving := some st }
  else if r.locked && !(st == 1 || st == 2) then
    ((s.setsOf q).foldl State.discardSet (s.setQrec q { r with leaving := some st })).settleLeaving q
  else s.setQrec q { r with tdisp := st }
def execTdispMessage (q : BitVec 6) (st : BitVec 2) (s : State) : Host.Outcome State Fault Refusal := .next (s.tdisp q st)

/-- The 1,024 bytes of the configuration record (23 R372). -/
def ConfigRecord.bytes (c : ConfigRecord) : List Byte :=
  bytesOf c.layout 4 ++ le 4 c.secver ++ le 8 c.serial.toNat ++ (List.range 24).map (Tab.get 0 c.spare) ++
    (List.range 4).map (Tab.get 0 c.master) ++ le 4 c.pcap ++ bytesOf c.zeroA 16 ++ bytesOf c.fwkey 64 ++ bytesOf c.zeroB 384 ++
    bytesOf c.signature 512

/-- The patch RAM as measured: 64 entries of 14 bytes in address order (R330). -/
def Firmware.patchBytes (f : Firmware) : List Byte :=
  (List.range 64).flatMap (fun k => match f.patches[k]? with
    | some p => le 2 p.1.toNat ++ bytesOf p.2 12
    | none => le 14 0)

/-- What measurement `k` is taken of, for interface `q` (R330). -/
def State.measured (s : State) (q : BitVec 6) (k : Byte) : Option (List Byte) :=
  match k.toNat with
  | 1 => some s.fw.image
  | 2 => some s.fw.patchBytes
  | 3 => some s.cfg.bytes
  | 4 => some (s.qrec q).bytes
  | _ => none

/-- SPDM_MESSAGE (R330): a measurement is reported as it holds between requests, with the attestation key's signature over it. -/
def State.spdm (s : State) (q : BitVec 6) (k : Byte) : State :=
  match s.measured q k with
  | some bs =>
    let d := Config.sha512 bs
    { s with sent := s.sent ++ [.spdm k d (s.signed (k :: bytesOf d 64))], freeCtr := s.freeCtr + 1 }
  | none => s
def execSpdmMessage (q : BitVec 6) (index : BitVec 8) (s : State) : Host.Outcome State Fault Refusal := .next (s.spdm q index)

end Sys2Proof.Machine
end

