-- ==== Sys2Proof/Machine/Package.lean ====
section
/-!
DEFINITION. The package: refresh and patrol scrub, quarantine, power and temperature, and the package reset (14 R310–R315,
15 R326, 23 R367–R372).
-/

namespace Sys2Proof.Machine

/-! ## Memory upkeep (R310–R315) -/

/-- The refresh window in ms, for the temperature that the memory die reports (R310, 23 R370). -/
def refreshWindow (celsius : Nat) : Nat := if 85 < celsius then 16 else 32

/-- The row group of a 256-byte block: each bank has 8,192 (R310). -/
def groupOf (block : Nat) : Nat := 8192 * Config.rowBank block + (Config.rowGroup block).toNat

/-- Whether a range of HBM or the far tier has a byte in a row group. -/
def rangeInGroup (group base len : Nat) : Bool :=
  (List.range ((base % 256 + len + 255) / 256)).any (fun i => groupOf (base / 256 + i) == group)

/-- Whether a row group holds a byte of a tentative, leased or overstay pitch of HBM or the far tier, or of one whose scrub is in
progress, or storage that Genay holds for itself (R311). -/
def State.groupInUse (s : State) (group : Nat) : Bool :=
  Config.genayGroup group || s.pitches.any (fun kp =>
    let p := kp.2
    decide (4 ≤ p.tier.toNat) && (p.state == .tentative || p.state == .leased || p.state == .overstay || p.state == .scrubbing) &&
      rangeInGroup group p.base p.length)

/-- The timestamp of a row group, in ms: its last refresh, or the last activation of a row of it (R310). -/
def State.groupStamp (s : State) (group : Nat) : Nat :=
  let acts := s.activated.filterMap (fun e => if groupOf e.1 = group then some e.2 else none)
  let wipes := s.wiped.filterMap (fun w => if rangeInGroup group w.1 w.2.1 then some w.2.2 else none)
  (acts ++ wipes).foldl max (Tab.get 0 s.refreshed group)

/-- ROW_GROUP_REFRESH (R310, R311): a group in use is refreshed when its timestamp, in ms, reaches the window less 1 ms. -/
def State.rowGroupRefresh (s : State) (group celsius : Nat) : State :=
  let ms := s.now.toNat / 1000
  if s.groupInUse group ∧ s.groupStamp group + (refreshWindow celsius - 1) ≤ ms then
    { s with refreshed := Tab.set 0 s.refreshed group ms }
  else s
def execRowGroupRefresh (r : RefreshAt) (s : State) : Host.Outcome State Fault Refusal :=
  .next (s.rowGroupRefresh r.group r.celsius)

/-- Whether a line of storage lies in a pitch that is tentative, leased or in overstay. -/
def State.leasedLine (s : State) (line : Nat) : Bool :=
  s.pitches.any (fun kp =>
    let p := kp.2
    let at0 := tierAddr p.tier.toNat p.unit p.base
    (p.state == .tentative || p.state == .leased || p.state == .overstay) && decide (at0 ≤ 64 * line) &&
      decide (64 * line < at0 + p.length))

/-- PATROL_SCRUB (R313): the walk through leased storage has come to a line; the row group of an HBM or far line is activated (R310). -/
def State.patrolScrub (s : State) (line : Nat) : State :=
  if s.leasedLine line then { s with scrubLine := line }.activate (64 * line) 64 else s
def execPatrolScrub (line : Nat) (s : State) : Host.Outcome State Fault Refusal := .next (s.patrolScrub line)

/-- The agent whose near, accumulator or canopy store holds a storage address. -/
def coreStoreOf (a : Nat) : Option Nat :=
  [60, 61, 62].findSome? (fun k => if 2 ^ k ≤ a ∧ a < 2 ^ k + 312 * 2 ^ 24 then some ((a - 2 ^ k) / 2 ^ 24) else none)

/-- The loom whose store holds a storage address. -/
def loomStoreOf (a : Nat) : Option Nat := if 2 ^ 63 ≤ a ∧ a < 2 ^ 63 + 24 * 2 ^ 26 then some ((a - 2 ^ 63) / 2 ^ 26) else none

/-- The loom controller of a loom counts a loom event (23 R375). -/
def State.loomCount (s : State) (l src : Nat) : State := s.setAgent (288 + l) ((s.agent (288 + l)).loomEvent src 1)

/-- A correctable error leaves a count where an event source counts it (R313, 23 R374, R375). -/
def State.corrected (s : State) (a : Nat) : State :=
  match coreStoreOf a with
  | some n => s.setAgent n ((s.agent n).event 0x0F 1)
  | none =>
    match loomStoreOf a with
    | some l => s.loomCount l 0x05
    | none => s

/-- An uncorrectable error poisons its line (R313); the loom store counts it (23 R375). -/
def State.poisonLine (s : State) (l : Nat) : State :=
  let t := { s with poison := Tab.set false s.poison l true }
  match loomStoreOf (64 * l) with
  | some m => t.loomCount m 0x06
  | none => t

/-- An ECC error that a read meets (R313). One that is corrected in a journal or a shadow bank counts nowhere (23 R374, R375). -/
def State.upset (s : State) (x : EccSite) (fatal : Bool) : State :=
  match x with
  | .line l => if fatal then s.poisonLine l else s.corrected (64 * l)
  | .journal n l =>
    let a := s.agent n.toNat
    if fatal ∧ (Tab.get none a.journal l).isSome then s.setAgent n.toNat { a with journalBad := Tab.set false a.journalBad l true } else s
  | .shadow n l =>
    let a := s.agent n.toNat
    if fatal ∧ (Tab.get none a.touched (l / 8)).isSome then
      s.setAgent n.toNat { a with shadowBad := Tab.set false a.shadowBad l true }
    else s

/-- The EVENT code of a quarantine: bits 15:8 the stack or 0x80 + channel, bits 31:16 the pseudo-channel (15 R322). -/
def quarantineCode (unit : BitVec 8) (pc : BitVec 16) : W64 :=
  if unit.toNat < 12 then BitVec.ofNat 64 (1 + 2 ^ 8 * unit.toNat + 2 ^ 16 * pc.toNat)
  else BitVec.ofNat 64 (1 + 2 ^ 8 * (0x80 + pc.toNat))

/-- QUARANTINE (R315): pseudo-channel `pc` of stack `unit`, or channel `pc` of the far tier (unit 12), is lost, and the host hears
of it. -/
def State.quarantine (s : State) (unit : BitVec 8) (pc : BitVec 16) : State :=
  if 12 < unit.toNat ∨ 64 ≤ pc.toNat ∨ s.quarantined.contains (unit, pc) then s
  else { s with quarantined := s.quarantined ++ [(unit, pc)] }.postEvent (quarantineCode unit pc)
def execQuarantine (unit : BitVec 8) (pc : BitVec 16) (s : State) : Host.Outcome State Fault Refusal :=
  .next (s.quarantine unit pc)

/-! ## Power and temperature (R369, R370) -/

/-- Whether a measurement above its limit, or not yet below the limit that it exceeded, holds issue (R369). -/
def throttles (limit : Nat) (held : Bool) (x : Nat) : Bool := decide (limit < x) || (held && decide (limit ≤ x))

/-- POWER_SAMPLE (R369). -/
def execPowerSample (watts amps : Nat) (s : State) : Host.Outcome State Fault Refusal :=
  .next { s with
    powerHold := throttles s.cfg.pcap s.powerHold watts
    currentHold := throttles Config.currentLimit s.currentHold amps }

/-- THERMAL_THROTTLE (R370): above 105 °C issue is held until the junction is below 100 °C. -/
def execThermalThrottle (celsius : Nat) (s : State) : Host.Outcome State Fault Refusal :=
  .next { s with thermalHold := if 105 < celsius then true else if celsius < 100 then false else s.thermalHold }

/-- What a loss of the rails leaves: package flash, what the package management block keeps, and the host's own memory. -/
def State.kept (s : State) : State :=
  { State.reset with
    cur := s.cur, sched := s.sched, freeCtr := s.freeCtr, mem := s.mem.filter (fun c => decide (2 ^ 64 ≤ c.1))
    hostPages := s.hostPages, reportNo := s.reportNo, cfg := s.cfg, certChain := s.certChain, attestKey := s.attestKey
    sent := s.sent
    fw := { s.fw with staged := false, patches := [], updating := none } }

/-- THERMAL_TRIP (R370): above 115 °C every rail is removed at once. -/
def execThermalTrip (celsius : Nat) (s : State) : Host.Outcome State Fault Refusal :=
  .next (if 115 < celsius then { s.kept with off := true } else s)

/-! ## Package reset (R326, R371, R372) -/

/-- Whether the signed record may be used: its signature under the root key, its version, and every field in range. -/
def ConfigRecord.fits (c : ConfigRecord) (kept : Nat) : Bool :=
  Config.signatureVerifies Config.rootKey (c.bytes.take 512) (c.bytes.drop 512) && decide (kept ≤ c.secver) && c.layout == 1 &&
    c.zeroA == 0 && c.zeroB == 0 &&
    (List.range 24).all (fun k => decide ((Tab.get 0 c.spare k).toNat ≤ 12)) &&
    (List.range 4).all (fun d => decide ((Tab.get 0 c.master d).toNat ≤ 5)) && decide (1000 ≤ c.pcap) && decide (c.pcap ≤ 6000)

/-- The control store that Rhory loads: the image last marked good, else the other (R326). -/
def Firmware.boot (f : Firmware) (key : BitVec 512) : Option Firmware :=
  if f.accepts key f.image then some f
  else
    let g := { f with useB := !f.useB }
    if g.accepts key g.image then some g else none

/-- PACKAGE_RESET (R371). -/
def State.packageReset (s : State) : State :=
  let k := s.kept
  match k.fw.boot k.cfg.fwkey with
  | some f => { k with fw := f, spdmOnly := !k.cfg.fits f.keptVersion }
  | none => { k with spdmOnly := true }
def execPackageReset (s : State) : Host.Outcome State Fault Refusal := .next s.packageReset

end Sys2Proof.Machine
end

