-- ==== Sys2Proof/Machine/Near.lean ====
section
/-!
DEFINITION. Slot 3: near loads and stores (05 R121–R125, R130–R132).
-/

namespace Sys2Proof.Machine

/-- Post-increment of an address register by `k` (R132, R133): lands 1 issue cycle later. -/
def postInc (ar : BitVec 4) (pi : BitVec 1) (k : W64) (s : State) (n : Nat) (a : Agent) : Agent :=
  if pi = 1 then a.fly (s.agent n).icyc 1 (.a ar ((s.agent n).getA ar + k)) else a

/-- The destination of a post-increment (R40). -/
def incDest (ar : BitVec 4) (pi : BitVec 1) : List Dest := if pi = 1 then [.a ar] else []

/-- A near load of `len` bytes (R131, R132): `off` gives e, `entry` lays the bytes out. -/
def nearLoad (iq : BitVec 2) (q ar : BitVec 4) (pi : BitVec 1) (len : Nat) (off : Agent → W64) (entry : Nat → Vec) : Word :=
  { Word.base 3 iq with
    writes := incDest ar pi
    pushes := [q]
    chk := fun s n => (nearCheck s n false (off (s.agent n)) len).or (nearPoison s n (off (s.agent n)).toNat len)
    act := fun s n a =>
      let pre := s.agent n
      let x := entry (s.mem.num (nearAddr n (off pre).toNat) len)
      (postInc ar pi (BitVec.ofNat 64 len) s n (a.fly pre.icyc 6 (.push q x))).event 0x09 1 }

/-- A near store of `len` bytes (R131, R132): the count of its new lines is checked after its address. -/
def nearStore (iq : BitVec 2) (q ar : BitVec 4) (pi : BitVec 1) (len : Nat) (off : Agent → W64) : Word :=
  { Word.base 3 iq with
    writes := incDest ar pi
    ops := [⟨q, false⟩]
    chk := fun s n =>
      let a := s.agent n
      (nearCheck s n true (off a) len).or
        (if 1024 < a.counted.length + (newLines a (off a).toNat len).length then some (0x07, a.r.pc) else none)
    act := fun s n a =>
      let pre := s.agent n
      let e := (off pre).toNat
      let a := { a with
        counted := a.counted ++ newLines pre e len
        nsq := a.nsq ++ [{ due := pre.icyc + 3, off := e, len := len, data := pre.head q }] }
      (postInc ar pi (BitVec.ofNat 64 len) s n a).event 0x0A 1 }

/-- An entry whose 64 bytes `x` stand eight times (R131). -/
def repeated8 (x : Nat) : Vec := BitVec.ofNat 4096 (packBits 512 (List.replicate 8 x))

/-- The offset of the plain and the indexed forms (R131). -/
def offPlain (ar : BitVec 4) (off : BitVec 15) (a : Agent) : W64 := nearOff (a.getA ar) (off.signExtend 64)
def offIndex (ar : BitVec 4) (x : BitVec 5) (off : BitVec 10) (a : Agent) : W64 :=
  nearOff (a.getA ar + a.getS x) (off.signExtend 64)

/-- NLD (R131). -/
def wNld (iq : BitVec 2) (q a : BitVec 4) (pi : BitVec 1) (off : BitVec 15) : Word :=
  nearLoad iq q a pi 512 (offPlain a off) (BitVec.ofNat 4096)
def execNld (iq : BitVec 2) (q a : BitVec 4) (pi : BitVec 1) (off : BitVec 15) (s : State) :
    Host.Outcome State Fault Refusal := issueAlone (wNld iq q a pi off) s

/-- NLDH (R131). -/
def wNldh (iq : BitVec 2) (q a : BitVec 4) (pi : BitVec 1) (off : BitVec 15) : Word :=
  nearLoad iq q a pi 256 (offPlain a off) (BitVec.ofNat 4096)
def execNldh (iq : BitVec 2) (q a : BitVec 4) (pi : BitVec 1) (off : BitVec 15) (s : State) :
    Host.Outcome State Fault Refusal := issueAlone (wNldh iq q a pi off) s

/-- NLDB (R131). -/
def wNldb (iq : BitVec 2) (q a : BitVec 4) (pi : BitVec 1) (off : BitVec 15) : Word :=
  nearLoad iq q a pi 64 (offPlain a off) repeated8
def execNldb (iq : BitVec 2) (q a : BitVec 4) (pi : BitVec 1) (off : BitVec 15) (s : State) :
    Host.Outcome State Fault Refusal := issueAlone (wNldb iq q a pi off) s

/-- NLDX (R131). -/
def wNldx (iq : BitVec 2) (q a : BitVec 4) (pi : BitVec 1) (x : BitVec 5) (off : BitVec 10) : Word :=
  nearLoad iq q a pi 512 (offIndex a x off) (BitVec.ofNat 4096)
def execNldx (iq : BitVec 2) (q a : BitVec 4) (pi : BitVec 1) (x : BitVec 5) (off : BitVec 10) (s : State) :
    Host.Outcome State Fault Refusal := issueAlone (wNldx iq q a pi x off) s

/-- NST (R131). -/
def wNst (iq : BitVec 2) (q a : BitVec 4) (pi : BitVec 1) (off : BitVec 15) : Word := nearStore iq q a pi 512 (offPlain a off)
def execNst (iq : BitVec 2) (q a : BitVec 4) (pi : BitVec 1) (off : BitVec 15) (s : State) :
    Host.Outcome State Fault Refusal := issueAlone (wNst iq q a pi off) s

/-- NSTH (R131). -/
def wNsth (iq : BitVec 2) (q a : BitVec 4) (pi : BitVec 1) (off : BitVec 15) : Word :=
  nearStore iq q a pi 256 (offPlain a off)
def execNsth (iq : BitVec 2) (q a : BitVec 4) (pi : BitVec 1) (off : BitVec 15) (s : State) :
    Host.Outcome State Fault Refusal := issueAlone (wNsth iq q a pi off) s

/-- NSTX (R131). -/
def wNstx (iq : BitVec 2) (q a : BitVec 4) (pi : BitVec 1) (x : BitVec 5) (off : BitVec 10) : Word :=
  nearStore iq q a pi 512 (offIndex a x off)
def execNstx (iq : BitVec 2) (q a : BitVec 4) (pi : BitVec 1) (x : BitVec 5) (off : BitVec 10) (s : State) :
    Host.Outcome State Fault Refusal := issueAlone (wNstx iq q a pi x off) s

end Sys2Proof.Machine
end

