-- ==== Sys2Proof/Machine/Accum.lean ====
section
/-!
DEFINITION. Slot 4: accumulator rows and block scales (05 R126–R129, R133–R137).
-/

namespace Sys2Proof.Machine

/-- A slot-4 word that reads tile `t`: `rows` gives the rows it checks (first, count) for row index e, `entry` the entry that
lands 4 issue cycles later (R134). -/
def rowRead (iq : BitVec 2) (q t ar : BitVec 4) (pi : BitVec 1) (row : BitVec 7) (rows : Nat → Nat × Nat)
    (entry : State → Nat → Agent → Nat → Vec) : Word :=
  { Word.base 4 iq with
    writes := incDest ar pi
    pushes := [q]
    hold := .tile t
    chk := fun s n =>
      let e := rowIndex (s.agent n) ar row
      let (first, k) := rows e.toNat
      (rowCheck s n false t e first k).or (rowPoison s n (rowNum t first) k)
    act := fun s n a =>
      let pre := s.agent n
      let e := (rowIndex pre ar row).toNat
      postInc ar pi 1 s n (a.fly pre.icyc 4 (.push q (entry s n a e))) }

/-- A slot-4 word that writes row e of tile `t`: the new row lands 1 issue cycle later (R135). -/
def rowWrite (iq : BitVec 2) (t ar : BitVec 4) (pi : BitVec 1) (row : BitVec 7) (ops : List QOp)
    (chk : State → Nat → Nat → Option (Byte × W64)) (new : State → Nat → Nat → Vec) : Word :=
  { Word.base 4 iq with
    writes := incDest ar pi
    ops := ops
    hold := .tile t
    chk := fun s n =>
      let e := rowIndex (s.agent n) ar row
      (rowCheck s n true t e e.toNat 1).or (chk s n e.toNat)
    act := fun s n a =>
      let pre := s.agent n
      let e := (rowIndex pre ar row).toNat
      postInc ar pi 1 s n (a.fly pre.icyc 1 (.row t (BitVec.ofNat 7 e) (new s n e))) }

/-- Column `e` of tile `t` (R134). -/
def tileColumn (s : State) (n : Nat) (t : BitVec 4) (e : Nat) : Vec :=
  mkVec (fun l => BitVec.ofNat 32 (s.mem.num (accAddr n (512 * rowNum t l + 4 * e)) 4))

/-- A row converted to the AOUT format and packed from byte 0 (R134); `a` holds the RSR counter that ARDC draws from (R154). -/
def convertRow (s : State) (n : Nat) (a : Agent) (x : Vec) : Vec :=
  let f := a.r.aout
  let els := (List.range 128).map (fun j =>
    convert 0x00 f (rndMode a.r.rnd a.r.srseed (rsrRank s n) j a.r.rsr.toNat) (rndSat a.r.rnd) (lane x j).toNat)
  BitVec.ofNat 4096 (packBits (fmtBits f) els)

/-- The RSR counter rises by 1 when the rounding mode is RSR (R154). -/
def Agent.drawRsr (a : Agent) : Agent := if drawsBits a.r.rnd then { a with r := { a.r with rsr := a.r.rsr + 1 } } else a

/-- The rows of one row index, and all rows of a tile. -/
def oneRow (e : Nat) : Nat × Nat := (e, 1)
def allRows (_ : Nat) : Nat × Nat := (0, 128)

/-- ARD (R134). -/
def wArd (iq : BitVec 2) (q t a : BitVec 4) (pi : BitVec 1) (row : BitVec 7) : Word :=
  rowRead iq q t a pi row oneRow (fun s n _ e => s.accRow n (rowNum t e))
def execArd (iq : BitVec 2) (q t a : BitVec 4) (pi : BitVec 1) (row : BitVec 7) (s : State) :
    Host.Outcome State Fault Refusal := issueAlone (wArd iq q t a pi row) s

/-- ARDC (R134): converts under AOUT, RND and the RSR counter at issue. -/
def wArdc (iq : BitVec 2) (q t a : BitVec 4) (pi : BitVec 1) (row : BitVec 7) : Word :=
  let w := rowRead iq q t a pi row oneRow (fun s n b e => convertRow s n b (s.accRow n (rowNum t e)))
  { w with act := fun s n b => (w.act s n b).drawRsr }
def execArdc (iq : BitVec 2) (q t a : BitVec 4) (pi : BitVec 1) (row : BitVec 7) (s : State) :
    Host.Outcome State Fault Refusal := issueAlone (wArdc iq q t a pi row) s

/-- AWR (R135). -/
def wAwr (iq : BitVec 2) (q t a : BitVec 4) (pi : BitVec 1) (row : BitVec 7) : Word :=
  rowWrite iq t a pi row [⟨q, false⟩] (fun _ _ _ => none) (fun s n _ => (s.agent n).head q)
def execAwr (iq : BitVec 2) (q t a : BitVec 4) (pi : BitVec 1) (row : BitVec 7) (s : State) :
    Host.Outcome State Fault Refusal := issueAlone (wAwr iq q t a pi row) s

/-- AACC (R135): it reads the row, so poison traps (R314). -/
def wAacc (iq : BitVec 2) (q t a : BitVec 4) (pi : BitVec 1) (row : BitVec 7) : Word :=
  rowWrite iq t a pi row [⟨q, false⟩] (fun s n e => rowPoison s n (rowNum t e) 1) (fun s n e =>
    let old := s.accRow n (rowNum t e)
    let x := (s.agent n).head q
    mkVec (fun l => f32Add (lane old l) (lane x l)))
def execAacc (iq : BitVec 2) (q t a : BitVec 4) (pi : BitVec 1) (row : BitVec 7) (s : State) :
    Host.Outcome State Fault Refusal := issueAlone (wAacc iq q t a pi row) s

/-- AZERO (R135). -/
def wAzero (iq : BitVec 2) (t a : BitVec 4) (pi : BitVec 1) (row : BitVec 7) : Word :=
  rowWrite iq t a pi row [] (fun _ _ _ => none) (fun _ _ _ => 0)
def execAzero (iq : BitVec 2) (t a : BitVec 4) (pi : BitVec 1) (row : BitVec 7) (s : State) :
    Host.Outcome State Fault Refusal := issueAlone (wAzero iq t a pi row) s

/-- ASCL (R136): scales the block that stands at the port in this issue cycle; never stalls (R127). -/
def wAscl (iq : BitVec 2) (q t : BitVec 4) : Word :=
  { Word.base 4 iq with
    ops := [⟨q, false⟩]
    chk := fun s n =>
      match portBlock (s.agent n) t (s.agent n).icyc with
      | none => none
      | some b => (s.rentCheck n (s.agent n).who true false 0 n (t.toNat * 65536) (b.rows.length * 512)).map
          (fun r => (r.1, BitVec.ofNat 64 r.2))
    act := fun s n a =>
      let x := (s.agent n).head q
      let c := (s.agent n).icyc
      { a with blocks := a.blocks.map (fun b => if b.tile == t && b.port == c then b.scale x else b) } }
def execAscl (iq : BitVec 2) (q t : BitVec 4) (s : State) : Host.Outcome State Fault Refusal := issueAlone (wAscl iq q t) s

/-- ARDT (R134). -/
def wArdt (iq : BitVec 2) (q t a : BitVec 4) (pi : BitVec 1) (row : BitVec 7) : Word :=
  rowRead iq q t a pi row allRows (fun s n _ e => tileColumn s n t e)
def execArdt (iq : BitVec 2) (q t a : BitVec 4) (pi : BitVec 1) (row : BitVec 7) (s : State) :
    Host.Outcome State Fault Refusal := issueAlone (wArdt iq q t a pi row) s

end Sys2Proof.Machine
end

