-- ==== Sys2Proof/Machine/Vector.lean ====
section
/-!
DEFINITION. Slot 5, OP 01 to 3B: vectors and predicates (07 R162–R179).
-/

namespace Sys2Proof.Machine

/-! ## Shapes of slot-5 words (R164–R166) -/

/-- A slot-5 word whose result goes to vector register `vd` (md = 00) or is pushed (md = 01). `mask` marks the bits that the
word writes (R165); what a pushed entry holds elsewhere is zero. -/
def vecWord (iq : BitVec 2) (lat : Nat) (vd : BitVec 5) (md : BitVec 2) (ops : List QOp) (mask : Agent → Vec)
    (val : State → Nat → Agent → Vec) : Word :=
  if md = 1 then
    { Word.base 5 iq with
      ops := ops
      pushes := [low4 vd]
      act := fun s n a => a.fly (s.agent n).icyc lat (.push (low4 vd) (val s n a &&& mask (s.agent n))) }
  else
    { Word.base 5 iq with
      ops := ops
      writes := [.v vd]
      act := fun s n a => a.fly (s.agent n).icyc lat (.v vd (mask (s.agent n)) (val s n a)) }

/-- The lanes that pg governs. -/
def lanesOf (pg : BitVec 3) (a : Agent) : Vec := laneMask (a.getP pg)

/-- Every lane. -/
def allLanes (_ : Agent) : Vec := BitVec.allOnes 4096

/-- A binary word lane by lane (R32). -/
def binWord (iq : BitVec 2) (lat : Nat) (vd va vb : BitVec 5) (ma mb : BitVec 2) (pg : BitVec 3) (md : BitVec 2)
    (f : W32 → W32 → W32) : Word :=
  vecWord iq lat vd md (modeOps ma va ++ modeOps mb vb) (lanesOf pg) (fun s n _ =>
    let (x, y) := (s.agent n).sources ma va mb vb
    mkVec (fun l => f (lane x l) (lane y l)))

/-- A unary word lane by lane. -/
def unWord (iq : BitVec 2) (lat : Nat) (vd va : BitVec 5) (ma : BitVec 2) (pg : BitVec 3) (md : BitVec 2) (f : W32 → W32) : Word :=
  vecWord iq lat vd md (modeOps ma va) (lanesOf pg) (fun s n _ =>
    let x := ((s.agent n).source ma va).1
    mkVec (fun l => f (lane x l)))

/-- An accumulating word: vd is read at issue (R164). -/
def accWord (iq : BitVec 2) (vd va vb : BitVec 5) (ma mb : BitVec 2) (pg : BitVec 3) (f : W32 → W32 → W32 → W32) : Word :=
  vecWord iq 3 vd 0 (modeOps ma va ++ modeOps mb vb) (lanesOf pg) (fun s n _ =>
    let (x, y) := (s.agent n).sources ma va mb vb
    let d := (s.agent n).getV vd
    mkVec (fun l => f (lane d l) (lane x l) (lane y l)))

/-- A compare: an inactive lane writes 0 (R165, R170). -/
def cmpWord (iq : BitVec 2) (pd : BitVec 3) (va vb : BitVec 5) (ma mb : BitVec 2) (pg : BitVec 3) (f : W32 → W32 → Bool) : Word :=
  { Word.base 5 iq with
    ops := modeOps ma va ++ modeOps mb vb
    writes := [.p pd]
    act := fun s n a =>
      let pre := s.agent n
      let (x, y) := pre.sources ma va mb vb
      let g := pre.getP pg
      a.fly pre.icyc 3 (.p pd (mkPred (fun l => g.getLsbD l && f (lane x l) (lane y l)))) }

/-- A word over whole vectors: pg governs the lanes of the result (R172). -/
def wholeWord (iq : BitVec 2) (vd va vb : BitVec 5) (ma mb : BitVec 2) (pg : BitVec 3) (md : BitVec 2)
    (f : Vec → Vec → Vec) : Word :=
  vecWord iq 3 vd md (modeOps ma va ++ modeOps mb vb) (lanesOf pg) (fun s n _ =>
    let (x, y) := (s.agent n).sources ma va mb vb
    f x y)

/-- A reduction: pg chooses the input lanes, every lane is written (R165, R178, R179). -/
def redWord (iq : BitVec 2) (vd va : BitVec 5) (ma : BitVec 2) (pg : BitVec 3) (md : BitVec 2) (f : Pred → Vec → Vec) : Word :=
  vecWord iq 9 vd md (modeOps ma va) allLanes (fun s n _ => f ((s.agent n).getP pg) ((s.agent n).source ma va).1)

/-- A predicate word (R171). -/
def predWord (iq : BitVec 2) (pd : BitVec 3) (f : Agent → Pred) : Word :=
  { Word.base 5 iq with
    writes := [.p pd]
    act := fun s n a => a.fly (s.agent n).icyc 3 (.p pd (f (s.agent n))) }

/-! ## Lane functions -/

/-- VABS and VNEG: NaN payloads are copied (R167). -/
def f32Abs (x : W32) : W32 := x &&& 0x7FFFFFFF#32
def f32Neg (x : W32) : W32 := x ^^^ 0x80000000#32

/-- The sum of the products of signed bytes (R177). -/
def dot4 (x y : W32) : W32 :=
  BitVec.ofInt 32 (((List.range 4).map (fun k => (byteAt x k).toInt * (byteAt y k).toInt)).sum)

/-- The pexp2 code of e^(a − b): difference and exponential exact, one rounding (R175, R149). -/
def pexpCode (x y : W32) : W32 :=
  let c := match numAdd (f32Num x) (numNeg (f32Num y)) with
    | .nan => toPexp2 .nan
    | .inf a => toPexp2 (if a then .fin false 0 0 else .inf false)
    | .fin a m e => let (n, d) := expNum a m e; toPexp2 (.fin false n (-(Nat.log2 d : Int)))
  BitVec.ofNat 32 c

/-- round_rne(d + a × p) for the pexp2 code in bits 7:0 of `b` (R176). -/
def pmac (d a b : W32) : W32 := numF32 .rne (numAdd (f32Num d) (numMul (f32Num a) (pexp2Num (b.toNat % 256))))

/-- The tree of R158 over `2 w` values, with `k` halvings left. -/
def reduceTree (f : W32 → W32 → W32) : Nat → List W32 → W32
  | 0, xs => xs.headD 0
  | k + 1, xs =>
    let w := xs.length / 2
    reduceTree f k ((xs.take w).zipWith f (xs.drop w))

/-- The lanes of `x`, inactive ones replaced by `z` (R158). -/
def inputLanes (g : Pred) (z : W32) (x : Vec) : List W32 := (List.range 128).map (fun l => if g.getLsbD l then lane x l else z)

/-- A reduction to lane 0 (R178). -/
def reduceTo (f : W32 → W32 → W32) (z : W32) (g : Pred) (x : Vec) : Vec := (reduceTree f 7 (inputLanes g z x)).setWidth 4096

/-- The running sums of VSCAN (R158). -/
def scanFrom (acc : W32) : List W32 → List W32
  | [] => []
  | x :: xs => let y := f32Add acc x; y :: scanFrom y xs

/-- VSCAN: lane 0 keeps its value. -/
def scanVec (g : Pred) (x : Vec) : Vec :=
  match inputLanes g (f32Zero true) x with
  | [] => 0
  | y :: ys => ofLanes (y :: scanFrom y ys)

/-- The lane that VMAXI or VMINI returns among `ls`: the first whose value no other one beats (R179). -/
def pickLane (beats : W32 → W32 → Bool) (x : Vec) : List Nat → Option Nat
  | [] => none
  | l :: ls =>
    match pickLane beats x ls with
    | none => some l
    | some k => if beats (lane x k) (lane x l) then some k else some l

/-- VMAXI and VMINI: value in lane 0, lane number in lane 1 (R179). -/
def extremum (beats : W32 → W32 → Bool) (none? : W32) (g : Pred) (x : Vec) : Vec :=
  let act := (List.range 128).filter (fun l => g.getLsbD l)
  match act.find? (fun l => f32IsNaN (lane x l)) with
  | some l => ofLanes [f32NaN, BitVec.ofNat 32 l]
  | none =>
    match pickLane beats x act with
    | none => ofLanes [none?, BitVec.allOnes 32]
    | some l => ofLanes [lane x l, BitVec.ofNat 32 l]

/-! ## Conversion (R174) -/

/-- The number of elements that VCVT converts. -/
def cvtCount (wi wo : Nat) : Nat := min (4096 / max wi wo) 256

/-- The bits of the elements `0 … k − 1` of width `w` whose governing bit is 0. -/
def idleBits (g : Pred) (w k : Nat) : Vec :=
  BitVec.ofNat 4096 (packBits w ((List.range k).map (fun j => if g.getLsbD (j % 128) then 0 else 2 ^ w - 1)))

/-- The converted elements; `c` is the RSR counter that the word draws from. -/
def cvtVec (s : State) (n : Nat) (a : Agent) (c : Nat) (x : Vec) : Vec :=
  let wi := fmtBits a.r.vin
  let wo := fmtBits a.r.vout
  BitVec.ofNat 4096 (packBits wo ((List.range (cvtCount wi wo)).map (fun j =>
    convert a.r.vin a.r.vout (rndMode a.r.rnd a.r.srseed (rsrRank s n) j c) (rndSat a.r.rnd) (element x wi j))))

/-- Every bit but those of inactive elements (R165, R174). -/
def cvtMask (pg : BitVec 3) (a : Agent) : Vec :=
  ~~~(idleBits (a.getP pg) (fmtBits a.r.vout) (cvtCount (fmtBits a.r.vin) (fmtBits a.r.vout)))

/-- The bytes that VPACK writes (R173). -/
def packVec (x y : Vec) : Vec :=
  BitVec.ofNat 4096 (packBits 8 ((List.range 256).map (fun j => if j < 128 then (lane x j).toNat else (lane y (j - 128)).toNat)))

/-! ## Floating-point lanes (R167, R168) -/

/-- VADD (R167). -/
def wVadd (iq : BitVec 2) (vd va vb : BitVec 5) (ma mb : BitVec 2) (pg : BitVec 3) (md : BitVec 2) : Word :=
  binWord iq 3 vd va vb ma mb pg md f32Add
def execVadd (iq : BitVec 2) (vd va vb : BitVec 5) (ma mb : BitVec 2) (pg : BitVec 3) (md : BitVec 2) (s : State) :
    Host.Outcome State Fault Refusal := issueAlone (wVadd iq vd va vb ma mb pg md) s

/-- VSUB (R167). -/
def wVsub (iq : BitVec 2) (vd va vb : BitVec 5) (ma mb : BitVec 2) (pg : BitVec 3) (md : BitVec 2) : Word :=
  binWord iq 3 vd va vb ma mb pg md f32Sub
def execVsub (iq : BitVec 2) (vd va vb : BitVec 5) (ma mb : BitVec 2) (pg : BitVec 3) (md : BitVec 2) (s : State) :
    Host.Outcome State Fault Refusal := issueAlone (wVsub iq vd va vb ma mb pg md) s

/-- VMUL (R167). -/
def wVmul (iq : BitVec 2) (vd va vb : BitVec 5) (ma mb : BitVec 2) (pg : BitVec 3) (md : BitVec 2) : Word :=
  binWord iq 3 vd va vb ma mb pg md f32Mul
def execVmul (iq : BitVec 2) (vd va vb : BitVec 5) (ma mb : BitVec 2) (pg : BitVec 3) (md : BitVec 2) (s : State) :
    Host.Outcome State Fault Refusal := issueAlone (wVmul iq vd va vb ma mb pg md) s

/-- VFMA (R167). -/
def wVfma (iq : BitVec 2) (vd va vb : BitVec 5) (ma mb : BitVec 2) (pg : BitVec 3) : Word :=
  accWord iq vd va vb ma mb pg f32Fma
def execVfma (iq : BitVec 2) (vd va vb : BitVec 5) (ma mb : BitVec 2) (pg : BitVec 3) (s : State) :
    Host.Outcome State Fault Refusal := issueAlone (wVfma iq vd va vb ma mb pg) s

/-- VFMS (R167). -/
def wVfms (iq : BitVec 2) (vd va vb : BitVec 5) (ma mb : BitVec 2) (pg : BitVec 3) : Word :=
  accWord iq vd va vb ma mb pg f32Fms
def execVfms (iq : BitVec 2) (vd va vb : BitVec 5) (ma mb : BitVec 2) (pg : BitVec 3) (s : State) :
    Host.Outcome State Fault Refusal := issueAlone (wVfms iq vd va vb ma mb pg) s

/-- VMIN (R167). -/
def wVmin (iq : BitVec 2) (vd va vb : BitVec 5) (ma mb : BitVec 2) (pg : BitVec 3) (md : BitVec 2) : Word :=
  binWord iq 3 vd va vb ma mb pg md f32Min
def execVmin (iq : BitVec 2) (vd va vb : BitVec 5) (ma mb : BitVec 2) (pg : BitVec 3) (md : BitVec 2) (s : State) :
    Host.Outcome State Fault Refusal := issueAlone (wVmin iq vd va vb ma mb pg md) s

/-- VMAX (R167). -/
def wVmax (iq : BitVec 2) (vd va vb : BitVec 5) (ma mb : BitVec 2) (pg : BitVec 3) (md : BitVec 2) : Word :=
  binWord iq 3 vd va vb ma mb pg md f32MaxOf
def execVmax (iq : BitVec 2) (vd va vb : BitVec 5) (ma mb : BitVec 2) (pg : BitVec 3) (md : BitVec 2) (s : State) :
    Host.Outcome State Fault Refusal := issueAlone (wVmax iq vd va vb ma mb pg md) s

/-- VABS (R167). -/
def wVabs (iq : BitVec 2) (vd va : BitVec 5) (ma : BitVec 2) (pg : BitVec 3) (md : BitVec 2) : Word :=
  unWord iq 3 vd va ma pg md f32Abs
def execVabs (iq : BitVec 2) (vd va : BitVec 5) (ma : BitVec 2) (pg : BitVec 3) (md : BitVec 2) (s : State) :
    Host.Outcome State Fault Refusal := issueAlone (wVabs iq vd va ma pg md) s

/-- VNEG (R167). -/
def wVneg (iq : BitVec 2) (vd va : BitVec 5) (ma : BitVec 2) (pg : BitVec 3) (md : BitVec 2) : Word :=
  unWord iq 3 vd va ma pg md f32Neg
def execVneg (iq : BitVec 2) (vd va : BitVec 5) (ma : BitVec 2) (pg : BitVec 3) (md : BitVec 2) (s : State) :
    Host.Outcome State Fault Refusal := issueAlone (wVneg iq vd va ma pg md) s

/-- VRCP (R168). -/
def wVrcp (iq : BitVec 2) (vd va : BitVec 5) (ma : BitVec 2) (pg : BitVec 3) (md : BitVec 2) : Word :=
  unWord iq 8 vd va ma pg md f32Rcp
def execVrcp (iq : BitVec 2) (vd va : BitVec 5) (ma : BitVec 2) (pg : BitVec 3) (md : BitVec 2) (s : State) :
    Host.Outcome State Fault Refusal := issueAlone (wVrcp iq vd va ma pg md) s

/-- VRSQ (R168). -/
def wVrsq (iq : BitVec 2) (vd va : BitVec 5) (ma : BitVec 2) (pg : BitVec 3) (md : BitVec 2) : Word :=
  unWord iq 8 vd va ma pg md f32Rsq
def execVrsq (iq : BitVec 2) (vd va : BitVec 5) (ma : BitVec 2) (pg : BitVec 3) (md : BitVec 2) (s : State) :
    Host.Outcome State Fault Refusal := issueAlone (wVrsq iq vd va ma pg md) s

/-- VSQRT (R168). -/
def wVsqrt (iq : BitVec 2) (vd va : BitVec 5) (ma : BitVec 2) (pg : BitVec 3) (md : BitVec 2) : Word :=
  unWord iq 8 vd va ma pg md f32Sqrt
def execVsqrt (iq : BitVec 2) (vd va : BitVec 5) (ma : BitVec 2) (pg : BitVec 3) (md : BitVec 2) (s : State) :
    Host.Outcome State Fault Refusal := issueAlone (wVsqrt iq vd va ma pg md) s

/-- VDIV (R167). -/
def wVdiv (iq : BitVec 2) (vd va vb : BitVec 5) (ma mb : BitVec 2) (pg : BitVec 3) (md : BitVec 2) : Word :=
  binWord iq 8 vd va vb ma mb pg md f32Div
def execVdiv (iq : BitVec 2) (vd va vb : BitVec 5) (ma mb : BitVec 2) (pg : BitVec 3) (md : BitVec 2) (s : State) :
    Host.Outcome State Fault Refusal := issueAlone (wVdiv iq vd va vb ma mb pg md) s

/-- VEXP2 (R168). -/
def wVexp2 (iq : BitVec 2) (vd va : BitVec 5) (ma : BitVec 2) (pg : BitVec 3) (md : BitVec 2) : Word :=
  unWord iq 8 vd va ma pg md f32Exp2
def execVexp2 (iq : BitVec 2) (vd va : BitVec 5) (ma : BitVec 2) (pg : BitVec 3) (md : BitVec 2) (s : State) :
    Host.Outcome State Fault Refusal := issueAlone (wVexp2 iq vd va ma pg md) s

/-- VEXP (R168). -/
def wVexp (iq : BitVec 2) (vd va : BitVec 5) (ma : BitVec 2) (pg : BitVec 3) (md : BitVec 2) : Word :=
  unWord iq 8 vd va ma pg md (f32ExpMode .rne)
def execVexp (iq : BitVec 2) (vd va : BitVec 5) (ma : BitVec 2) (pg : BitVec 3) (md : BitVec 2) (s : State) :
    Host.Outcome State Fault Refusal := issueAlone (wVexp iq vd va ma pg md) s

/-- VLOG2 (R168). -/
def wVlog2 (iq : BitVec 2) (vd va : BitVec 5) (ma : BitVec 2) (pg : BitVec 3) (md : BitVec 2) : Word :=
  unWord iq 8 vd va ma pg md f32Log2
def execVlog2 (iq : BitVec 2) (vd va : BitVec 5) (ma : BitVec 2) (pg : BitVec 3) (md : BitVec 2) (s : State) :
    Host.Outcome State Fault Refusal := issueAlone (wVlog2 iq vd va ma pg md) s

/-- VSIG (R168). -/
def wVsig (iq : BitVec 2) (vd va : BitVec 5) (ma : BitVec 2) (pg : BitVec 3) (md : BitVec 2) : Word :=
  unWord iq 8 vd va ma pg md f32Sig
def execVsig (iq : BitVec 2) (vd va : BitVec 5) (ma : BitVec 2) (pg : BitVec 3) (md : BitVec 2) (s : State) :
    Host.Outcome State Fault Refusal := issueAlone (wVsig iq vd va ma pg md) s

/-- VTANH (R168). -/
def wVtanh (iq : BitVec 2) (vd va : BitVec 5) (ma : BitVec 2) (pg : BitVec 3) (md : BitVec 2) : Word :=
  unWord iq 8 vd va ma pg md f32Tanh
def execVtanh (iq : BitVec 2) (vd va : BitVec 5) (ma : BitVec 2) (pg : BitVec 3) (md : BitVec 2) (s : State) :
    Host.Outcome State Fault Refusal := issueAlone (wVtanh iq vd va ma pg md) s

/-! ## Conversion and attention helpers (R174–R177) -/

/-- VCVT (R174): under RSR it draws the counter as ARDC of the same bundle leaves it, and adds 1 (R154). -/
def wVcvt (iq : BitVec 2) (vd va : BitVec 5) (ma : BitVec 2) (pg : BitVec 3) (md : BitVec 2) : Word :=
  let w := vecWord iq 3 vd md (modeOps ma va) (cvtMask pg) (fun s n b =>
    cvtVec s n (s.agent n) b.r.rsr.toNat ((s.agent n).source ma va).1)
  { w with act := fun s n b => (w.act s n b).drawRsr }
def execVcvt (iq : BitVec 2) (vd va : BitVec 5) (ma : BitVec 2) (pg : BitVec 3) (md : BitVec 2) (s : State) :
    Host.Outcome State Fault Refusal := issueAlone (wVcvt iq vd va ma pg md) s

/-- VPEXP (R175). -/
def wVpexp (iq : BitVec 2) (vd va vb : BitVec 5) (ma mb : BitVec 2) (pg : BitVec 3) (md : BitVec 2) : Word :=
  binWord iq 8 vd va vb ma mb pg md pexpCode
def execVpexp (iq : BitVec 2) (vd va vb : BitVec 5) (ma mb : BitVec 2) (pg : BitVec 3) (md : BitVec 2) (s : State) :
    Host.Outcome State Fault Refusal := issueAlone (wVpexp iq vd va vb ma mb pg md) s

/-- VPMAC (R176). -/
def wVpmac (iq : BitVec 2) (vd va vb : BitVec 5) (ma mb : BitVec 2) (pg : BitVec 3) : Word :=
  accWord iq vd va vb ma mb pg pmac
def execVpmac (iq : BitVec 2) (vd va vb : BitVec 5) (ma mb : BitVec 2) (pg : BitVec 3) (s : State) :
    Host.Outcome State Fault Refusal := issueAlone (wVpmac iq vd va vb ma mb pg) s

/-! ## Compares (R170) -/

/-- VCMPEQ (R170). -/
def wVcmpeq (iq : BitVec 2) (pd : BitVec 3) (va vb : BitVec 5) (ma mb : BitVec 2) (pg : BitVec 3) : Word :=
  cmpWord iq pd va vb ma mb pg f32Eq
def execVcmpeq (iq : BitVec 2) (pd : BitVec 3) (va vb : BitVec 5) (ma mb : BitVec 2) (pg : BitVec 3) (s : State) :
    Host.Outcome State Fault Refusal := issueAlone (wVcmpeq iq pd va vb ma mb pg) s

/-- VCMPLT (R170). -/
def wVcmplt (iq : BitVec 2) (pd : BitVec 3) (va vb : BitVec 5) (ma mb : BitVec 2) (pg : BitVec 3) : Word :=
  cmpWord iq pd va vb ma mb pg f32Lt
def execVcmplt (iq : BitVec 2) (pd : BitVec 3) (va vb : BitVec 5) (ma mb : BitVec 2) (pg : BitVec 3) (s : State) :
    Host.Outcome State Fault Refusal := issueAlone (wVcmplt iq pd va vb ma mb pg) s

/-- VCMPLE (R170). -/
def wVcmple (iq : BitVec 2) (pd : BitVec 3) (va vb : BitVec 5) (ma mb : BitVec 2) (pg : BitVec 3) : Word :=
  cmpWord iq pd va vb ma mb pg f32Le
def execVcmple (iq : BitVec 2) (pd : BitVec 3) (va vb : BitVec 5) (ma mb : BitVec 2) (pg : BitVec 3) (s : State) :
    Host.Outcome State Fault Refusal := issueAlone (wVcmple iq pd va vb ma mb pg) s

/-- VCMPUN (R170). -/
def wVcmpun (iq : BitVec 2) (pd : BitVec 3) (va vb : BitVec 5) (ma mb : BitVec 2) (pg : BitVec 3) : Word :=
  cmpWord iq pd va vb ma mb pg f32Un
def execVcmpun (iq : BitVec 2) (pd : BitVec 3) (va vb : BitVec 5) (ma mb : BitVec 2) (pg : BitVec 3) (s : State) :
    Host.Outcome State Fault Refusal := issueAlone (wVcmpun iq pd va vb ma mb pg) s

/-! ## Integer and bitwise lanes (R169, R177) -/

/-- VIADD (R169). -/
def wViadd (iq : BitVec 2) (vd va vb : BitVec 5) (ma mb : BitVec 2) (pg : BitVec 3) (md : BitVec 2) : Word :=
  binWord iq 3 vd va vb ma mb pg md (fun x y => x + y)
def execViadd (iq : BitVec 2) (vd va vb : BitVec 5) (ma mb : BitVec 2) (pg : BitVec 3) (md : BitVec 2) (s : State) :
    Host.Outcome State Fault Refusal := issueAlone (wViadd iq vd va vb ma mb pg md) s

/-- VISUB (R169). -/
def wVisub (iq : BitVec 2) (vd va vb : BitVec 5) (ma mb : BitVec 2) (pg : BitVec 3) (md : BitVec 2) : Word :=
  binWord iq 3 vd va vb ma mb pg md (fun x y => x - y)
def execVisub (iq : BitVec 2) (vd va vb : BitVec 5) (ma mb : BitVec 2) (pg : BitVec 3) (md : BitVec 2) (s : State) :
    Host.Outcome State Fault Refusal := issueAlone (wVisub iq vd va vb ma mb pg md) s

/-- VIMUL (R169). -/
def wVimul (iq : BitVec 2) (vd va vb : BitVec 5) (ma mb : BitVec 2) (pg : BitVec 3) (md : BitVec 2) : Word :=
  binWord iq 3 vd va vb ma mb pg md (fun x y => x * y)
def execVimul (iq : BitVec 2) (vd va vb : BitVec 5) (ma mb : BitVec 2) (pg : BitVec 3) (md : BitVec 2) (s : State) :
    Host.Outcome State Fault Refusal := issueAlone (wVimul iq vd va vb ma mb pg md) s

/-- VIMIN (R169). -/
def wVimin (iq : BitVec 2) (vd va vb : BitVec 5) (ma mb : BitVec 2) (pg : BitVec 3) (md : BitVec 2) : Word :=
  binWord iq 3 vd va vb ma mb pg md (fun x y => if x.slt y then x else y)
def execVimin (iq : BitVec 2) (vd va vb : BitVec 5) (ma mb : BitVec 2) (pg : BitVec 3) (md : BitVec 2) (s : State) :
    Host.Outcome State Fault Refusal := issueAlone (wVimin iq vd va vb ma mb pg md) s

/-- VIMAX (R169). -/
def wVimax (iq : BitVec 2) (vd va vb : BitVec 5) (ma mb : BitVec 2) (pg : BitVec 3) (md : BitVec 2) : Word :=
  binWord iq 3 vd va vb ma mb pg md (fun x y => if x.slt y then y else x)
def execVimax (iq : BitVec 2) (vd va vb : BitVec 5) (ma mb : BitVec 2) (pg : BitVec 3) (md : BitVec 2) (s : State) :
    Host.Outcome State Fault Refusal := issueAlone (wVimax iq vd va vb ma mb pg md) s

/-- VAND (R169). -/
def wVand (iq : BitVec 2) (vd va vb : BitVec 5) (ma mb : BitVec 2) (pg : BitVec 3) (md : BitVec 2) : Word :=
  binWord iq 3 vd va vb ma mb pg md (fun x y => x &&& y)
def execVand (iq : BitVec 2) (vd va vb : BitVec 5) (ma mb : BitVec 2) (pg : BitVec 3) (md : BitVec 2) (s : State) :
    Host.Outcome State Fault Refusal := issueAlone (wVand iq vd va vb ma mb pg md) s

/-- VOR (R169). -/
def wVor (iq : BitVec 2) (vd va vb : BitVec 5) (ma mb : BitVec 2) (pg : BitVec 3) (md : BitVec 2) : Word :=
  binWord iq 3 vd va vb ma mb pg md (fun x y => x ||| y)
def execVor (iq : BitVec 2) (vd va vb : BitVec 5) (ma mb : BitVec 2) (pg : BitVec 3) (md : BitVec 2) (s : State) :
    Host.Outcome State Fault Refusal := issueAlone (wVor iq vd va vb ma mb pg md) s

/-- VXOR (R169). -/
def wVxor (iq : BitVec 2) (vd va vb : BitVec 5) (ma mb : BitVec 2) (pg : BitVec 3) (md : BitVec 2) : Word :=
  binWord iq 3 vd va vb ma mb pg md (fun x y => x ^^^ y)
def execVxor (iq : BitVec 2) (vd va vb : BitVec 5) (ma mb : BitVec 2) (pg : BitVec 3) (md : BitVec 2) (s : State) :
    Host.Outcome State Fault Refusal := issueAlone (wVxor iq vd va vb ma mb pg md) s

/-- VNOT (R169). -/
def wVnot (iq : BitVec 2) (vd va : BitVec 5) (ma : BitVec 2) (pg : BitVec 3) (md : BitVec 2) : Word :=
  unWord iq 3 vd va ma pg md (fun x => ~~~x)
def execVnot (iq : BitVec 2) (vd va : BitVec 5) (ma : BitVec 2) (pg : BitVec 3) (md : BitVec 2) (s : State) :
    Host.Outcome State Fault Refusal := issueAlone (wVnot iq vd va ma pg md) s

/-- VSHL (R169). -/
def wVshl (iq : BitVec 2) (vd va vb : BitVec 5) (ma mb : BitVec 2) (pg : BitVec 3) (md : BitVec 2) : Word :=
  binWord iq 3 vd va vb ma mb pg md (fun x y => x <<< (y.toNat % 32))
def execVshl (iq : BitVec 2) (vd va vb : BitVec 5) (ma mb : BitVec 2) (pg : BitVec 3) (md : BitVec 2) (s : State) :
    Host.Outcome State Fault Refusal := issueAlone (wVshl iq vd va vb ma mb pg md) s

/-- VSHR (R169). -/
def wVshr (iq : BitVec 2) (vd va vb : BitVec 5) (ma mb : BitVec 2) (pg : BitVec 3) (md : BitVec 2) : Word :=
  binWord iq 3 vd va vb ma mb pg md (fun x y => x >>> (y.toNat % 32))
def execVshr (iq : BitVec 2) (vd va vb : BitVec 5) (ma mb : BitVec 2) (pg : BitVec 3) (md : BitVec 2) (s : State) :
    Host.Outcome State Fault Refusal := issueAlone (wVshr iq vd va vb ma mb pg md) s

/-- VSRA (R169). -/
def wVsra (iq : BitVec 2) (vd va vb : BitVec 5) (ma mb : BitVec 2) (pg : BitVec 3) (md : BitVec 2) : Word :=
  binWord iq 3 vd va vb ma mb pg md (fun x y => x.sshiftRight (y.toNat % 32))
def execVsra (iq : BitVec 2) (vd va vb : BitVec 5) (ma mb : BitVec 2) (pg : BitVec 3) (md : BitVec 2) (s : State) :
    Host.Outcome State Fault Refusal := issueAlone (wVsra iq vd va vb ma mb pg md) s

/-- VDOT4 (R177). -/
def wVdot4 (iq : BitVec 2) (vd va vb : BitVec 5) (ma mb : BitVec 2) (pg : BitVec 3) (md : BitVec 2) : Word :=
  binWord iq 3 vd va vb ma mb pg md dot4
def execVdot4 (iq : BitVec 2) (vd va vb : BitVec 5) (ma mb : BitVec 2) (pg : BitVec 3) (md : BitVec 2) (s : State) :
    Host.Outcome State Fault Refusal := issueAlone (wVdot4 iq vd va vb ma mb pg md) s

/-- VICMPEQ (R170). -/
def wVicmpeq (iq : BitVec 2) (pd : BitVec 3) (va vb : BitVec 5) (ma mb : BitVec 2) (pg : BitVec 3) : Word :=
  cmpWord iq pd va vb ma mb pg (fun x y => x == y)
def execVicmpeq (iq : BitVec 2) (pd : BitVec 3) (va vb : BitVec 5) (ma mb : BitVec 2) (pg : BitVec 3) (s : State) :
    Host.Outcome State Fault Refusal := issueAlone (wVicmpeq iq pd va vb ma mb pg) s

/-- VICMPLT (R170). -/
def wVicmplt (iq : BitVec 2) (pd : BitVec 3) (va vb : BitVec 5) (ma mb : BitVec 2) (pg : BitVec 3) : Word :=
  cmpWord iq pd va vb ma mb pg (fun x y => x.slt y)
def execVicmplt (iq : BitVec 2) (pd : BitVec 3) (va vb : BitVec 5) (ma mb : BitVec 2) (pg : BitVec 3) (s : State) :
    Host.Outcome State Fault Refusal := issueAlone (wVicmplt iq pd va vb ma mb pg) s

/-! ## Moving and rearranging lanes (R172, R173) -/

/-- VMOV (R172). -/
def wVmov (iq : BitVec 2) (vd va : BitVec 5) (ma : BitVec 2) (pg : BitVec 3) (md : BitVec 2) : Word :=
  unWord iq 3 vd va ma pg md (fun x => x)
def execVmov (iq : BitVec 2) (vd va : BitVec 5) (ma : BitVec 2) (pg : BitVec 3) (md : BitVec 2) (s : State) :
    Host.Outcome State Fault Refusal := issueAlone (wVmov iq vd va ma pg md) s

/-- VSEL (R172): pg chooses the source per lane, every lane is written. -/
def wVsel (iq : BitVec 2) (vd va vb : BitVec 5) (ma mb : BitVec 2) (pg : BitVec 3) (md : BitVec 2) : Word :=
  vecWord iq 3 vd md (modeOps ma va ++ modeOps mb vb) allLanes (fun s n _ =>
    let (x, y) := (s.agent n).sources ma va mb vb
    blend y (lanesOf pg (s.agent n)) x)
def execVsel (iq : BitVec 2) (vd va vb : BitVec 5) (ma mb : BitVec 2) (pg : BitVec 3) (md : BitVec 2) (s : State) :
    Host.Outcome State Fault Refusal := issueAlone (wVsel iq vd va vb ma mb pg md) s

/-- VPERM (R172). -/
def wVperm (iq : BitVec 2) (vd va vb : BitVec 5) (ma mb : BitVec 2) (pg : BitVec 3) (md : BitVec 2) : Word :=
  wholeWord iq vd va vb ma mb pg md (fun x y => mkVec (fun l => lane x ((lane y l).toNat % 128)))
def execVperm (iq : BitVec 2) (vd va vb : BitVec 5) (ma mb : BitVec 2) (pg : BitVec 3) (md : BitVec 2) (s : State) :
    Host.Outcome State Fault Refusal := issueAlone (wVperm iq vd va vb ma mb pg md) s

/-- VROT (R172). -/
def wVrot (iq : BitVec 2) (vd va vb : BitVec 5) (ma mb : BitVec 2) (pg : BitVec 3) (md : BitVec 2) : Word :=
  wholeWord iq vd va vb ma mb pg md (fun x y => mkVec (fun l => lane x ((l + (lane y 0).toNat % 128) % 128)))
def execVrot (iq : BitVec 2) (vd va vb : BitVec 5) (ma mb : BitVec 2) (pg : BitVec 3) (md : BitVec 2) (s : State) :
    Host.Outcome State Fault Refusal := issueAlone (wVrot iq vd va vb ma mb pg md) s

/-- VIOTA (R172). -/
def wViota (iq : BitVec 2) (vd : BitVec 5) (pg : BitVec 3) (md : BitVec 2) : Word :=
  vecWord iq 3 vd md [] (lanesOf pg) (fun _ _ _ => mkVec (BitVec.ofNat 32))
def execViota (iq : BitVec 2) (vd : BitVec 5) (pg : BitVec 3) (md : BitVec 2) (s : State) :
    Host.Outcome State Fault Refusal := issueAlone (wViota iq vd pg md) s

/-- VPACK (R173): element j is governed by bit j mod 128 (R165). -/
def wVpack (iq : BitVec 2) (vd va vb : BitVec 5) (ma mb : BitVec 2) (pg : BitVec 3) (md : BitVec 2) : Word :=
  vecWord iq 3 vd md (modeOps ma va ++ modeOps mb vb) (fun a => ~~~(idleBits (a.getP pg) 8 256)) (fun s n _ =>
    let (x, y) := (s.agent n).sources ma va mb vb
    packVec x y)
def execVpack (iq : BitVec 2) (vd va vb : BitVec 5) (ma mb : BitVec 2) (pg : BitVec 3) (md : BitVec 2) (s : State) :
    Host.Outcome State Fault Refusal := issueAlone (wVpack iq vd va vb ma mb pg md) s

/-- VUNPK (R173). -/
def wVunpk (iq : BitVec 2) (vd va : BitVec 5) (ma : BitVec 2) (pg : BitVec 3) (md : BitVec 2) : Word :=
  vecWord iq 3 vd md (modeOps ma va) (lanesOf pg) (fun s n _ =>
    let x := ((s.agent n).source ma va).1
    mkVec (fun l => (byteAt x l).setWidth 32))
def execVunpk (iq : BitVec 2) (vd va : BitVec 5) (ma : BitVec 2) (pg : BitVec 3) (md : BitVec 2) (s : State) :
    Host.Outcome State Fault Refusal := issueAlone (wVunpk iq vd va ma pg md) s

/-! ## Reductions (R178, R179) -/

/-- VRSUM (R178). -/
def wVrsum (iq : BitVec 2) (vd va : BitVec 5) (ma : BitVec 2) (pg : BitVec 3) (md : BitVec 2) : Word :=
  redWord iq vd va ma pg md (reduceTo f32Add (f32Zero true))
def execVrsum (iq : BitVec 2) (vd va : BitVec 5) (ma : BitVec 2) (pg : BitVec 3) (md : BitVec 2) (s : State) :
    Host.Outcome State Fault Refusal := issueAlone (wVrsum iq vd va ma pg md) s

/-- VRMAX (R178). -/
def wVrmax (iq : BitVec 2) (vd va : BitVec 5) (ma : BitVec 2) (pg : BitVec 3) (md : BitVec 2) : Word :=
  redWord iq vd va ma pg md (reduceTo f32MaxOf (f32Inf true))
def execVrmax (iq : BitVec 2) (vd va : BitVec 5) (ma : BitVec 2) (pg : BitVec 3) (md : BitVec 2) (s : State) :
    Host.Outcome State Fault Refusal := issueAlone (wVrmax iq vd va ma pg md) s

/-- VRMIN (R178). -/
def wVrmin (iq : BitVec 2) (vd va : BitVec 5) (ma : BitVec 2) (pg : BitVec 3) (md : BitVec 2) : Word :=
  redWord iq vd va ma pg md (reduceTo f32Min (f32Inf false))
def execVrmin (iq : BitVec 2) (vd va : BitVec 5) (ma : BitVec 2) (pg : BitVec 3) (md : BitVec 2) (s : State) :
    Host.Outcome State Fault Refusal := issueAlone (wVrmin iq vd va ma pg md) s

/-- VMAXI (R179). -/
def wVmaxi (iq : BitVec 2) (vd va : BitVec 5) (ma : BitVec 2) (pg : BitVec 3) (md : BitVec 2) : Word :=
  redWord iq vd va ma pg md (extremum (fun y x => decide (f32Key x < f32Key y)) (f32Inf true))
def execVmaxi (iq : BitVec 2) (vd va : BitVec 5) (ma : BitVec 2) (pg : BitVec 3) (md : BitVec 2) (s : State) :
    Host.Outcome State Fault Refusal := issueAlone (wVmaxi iq vd va ma pg md) s

/-- VMINI (R179). -/
def wVmini (iq : BitVec 2) (vd va : BitVec 5) (ma : BitVec 2) (pg : BitVec 3) (md : BitVec 2) : Word :=
  redWord iq vd va ma pg md (extremum (fun y x => decide (f32Key y < f32Key x)) (f32Inf false))
def execVmini (iq : BitVec 2) (vd va : BitVec 5) (ma : BitVec 2) (pg : BitVec 3) (md : BitVec 2) (s : State) :
    Host.Outcome State Fault Refusal := issueAlone (wVmini iq vd va ma pg md) s

/-- VSCAN (R178). -/
def wVscan (iq : BitVec 2) (vd va : BitVec 5) (ma : BitVec 2) (pg : BitVec 3) (md : BitVec 2) : Word :=
  redWord iq vd va ma pg md scanVec
def execVscan (iq : BitVec 2) (vd va : BitVec 5) (ma : BitVec 2) (pg : BitVec 3) (md : BitVec 2) (s : State) :
    Host.Outcome State Fault Refusal := issueAlone (wVscan iq vd va ma pg md) s

/-! ## Predicates (R171) -/

/-- PAND (R171). -/
def wPand (iq : BitVec 2) (pd pa pb : BitVec 3) : Word := predWord iq pd (fun a => a.getP pa &&& a.getP pb)
def execPand (iq : BitVec 2) (pd pa pb : BitVec 3) (s : State) : Host.Outcome State Fault Refusal :=
  issueAlone (wPand iq pd pa pb) s

/-- POR (R171). -/
def wPor (iq : BitVec 2) (pd pa pb : BitVec 3) : Word := predWord iq pd (fun a => a.getP pa ||| a.getP pb)
def execPor (iq : BitVec 2) (pd pa pb : BitVec 3) (s : State) : Host.Outcome State Fault Refusal :=
  issueAlone (wPor iq pd pa pb) s

/-- PXOR (R171). -/
def wPxor (iq : BitVec 2) (pd pa pb : BitVec 3) : Word := predWord iq pd (fun a => a.getP pa ^^^ a.getP pb)
def execPxor (iq : BitVec 2) (pd pa pb : BitVec 3) (s : State) : Host.Outcome State Fault Refusal :=
  issueAlone (wPxor iq pd pa pb) s

/-- PNOT (R171). -/
def wPnot (iq : BitVec 2) (pd pa : BitVec 3) : Word := predWord iq pd (fun a => ~~~(a.getP pa))
def execPnot (iq : BitVec 2) (pd pa : BitVec 3) (s : State) : Host.Outcome State Fault Refusal :=
  issueAlone (wPnot iq pd pa) s

/-- PCNT (R171). -/
def wPcnt (iq : BitVec 2) (d : BitVec 5) (pa : BitVec 3) : Word :=
  { sWord iq d 3 (fun a => BitVec.ofNat 64 ((List.range 128).countP (fun l => (a.getP pa).getLsbD l))) with
    slot := 5, prof := profBase 5 }
def execPcnt (iq : BitVec 2) (d : BitVec 5) (pa : BitVec 3) (s : State) : Host.Outcome State Fault Refusal :=
  issueAlone (wPcnt iq d pa) s

/-- PSET (R171). -/
def wPset (iq : BitVec 2) (pd : BitVec 3) (x : BitVec 5) : Word :=
  predWord iq pd (fun a => mkPred (fun l => decide (l < (a.getS x).toNat)))
def execPset (iq : BitVec 2) (pd : BitVec 3) (x : BitVec 5) (s : State) : Host.Outcome State Fault Refusal :=
  issueAlone (wPset iq pd x) s

end Sys2Proof.Machine
end

