-- ==== Sys2Proof/Machine/Interval.lean ====
section
/-!
DEFINITION. Slot 5, OP 3C to 3E: intervals (07 R180–R185).
-/

namespace Sys2Proof.Machine

/-! ## Interval lanes (R180) -/

/-- A nonempty interval lane: its bounds, zeros read as +0. -/
structure Iv where
  lo : W32
  hi : W32
deriving DecidableEq, Repr

/-- Either sign of zero reads as 0 (R180). -/
def plusZero (x : W32) : W32 := if x = 0x80000000#32 then 0 else x

/-- The set that a pair denotes; none is empty (R180). -/
def ivOf (lo hi : W32) : Option Iv :=
  if f32IsNaN lo || f32IsNaN hi || f32Lt hi lo || lo == f32Inf false || hi == f32Inf true then none
  else some ⟨plusZero lo, plusZero hi⟩

/-- Lane `k` of an interval register. -/
def ivLane (x : Vec) (k : Nat) : Option Iv := ivOf (lane x (2 * k)) (lane x (2 * k + 1))

/-- The pair that is written for a set (R180). -/
def ivBits (x : Option Iv) : List W32 :=
  match x with
  | none => [f32Inf false, f32Inf true]
  | some v => [plusZero v.lo, plusZero v.hi]

/-- An interval register from its lanes. -/
def ivVec (g : Nat → Option Iv) : Vec := ofLanes ((List.range 64).flatMap (fun k => ivBits (g k)))

/-- The entire line, and [0, +infinity]. -/
def entire : Iv := ⟨f32Inf true, f32Inf false⟩
def ivPos : Iv := ⟨0, f32Inf false⟩

/-- Smaller and larger bound. -/
def least (x y : W32) : W32 := if f32Lt y x then y else x
def most (x y : W32) : W32 := if f32Lt x y then y else x
def leastOf (xs : List W32) : W32 := xs.foldl least (f32Inf false)
def mostOf (xs : List W32) : W32 := xs.foldl most (f32Inf true)

/-- Intersection and hull (R182). -/
def ivMeet (x y : Option Iv) : Option Iv := do
  let a ← x
  let b ← y
  ivOf (most a.lo b.lo) (least a.hi b.hi)
def ivHull (x y : Option Iv) : Option Iv :=
  match x, y with
  | none, y => y
  | x, none => x
  | some a, some b => some ⟨least a.lo b.lo, most a.hi b.hi⟩

/-- {−x}. -/
def ivNeg (x : Iv) : Iv := ⟨plusZero (f32Neg x.hi), plusZero (f32Neg x.lo)⟩

/-- Whether 0 lies in the interval. -/
def Iv.zero (x : Iv) : Bool := f32Le x.lo 0 && f32Le 0 x.hi

/-! ## Forward forms (R181) -/

/-- A bound's sum, product and quotient in a rounding mode. In a product of bounds 0 × infinity is 0, and a bound over an
infinite one is 0: the set's points stay finite. -/
def endAdd (m : RMode) (x y : W32) : W32 := plusZero (numF32 m (numAdd (f32Num x) (f32Num y)))
def endSub (m : RMode) (x y : W32) : W32 := plusZero (numF32 m (numAdd (f32Num x) (numNeg (f32Num y))))
def endMul (m : RMode) (x y : W32) : W32 := if x = 0 ∨ y = 0 then 0 else plusZero (numF32 m (numMul (f32Num x) (f32Num y)))
def endDiv (m : RMode) (x y : W32) : W32 :=
  if y = f32Inf false ∨ y = f32Inf true then 0 else plusZero (f32DivMode m x y)

/-- √x of a bound x ≥ 0. -/
def endSqrt (m : RMode) (x : W32) : W32 :=
  match f32Num x with
  | .fin _ a e =>
    if a = 0 then 0 else
      let (n, d) := magRat a e
      let (p, q) := sqrtRat n d
      f32Round m false p q
  | _ => x

/-- The four combinations of two intervals' bounds. -/
def corners (f : W32 → W32 → W32) (x y : Iv) : List W32 := [f x.lo y.lo, f x.lo y.hi, f x.hi y.lo, f x.hi y.hi]

/-- The eleven forms of OP 3C (R181). -/
inductive IForm where
  | add
  | sub
  | mul
  | div
  | sqr
  | sqrt
  | exp
  | log
  | min
  | max
  | abs
deriving DecidableEq, Repr

/-- The image of nonempty operands, rounded outward; unary forms ignore `y` (R181). -/
def ivImage (k : IForm) (x y : Iv) : Option Iv :=
  match k with
  | .add => some ⟨endAdd .rdn x.lo y.lo, endAdd .rup x.hi y.hi⟩
  | .sub => some ⟨endSub .rdn x.lo y.hi, endSub .rup x.hi y.lo⟩
  | .mul => some ⟨leastOf (corners (endMul .rdn) x y), mostOf (corners (endMul .rup) x y)⟩
  | .div =>
    if y.zero then some entire else some ⟨leastOf (corners (endDiv .rdn) x y), mostOf (corners (endDiv .rup) x y)⟩
  | .sqr =>
    if f32Le 0 x.lo then some ⟨endMul .rdn x.lo x.lo, endMul .rup x.hi x.hi⟩
    else if f32Le x.hi 0 then some ⟨endMul .rdn x.hi x.hi, endMul .rup x.lo x.lo⟩
    else some ⟨0, most (endMul .rup x.lo x.lo) (endMul .rup x.hi x.hi)⟩
  | .sqrt => if f32Lt x.hi 0 then none else some ⟨endSqrt .rdn (most x.lo 0), endSqrt .rup x.hi⟩
  | .exp => some ⟨f32ExpMode .rdn x.lo, f32ExpMode .rup x.hi⟩
  | .log => if f32Le x.hi 0 then none else some ⟨f32LnMode .rdn (most x.lo 0), f32LnMode .rup x.hi⟩
  | .min => some ⟨least x.lo y.lo, least x.hi y.hi⟩
  | .max => some ⟨most x.lo y.lo, most x.hi y.hi⟩
  | .abs =>
    if f32Le 0 x.lo then some x else if f32Le x.hi 0 then some (ivNeg x) else some ⟨0, most (f32Neg x.lo) x.hi⟩

/-- The forward form on lanes that may be empty. -/
def ivFwd (k : IForm) (x y : Option Iv) : Option Iv := do
  let a ← x
  let b ← y
  ivImage k a b

/-- A word that writes interval registers after 6 issue cycles (R166). -/
def ivWord (iq : BitVec 2) (id : BitVec 4) (f : Agent → Nat → Option Iv) : Word :=
  { Word.base 5 iq with
    writes := [.i id]
    act := fun s n a => a.fly (s.agent n).icyc 6 (.i id (ivVec (f (s.agent n)))) }

/-- A forward form. -/
def fwdWord (iq : BitVec 2) (k : IForm) (id ia ib : BitVec 4) : Word :=
  ivWord iq id (fun a l => ivFwd k (ivLane (a.getI ia) l) (ivLane (a.getI ib) l))

/-! ## Contractors (R183, R184) -/

/-- The two operands of a contractor; of a unary form, and where ia = ib, both are the same lane. -/
structure Pair where
  x : Iv
  y : Iv
deriving DecidableEq, Repr

/-- Narrow x, or y, by a candidate. -/
def Pair.nx (same : Bool) (p : Pair) (c : Option Iv) : Option Pair :=
  (ivMeet (some p.x) c).map (fun v => { x := v, y := if same then v else p.y })
def Pair.ny (same : Bool) (p : Pair) (c : Option Iv) : Option Pair :=
  (ivMeet (some p.y) c).map (fun v => { x := if same then v else p.x, y := v })

/-- The narrowings of R183 in their order; none when one yields empty. -/
def narrow (k : IForm) (same : Bool) (z : Iv) (p : Pair) : Option Pair :=
  match k with
  | .add => (p.nx same (ivImage .sub z p.y)).bind (fun p => p.ny same (ivImage .sub z p.x))
  | .sub => (p.nx same (ivImage .add z p.y)).bind (fun p => p.ny same (ivImage .sub p.x z))
  | .mul => (p.nx same (ivImage .div z p.y)).bind (fun p => p.ny same (ivImage .div z p.x))
  | .div => (p.nx same (ivImage .mul z p.y)).bind (fun p => p.ny same (ivImage .div p.x z))
  | .sqr => do
    let r ← (ivMeet (some z) (some ivPos)).bind (fun v => ivImage .sqrt v v)
    if f32Le 0 p.x.lo then p.nx same (some r)
    else if f32Le p.x.hi 0 then p.nx same (some (ivNeg r))
    else p.nx same (some ⟨plusZero (f32Neg r.hi), r.hi⟩)
  | .sqrt => p.nx same ((ivMeet (some z) (some ivPos)).bind (fun v => ivImage .sqr v v))
  | .exp => p.nx same ((ivMeet (some z) (some ivPos)).bind (fun v => ivImage .log v v))
  | .log => p.nx same (ivImage .exp z z)
  | .min => do
    let p ← p.nx same (some ⟨z.lo, f32Inf false⟩)
    let p ← p.ny same (some ⟨z.lo, f32Inf false⟩)
    let p ← if f32Lt z.hi p.y.lo then p.nx same (some z) else some p
    if f32Lt z.hi p.x.lo then p.ny same (some z) else some p
  | .max => do
    let p ← p.nx same (some ⟨f32Inf true, z.hi⟩)
    let p ← p.ny same (some ⟨f32Inf true, z.hi⟩)
    let p ← if f32Lt p.y.hi z.lo then p.nx same (some z) else some p
    if f32Lt p.x.hi z.lo then p.ny same (some z) else some p
  | .abs => do
    let r ← ivMeet (some z) (some ivPos)
    let v ← ivHull (ivMeet (some p.x) (some r)) (ivMeet (some p.x) (some (ivNeg r)))
    some { x := v, y := if same then v else p.y }

/-- A contractor on one lane: an empty z or operand empties every operand, an entire z narrows nothing but by the domain
limits of ISQRT.B and ILOG.B (R183). -/
def contract (k : IForm) (same : Bool) (z x y : Option Iv) : Option Pair := do
  let z ← z
  let x ← x
  let y ← y
  if z = entire ∧ k ≠ .sqrt ∧ k ≠ .log then some ⟨x, y⟩ else narrow k same z ⟨x, y⟩

/-- The exact width hi − lo. -/
def Iv.width (x : Iv) : Num := numAdd (f32Num x.hi) (numNeg (f32Num x.lo))

/-- Whether an exact value is above 0. -/
def numPos : Num → Bool
  | .nan => false
  | .inf a => !a
  | .fin a m _ => !a && m != 0

/-- Whether `x > y` for exact values that are no NaN. -/
def numAbove (x y : Num) : Bool :=
  match x, y with
  | .inf a, .inf b => !a && b
  | x, y => numPos (numAdd x (numNeg y))

/-- Whether an operand's narrowing from `old` to `new` amounts to some r with r > 0 and r > t (R184). -/
def narrowed (t : Num) (old new : Option Iv) : Bool :=
  match old, new with
  | none, _ => false
  | some _, none => numAbove (.fin false 1 0) t
  | some o, some w =>
    match o.width, w.width with
    | .inf _, .fin _ _ _ => numAbove (.fin false 1 0) t
    | .fin a m e, w1 =>
      let d := numAdd (.fin a m e) (numNeg w1)
      m != 0 && numPos d && (match t with
        | .nan => false
        | .inf b => b
        | t => numAbove d (numMul t (.fin a m e)))
    | _, _ => false

/-- Whether ITHR holds a NaN, which no amount exceeds (R184). -/
def quiet (t : Num) : Bool := t == .nan

/-- A contractor: narrows ia, and ib in a binary form, and sets NPF as it lands if a lane's operand narrowed enough. -/
def backWord (iq : BitVec 2) (k : IForm) (binary : Bool) (id ia ib : BitVec 4) : Word :=
  let same := !binary || decide (ia = ib)
  let lanes (a : Agent) (l : Nat) : Option Pair :=
    contract k same (ivLane (a.getI id) l) (ivLane (a.getI ia) l) (ivLane (a.getI (if binary then ib else ia)) l)
  { Word.base 5 iq with
    writes := if same then [.i ia] else [.i ia, .i ib]
    act := fun s n a =>
      let pre := s.agent n
      let t := f32Num (pre.r.ithr.setWidth 32)
      let out := lanes pre
      let a := a.fly pre.icyc 6 (.i ia (ivVec (fun l => (out l).map Pair.x)))
      let a := if same then a else a.fly pre.icyc 6 (.i ib (ivVec (fun l => (out l).map Pair.y)))
      let progress := (List.range 64).any (fun l =>
        narrowed t (ivLane (pre.getI ia) l) ((out l).map Pair.x) ||
          (!same && narrowed t (ivLane (pre.getI ib) l) ((out l).map Pair.y)))
      if progress && !quiet t then a.fly pre.icyc 6 .npf else a }

/-- IADD (R181). -/
def wIadd (iq : BitVec 2) (id ia ib : BitVec 4) : Word := fwdWord iq .add id ia ib
def execIadd (iq : BitVec 2) (id ia ib : BitVec 4) (s : State) : Host.Outcome State Fault Refusal :=
  issueAlone (wIadd iq id ia ib) s

/-- ISUB (R181). -/
def wIsub (iq : BitVec 2) (id ia ib : BitVec 4) : Word := fwdWord iq .sub id ia ib
def execIsub (iq : BitVec 2) (id ia ib : BitVec 4) (s : State) : Host.Outcome State Fault Refusal :=
  issueAlone (wIsub iq id ia ib) s

/-- IMUL (R181). -/
def wImul (iq : BitVec 2) (id ia ib : BitVec 4) : Word := fwdWord iq .mul id ia ib
def execImul (iq : BitVec 2) (id ia ib : BitVec 4) (s : State) : Host.Outcome State Fault Refusal :=
  issueAlone (wImul iq id ia ib) s

/-- IDIV (R181). -/
def wIdiv (iq : BitVec 2) (id ia ib : BitVec 4) : Word := fwdWord iq .div id ia ib
def execIdiv (iq : BitVec 2) (id ia ib : BitVec 4) (s : State) : Host.Outcome State Fault Refusal :=
  issueAlone (wIdiv iq id ia ib) s

/-- ISQR (R181). -/
def wIsqr (iq : BitVec 2) (id ia : BitVec 4) : Word := fwdWord iq .sqr id ia ia
def execIsqr (iq : BitVec 2) (id ia : BitVec 4) (s : State) : Host.Outcome State Fault Refusal :=
  issueAlone (wIsqr iq id ia) s

/-- ISQRT (R181). -/
def wIsqrt (iq : BitVec 2) (id ia : BitVec 4) : Word := fwdWord iq .sqrt id ia ia
def execIsqrt (iq : BitVec 2) (id ia : BitVec 4) (s : State) : Host.Outcome State Fault Refusal :=
  issueAlone (wIsqrt iq id ia) s

/-- IEXP (R181). -/
def wIexp (iq : BitVec 2) (id ia : BitVec 4) : Word := fwdWord iq .exp id ia ia
def execIexp (iq : BitVec 2) (id ia : BitVec 4) (s : State) : Host.Outcome State Fault Refusal :=
  issueAlone (wIexp iq id ia) s

/-- ILOG (R181). -/
def wIlog (iq : BitVec 2) (id ia : BitVec 4) : Word := fwdWord iq .log id ia ia
def execIlog (iq : BitVec 2) (id ia : BitVec 4) (s : State) : Host.Outcome State Fault Refusal :=
  issueAlone (wIlog iq id ia) s

/-- IMIN (R181). -/
def wImin (iq : BitVec 2) (id ia ib : BitVec 4) : Word := fwdWord iq .min id ia ib
def execImin (iq : BitVec 2) (id ia ib : BitVec 4) (s : State) : Host.Outcome State Fault Refusal :=
  issueAlone (wImin iq id ia ib) s

/-- IMAX (R181). -/
def wImax (iq : BitVec 2) (id ia ib : BitVec 4) : Word := fwdWord iq .max id ia ib
def execImax (iq : BitVec 2) (id ia ib : BitVec 4) (s : State) : Host.Outcome State Fault Refusal :=
  issueAlone (wImax iq id ia ib) s

/-- IABS (R181). -/
def wIabs (iq : BitVec 2) (id ia : BitVec 4) : Word := fwdWord iq .abs id ia ia
def execIabs (iq : BitVec 2) (id ia : BitVec 4) (s : State) : Host.Outcome State Fault Refusal :=
  issueAlone (wIabs iq id ia) s

/-- IADD.B (R183). -/
def wIaddB (iq : BitVec 2) (id ia ib : BitVec 4) : Word := backWord iq .add true id ia ib
def execIaddB (iq : BitVec 2) (id ia ib : BitVec 4) (s : State) : Host.Outcome State Fault Refusal :=
  issueAlone (wIaddB iq id ia ib) s

/-- ISUB.B (R183). -/
def wIsubB (iq : BitVec 2) (id ia ib : BitVec 4) : Word := backWord iq .sub true id ia ib
def execIsubB (iq : BitVec 2) (id ia ib : BitVec 4) (s : State) : Host.Outcome State Fault Refusal :=
  issueAlone (wIsubB iq id ia ib) s

/-- IMUL.B (R183). -/
def wImulB (iq : BitVec 2) (id ia ib : BitVec 4) : Word := backWord iq .mul true id ia ib
def execImulB (iq : BitVec 2) (id ia ib : BitVec 4) (s : State) : Host.Outcome State Fault Refusal :=
  issueAlone (wImulB iq id ia ib) s

/-- IDIV.B (R183). -/
def wIdivB (iq : BitVec 2) (id ia ib : BitVec 4) : Word := backWord iq .div true id ia ib
def execIdivB (iq : BitVec 2) (id ia ib : BitVec 4) (s : State) : Host.Outcome State Fault Refusal :=
  issueAlone (wIdivB iq id ia ib) s

/-- ISQR.B (R183). -/
def wIsqrB (iq : BitVec 2) (id ia : BitVec 4) : Word := backWord iq .sqr false id ia ia
def execIsqrB (iq : BitVec 2) (id ia : BitVec 4) (s : State) : Host.Outcome State Fault Refusal :=
  issueAlone (wIsqrB iq id ia) s

/-- ISQRT.B (R183). -/
def wIsqrtB (iq : BitVec 2) (id ia : BitVec 4) : Word := backWord iq .sqrt false id ia ia
def execIsqrtB (iq : BitVec 2) (id ia : BitVec 4) (s : State) : Host.Outcome State Fault Refusal :=
  issueAlone (wIsqrtB iq id ia) s

/-- IEXP.B (R183). -/
def wIexpB (iq : BitVec 2) (id ia : BitVec 4) : Word := backWord iq .exp false id ia ia
def execIexpB (iq : BitVec 2) (id ia : BitVec 4) (s : State) : Host.Outcome State Fault Refusal :=
  issueAlone (wIexpB iq id ia) s

/-- ILOG.B (R183). -/
def wIlogB (iq : BitVec 2) (id ia : BitVec 4) : Word := backWord iq .log false id ia ia
def execIlogB (iq : BitVec 2) (id ia : BitVec 4) (s : State) : Host.Outcome State Fault Refusal :=
  issueAlone (wIlogB iq id ia) s

/-- IMIN.B (R183). -/
def wIminB (iq : BitVec 2) (id ia ib : BitVec 4) : Word := backWord iq .min true id ia ib
def execIminB (iq : BitVec 2) (id ia ib : BitVec 4) (s : State) : Host.Outcome State Fault Refusal :=
  issueAlone (wIminB iq id ia ib) s

/-- IMAX.B (R183). -/
def wImaxB (iq : BitVec 2) (id ia ib : BitVec 4) : Word := backWord iq .max true id ia ib
def execImaxB (iq : BitVec 2) (id ia ib : BitVec 4) (s : State) : Host.Outcome State Fault Refusal :=
  issueAlone (wImaxB iq id ia ib) s

/-- IABS.B (R183). -/
def wIabsB (iq : BitVec 2) (id ia : BitVec 4) : Word := backWord iq .abs false id ia ia
def execIabsB (iq : BitVec 2) (id ia : BitVec 4) (s : State) : Host.Outcome State Fault Refusal :=
  issueAlone (wIabsB iq id ia) s

/-! ## The set group (R182) -/

/-- The midpoint of a nonempty interval, infinite bounds replaced by the largest finite ones; the NaN of an empty one. -/
def ivMid (x : Option Iv) : W32 :=
  match x with
  | none => f32NaN
  | some v =>
    let lo := if v.lo = f32Inf true then f32Max true else v.lo
    let hi := if v.hi = f32Inf false then f32Max false else v.hi
    numF32 .rne (numMul (numAdd (f32Num lo) (f32Num hi)) (.fin false 1 (-1)))

/-- The width rounded up. -/
def ivWid (x : Option Iv) : W32 :=
  match x with
  | none => f32NaN
  | some v =>
    if v.lo = f32Inf true ∨ v.hi = f32Inf false then f32Inf false else plusZero (numF32 .rup v.width)

/-- A word that writes lanes 0 to 63 of v[id], id naming v0 to v15; lanes 64 to 127 become +0 (R182). -/
def ivToVec (iq : BitVec 2) (id : BitVec 4) (f : Agent → Nat → W32) : Word :=
  { Word.base 5 iq with
    writes := [.v (id.setWidth 5)]
    act := fun s n a => a.fly (s.agent n).icyc 6
      (.v (id.setWidth 5) (BitVec.allOnes 4096) (ofLanes ((List.range 64).map (f (s.agent n))))) }

/-- The two halves of a lane around its midpoint. -/
def lowerHalf (x : Option Iv) : Option Iv := x.bind (fun v => ivOf v.lo (ivMid x))
def upperHalf (x : Option Iv) : Option Iv := x.bind (fun v => ivOf (ivMid x) v.hi)

/-- IHULL (R182). -/
def wIhull (iq : BitVec 2) (id ia ib : BitVec 4) : Word :=
  ivWord iq id (fun a l => ivHull (ivLane (a.getI ia) l) (ivLane (a.getI ib) l))
def execIhull (iq : BitVec 2) (id ia ib : BitVec 4) (s : State) : Host.Outcome State Fault Refusal :=
  issueAlone (wIhull iq id ia ib) s

/-- IMEET (R182). -/
def wImeet (iq : BitVec 2) (id ia ib : BitVec 4) : Word :=
  ivWord iq id (fun a l => ivMeet (ivLane (a.getI ia) l) (ivLane (a.getI ib) l))
def execImeet (iq : BitVec 2) (id ia ib : BitVec 4) (s : State) : Host.Outcome State Fault Refusal :=
  issueAlone (wImeet iq id ia ib) s

/-- ISPLIT (R182): id receives the lower half, ib the upper; id = ib is an illegal encoding. -/
def wIsplit (iq : BitVec 2) (id ia ib : BitVec 4) : Word :=
  { Word.base 5 iq with
    prof := fun p => profBase 5 p && decide (id ≠ ib)
    writes := [.i id, .i ib]
    act := fun s n a =>
      let x := (s.agent n).getI ia
      let c := (s.agent n).icyc
      (a.fly c 6 (.i id (ivVec (fun l => lowerHalf (ivLane x l))))).fly c 6 (.i ib (ivVec (fun l => upperHalf (ivLane x l)))) }
def execIsplit (iq : BitVec 2) (id ia ib : BitVec 4) (s : State) : Host.Outcome State Fault Refusal :=
  issueAlone (wIsplit iq id ia ib) s

/-- IFROM (R182): ia and ib name v0 to v15. -/
def wIfrom (iq : BitVec 2) (id ia ib : BitVec 4) : Word :=
  ivWord iq id (fun a l => ivOf (lane (a.getV (ia.setWidth 5)) l) (lane (a.getV (ib.setWidth 5)) l))
def execIfrom (iq : BitVec 2) (id ia ib : BitVec 4) (s : State) : Host.Outcome State Fault Refusal :=
  issueAlone (wIfrom iq id ia ib) s

/-- ITOLO (R182): the bound as it stands. -/
def wItolo (iq : BitVec 2) (id ia : BitVec 4) : Word := ivToVec iq id (fun a l => lane (a.getI ia) (2 * l))
def execItolo (iq : BitVec 2) (id ia : BitVec 4) (s : State) : Host.Outcome State Fault Refusal :=
  issueAlone (wItolo iq id ia) s

/-- ITOHI (R182). -/
def wItohi (iq : BitVec 2) (id ia : BitVec 4) : Word := ivToVec iq id (fun a l => lane (a.getI ia) (2 * l + 1))
def execItohi (iq : BitVec 2) (id ia : BitVec 4) (s : State) : Host.Outcome State Fault Refusal :=
  issueAlone (wItohi iq id ia) s

/-- IMID (R182). -/
def wImid (iq : BitVec 2) (id ia : BitVec 4) : Word := ivToVec iq id (fun a l => ivMid (ivLane (a.getI ia) l))
def execImid (iq : BitVec 2) (id ia : BitVec 4) (s : State) : Host.Outcome State Fault Refusal :=
  issueAlone (wImid iq id ia) s

/-- IWID (R182). -/
def wIwid (iq : BitVec 2) (id ia : BitVec 4) : Word := ivToVec iq id (fun a l => ivWid (ivLane (a.getI ia) l))
def execIwid (iq : BitVec 2) (id ia : BitVec 4) (s : State) : Host.Outcome State Fault Refusal :=
  issueAlone (wIwid iq id ia) s

/-! ## The compare group (R185) -/

/-- The predicates of pair `tp`: p1 and p2, p3 and p4, p5 and p6 (R24). -/
def sureReg (tp : BitVec 3) : BitVec 3 := 2 * tp - 1
def possReg (tp : BitVec 3) : BitVec 3 := 2 * tp

/-- A compare: bit k of the pair reports lane k, bits 64 to 127 are 0 (R185). -/
def ivCmp (iq : BitVec 2) (ia ib : BitVec 4) (tp : BitVec 3) (f : Option Iv → Option Iv → Bool × Bool) : Word :=
  { Word.base 5 iq with
    writes := [.p (sureReg tp), .p (possReg tp)]
    act := fun s n a =>
      let pre := s.agent n
      let r (l : Nat) : Bool × Bool := f (ivLane (pre.getI ia) l) (ivLane (pre.getI ib) l)
      (a.fly pre.icyc 6 (.p (sureReg tp) (mkPred (fun l => decide (l < 64) && (r l).1)))).fly pre.icyc 6
        (.p (possReg tp) (mkPred (fun l => decide (l < 64) && (r l).2))) }

/-- A relation of two nonempty lanes; (0, 0) when either is empty. -/
def onBoth (f : Iv → Iv → Bool × Bool) (x y : Option Iv) : Bool × Bool :=
  match x, y with
  | some a, some b => f a b
  | _, _ => (false, false)

/-- a ⊆ b and a ∩ b empty (R185). -/
def ivSubset (x y : Option Iv) : Bool :=
  match x, y with
  | none, _ => true
  | some _, none => false
  | some a, some b => f32Le b.lo a.lo && f32Le a.hi b.hi
def ivDisj (x y : Option Iv) : Bool := ivMeet x y == none

/-- ICMPLT (R185). -/
def wIcmplt (iq : BitVec 2) (ia ib : BitVec 4) (tp : BitVec 3) : Word :=
  ivCmp iq ia ib tp (onBoth (fun a b => (f32Lt a.hi b.lo, f32Lt a.lo b.hi)))
def execIcmplt (iq : BitVec 2) (ia ib : BitVec 4) (tp : BitVec 3) (s : State) : Host.Outcome State Fault Refusal :=
  issueAlone (wIcmplt iq ia ib tp) s

/-- ICMPLE (R185). -/
def wIcmple (iq : BitVec 2) (ia ib : BitVec 4) (tp : BitVec 3) : Word :=
  ivCmp iq ia ib tp (onBoth (fun a b => (f32Le a.hi b.lo, f32Le a.lo b.hi)))
def execIcmple (iq : BitVec 2) (ia ib : BitVec 4) (tp : BitVec 3) (s : State) : Host.Outcome State Fault Refusal :=
  issueAlone (wIcmple iq ia ib tp) s

/-- ICMPEQ (R185). -/
def wIcmpeq (iq : BitVec 2) (ia ib : BitVec 4) (tp : BitVec 3) : Word :=
  ivCmp iq ia ib tp (onBoth (fun a b =>
    (f32Eq a.lo a.hi && f32Eq a.hi b.lo && f32Eq b.lo b.hi, !ivDisj (some a) (some b))))
def execIcmpeq (iq : BitVec 2) (ia ib : BitVec 4) (tp : BitVec 3) (s : State) : Host.Outcome State Fault Refusal :=
  issueAlone (wIcmpeq iq ia ib tp) s

/-- ISUBSET (R185). -/
def wIsubset (iq : BitVec 2) (ia ib : BitVec 4) (tp : BitVec 3) : Word :=
  ivCmp iq ia ib tp (fun x y => (ivSubset x y, ivSubset x y))
def execIsubset (iq : BitVec 2) (ia ib : BitVec 4) (tp : BitVec 3) (s : State) : Host.Outcome State Fault Refusal :=
  issueAlone (wIsubset iq ia ib tp) s

/-- IDISJ (R185). -/
def wIdisj (iq : BitVec 2) (ia ib : BitVec 4) (tp : BitVec 3) : Word :=
  ivCmp iq ia ib tp (fun x y => (ivDisj x y, ivDisj x y))
def execIdisj (iq : BitVec 2) (ia ib : BitVec 4) (tp : BitVec 3) (s : State) : Host.Outcome State Fault Refusal :=
  issueAlone (wIdisj iq ia ib tp) s

end Sys2Proof.Machine
end

