-- ==== Sys2Proof/Machine/Matrix.lean ====
section
/-!
DEFINITION. Slot 6: plane loads, matrix multiplies, the repeat prefix and MDRAIN (08 R186–R201).
-/

namespace Sys2Proof.Machine

/-- MLDB and MLDBL: the frame lands in the plane that is the shadow at issue, 8 issue cycles later (R192). -/
def planeWord (iq : BitVec 2) (ar : BitVec 4) (off : BitVec 20) (swap : Bool) : Word :=
  let place (a : Agent) : W64 := nearOff (a.getA ar) (off.signExtend 64)
  { Word.base 6 iq with
    chk := fun s n => frameCheck s n (place (s.agent n))
    act := fun s n a =>
      let pre := s.agent n
      let load : PlaneLoad :=
        { due := pre.icyc + 8, plane := 1 - pre.r.active, frame := BitVec.ofNat 8 ((place pre).toNat / 32768), swap := swap }
      { a with planeLoads := a.planeLoads ++ [load] } }

/-- MLDB (R192). -/
def wMldb (iq : BitVec 2) (a : BitVec 4) (off : BitVec 20) : Word := planeWord iq a off false
def execMldb (iq : BitVec 2) (a : BitVec 4) (off : BitVec 20) (s : State) : Host.Outcome State Fault Refusal :=
  issueAlone (wMldb iq a off) s

/-- MMA (R194, R195). -/
def wMma (iq : BitVec 2) (t q : BitVec 4) (pk : BitVec 1) (rows : BitVec 7) : Word := mmaWord iq false t q pk rows
def execMma (iq : BitVec 2) (t q : BitVec 4) (pk : BitVec 1) (rows : BitVec 7) (s : State) :
    Host.Outcome State Fault Refusal := issueAlone (wMma iq t q pk rows) s

/-- MMAZ (R194, R195). -/
def wMmaz (iq : BitVec 2) (t q : BitVec 4) (pk : BitVec 1) (rows : BitVec 7) : Word := mmaWord iq true t q pk rows
def execMmaz (iq : BitVec 2) (t q : BitVec 4) (pk : BitVec 1) (rows : BitVec 7) (s : State) :
    Host.Outcome State Fault Refusal := issueAlone (wMmaz iq t q pk rows) s

/-- MREP (R198): arms the prefix for the next bundle. -/
def wMrep (iq : BitVec 2) (n : BitVec 8) : Word := { Word.base 6 iq with arm := some n }
def execMrep (iq : BitVec 2) (n : BitVec 8) (s : State) : Host.Outcome State Fault Refusal := issueAlone (wMrep iq n) s

/-- MDRAIN (R196): waits after the other slots have issued. -/
def wMdrain (iq : BitVec 2) (t : BitVec 4) : Word := { Word.base 6 iq with act := fun _ _ a => { a with mdrain := some t } }
def execMdrain (iq : BitVec 2) (t : BitVec 4) (s : State) : Host.Outcome State Fault Refusal := issueAlone (wMdrain iq t) s

/-- MLDBL (R192): the landing also swaps the planes. -/
def wMldbl (iq : BitVec 2) (a : BitVec 4) (off : BitVec 20) : Word := planeWord iq a off true
def execMldbl (iq : BitVec 2) (a : BitVec 4) (off : BitVec 20) (s : State) : Host.Outcome State Fault Refusal :=
  issueAlone (wMldbl iq a off) s

/-- MSWB (R193): waits for every plane load, then swaps the planes and clears KC. -/
def mswbWord (iq : BitVec 2) : Word :=
  { Word.base 6 iq with
    hold := .planes
    act := fun s n a => { a with r := { a.r with active := 1 - (s.agent n).r.active, kc := 0 } } }
def wMswb : Word := mswbWord 0
def wMswbFirst : Word := mswbWord 1
def wMswbLast : Word := mswbWord 2
def execMswb (s : State) : Host.Outcome State Fault Refusal := issueAlone wMswb s
def execMswbFirst (s : State) : Host.Outcome State Fault Refusal := issueAlone wMswbFirst s
def execMswbLast (s : State) : Host.Outcome State Fault Refusal := issueAlone wMswbLast s

end Sys2Proof.Machine
end

