-- ==== Sys2Proof/Machine/Scalar.lean ====
section
/-!
DEFINITION. Slots 1 and 2: integers, addresses, scalar FP32, single queue words, shape records and identifiers (03 R75–R94).
-/

namespace Sys2Proof.Machine

/-- 1 for true, 0 for false (R77, R80). -/
def truth (b : Bool) : W64 := if b then 1 else 0

/-- A signed value saturated to 64 bits (R77). -/
def satS (x : Int) : W64 := BitVec.ofInt 64 (max (-(2 ^ 63)) (min (2 ^ 63 - 1) x))

/-- Bits 127:64 of the signed product (R77). -/
def mulHigh (x y : W64) : W64 := BitVec.ofInt 64 (x.toInt * y.toInt / 2 ^ 64)

/-- Bits 127:64 of the unsigned product (R77). -/
def mulHighU (x y : W64) : W64 := BitVec.ofNat 64 (x.toNat * y.toNat / 2 ^ 64)

/-- The quotients and remainders of R77 with their borderline cases. -/
def quotS (x y : W64) : W64 := if y = 0 then BitVec.allOnes 64 else x.sdiv y
def quotU (x y : W64) : W64 := if y = 0 then BitVec.allOnes 64 else x / y
def remS (x y : W64) : W64 := if y = 0 then x else x.srem y
def remU (x y : W64) : W64 := if y = 0 then x else x % y

/-- Leading zero bits; 64 for zero (R77). -/
def leadingZeros (x : W64) : W64 := if x = 0 then 64 else BitVec.ofNat 64 (63 - Nat.log2 x.toNat)

/-- One bits (R77). -/
def onesCount (x : W64) : W64 := BitVec.ofNat 64 ((List.range 64).countP (fun k => x.getLsbD k))

/-- Bits 31:0 (R79). -/
def low32 (x : W64) : W32 := x.setWidth 32

/-- An FP32 result with bits 63:32 zero (R79). -/
def wide (x : W32) : W64 := x.setWidth 64

/-! ## Integer instructions (R77, R78) -/

/-- ADD (R77). -/
def wAdd (iq : BitVec 2) (d : BitVec 5) (a : BitVec 5) (b : BitVec 5) : Word :=
  sWord iq d 1 (fun r => (r.getS a) + (r.getS b))
def execAdd (iq : BitVec 2) (d : BitVec 5) (a : BitVec 5) (b : BitVec 5) (s : State) : Host.Outcome State Fault Refusal :=
  issueAlone (wAdd iq d a b) s

/-- SUB (R77). -/
def wSub (iq : BitVec 2) (d : BitVec 5) (a : BitVec 5) (b : BitVec 5) : Word :=
  sWord iq d 1 (fun r => (r.getS a) - (r.getS b))
def execSub (iq : BitVec 2) (d : BitVec 5) (a : BitVec 5) (b : BitVec 5) (s : State) : Host.Outcome State Fault Refusal :=
  issueAlone (wSub iq d a b) s

/-- ADDI (R77). -/
def wAddi (iq : BitVec 2) (d : BitVec 5) (a : BitVec 5) (imm : BitVec 14) : Word :=
  sWord iq d 1 (fun r => (r.getS a) + (imm.signExtend 64))
def execAddi (iq : BitVec 2) (d : BitVec 5) (a : BitVec 5) (imm : BitVec 14) (s : State) : Host.Outcome State Fault Refusal :=
  issueAlone (wAddi iq d a imm) s

/-- MUL (R77). -/
def wMul (iq : BitVec 2) (d : BitVec 5) (a : BitVec 5) (b : BitVec 5) : Word :=
  sWord iq d 3 (fun r => (r.getS a) * (r.getS b))
def execMul (iq : BitVec 2) (d : BitVec 5) (a : BitVec 5) (b : BitVec 5) (s : State) : Host.Outcome State Fault Refusal :=
  issueAlone (wMul iq d a b) s

/-- MULH (R77). -/
def wMulh (iq : BitVec 2) (d : BitVec 5) (a : BitVec 5) (b : BitVec 5) : Word :=
  sWord iq d 3 (fun r => mulHigh (r.getS a) (r.getS b))
def execMulh (iq : BitVec 2) (d : BitVec 5) (a : BitVec 5) (b : BitVec 5) (s : State) : Host.Outcome State Fault Refusal :=
  issueAlone (wMulh iq d a b) s

/-- MULHU (R77). -/
def wMulhu (iq : BitVec 2) (d : BitVec 5) (a : BitVec 5) (b : BitVec 5) : Word :=
  sWord iq d 3 (fun r => mulHighU (r.getS a) (r.getS b))
def execMulhu (iq : BitVec 2) (d : BitVec 5) (a : BitVec 5) (b : BitVec 5) (s : State) : Host.Outcome State Fault Refusal :=
  issueAlone (wMulhu iq d a b) s

/-- DIV (R77). -/
def wDiv (iq : BitVec 2) (d : BitVec 5) (a : BitVec 5) (b : BitVec 5) : Word :=
  sWord iq d 12 (fun r => quotS (r.getS a) (r.getS b))
def execDiv (iq : BitVec 2) (d : BitVec 5) (a : BitVec 5) (b : BitVec 5) (s : State) : Host.Outcome State Fault Refusal :=
  issueAlone (wDiv iq d a b) s

/-- DIVU (R77). -/
def wDivu (iq : BitVec 2) (d : BitVec 5) (a : BitVec 5) (b : BitVec 5) : Word :=
  sWord iq d 12 (fun r => quotU (r.getS a) (r.getS b))
def execDivu (iq : BitVec 2) (d : BitVec 5) (a : BitVec 5) (b : BitVec 5) (s : State) : Host.Outcome State Fault Refusal :=
  issueAlone (wDivu iq d a b) s

/-- REM (R77). -/
def wRem (iq : BitVec 2) (d : BitVec 5) (a : BitVec 5) (b : BitVec 5) : Word :=
  sWord iq d 12 (fun r => remS (r.getS a) (r.getS b))
def execRem (iq : BitVec 2) (d : BitVec 5) (a : BitVec 5) (b : BitVec 5) (s : State) : Host.Outcome State Fault Refusal :=
  issueAlone (wRem iq d a b) s

/-- REMU (R77). -/
def wRemu (iq : BitVec 2) (d : BitVec 5) (a : BitVec 5) (b : BitVec 5) : Word :=
  sWord iq d 12 (fun r => remU (r.getS a) (r.getS b))
def execRemu (iq : BitVec 2) (d : BitVec 5) (a : BitVec 5) (b : BitVec 5) (s : State) : Host.Outcome State Fault Refusal :=
  issueAlone (wRemu iq d a b) s

/-- AND (R77). -/
def wAnd (iq : BitVec 2) (d : BitVec 5) (a : BitVec 5) (b : BitVec 5) : Word :=
  sWord iq d 1 (fun r => (r.getS a) &&& (r.getS b))
def execAnd (iq : BitVec 2) (d : BitVec 5) (a : BitVec 5) (b : BitVec 5) (s : State) : Host.Outcome State Fault Refusal :=
  issueAlone (wAnd iq d a b) s

/-- OR (R77). -/
def wOr (iq : BitVec 2) (d : BitVec 5) (a : BitVec 5) (b : BitVec 5) : Word :=
  sWord iq d 1 (fun r => (r.getS a) ||| (r.getS b))
def execOr (iq : BitVec 2) (d : BitVec 5) (a : BitVec 5) (b : BitVec 5) (s : State) : Host.Outcome State Fault Refusal :=
  issueAlone (wOr iq d a b) s

/-- XOR (R77). -/
def wXor (iq : BitVec 2) (d : BitVec 5) (a : BitVec 5) (b : BitVec 5) : Word :=
  sWord iq d 1 (fun r => (r.getS a) ^^^ (r.getS b))
def execXor (iq : BitVec 2) (d : BitVec 5) (a : BitVec 5) (b : BitVec 5) (s : State) : Host.Outcome State Fault Refusal :=
  issueAlone (wXor iq d a b) s

/-- ANDI (R77). -/
def wAndi (iq : BitVec 2) (d : BitVec 5) (a : BitVec 5) (imm : BitVec 14) : Word :=
  sWord iq d 1 (fun r => (r.getS a) &&& (imm.signExtend 64))
def execAndi (iq : BitVec 2) (d : BitVec 5) (a : BitVec 5) (imm : BitVec 14) (s : State) : Host.Outcome State Fault Refusal :=
  issueAlone (wAndi iq d a imm) s

/-- ORI (R77). -/
def wOri (iq : BitVec 2) (d : BitVec 5) (a : BitVec 5) (imm : BitVec 14) : Word :=
  sWord iq d 1 (fun r => (r.getS a) ||| (imm.signExtend 64))
def execOri (iq : BitVec 2) (d : BitVec 5) (a : BitVec 5) (imm : BitVec 14) (s : State) : Host.Outcome State Fault Refusal :=
  issueAlone (wOri iq d a imm) s

/-- XORI (R77). -/
def wXori (iq : BitVec 2) (d : BitVec 5) (a : BitVec 5) (imm : BitVec 14) : Word :=
  sWord iq d 1 (fun r => (r.getS a) ^^^ (imm.signExtend 64))
def execXori (iq : BitVec 2) (d : BitVec 5) (a : BitVec 5) (imm : BitVec 14) (s : State) : Host.Outcome State Fault Refusal :=
  issueAlone (wXori iq d a imm) s

/-- SLL (R77). -/
def wSll (iq : BitVec 2) (d : BitVec 5) (a : BitVec 5) (b : BitVec 5) : Word :=
  sWord iq d 1 (fun r => (r.getS a) <<< ((r.getS b).toNat % 64))
def execSll (iq : BitVec 2) (d : BitVec 5) (a : BitVec 5) (b : BitVec 5) (s : State) : Host.Outcome State Fault Refusal :=
  issueAlone (wSll iq d a b) s

/-- SRL (R77). -/
def wSrl (iq : BitVec 2) (d : BitVec 5) (a : BitVec 5) (b : BitVec 5) : Word :=
  sWord iq d 1 (fun r => (r.getS a) >>> ((r.getS b).toNat % 64))
def execSrl (iq : BitVec 2) (d : BitVec 5) (a : BitVec 5) (b : BitVec 5) (s : State) : Host.Outcome State Fault Refusal :=
  issueAlone (wSrl iq d a b) s

/-- SRA (R77). -/
def wSra (iq : BitVec 2) (d : BitVec 5) (a : BitVec 5) (b : BitVec 5) : Word :=
  sWord iq d 1 (fun r => (r.getS a).sshiftRight ((r.getS b).toNat % 64))
def execSra (iq : BitVec 2) (d : BitVec 5) (a : BitVec 5) (b : BitVec 5) (s : State) : Host.Outcome State Fault Refusal :=
  issueAlone (wSra iq d a b) s

/-- SLLI (R77). -/
def wSlli (iq : BitVec 2) (d : BitVec 5) (a : BitVec 5) (sh : BitVec 6) : Word :=
  sWord iq d 1 (fun r => (r.getS a) <<< sh.toNat)
def execSlli (iq : BitVec 2) (d : BitVec 5) (a : BitVec 5) (sh : BitVec 6) (s : State) : Host.Outcome State Fault Refusal :=
  issueAlone (wSlli iq d a sh) s

/-- SRLI (R77). -/
def wSrli (iq : BitVec 2) (d : BitVec 5) (a : BitVec 5) (sh : BitVec 6) : Word :=
  sWord iq d 1 (fun r => (r.getS a) >>> sh.toNat)
def execSrli (iq : BitVec 2) (d : BitVec 5) (a : BitVec 5) (sh : BitVec 6) (s : State) : Host.Outcome State Fault Refusal :=
  issueAlone (wSrli iq d a sh) s

/-- SRAI (R77). -/
def wSrai (iq : BitVec 2) (d : BitVec 5) (a : BitVec 5) (sh : BitVec 6) : Word :=
  sWord iq d 1 (fun r => (r.getS a).sshiftRight sh.toNat)
def execSrai (iq : BitVec 2) (d : BitVec 5) (a : BitVec 5) (sh : BitVec 6) (s : State) : Host.Outcome State Fault Refusal :=
  issueAlone (wSrai iq d a sh) s

/-- SLT (R77). -/
def wSlt (iq : BitVec 2) (d : BitVec 5) (a : BitVec 5) (b : BitVec 5) : Word :=
  sWord iq d 1 (fun r => truth ((r.getS a).slt (r.getS b)))
def execSlt (iq : BitVec 2) (d : BitVec 5) (a : BitVec 5) (b : BitVec 5) (s : State) : Host.Outcome State Fault Refusal :=
  issueAlone (wSlt iq d a b) s

/-- SLTU (R77). -/
def wSltu (iq : BitVec 2) (d : BitVec 5) (a : BitVec 5) (b : BitVec 5) : Word :=
  sWord iq d 1 (fun r => truth ((r.getS a).ult (r.getS b)))
def execSltu (iq : BitVec 2) (d : BitVec 5) (a : BitVec 5) (b : BitVec 5) (s : State) : Host.Outcome State Fault Refusal :=
  issueAlone (wSltu iq d a b) s

/-- SLTI (R77). -/
def wSlti (iq : BitVec 2) (d : BitVec 5) (a : BitVec 5) (imm : BitVec 14) : Word :=
  sWord iq d 1 (fun r => truth ((r.getS a).slt (imm.signExtend 64)))
def execSlti (iq : BitVec 2) (d : BitVec 5) (a : BitVec 5) (imm : BitVec 14) (s : State) : Host.Outcome State Fault Refusal :=
  issueAlone (wSlti iq d a imm) s

/-- MIN (R77). -/
def wMin (iq : BitVec 2) (d : BitVec 5) (a : BitVec 5) (b : BitVec 5) : Word :=
  sWord iq d 1 (fun r => if (r.getS a).slt (r.getS b) then (r.getS a) else (r.getS b))
def execMin (iq : BitVec 2) (d : BitVec 5) (a : BitVec 5) (b : BitVec 5) (s : State) : Host.Outcome State Fault Refusal :=
  issueAlone (wMin iq d a b) s

/-- MAX (R77). -/
def wMax (iq : BitVec 2) (d : BitVec 5) (a : BitVec 5) (b : BitVec 5) : Word :=
  sWord iq d 1 (fun r => if (r.getS a).slt (r.getS b) then (r.getS b) else (r.getS a))
def execMax (iq : BitVec 2) (d : BitVec 5) (a : BitVec 5) (b : BitVec 5) (s : State) : Host.Outcome State Fault Refusal :=
  issueAlone (wMax iq d a b) s

/-- MINU (R77). -/
def wMinu (iq : BitVec 2) (d : BitVec 5) (a : BitVec 5) (b : BitVec 5) : Word :=
  sWord iq d 1 (fun r => if (r.getS a).ult (r.getS b) then (r.getS a) else (r.getS b))
def execMinu (iq : BitVec 2) (d : BitVec 5) (a : BitVec 5) (b : BitVec 5) (s : State) : Host.Outcome State Fault Refusal :=
  issueAlone (wMinu iq d a b) s

/-- MAXU (R77). -/
def wMaxu (iq : BitVec 2) (d : BitVec 5) (a : BitVec 5) (b : BitVec 5) : Word :=
  sWord iq d 1 (fun r => if (r.getS a).ult (r.getS b) then (r.getS b) else (r.getS a))
def execMaxu (iq : BitVec 2) (d : BitVec 5) (a : BitVec 5) (b : BitVec 5) (s : State) : Host.Outcome State Fault Refusal :=
  issueAlone (wMaxu iq d a b) s

/-- CLZ (R77). -/
def wClz (iq : BitVec 2) (d : BitVec 5) (a : BitVec 5) : Word := sWord iq d 1 (fun r => leadingZeros (r.getS a))
def execClz (iq : BitVec 2) (d : BitVec 5) (a : BitVec 5) (s : State) : Host.Outcome State Fault Refusal :=
  issueAlone (wClz iq d a) s

/-- POPC (R77). -/
def wPopc (iq : BitVec 2) (d : BitVec 5) (a : BitVec 5) : Word := sWord iq d 1 (fun r => onesCount (r.getS a))
def execPopc (iq : BitVec 2) (d : BitVec 5) (a : BitVec 5) (s : State) : Host.Outcome State Fault Refusal :=
  issueAlone (wPopc iq d a) s

/-- CMOV (R77): with a zero condition nothing lands, yet it counts as a writer of sd. -/
def wCmov (iq : BitVec 2) (d : BitVec 5) (a : BitVec 5) (b : BitVec 5) : Word :=
  { sWord iq d 1 (fun r => r.getS a) with
    act := fun s n r => if (s.agent n).getS b = 0 then r else r.fly (s.agent n).icyc 1 (.s d ((s.agent n).getS a)) }
def execCmov (iq : BitVec 2) (d : BitVec 5) (a : BitVec 5) (b : BitVec 5) (s : State) : Host.Outcome State Fault Refusal :=
  issueAlone (wCmov iq d a b) s

/-- LI (R78). -/
def wLi (iq : BitVec 2) (d : BitVec 5) (imm : BitVec 19) : Word := sWord iq d 1 (fun _ => imm.signExtend 64)
def execLi (iq : BitVec 2) (d : BitVec 5) (imm : BitVec 19) (s : State) : Host.Outcome State Fault Refusal :=
  issueAlone (wLi iq d imm) s

/-- LUI (R78). -/
def wLui (iq : BitVec 2) (d : BitVec 5) (imm : BitVec 19) : Word :=
  sWord iq d 1 (fun r => (r.getS d <<< 19) ||| imm.setWidth 64)
def execLui (iq : BitVec 2) (d : BitVec 5) (imm : BitVec 19) (s : State) : Host.Outcome State Fault Refusal :=
  issueAlone (wLui iq d imm) s

/-- ADDS (R77). -/
def wAdds (iq : BitVec 2) (d : BitVec 5) (a : BitVec 5) (b : BitVec 5) : Word :=
  sWord iq d 1 (fun r => satS ((r.getS a).toInt + (r.getS b).toInt))
def execAdds (iq : BitVec 2) (d : BitVec 5) (a : BitVec 5) (b : BitVec 5) (s : State) : Host.Outcome State Fault Refusal :=
  issueAlone (wAdds iq d a b) s

/-- SUBS (R77). -/
def wSubs (iq : BitVec 2) (d : BitVec 5) (a : BitVec 5) (b : BitVec 5) : Word :=
  sWord iq d 1 (fun r => satS ((r.getS a).toInt - (r.getS b).toInt))
def execSubs (iq : BitVec 2) (d : BitVec 5) (a : BitVec 5) (b : BitVec 5) (s : State) : Host.Outcome State Fault Refusal :=
  issueAlone (wSubs iq d a b) s

/-! ## Address instructions (R82) -/

/-- AMOV (R82). -/
def wAmov (iq : BitVec 2) (d : BitVec 4) (a : BitVec 5) : Word := aWord iq d (fun r => r.getS a)
def execAmov (iq : BitVec 2) (d : BitVec 4) (a : BitVec 5) (s : State) : Host.Outcome State Fault Refusal :=
  issueAlone (wAmov iq d a) s

/-- AGET (R82). -/
def wAget (iq : BitVec 2) (d : BitVec 5) (a : BitVec 4) : Word := sWord iq d 1 (fun r => r.getA a)
def execAget (iq : BitVec 2) (d : BitVec 5) (a : BitVec 4) (s : State) : Host.Outcome State Fault Refusal :=
  issueAlone (wAget iq d a) s

/-- AADD (R82). -/
def wAadd (iq : BitVec 2) (d : BitVec 4) (a : BitVec 4) (b : BitVec 5) : Word := aWord iq d (fun r => r.getA a + r.getS b)
def execAadd (iq : BitVec 2) (d : BitVec 4) (a : BitVec 4) (b : BitVec 5) (s : State) : Host.Outcome State Fault Refusal :=
  issueAlone (wAadd iq d a b) s

/-- AADDI (R82). -/
def wAaddi (iq : BitVec 2) (d : BitVec 4) (a : BitVec 4) (imm : BitVec 14) : Word :=
  aWord iq d (fun r => r.getA a + imm.signExtend 64)
def execAaddi (iq : BitVec 2) (d : BitVec 4) (a : BitVec 4) (imm : BitVec 14) (s : State) :
    Host.Outcome State Fault Refusal := issueAlone (wAaddi iq d a imm) s

/-- AGEN (R82). -/
def wAgen (iq : BitVec 2) (d : BitVec 4) (a : BitVec 5) (b : BitVec 5) (layer : BitVec 8) : Word :=
  aWord iq d (fun r =>
    r.r.kvbase + r.getS a * r.r.kvslot + layer.setWidth 64 * r.r.kvlayer + r.getS b * r.r.kvtok)
def execAgen (iq : BitVec 2) (d : BitVec 4) (a : BitVec 5) (b : BitVec 5) (layer : BitVec 8) (s : State) :
    Host.Outcome State Fault Refusal := issueAlone (wAgen iq d a b layer) s

/-! ## Scalar FP32 (R79–R81) -/

/-- FADD (R79). -/
def wFadd (iq : BitVec 2) (d : BitVec 5) (a : BitVec 5) (b : BitVec 5) : Word :=
  sWord iq d 4 (fun r => wide (f32Add (low32 (r.getS a)) (low32 (r.getS b))))
def execFadd (iq : BitVec 2) (d : BitVec 5) (a : BitVec 5) (b : BitVec 5) (s : State) : Host.Outcome State Fault Refusal :=
  issueAlone (wFadd iq d a b) s

/-- FSUB (R79). -/
def wFsub (iq : BitVec 2) (d : BitVec 5) (a : BitVec 5) (b : BitVec 5) : Word :=
  sWord iq d 4 (fun r => wide (f32Sub (low32 (r.getS a)) (low32 (r.getS b))))
def execFsub (iq : BitVec 2) (d : BitVec 5) (a : BitVec 5) (b : BitVec 5) (s : State) : Host.Outcome State Fault Refusal :=
  issueAlone (wFsub iq d a b) s

/-- FMUL (R79). -/
def wFmul (iq : BitVec 2) (d : BitVec 5) (a : BitVec 5) (b : BitVec 5) : Word :=
  sWord iq d 4 (fun r => wide (f32Mul (low32 (r.getS a)) (low32 (r.getS b))))
def execFmul (iq : BitVec 2) (d : BitVec 5) (a : BitVec 5) (b : BitVec 5) (s : State) : Host.Outcome State Fault Refusal :=
  issueAlone (wFmul iq d a b) s

/-- FDIV (R79). -/
def wFdiv (iq : BitVec 2) (d : BitVec 5) (a : BitVec 5) (b : BitVec 5) : Word :=
  sWord iq d 12 (fun r => wide (f32Div (low32 (r.getS a)) (low32 (r.getS b))))
def execFdiv (iq : BitVec 2) (d : BitVec 5) (a : BitVec 5) (b : BitVec 5) (s : State) : Host.Outcome State Fault Refusal :=
  issueAlone (wFdiv iq d a b) s

/-- FMIN (R79). -/
def wFmin (iq : BitVec 2) (d : BitVec 5) (a : BitVec 5) (b : BitVec 5) : Word :=
  sWord iq d 4 (fun r => wide (f32Min (low32 (r.getS a)) (low32 (r.getS b))))
def execFmin (iq : BitVec 2) (d : BitVec 5) (a : BitVec 5) (b : BitVec 5) (s : State) : Host.Outcome State Fault Refusal :=
  issueAlone (wFmin iq d a b) s

/-- FMAX (R79). -/
def wFmax (iq : BitVec 2) (d : BitVec 5) (a : BitVec 5) (b : BitVec 5) : Word :=
  sWord iq d 4 (fun r => wide (f32MaxOf (low32 (r.getS a)) (low32 (r.getS b))))
def execFmax (iq : BitVec 2) (d : BitVec 5) (a : BitVec 5) (b : BitVec 5) (s : State) : Host.Outcome State Fault Refusal :=
  issueAlone (wFmax iq d a b) s

/-- FCMP.EQ (R80). -/
def wFcmpEq (iq : BitVec 2) (d : BitVec 5) (a : BitVec 5) (b : BitVec 5) : Word :=
  sWord iq d 4 (fun r => truth (f32Eq (low32 (r.getS a)) (low32 (r.getS b))))
def execFcmpEq (iq : BitVec 2) (d : BitVec 5) (a : BitVec 5) (b : BitVec 5) (s : State) : Host.Outcome State Fault Refusal :=
  issueAlone (wFcmpEq iq d a b) s

/-- FCMP.LT (R80). -/
def wFcmpLt (iq : BitVec 2) (d : BitVec 5) (a : BitVec 5) (b : BitVec 5) : Word :=
  sWord iq d 4 (fun r => truth (f32Lt (low32 (r.getS a)) (low32 (r.getS b))))
def execFcmpLt (iq : BitVec 2) (d : BitVec 5) (a : BitVec 5) (b : BitVec 5) (s : State) : Host.Outcome State Fault Refusal :=
  issueAlone (wFcmpLt iq d a b) s

/-- FCMP.LE (R80). -/
def wFcmpLe (iq : BitVec 2) (d : BitVec 5) (a : BitVec 5) (b : BitVec 5) : Word :=
  sWord iq d 4 (fun r => truth (f32Le (low32 (r.getS a)) (low32 (r.getS b))))
def execFcmpLe (iq : BitVec 2) (d : BitVec 5) (a : BitVec 5) (b : BitVec 5) (s : State) : Host.Outcome State Fault Refusal :=
  issueAlone (wFcmpLe iq d a b) s

/-- FCMP.UN (R80). -/
def wFcmpUn (iq : BitVec 2) (d : BitVec 5) (a : BitVec 5) (b : BitVec 5) : Word :=
  sWord iq d 4 (fun r => truth (f32Un (low32 (r.getS a)) (low32 (r.getS b))))
def execFcmpUn (iq : BitVec 2) (d : BitVec 5) (a : BitVec 5) (b : BitVec 5) (s : State) : Host.Outcome State Fault Refusal :=
  issueAlone (wFcmpUn iq d a b) s

/-- FCVT.F2I (R81). -/
def wFcvtF2i (iq : BitVec 2) (d : BitVec 5) (a : BitVec 5) : Word := sWord iq d 4 (fun r => f32ToI64 (low32 (r.getS a)))
def execFcvtF2i (iq : BitVec 2) (d : BitVec 5) (a : BitVec 5) (s : State) : Host.Outcome State Fault Refusal :=
  issueAlone (wFcvtF2i iq d a) s

/-- FCVT.I2F (R81). -/
def wFcvtI2f (iq : BitVec 2) (d : BitVec 5) (a : BitVec 5) : Word := sWord iq d 4 (fun r => wide (i64ToF32 (r.getS a)))
def execFcvtI2f (iq : BitVec 2) (d : BitVec 5) (a : BitVec 5) (s : State) : Host.Outcome State Fault Refusal :=
  issueAlone (wFcvtI2f iq d a) s

/-- FCVT.F2BF (R81). -/
def wFcvtF2bf (iq : BitVec 2) (d : BitVec 5) (a : BitVec 5) : Word :=
  sWord iq d 4 (fun r => (f32ToBf16 (low32 (r.getS a))).setWidth 64)
def execFcvtF2bf (iq : BitVec 2) (d : BitVec 5) (a : BitVec 5) (s : State) : Host.Outcome State Fault Refusal :=
  issueAlone (wFcvtF2bf iq d a) s

/-- FCVT.BF2F (R81). -/
def wFcvtBf2f (iq : BitVec 2) (d : BitVec 5) (a : BitVec 5) : Word :=
  sWord iq d 4 (fun r => wide (bf16ToF32 ((r.getS a).setWidth 16)))
def execFcvtBf2f (iq : BitVec 2) (d : BitVec 5) (a : BitVec 5) (s : State) : Host.Outcome State Fault Refusal :=
  issueAlone (wFcvtBf2f iq d a) s

/-! ## Queues (R88) -/

/-- QPOPS (R88). -/
def wQpops (iq : BitVec 2) (d : BitVec 5) (q : BitVec 4) (pk : BitVec 1) (w : BitVec 6) : Word :=
  { sWord iq d 1 (fun r => word64 (r.head q) w.toNat) with
    prof := fun p => profBase 1 p && queueOk q p
    ops := [⟨q, pk == 1⟩] }
def execQpops (iq : BitVec 2) (d : BitVec 5) (q : BitVec 4) (pk : BitVec 1) (w : BitVec 6) (s : State) :
    Host.Outcome State Fault Refusal := issueAlone (wQpops iq d q pk w) s

/-- QPUSHS (R88): an entry whose word 0 is sa. -/
def wQpushs (iq : BitVec 2) (q : BitVec 4) (a : BitVec 5) : Word :=
  { Word.base 1 iq with
    prof := fun p => profBase 1 p && queueOk q p
    pushes := [q]
    act := fun s n r => r.fly (s.agent n).icyc 1 (.push q (entryOf ((s.agent n).getS a))) }
def execQpushs (iq : BitVec 2) (q : BitVec 4) (a : BitVec 5) (s : State) : Host.Outcome State Fault Refusal :=
  issueAlone (wQpushs iq q a) s

/-! ## Shape records (R93, R94) -/

/-- A loom controller has the shape registers of slot 7 only (R37). -/
def shapeOk (slot : BitVec 2) (p : Prof) : Bool := profBase 1 p && (!p.ctl || decide (slot = 3))

/-- SHW (R93): lands in the copy that is shadow at landing. -/
def wShw (iq : BitVec 2) (slot : BitVec 2) (h : BitVec 2) (a : BitVec 5) (field : BitVec 9) : Word :=
  { Word.base 1 iq with
    prof := shapeOk slot
    writes := [.shape slot h field]
    act := fun s n r => r.fly (s.agent n).icyc 1 (.shape slot h field ((s.agent n).getS a)) }
def execShw (iq : BitVec 2) (slot : BitVec 2) (h : BitVec 2) (a : BitVec 5) (field : BitVec 9) (s : State) :
    Host.Outcome State Fault Refusal := issueAlone (wShw iq slot h a field) s

/-- SHR (R93): the shadow copy before the bundle. -/
def wShr (iq : BitVec 2) (d : BitVec 5) (slot : BitVec 2) (h : BitVec 2) (field : BitVec 9) : Word :=
  { sWord iq d 1 (fun r => (r.shape slot h 1).field field) with prof := shapeOk slot }
def execShr (iq : BitVec 2) (d : BitVec 5) (slot : BitVec 2) (h : BitVec 2) (field : BitVec 9) (s : State) :
    Host.Outcome State Fault Refusal := issueAlone (wShr iq d slot h field) s

/-! ## Identifiers (R83) -/

/-- A slot-1 or slot-2 word that writes a constant of the agent. -/
def idWord (iq : BitVec 2) (d : BitVec 5) (f : Nat → Nat) : Word :=
  { Word.base 1 iq with
    writes := [.s d]
    act := fun s n r => r.fly (s.agent n).icyc 1 (.s d (BitVec.ofNat 64 (f n))) }

/-- RDRANK.rank (R83). -/
def wRdrankRank (iq : BitVec 2) (d : BitVec 5) : Word := idWord iq d rankOf
def execRdrankRank (iq : BitVec 2) (d : BitVec 5) (s : State) : Host.Outcome State Fault Refusal :=
  issueAlone (wRdrankRank iq d) s

/-- RDRANK.loom (R83). -/
def wRdrankLoom (iq : BitVec 2) (d : BitVec 5) : Word := idWord iq d (fun n => loomOf n % 6)
def execRdrankLoom (iq : BitVec 2) (d : BitVec 5) (s : State) : Host.Outcome State Fault Refusal :=
  issueAlone (wRdrankLoom iq d) s

/-- RDRANK.die (R83). -/
def wRdrankDie (iq : BitVec 2) (d : BitVec 5) : Word := idWord iq d dieOf
def execRdrankDie (iq : BitVec 2) (d : BitVec 5) (s : State) : Host.Outcome State Fault Refusal :=
  issueAlone (wRdrankDie iq d) s

/-- RDRANK.core (R83). -/
def wRdrankCore (iq : BitVec 2) (d : BitVec 5) : Word := idWord iq d id
def execRdrankCore (iq : BitVec 2) (d : BitVec 5) (s : State) : Host.Outcome State Fault Refusal :=
  issueAlone (wRdrankCore iq d) s

end Sys2Proof.Machine
end

