-- ==== Sys2Proof/Machine/Words.lean ====
section
/-!
DEFINITION. The issue word of every slot word's instruction, for a bundle of several words. The machine's own steps and the rows of the
outside have none.
-/

namespace Sys2Proof.Machine

/-- The word that an instruction brings to the issue of its bundle. -/
def wordOf : Instr → Option Word
  | .br iq disp => some (wBr iq disp)
  | .bc iq cond s disp => some (wBc iq cond s disp)
  | .bpany iq p disp => some (wBpany iq p disp)
  | .bpnone iq p disp => some (wBpnone iq p disp)
  | .call iq disp => some (wCall iq disp)
  | .jr iq s => some (wJr iq s)
  | .ret iq => some (wRet iq)
  | .loop iq lvl s len => some (wLoop iq lvl s len)
  | .loopi iq lvl cnt len => some (wLoopi iq lvl cnt len)
  | .loops iq lvl bs len => some (wLoops iq lvl bs len)
  | .lbreak iq lvl => some (wLbreak iq lvl)
  | .lstride iq lvl a s => some (wLstride iq lvl a s)
  | .lidx iq d lvl => some (wLidx iq d lvl)
  | .ckpt iq => some (wCkpt iq)
  | .ckptl iq => some (wCkptl iq)
  | .fmt iq fam val => some (wFmt iq fam val)
  | .fmts iq fam s => some (wFmts iq fam s)
  | .wfe iq => some (wWfe iq)
  | .sev iq s => some (wSev iq s)
  | .waitt iq s => some (wWaitt iq s)
  | .qwait iq q n => some (wQwait iq q n)
  | .qalign iq far near => some (wQalign iq far near)
  | .fence iq scope kind => some (wFence iq scope kind)
  | .uimask iq m => some (wUimask iq m)
  | .trap iq imm => some (wTrap iq imm)
  | .csrr iq d csr => some (wCsrr iq d csr)
  | .csrw iq s csr => some (wCsrw iq s csr)
  | .brk iq imm => some (wBrk iq imm)
  | .twait iq c s => some (wTwait iq c s)
  | .twaita iq a s => some (wTwaita iq a s)
  | .sleepc iq s => some (wSleepc iq s)
  | .add iq d a b => some (wAdd iq d a b)
  | .sub iq d a b => some (wSub iq d a b)
  | .addi iq d a imm => some (wAddi iq d a imm)
  | .mul iq d a b => some (wMul iq d a b)
  | .mulh iq d a b => some (wMulh iq d a b)
  | .mulhu iq d a b => some (wMulhu iq d a b)
  | .div iq d a b => some (wDiv iq d a b)
  | .divu iq d a b => some (wDivu iq d a b)
  | .rem iq d a b => some (wRem iq d a b)
  | .remu iq d a b => some (wRemu iq d a b)
  | .and iq d a b => some (wAnd iq d a b)
  | .or iq d a b => some (wOr iq d a b)
  | .xor iq d a b => some (wXor iq d a b)
  | .andi iq d a imm => some (wAndi iq d a imm)
  | .ori iq d a imm => some (wOri iq d a imm)
  | .xori iq d a imm => some (wXori iq d a imm)
  | .sll iq d a b => some (wSll iq d a b)
  | .srl iq d a b => some (wSrl iq d a b)
  | .sra iq d a b => some (wSra iq d a b)
  | .slli iq d a sh => some (wSlli iq d a sh)
  | .srli iq d a sh => some (wSrli iq d a sh)
  | .srai iq d a sh => some (wSrai iq d a sh)
  | .slt iq d a b => some (wSlt iq d a b)
  | .sltu iq d a b => some (wSltu iq d a b)
  | .slti iq d a imm => some (wSlti iq d a imm)
  | .min iq d a b => some (wMin iq d a b)
  | .max iq d a b => some (wMax iq d a b)
  | .minu iq d a b => some (wMinu iq d a b)
  | .maxu iq d a b => some (wMaxu iq d a b)
  | .clz iq d a => some (wClz iq d a)
  | .popc iq d a => some (wPopc iq d a)
  | .cmov iq d a b => some (wCmov iq d a b)
  | .li iq d imm => some (wLi iq d imm)
  | .lui iq d imm => some (wLui iq d imm)
  | .adds iq d a b => some (wAdds iq d a b)
  | .subs iq d a b => some (wSubs iq d a b)
  | .amov iq d a => some (wAmov iq d a)
  | .aget iq d a => some (wAget iq d a)
  | .aadd iq d a b => some (wAadd iq d a b)
  | .aaddi iq d a imm => some (wAaddi iq d a imm)
  | .agen iq d a b layer => some (wAgen iq d a b layer)
  | .fadd iq d a b => some (wFadd iq d a b)
  | .fsub iq d a b => some (wFsub iq d a b)
  | .fmul iq d a b => some (wFmul iq d a b)
  | .fdiv iq d a b => some (wFdiv iq d a b)
  | .fmin iq d a b => some (wFmin iq d a b)
  | .fmax iq d a b => some (wFmax iq d a b)
  | .fcmpEq iq d a b => some (wFcmpEq iq d a b)
  | .fcmpLt iq d a b => some (wFcmpLt iq d a b)
  | .fcmpLe iq d a b => some (wFcmpLe iq d a b)
  | .fcmpUn iq d a b => some (wFcmpUn iq d a b)
  | .fcvtF2i iq d a => some (wFcvtF2i iq d a)
  | .fcvtI2f iq d a => some (wFcvtI2f iq d a)
  | .fcvtF2bf iq d a => some (wFcvtF2bf iq d a)
  | .fcvtBf2f iq d a => some (wFcvtBf2f iq d a)
  | .qpops iq d q pk w => some (wQpops iq d q pk w)
  | .qpushs iq q a => some (wQpushs iq q a)
  | .shw iq slot h a field => some (wShw iq slot h a field)
  | .shr iq d slot h field => some (wShr iq d slot h field)
  | .rdrankRank iq d => some (wRdrankRank iq d)
  | .rdrankLoom iq d => some (wRdrankLoom iq d)
  | .rdrankDie iq d => some (wRdrankDie iq d)
  | .rdrankCore iq d => some (wRdrankCore iq d)
  | .nld iq q a pi off => some (wNld iq q a pi off)
  | .nldh iq q a pi off => some (wNldh iq q a pi off)
  | .nldb iq q a pi off => some (wNldb iq q a pi off)
  | .nldx iq q a pi s off => some (wNldx iq q a pi s off)
  | .nst iq q a pi off => some (wNst iq q a pi off)
  | .nsth iq q a pi off => some (wNsth iq q a pi off)
  | .nstx iq q a pi s off => some (wNstx iq q a pi s off)
  | .ard iq q t a pi row => some (wArd iq q t a pi row)
  | .ardc iq q t a pi row => some (wArdc iq q t a pi row)
  | .awr iq q t a pi row => some (wAwr iq q t a pi row)
  | .aacc iq q t a pi row => some (wAacc iq q t a pi row)
  | .azero iq t a pi row => some (wAzero iq t a pi row)
  | .ascl iq q t => some (wAscl iq q t)
  | .ardt iq q t a pi row => some (wArdt iq q t a pi row)
  | .vadd iq vd va vb ma mb pg md => some (wVadd iq vd va vb ma mb pg md)
  | .vsub iq vd va vb ma mb pg md => some (wVsub iq vd va vb ma mb pg md)
  | .vmul iq vd va vb ma mb pg md => some (wVmul iq vd va vb ma mb pg md)
  | .vfma iq vd va vb ma mb pg => some (wVfma iq vd va vb ma mb pg)
  | .vfms iq vd va vb ma mb pg => some (wVfms iq vd va vb ma mb pg)
  | .vmin iq vd va vb ma mb pg md => some (wVmin iq vd va vb ma mb pg md)
  | .vmax iq vd va vb ma mb pg md => some (wVmax iq vd va vb ma mb pg md)
  | .vabs iq vd va ma pg md => some (wVabs iq vd va ma pg md)
  | .vneg iq vd va ma pg md => some (wVneg iq vd va ma pg md)
  | .vrcp iq vd va ma pg md => some (wVrcp iq vd va ma pg md)
  | .vrsq iq vd va ma pg md => some (wVrsq iq vd va ma pg md)
  | .vsqrt iq vd va ma pg md => some (wVsqrt iq vd va ma pg md)
  | .vdiv iq vd va vb ma mb pg md => some (wVdiv iq vd va vb ma mb pg md)
  | .vexp2 iq vd va ma pg md => some (wVexp2 iq vd va ma pg md)
  | .vexp iq vd va ma pg md => some (wVexp iq vd va ma pg md)
  | .vlog2 iq vd va ma pg md => some (wVlog2 iq vd va ma pg md)
  | .vsig iq vd va ma pg md => some (wVsig iq vd va ma pg md)
  | .vtanh iq vd va ma pg md => some (wVtanh iq vd va ma pg md)
  | .vcvt iq vd va ma pg md => some (wVcvt iq vd va ma pg md)
  | .vpexp iq vd va vb ma mb pg md => some (wVpexp iq vd va vb ma mb pg md)
  | .vpmac iq vd va vb ma mb pg => some (wVpmac iq vd va vb ma mb pg)
  | .vcmpeq iq pd va vb ma mb pg => some (wVcmpeq iq pd va vb ma mb pg)
  | .vcmplt iq pd va vb ma mb pg => some (wVcmplt iq pd va vb ma mb pg)
  | .vcmple iq pd va vb ma mb pg => some (wVcmple iq pd va vb ma mb pg)
  | .vcmpun iq pd va vb ma mb pg => some (wVcmpun iq pd va vb ma mb pg)
  | .viadd iq vd va vb ma mb pg md => some (wViadd iq vd va vb ma mb pg md)
  | .visub iq vd va vb ma mb pg md => some (wVisub iq vd va vb ma mb pg md)
  | .vimul iq vd va vb ma mb pg md => some (wVimul iq vd va vb ma mb pg md)
  | .vimin iq vd va vb ma mb pg md => some (wVimin iq vd va vb ma mb pg md)
  | .vimax iq vd va vb ma mb pg md => some (wVimax iq vd va vb ma mb pg md)
  | .vand iq vd va vb ma mb pg md => some (wVand iq vd va vb ma mb pg md)
  | .vor iq vd va vb ma mb pg md => some (wVor iq vd va vb ma mb pg md)
  | .vxor iq vd va vb ma mb pg md => some (wVxor iq vd va vb ma mb pg md)
  | .vnot iq vd va ma pg md => some (wVnot iq vd va ma pg md)
  | .vshl iq vd va vb ma mb pg md => some (wVshl iq vd va vb ma mb pg md)
  | .vshr iq vd va vb ma mb pg md => some (wVshr iq vd va vb ma mb pg md)
  | .vsra iq vd va vb ma mb pg md => some (wVsra iq vd va vb ma mb pg md)
  | .vdot4 iq vd va vb ma mb pg md => some (wVdot4 iq vd va vb ma mb pg md)
  | .vicmpeq iq pd va vb ma mb pg => some (wVicmpeq iq pd va vb ma mb pg)
  | .vicmplt iq pd va vb ma mb pg => some (wVicmplt iq pd va vb ma mb pg)
  | .vmov iq vd va ma pg md => some (wVmov iq vd va ma pg md)
  | .vsel iq vd va vb ma mb pg md => some (wVsel iq vd va vb ma mb pg md)
  | .vperm iq vd va vb ma mb pg md => some (wVperm iq vd va vb ma mb pg md)
  | .vrot iq vd va vb ma mb pg md => some (wVrot iq vd va vb ma mb pg md)
  | .viota iq vd pg md => some (wViota iq vd pg md)
  | .vpack iq vd va vb ma mb pg md => some (wVpack iq vd va vb ma mb pg md)
  | .vunpk iq vd va ma pg md => some (wVunpk iq vd va ma pg md)
  | .vrsum iq vd va ma pg md => some (wVrsum iq vd va ma pg md)
  | .vrmax iq vd va ma pg md => some (wVrmax iq vd va ma pg md)
  | .vrmin iq vd va ma pg md => some (wVrmin iq vd va ma pg md)
  | .vmaxi iq vd va ma pg md => some (wVmaxi iq vd va ma pg md)
  | .vmini iq vd va ma pg md => some (wVmini iq vd va ma pg md)
  | .vscan iq vd va ma pg md => some (wVscan iq vd va ma pg md)
  | .pand iq pd pa pb => some (wPand iq pd pa pb)
  | .por iq pd pa pb => some (wPor iq pd pa pb)
  | .pxor iq pd pa pb => some (wPxor iq pd pa pb)
  | .pnot iq pd pa => some (wPnot iq pd pa)
  | .pcnt iq d pa => some (wPcnt iq d pa)
  | .pset iq pd s => some (wPset iq pd s)
  | .iadd iq id ia ib => some (wIadd iq id ia ib)
  | .isub iq id ia ib => some (wIsub iq id ia ib)
  | .imul iq id ia ib => some (wImul iq id ia ib)
  | .idiv iq id ia ib => some (wIdiv iq id ia ib)
  | .isqr iq id ia => some (wIsqr iq id ia)
  | .isqrt iq id ia => some (wIsqrt iq id ia)
  | .iexp iq id ia => some (wIexp iq id ia)
  | .ilog iq id ia => some (wIlog iq id ia)
  | .imin iq id ia ib => some (wImin iq id ia ib)
  | .imax iq id ia ib => some (wImax iq id ia ib)
  | .iabs iq id ia => some (wIabs iq id ia)
  | .iaddB iq id ia ib => some (wIaddB iq id ia ib)
  | .isubB iq id ia ib => some (wIsubB iq id ia ib)
  | .imulB iq id ia ib => some (wImulB iq id ia ib)
  | .idivB iq id ia ib => some (wIdivB iq id ia ib)
  | .isqrB iq id ia => some (wIsqrB iq id ia)
  | .isqrtB iq id ia => some (wIsqrtB iq id ia)
  | .iexpB iq id ia => some (wIexpB iq id ia)
  | .ilogB iq id ia => some (wIlogB iq id ia)
  | .iminB iq id ia ib => some (wIminB iq id ia ib)
  | .imaxB iq id ia ib => some (wImaxB iq id ia ib)
  | .iabsB iq id ia => some (wIabsB iq id ia)
  | .ihull iq id ia ib => some (wIhull iq id ia ib)
  | .imeet iq id ia ib => some (wImeet iq id ia ib)
  | .isplit iq id ia ib => some (wIsplit iq id ia ib)
  | .ifrom iq id ia ib => some (wIfrom iq id ia ib)
  | .itolo iq id ia => some (wItolo iq id ia)
  | .itohi iq id ia => some (wItohi iq id ia)
  | .imid iq id ia => some (wImid iq id ia)
  | .iwid iq id ia => some (wIwid iq id ia)
  | .icmplt iq ia ib tp => some (wIcmplt iq ia ib tp)
  | .icmple iq ia ib tp => some (wIcmple iq ia ib tp)
  | .icmpeq iq ia ib tp => some (wIcmpeq iq ia ib tp)
  | .isubset iq ia ib tp => some (wIsubset iq ia ib tp)
  | .idisj iq ia ib tp => some (wIdisj iq ia ib tp)
  | .mldb iq a off => some (wMldb iq a off)
  | .mma iq t q pk rows => some (wMma iq t q pk rows)
  | .mmaz iq t q pk rows => some (wMmaz iq t q pk rows)
  | .mrep iq n => some (wMrep iq n)
  | .mdrain iq t => some (wMdrain iq t)
  | .mldbl iq a off => some (wMldbl iq a off)
  | .fld iq c h sw => some (wFld iq c h sw)
  | .flds iq c s => some (wFlds iq c s)
  | .fst iq h sw q => some (wFst iq h sw q)
  | .fsts iq s q => some (wFsts iq s q)
  | .amadd iq s s2 wd => some (wAmadd iq s s2 wd)
  | .amaddF iq c s s2 wd => some (wAmaddF iq c s s2 wd)
  | .ammax iq s s2 wd => some (wAmmax iq s s2 wd)
  | .ammaxF iq c s s2 wd => some (wAmmaxF iq c s s2 wd)
  | .ammin iq s s2 wd => some (wAmmin iq s s2 wd)
  | .amminF iq c s s2 wd => some (wAmminF iq c s s2 wd)
  | .amxchg iq c s s2 wd => some (wAmxchg iq c s s2 wd)
  | .amcas iq c s s2 wd => some (wAmcas iq c s s2 wd)
  | .wcadd iq s s2 code => some (wWcadd iq s s2 code)
  | .wcaddv iq s q code => some (wWcaddv iq s q code)
  | .wcread iq c s => some (wWcread iq c s)
  | .xcopy iq c h sw hsrc => some (wXcopy iq c h sw hsrc)
  | .xgather iq c h sw s s2 hsrc => some (wXgather iq c h sw s s2 hsrc)
  | .xscatter iq c h sw s s2 hsrc => some (wXscatter iq c h sw s s2 hsrc)
  | .xfill iq c h sw s => some (wXfill iq c h sw s)
  | .wstream iq h sw enc hsrc => some (wWstream iq h sw enc hsrc)
  | .xsplice iq c h sw s s2 => some (wXsplice iq c h sw s s2)
  | .xdarn iq c h sw s s2 => some (wXdarn iq c h sw s s2)
  | .xdarnc iq c s => some (wXdarnc iq c s)
  | .xnote iq s c => some (wXnote iq s c)
  | .tread iq s c => some (wTread iq s c)
  | .xqp iq s s2 => some (wXqp iq s s2)
  | .xmbox iq s s2 => some (wXmbox iq s s2)
  | .xarm iq s s2 => some (wXarm iq s s2)
  | .xlaunch iq s s2 => some (wXlaunch iq s s2)
  | .rent iq s s2 att tier => some (wRent iq s s2 att tier)
  | .renew iq s s2 tier => some (wRenew iq s s2 tier)
  | .prepay iq s s2 tier => some (wPrepay iq s s2 tier)
  | .sublet iq s s2 rw tier => some (wSublet iq s s2 rw tier)
  | .vacate iq s s2 tier => some (wVacate iq s s2 tier)
  | .rentq iq s s2 tier => some (wRentq iq s s2 tier)
  | .allowq iq s => some (wAllowq iq s)
  | .istatRead iq d => some (wCsrr iq d 0x005)
  | .srseedWrite iq s => some (wCsrw iq s 0x017)
  | .skewWrite iq s => some (wCsrw iq s 0x102)
  | .rateWrite iq s tier => some (wCsrw iq s (0x140 + tier.setWidth 12))
  | .sliceWrite iq s => some (wCsrw iq s 0x103)
  | .evcntWrite iq s k => some (wCsrw iq s (0x208 + k.setWidth 12))
  | .genayReply _ _ => none
  | .resultLanding _ => none
  | .nearPerform _ => none
  | .planeLoadLand _ => none
  | .partialSumAdd _ => none
  | .scoreboardStallEnd _ => none
  | .mdrainEnd _ => none
  | .checkpointComplete _ => none
  | .waittEnd _ => none
  | .sleepcEnd _ => none
  | .qwaitEnd _ => none
  | .twaitEnd _ => none
  | .twaitaPoll _ => none
  | .wfeWake _ => none
  | .depart _ _ => none
  | .hop _ => none
  | .perform _ => none
  | .arrive _ => none
  | .start _ _ => none
  | .darncStart _ _ => none
  | .tileLaunchStart _ => none
  | .complete _ _ => none
  | .workEntryComplete _ _ => none
  | .fabricReceive _ => none
  | .rentCommit _ => none
  | .rentClockTick => none
  | .pitchExpiry _ => none
  | .overstayTick _ => none
  | .scrubStart _ => none
  | .scrubDone _ => none
  | .rentScrubWait _ _ => none
  | .rowGroupRefresh _ => none
  | .patrolScrub _ => none
  | .quarantine _ _ => none
  | .powerSample _ _ => none
  | .thermalThrottle _ => none
  | .thermalTrip _ => none
  | .packageReset => none
  | .taskPlacement _ => none
  | .taskStart _ _ => none
  | .dependenceMet _ => none
  | .sliceExpiry _ _ => none
  | .watchdogExpiry _ => none
  | .drainForceStop _ => none
  | .taskSetCompletion _ => none
  | .msixTimer _ => none
  | .notifyTail _ _ => none
  | .notifyPrio _ _ => none
  | .notifyInvalidWrite _ _ _ => none
  | .launch _ => none
  | .barrier _ => none
  | .credit _ => none
  | .report _ => none
  | .account _ => none
  | .partition _ => none
  | .queue _ => none
  | .pasidrevRevoke _ => none
  | .pasidrevRestore _ => none
  | .pageUnmap _ => none
  | .pageReadonly _ => none
  | .pageWritable _ => none
  | .pageDemote _ => none
  | .pageShare _ => none
  | .desc _ => none
  | .status _ => none
  | .debugStop _ => none
  | .debugResume _ => none
  | .saveioRead _ => none
  | .saveioWrite _ => none
  | .fwpatch _ => none
  | .fwstage _ => none
  | .fwupdate _ => none
  | .qpRecordWrite _ _ => none
  | .hostMemoryAccess _ _ _ => none
  | .atsInvalidation _ _ _ _ _ => none
  | .pasidStop _ => none
  | .tdispMessage _ _ => none
  | .spdmMessage _ _ => none
  | .fabricLaunch _ _ _ _ => none
  | .fwupdateTimeout => none
  | .entryRead _ => none
  | .linkFailure _ => none
  | .nop => some (wNop)
  | .uiret => some (wUiret)
  | .uiretFirst => some (wUiretFirst)
  | .uiretLast => some (wUiretLast)
  | .eret => some (wEret)
  | .eretFirst => some (wEretFirst)
  | .eretLast => some (wEretLast)
  | .halt => some (wHalt)
  | .haltFirst => some (wHaltFirst)
  | .haltLast => some (wHaltLast)
  | .mswb => some (wMswb)
  | .mswbFirst => some (wMswbFirst)
  | .mswbLast => some (wMswbLast)

end Sys2Proof.Machine
end

