-- ==== Sys2Proof/Machine/Fetch.lean ====
section
/-!
DEFINITION. The fetch of a bundle and its issue as a whole: translation, the eight words, the check of their encodings (01 R17, R36,
02 R46, R52, R53, 14 R305).
-/

namespace Sys2Proof.Machine

/-! ## The bytes (R53, R305) -/

/-- Whether a byte of the rented region is mapped: from the acceptance of its RENT until its pitch enters scrubbing, unless a
supervisor command has unmapped the page (R302). -/
def State.mapped (s : State) (va : Nat) : Bool :=
  match s.findPitch 4 0 va with
  | some (_, p) =>
    !p.vacated && (p.state == .tentative || p.state == .leased || p.state == .overstay || p.state == .lapsed) &&
      !(s.page va).unmapped
  | none => false

/-- What refuses the fetch of the bundle at `pc`: 0x0B where it does not translate (R52, R305), 0x11 on poison. The fetch is no access
of R109's table, so no rent is checked. -/
def State.fetchFault (s : State) (n pc : Nat) : Option Byte :=
  let host : Bool := match regionOf pc with
    | .host _ => (s.hostCheck (s.agent n).who false pc 32).isNone
    | .rented => s.mapped pc
    | _ => false
  if !host then some 0x0B else if (s.vaPoison n (s.agent n).who.pasid pc 32).isSome then some 0x11 else none

/-- The bytes that an agent's fetch sees in place of its own task's stores (R53). -/
def State.ownCode (s : State) (n : Nat) : Tab (Option Byte) :=
  match (s.agent n).task with
  | none => []
  | some k =>
    match Tab.get none s.tasksets k.ts with
    | none => []
    | some t =>
      match t.tasks[k.j]? with
      | none => []
      | some x => x.code

/-- One byte of a bundle. -/
def State.fetchByte (s : State) (n va : Nat) : Byte :=
  let a := s.storage n (s.agent n).who.pasid va
  match Tab.get none (s.ownCode n) a with
  | some b => b
  | none => s.mem.read a

/-- The bytes of the bundle at `pc`. -/
def State.fetchBytes (s : State) (n : Nat) (pc : Nat) : Nat → List Byte
  | 0 => []
  | k + 1 => s.fetchByte n pc :: s.fetchBytes n (pc + 1) k

/-- The bundle at `pc`, its first word in bits 31:0 (R17). -/
def State.bundleAt (s : State) (n pc : Nat) : BitVec 256 := BitVec.ofNat 256 (natOfBytes (s.fetchBytes n pc 32))

/-! ## The words (R17, R20, R36, R38 step 1) -/

/-- The word that slot `k` of a bundle brings: none for NOP. -/
def bundleWord (b : BitVec 256) (k : Nat) : Except Reject (Option Word) :=
  if slotWord b k = 0 then .ok none
  else match decodeSlot k (slotWord b k) with
    | .error e => .error e
    | .ok i => .ok ((wordOf i).map (fun w => { w with slot := k }))

/-- The eight slots. -/
def bundleWords (b : BitVec 256) : List (Except Reject (Option Word)) := (List.range 8).map (bundleWord b)

/-- The words that decode, in slot order. -/
def goodWords (xs : List (Except Reject (Option Word))) : List Word :=
  xs.filterMap (fun x => match x with
    | .ok w => w
    | .error _ => none)

/-- The lowest slot whose word does not decode. -/
def badSlot : Nat → List (Except Reject (Option Word)) → Option Nat
  | _, [] => none
  | k, .error _ :: _ => some k
  | k, .ok _ :: xs => badSlot (k + 1) xs

/-- The lowest offending slot of R38 step 1, a word that does not decode in slot `k` among them. -/
def State.illegalSlot (s : State) (n k : Nat) (ws : List Word) : Nat :=
  let a := s.agent n
  let p : Prof := { ctl := isCtl n, mode := a.mode }
  match firstSlot (fun w => !w.prof p || (decide (repeated a ≠ []) && w.slot == 6)) ws with
  | some j => min j k
  | none => k

/-- The issue of a fetched bundle. One of NOPs alone issues as NOP. -/
def State.issueWords (s : State) (n : Nat) (b : BitVec 256) : State :=
  let xs := bundleWords b
  let ws := goodWords xs
  match badSlot 0 xs with
  | some k =>
    s.takeTrap n { cause := 0x01, slot := s.illegalSlot n k ws, imm := 0, faddr := (s.agent n).r.pc } false
  | none => s.issue n (if ws.isEmpty then [wNop] else ws)

/-- The next bundle of agent `n` is fetched and issued. -/
def State.issueNext (s : State) (n : Nat) : State :=
  let pc := (s.agent n).r.pc
  match s.fetchFault n pc.toNat with
  | some c => s.takeTrap n { cause := c, slot := 0, imm := 0, faddr := pc } false
  | none => s.issueWords n (s.bundleAt n pc.toNat)

end Sys2Proof.Machine
end

