-- ==== Sys2Proof/Machine/Clock.lean ====
section
/-!
DEFINITION. The rent clock's tick, and what the tick in progress still owes (04 R96, R102, 13 R297, 18 R356, 22 R365).
-/

namespace Sys2Proof.Machine

/-- Whether an agent waits, stalls or stands still. -/
def Agent.waits (a : Agent) : Bool :=
  decide (a.wait ≠ .none) || decide (a.stall ≠ .none) || a.mdrain.isSome || a.board.isSome

/-- Whether issue is held by the package management block (23 R369, R370). -/
def State.issueHeld (s : State) : Bool := s.powerHold || s.currentHold || s.thermalHold

/-- Whether agent `n`, or every rank of its gang, can issue its next bundle. Issue is held in some cycles only: the bundle that R356
asks for in this tick issues (23 R369). -/
def State.canIssue (s : State) (n : Nat) : Bool :=
  (s.agent n).task.isSome && (!s.issueHeld || (s.agent n).woken) && (s.members n).all (fun m => !(s.agent m).waits && !(s.agent m).landing)

/-- Whether an agent still owes this tick what R356 asks of it: a WAITT that may end, or the bundle after one, unless a stop or a
slot-7 stall of the WAITT's own bundle holds it. -/
def State.owesTick (s : State) (n : Nat) : Bool :=
  let a := s.agent n
  (match a.wait with
  | .waitt t => decide (t.toNat ≤ s.now.toNat) && !a.abandons
  | _ => false) ||
    (a.woken && a.task.isSome && (s.members n).all (fun m =>
      decide ((s.agent m).wait = .none) && decide ((s.agent m).stall = .none) && (s.agent m).board.isNone))

/-- Whether the next bundle of agent `n` holds a checkpoint. -/
def State.nearCkpt (s : State) (n : Nat) : Bool :=
  let pc := (s.agent n).r.pc.toNat
  (s.fetchFault n pc).isNone && (match decodeSlot 0 (slotWord (s.bundleAt n pc) 0) with
    | .ok (.ckpt _) => true
    | .ok (.ckptl _) => true
    | _ => false)

/-- Whether only the landing of its own results keeps agent `n` or its gang from completing the checkpoint at which it stands: its loads have
arrived and its release has room. -/
def State.atCkpt (s : State) (ms : List Nat) : Bool :=
  ms.all (fun m =>
    let a := s.agent m
    (match a.wait with | .ckpt _ _ _ => true | _ => false) && decide (a.stall = .none) && s.loadsArrived m && !s.poisonDue m &&
      s.roomToRelease m)

/-- Whether only the landing of results keeps agent `n` or its gang from issuing. -/
def State.aboutToIssue (s : State) (n : Nat) : Bool :=
  (s.agent n).task.isSome && (!s.issueHeld || (s.agent n).woken) &&
    (s.members n).all (fun m => decide ((s.agent m).wait = .none) && decide ((s.agent m).stall = .none))

/-- Whether an agent of a discarded set still owes this tick its stop: it stands at a checkpoint or a stop that may complete, or a drain's
request has found it one step from one (22 R365). -/
def State.owesStop (s : State) (n : Nat) : Bool :=
  let a := s.agent n
  match a.stop.watchdog with
  | none => false
  | some k =>
    let ms := s.members n
    (match a.wait with
    | .ckpt _ _ _ => s.atCkpt ms
    | .stop => s.stopReady ms
    | .none => decide (k = 0) && s.aboutToIssue n && s.nearCkpt (ms.headD n)
    | _ => false)

/-- Whether this tick still owes a step: a sweep (04 R102), the end of a WAITT (18 R356), the start of a drain (13 R297), the stop of
an agent that is one step from its checkpoint (22 R365) and the end of an update's wait (15 R329). -/
def State.tickBusy (s : State) : Bool :=
  s.updateLate || s.pitches.any (fun kp => s.sweepDue kp.1) || s.agents.any (fun na => s.owesTick na.1 || s.owesStop na.1) ||
    s.tasksets.any (fun e => match e.2 with
      | some t => s.drainDue t
      | none => false)

/-- Tick `now` for a task set: the slices of its tasks that hold their looms, and its own held ticks (R290, R297). -/
def State.tickSet (s : State) (now ts : Nat) (t : TaskSet) : TaskSet :=
  TaskSet.count { t with tasks := t.tasks.mapIdx (fun j x => if s.loomHeld ts j x then { x with held := x.held + 1 } else x) }
    (s.setHolds ts t) now

/-- RENT_CLOCK_TICK (R96): the next tick begins once the steps of this one are done. -/
def State.rentClockTick (s : State) : State :=
  if s.tickBusy then s
  else { s with
    now := s.now + 1
    tasksets := s.tasksets.map (fun e => (e.1, e.2.map (s.tickSet (s.now + 1).toNat e.1))) }
def execRentClockTick (s : State) : Host.Outcome State Fault Refusal := .next s.rentClockTick

end Sys2Proof.Machine
end

