-- ==== Sys2Proof/Machine/Auto.lean ====
section
/-!
DEFINITION. The moves that the machine makes of itself where the outside has chosen none: the first of them, in a fixed order, that
changes the state (log 4). Every one is a row of the opcode table; any of them may be chosen at any time instead.
-/

namespace Sys2Proof.Machine

/-- A move. -/
abbrev Move := State → Host.Outcome State Fault Refusal

/-- The state that a move leads to. -/
def Move.run (f : Move) (s : State) : State :=
  match f s with
  | .next t => t
  | _ => s

/-- The first move that changes the state. -/
def State.firstChange (s : State) : List Move → Option State
  | [] => none
  | f :: fs => if f.run s = s then s.firstChange fs else some (f.run s)

/-- QALIGN's or an acquire's hold, which no row of the table ends (10 R239, R240). -/
def releaseMove (n : Nat) : Move := fun s => .next (s.release n)

/-- What agent `n` may be waiting for: its landings, its stalls, its wait. -/
def agentMoves (n : Nat) : List Move :=
  let k : BitVec 9 := BitVec.ofNat 9 n
  [execResultLanding k, execNearPerform k, execPlaneLoadLand k, execPartialSumAdd k, execScoreboardStallEnd k, execMdrainEnd k,
    execGenayReply k 0, execEntryRead k, execCheckpointComplete k, execWaittEnd k, execQwaitEnd k, execWfeWake k, execTwaitEnd k,
    execTwaitaPoll k, releaseMove n]

/-- The first access from number `j` on, of the accesses left, that an operation may make; nothing behind a full gate may be made. -/
def State.firstEntry (s : State) (r : Running) : List (Nat × Micro) → Nat → Nat
  | [], _ => 0
  | x :: xs, j => if s.mayEnter r j then j else if x.2 = .gate true then 0 else s.firstEntry r xs (j + 1)

/-- Arrivals, performs, hops, departures, starts and completions (10 R228). -/
def State.orderMoves (s : State) : List Move :=
  let ts := List.range s.transit.length
  let ns := (s.agents.map (·.1)).map (BitVec.ofNat 9)
  let codes : List (BitVec 3) := (List.range 8).map (BitVec.ofNat 3)
  let element (r : Running) : Move := execDepart (BitVec.ofNat 9 r.agent) (.element r.op.ctx (s.firstEntry r r.todo 0))
  let done (r : Running) : Move := execComplete (BitVec.ofNat 9 r.agent) r.op.ctx
  (List.range s.arrivals.length).map execArrive ++ ts.map execPerform ++ ts.map execHop ++
    s.running.map done ++ s.running.map element ++ ns.map (fun n => execDepart n .load) ++ ns.map (fun n => execDepart n .store) ++
    ns.flatMap (fun n => codes.map (execStart n)) ++ ns.flatMap (fun n => codes.map (execDarncStart n))

/-- Genay's and the fabric's steps. -/
def State.rentMoves (s : State) : List Move :=
  let ks := s.pitches.map (·.1)
  let qs := s.work.map (·.qp)
  s.commits.map (fun c => execRentCommit (BitVec.ofNat 9 c.agent)) ++ ks.map execPitchExpiry ++ ks.map execOverstayTick ++
    ks.map execScrubStart ++ ks.map execScrubDone ++ qs.map (fun q => execFabricReceive (.loop q)) ++
    (s.work.filter (·.received)).map (fun w => execWorkEntryComplete w.qp w.cc)

/-- Rhory's steps. -/
def State.taskMoves (s : State) : List Move :=
  let sets := s.tasksets.map (·.1)
  let xs := s.loomTasks
  let ns := (s.agents.map (·.1)).map (BitVec.ofNat 9)
  sets.map execDependenceMet ++ sets.map execTaskSetCompletion ++ xs.map (fun x => execTaskStart x.1 x.2.1) ++
    s.tileLaunches.map (fun y => execTileLaunchStart (BitVec.ofNat 9 y.1)) ++ xs.map (fun x => execSliceExpiry x.1 x.2.1) ++
    sets.map execWatchdogExpiry ++ ns.map execDrainForceStop ++
    (List.range 24).map (fun p => execTaskPlacement (BitVec.ofNat 5 p))

/-- The rows that serve the requests of an interface. -/
def requestMoves (q : BitVec 6) : List Move :=
  [execLaunch q, execBarrier q, execCredit q, execReport q, execAccount q, execPartition q, execQueue q, execPasidrevRevoke q,
    execPasidrevRestore q, execPageUnmap q, execPageReadonly q, execPageWritable q, execPageDemote q, execPageShare q, execDesc q,
    execStatus q, execDebugStop q, execDebugResume q, execSaveioRead q, execSaveioWrite q, execFwpatch q, execFwstage q,
    execFwupdate q]

/-- The host side. -/
def State.hostMoves (s : State) : List Move :=
  s.requests.flatMap (fun r => requestMoves r.q) ++ s.queues.map (fun e => execMsixTimer (BitVec.ofNat 6 e.1)) ++
    [execFwupdateTimeout]

/-- The moves of the whole device. A sleep ends once nothing else moves. -/
def State.deviceMoves (s : State) : List Move :=
  let ns := s.agents.map (·.1)
  s.orderMoves ++ s.rentMoves ++ ns.flatMap agentMoves ++ s.taskMoves ++ s.hostMoves ++
    ns.map (fun n => execSleepcEnd (BitVec.ofNat 9 n))

/-- The device moves by itself; with nothing to do, another agent takes the turn, or the rent clock ticks (R96). -/
def State.idle (s : State) : State :=
  match s.firstChange s.deviceMoves with
  | some t => t
  | none =>
    match (s.agents.map (·.1)).find? s.canIssue with
    | some n => { s with cur := BitVec.ofNat 9 n }
    | none => s.rentClockTick

/-- The turn of agent `n`: what has to land or end on it or on its gang comes first, then its next bundle issues. -/
def State.turn (s : State) (n : Nat) : State :=
  if s.canIssue n then s.issueNext ((s.members n).headD n)
  else match s.firstChange ((s.members n).flatMap agentMoves) with
    | some t => t
    | none => s.idle

end Sys2Proof.Machine
end

