-- ==== Sys2Proof/Machine/Dispatch.lean ====
section
/-!
DEFINITION. The one match over every instruction: each arm calls its meaning.
-/

namespace Sys2Proof.Machine

/-- What one row of the opcode table does to a state. -/
def exec (i : Instr) (s : State) : Host.Outcome State Fault Refusal :=
  match i with
  | .br iq disp => Sys2Proof.Machine.execBr iq disp s
  | .bc iq cond rs disp => Sys2Proof.Machine.execBc iq cond rs disp s
  | .bpany iq p disp => Sys2Proof.Machine.execBpany iq p disp s
  | .bpnone iq p disp => Sys2Proof.Machine.execBpnone iq p disp s
  | .call iq disp => Sys2Proof.Machine.execCall iq disp s
  | .jr iq rs => Sys2Proof.Machine.execJr iq rs s
  | .ret iq => Sys2Proof.Machine.execRet iq s
  | .loop iq lvl rs len => Sys2Proof.Machine.execLoop iq lvl rs len s
  | .loopi iq lvl cnt len => Sys2Proof.Machine.execLoopi iq lvl cnt len s
  | .loops iq lvl bs len => Sys2Proof.Machine.execLoops iq lvl bs len s
  | .lbreak iq lvl => Sys2Proof.Machine.execLbreak iq lvl s
  | .lstride iq lvl a rs => Sys2Proof.Machine.execLstride iq lvl a rs s
  | .lidx iq d lvl => Sys2Proof.Machine.execLidx iq d lvl s
  | .ckpt iq => Sys2Proof.Machine.execCkpt iq s
  | .ckptl iq => Sys2Proof.Machine.execCkptl iq s
  | .fmt iq fam val => Sys2Proof.Machine.execFmt iq fam val s
  | .fmts iq fam rs => Sys2Proof.Machine.execFmts iq fam rs s
  | .wfe iq => Sys2Proof.Machine.execWfe iq s
  | .sev iq rs => Sys2Proof.Machine.execSev iq rs s
  | .waitt iq rs => Sys2Proof.Machine.execWaitt iq rs s
  | .qwait iq q n => Sys2Proof.Machine.execQwait iq q n s
  | .qalign iq far near => Sys2Proof.Machine.execQalign iq far near s
  | .fence iq scope kind => Sys2Proof.Machine.execFence iq scope kind s
  | .uimask iq m => Sys2Proof.Machine.execUimask iq m s
  | .trap iq imm => Sys2Proof.Machine.execTrapWord iq imm s
  | .csrr iq d csr => Sys2Proof.Machine.execCsrr iq d csr s
  | .csrw iq rs csr => Sys2Proof.Machine.execCsrw iq rs csr s
  | .brk iq imm => Sys2Proof.Machine.execBrk iq imm s
  | .twait iq c rs => Sys2Proof.Machine.execTwait iq c rs s
  | .twaita iq a rs => Sys2Proof.Machine.execTwaita iq a rs s
  | .sleepc iq rs => Sys2Proof.Machine.execSleepc iq rs s
  | .add iq d a b => Sys2Proof.Machine.execAdd iq d a b s
  | .sub iq d a b => Sys2Proof.Machine.execSub iq d a b s
  | .addi iq d a imm => Sys2Proof.Machine.execAddi iq d a imm s
  | .mul iq d a b => Sys2Proof.Machine.execMul iq d a b s
  | .mulh iq d a b => Sys2Proof.Machine.execMulh iq d a b s
  | .mulhu iq d a b => Sys2Proof.Machine.execMulhu iq d a b s
  | .div iq d a b => Sys2Proof.Machine.execDiv iq d a b s
  | .divu iq d a b => Sys2Proof.Machine.execDivu iq d a b s
  | .rem iq d a b => Sys2Proof.Machine.execRem iq d a b s
  | .remu iq d a b => Sys2Proof.Machine.execRemu iq d a b s
  | .and iq d a b => Sys2Proof.Machine.execAnd iq d a b s
  | .or iq d a b => Sys2Proof.Machine.execOr iq d a b s
  | .xor iq d a b => Sys2Proof.Machine.execXor iq d a b s
  | .andi iq d a imm => Sys2Proof.Machine.execAndi iq d a imm s
  | .ori iq d a imm => Sys2Proof.Machine.execOri iq d a imm s
  | .xori iq d a imm => Sys2Proof.Machine.execXori iq d a imm s
  | .sll iq d a b => Sys2Proof.Machine.execSll iq d a b s
  | .srl iq d a b => Sys2Proof.Machine.execSrl iq d a b s
  | .sra iq d a b => Sys2Proof.Machine.execSra iq d a b s
  | .slli iq d a sh => Sys2Proof.Machine.execSlli iq d a sh s
  | .srli iq d a sh => Sys2Proof.Machine.execSrli iq d a sh s
  | .srai iq d a sh => Sys2Proof.Machine.execSrai iq d a sh s
  | .slt iq d a b => Sys2Proof.Machine.execSlt iq d a b s
  | .sltu iq d a b => Sys2Proof.Machine.execSltu iq d a b s
  | .slti iq d a imm => Sys2Proof.Machine.execSlti iq d a imm s
  | .min iq d a b => Sys2Proof.Machine.execMin iq d a b s
  | .max iq d a b => Sys2Proof.Machine.execMax iq d a b s
  | .minu iq d a b => Sys2Proof.Machine.execMinu iq d a b s
  | .maxu iq d a b => Sys2Proof.Machine.execMaxu iq d a b s
  | .clz iq d a => Sys2Proof.Machine.execClz iq d a s
  | .popc iq d a => Sys2Proof.Machine.execPopc iq d a s
  | .cmov iq d a b => Sys2Proof.Machine.execCmov iq d a b s
  | .li iq d imm => Sys2Proof.Machine.execLi iq d imm s
  | .lui iq d imm => Sys2Proof.Machine.execLui iq d imm s
  | .adds iq d a b => Sys2Proof.Machine.execAdds iq d a b s
  | .subs iq d a b => Sys2Proof.Machine.execSubs iq d a b s
  | .amov iq d a => Sys2Proof.Machine.execAmov iq d a s
  | .aget iq d a => Sys2Proof.Machine.execAget iq d a s
  | .aadd iq d a b => Sys2Proof.Machine.execAadd iq d a b s
  | .aaddi iq d a imm => Sys2Proof.Machine.execAaddi iq d a imm s
  | .agen iq d a b layer => Sys2Proof.Machine.execAgen iq d a b layer s
  | .fadd iq d a b => Sys2Proof.Machine.execFadd iq d a b s
  | .fsub iq d a b => Sys2Proof.Machine.execFsub iq d a b s
  | .fmul iq d a b => Sys2Proof.Machine.execFmul iq d a b s
  | .fdiv iq d a b => Sys2Proof.Machine.execFdiv iq d a b s
  | .fmin iq d a b => Sys2Proof.Machine.execFmin iq d a b s
  | .fmax iq d a b => Sys2Proof.Machine.execFmax iq d a b s
  | .fcmpEq iq d a b => Sys2Proof.Machine.execFcmpEq iq d a b s
  | .fcmpLt iq d a b => Sys2Proof.Machine.execFcmpLt iq d a b s
  | .fcmpLe iq d a b => Sys2Proof.Machine.execFcmpLe iq d a b s
  | .fcmpUn iq d a b => Sys2Proof.Machine.execFcmpUn iq d a b s
  | .fcvtF2i iq d a => Sys2Proof.Machine.execFcvtF2i iq d a s
  | .fcvtI2f iq d a => Sys2Proof.Machine.execFcvtI2f iq d a s
  | .fcvtF2bf iq d a => Sys2Proof.Machine.execFcvtF2bf iq d a s
  | .fcvtBf2f iq d a => Sys2Proof.Machine.execFcvtBf2f iq d a s
  | .qpops iq d q pk w => Sys2Proof.Machine.execQpops iq d q pk w s
  | .qpushs iq q a => Sys2Proof.Machine.execQpushs iq q a s
  | .shw iq slot h a field => Sys2Proof.Machine.execShw iq slot h a field s
  | .shr iq d slot h field => Sys2Proof.Machine.execShr iq d slot h field s
  | .rdrankRank iq d => Sys2Proof.Machine.execRdrankRank iq d s
  | .rdrankLoom iq d => Sys2Proof.Machine.execRdrankLoom iq d s
  | .rdrankDie iq d => Sys2Proof.Machine.execRdrankDie iq d s
  | .rdrankCore iq d => Sys2Proof.Machine.execRdrankCore iq d s
  | .nld iq q a pi off => Sys2Proof.Machine.execNld iq q a pi off s
  | .nldh iq q a pi off => Sys2Proof.Machine.execNldh iq q a pi off s
  | .nldb iq q a pi off => Sys2Proof.Machine.execNldb iq q a pi off s
  | .nldx iq q a pi rs off => Sys2Proof.Machine.execNldx iq q a pi rs off s
  | .nst iq q a pi off => Sys2Proof.Machine.execNst iq q a pi off s
  | .nsth iq q a pi off => Sys2Proof.Machine.execNsth iq q a pi off s
  | .nstx iq q a pi rs off => Sys2Proof.Machine.execNstx iq q a pi rs off s
  | .ard iq q t a pi row => Sys2Proof.Machine.execArd iq q t a pi row s
  | .ardc iq q t a pi row => Sys2Proof.Machine.execArdc iq q t a pi row s
  | .awr iq q t a pi row => Sys2Proof.Machine.execAwr iq q t a pi row s
  | .aacc iq q t a pi row => Sys2Proof.Machine.execAacc iq q t a pi row s
  | .azero iq t a pi row => Sys2Proof.Machine.execAzero iq t a pi row s
  | .ascl iq q t => Sys2Proof.Machine.execAscl iq q t s
  | .ardt iq q t a pi row => Sys2Proof.Machine.execArdt iq q t a pi row s
  | .vadd iq vd va vb ma mb pg md => Sys2Proof.Machine.execVadd iq vd va vb ma mb pg md s
  | .vsub iq vd va vb ma mb pg md => Sys2Proof.Machine.execVsub iq vd va vb ma mb pg md s
  | .vmul iq vd va vb ma mb pg md => Sys2Proof.Machine.execVmul iq vd va vb ma mb pg md s
  | .vfma iq vd va vb ma mb pg => Sys2Proof.Machine.execVfma iq vd va vb ma mb pg s
  | .vfms iq vd va vb ma mb pg => Sys2Proof.Machine.execVfms iq vd va vb ma mb pg s
  | .vmin iq vd va vb ma mb pg md => Sys2Proof.Machine.execVmin iq vd va vb ma mb pg md s
  | .vmax iq vd va vb ma mb pg md => Sys2Proof.Machine.execVmax iq vd va vb ma mb pg md s
  | .vabs iq vd va ma pg md => Sys2Proof.Machine.execVabs iq vd va ma pg md s
  | .vneg iq vd va ma pg md => Sys2Proof.Machine.execVneg iq vd va ma pg md s
  | .vrcp iq vd va ma pg md => Sys2Proof.Machine.execVrcp iq vd va ma pg md s
  | .vrsq iq vd va ma pg md => Sys2Proof.Machine.execVrsq iq vd va ma pg md s
  | .vsqrt iq vd va ma pg md => Sys2Proof.Machine.execVsqrt iq vd va ma pg md s
  | .vdiv iq vd va vb ma mb pg md => Sys2Proof.Machine.execVdiv iq vd va vb ma mb pg md s
  | .vexp2 iq vd va ma pg md => Sys2Proof.Machine.execVexp2 iq vd va ma pg md s
  | .vexp iq vd va ma pg md => Sys2Proof.Machine.execVexp iq vd va ma pg md s
  | .vlog2 iq vd va ma pg md => Sys2Proof.Machine.execVlog2 iq vd va ma pg md s
  | .vsig iq vd va ma pg md => Sys2Proof.Machine.execVsig iq vd va ma pg md s
  | .vtanh iq vd va ma pg md => Sys2Proof.Machine.execVtanh iq vd va ma pg md s
  | .vcvt iq vd va ma pg md => Sys2Proof.Machine.execVcvt iq vd va ma pg md s
  | .vpexp iq vd va vb ma mb pg md => Sys2Proof.Machine.execVpexp iq vd va vb ma mb pg md s
  | .vpmac iq vd va vb ma mb pg => Sys2Proof.Machine.execVpmac iq vd va vb ma mb pg s
  | .vcmpeq iq pd va vb ma mb pg => Sys2Proof.Machine.execVcmpeq iq pd va vb ma mb pg s
  | .vcmplt iq pd va vb ma mb pg => Sys2Proof.Machine.execVcmplt iq pd va vb ma mb pg s
  | .vcmple iq pd va vb ma mb pg => Sys2Proof.Machine.execVcmple iq pd va vb ma mb pg s
  | .vcmpun iq pd va vb ma mb pg => Sys2Proof.Machine.execVcmpun iq pd va vb ma mb pg s
  | .viadd iq vd va vb ma mb pg md => Sys2Proof.Machine.execViadd iq vd va vb ma mb pg md s
  | .visub iq vd va vb ma mb pg md => Sys2Proof.Machine.execVisub iq vd va vb ma mb pg md s
  | .vimul iq vd va vb ma mb pg md => Sys2Proof.Machine.execVimul iq vd va vb ma mb pg md s
  | .vimin iq vd va vb ma mb pg md => Sys2Proof.Machine.execVimin iq vd va vb ma mb pg md s
  | .vimax iq vd va vb ma mb pg md => Sys2Proof.Machine.execVimax iq vd va vb ma mb pg md s
  | .vand iq vd va vb ma mb pg md => Sys2Proof.Machine.execVand iq vd va vb ma mb pg md s
  | .vor iq vd va vb ma mb pg md => Sys2Proof.Machine.execVor iq vd va vb ma mb pg md s
  | .vxor iq vd va vb ma mb pg md => Sys2Proof.Machine.execVxor iq vd va vb ma mb pg md s
  | .vnot iq vd va ma pg md => Sys2Proof.Machine.execVnot iq vd va ma pg md s
  | .vshl iq vd va vb ma mb pg md => Sys2Proof.Machine.execVshl iq vd va vb ma mb pg md s
  | .vshr iq vd va vb ma mb pg md => Sys2Proof.Machine.execVshr iq vd va vb ma mb pg md s
  | .vsra iq vd va vb ma mb pg md => Sys2Proof.Machine.execVsra iq vd va vb ma mb pg md s
  | .vdot4 iq vd va vb ma mb pg md => Sys2Proof.Machine.execVdot4 iq vd va vb ma mb pg md s
  | .vicmpeq iq pd va vb ma mb pg => Sys2Proof.Machine.execVicmpeq iq pd va vb ma mb pg s
  | .vicmplt iq pd va vb ma mb pg => Sys2Proof.Machine.execVicmplt iq pd va vb ma mb pg s
  | .vmov iq vd va ma pg md => Sys2Proof.Machine.execVmov iq vd va ma pg md s
  | .vsel iq vd va vb ma mb pg md => Sys2Proof.Machine.execVsel iq vd va vb ma mb pg md s
  | .vperm iq vd va vb ma mb pg md => Sys2Proof.Machine.execVperm iq vd va vb ma mb pg md s
  | .vrot iq vd va vb ma mb pg md => Sys2Proof.Machine.execVrot iq vd va vb ma mb pg md s
  | .viota iq vd pg md => Sys2Proof.Machine.execViota iq vd pg md s
  | .vpack iq vd va vb ma mb pg md => Sys2Proof.Machine.execVpack iq vd va vb ma mb pg md s
  | .vunpk iq vd va ma pg md => Sys2Proof.Machine.execVunpk iq vd va ma pg md s
  | .vrsum iq vd va ma pg md => Sys2Proof.Machine.execVrsum iq vd va ma pg md s
  | .vrmax iq vd va ma pg md => Sys2Proof.Machine.execVrmax iq vd va ma pg md s
  | .vrmin iq vd va ma pg md => Sys2Proof.Machine.execVrmin iq vd va ma pg md s
  | .vmaxi iq vd va ma pg md => Sys2Proof.Machine.execVmaxi iq vd va ma pg md s
  | .vmini iq vd va ma pg md => Sys2Proof.Machine.execVmini iq vd va ma pg md s
  | .vscan iq vd va ma pg md => Sys2Proof.Machine.execVscan iq vd va ma pg md s
  | .pand iq pd pa pb => Sys2Proof.Machine.execPand iq pd pa pb s
  | .por iq pd pa pb => Sys2Proof.Machine.execPor iq pd pa pb s
  | .pxor iq pd pa pb => Sys2Proof.Machine.execPxor iq pd pa pb s
  | .pnot iq pd pa => Sys2Proof.Machine.execPnot iq pd pa s
  | .pcnt iq d pa => Sys2Proof.Machine.execPcnt iq d pa s
  | .pset iq pd rs => Sys2Proof.Machine.execPset iq pd rs s
  | .iadd iq id ia ib => Sys2Proof.Machine.execIadd iq id ia ib s
  | .isub iq id ia ib => Sys2Proof.Machine.execIsub iq id ia ib s
  | .imul iq id ia ib => Sys2Proof.Machine.execImul iq id ia ib s
  | .idiv iq id ia ib => Sys2Proof.Machine.execIdiv iq id ia ib s
  | .isqr iq id ia => Sys2Proof.Machine.execIsqr iq id ia s
  | .isqrt iq id ia => Sys2Proof.Machine.execIsqrt iq id ia s
  | .iexp iq id ia => Sys2Proof.Machine.execIexp iq id ia s
  | .ilog iq id ia => Sys2Proof.Machine.execIlog iq id ia s
  | .imin iq id ia ib => Sys2Proof.Machine.execImin iq id ia ib s
  | .imax iq id ia ib => Sys2Proof.Machine.execImax iq id ia ib s
  | .iabs iq id ia => Sys2Proof.Machine.execIabs iq id ia s
  | .iaddB iq id ia ib => Sys2Proof.Machine.execIaddB iq id ia ib s
  | .isubB iq id ia ib => Sys2Proof.Machine.execIsubB iq id ia ib s
  | .imulB iq id ia ib => Sys2Proof.Machine.execImulB iq id ia ib s
  | .idivB iq id ia ib => Sys2Proof.Machine.execIdivB iq id ia ib s
  | .isqrB iq id ia => Sys2Proof.Machine.execIsqrB iq id ia s
  | .isqrtB iq id ia => Sys2Proof.Machine.execIsqrtB iq id ia s
  | .iexpB iq id ia => Sys2Proof.Machine.execIexpB iq id ia s
  | .ilogB iq id ia => Sys2Proof.Machine.execIlogB iq id ia s
  | .iminB iq id ia ib => Sys2Proof.Machine.execIminB iq id ia ib s
  | .imaxB iq id ia ib => Sys2Proof.Machine.execImaxB iq id ia ib s
  | .iabsB iq id ia => Sys2Proof.Machine.execIabsB iq id ia s
  | .ihull iq id ia ib => Sys2Proof.Machine.execIhull iq id ia ib s
  | .imeet iq id ia ib => Sys2Proof.Machine.execImeet iq id ia ib s
  | .isplit iq id ia ib => Sys2Proof.Machine.execIsplit iq id ia ib s
  | .ifrom iq id ia ib => Sys2Proof.Machine.execIfrom iq id ia ib s
  | .itolo iq id ia => Sys2Proof.Machine.execItolo iq id ia s
  | .itohi iq id ia => Sys2Proof.Machine.execItohi iq id ia s
  | .imid iq id ia => Sys2Proof.Machine.execImid iq id ia s
  | .iwid iq id ia => Sys2Proof.Machine.execIwid iq id ia s
  | .icmplt iq ia ib tp => Sys2Proof.Machine.execIcmplt iq ia ib tp s
  | .icmple iq ia ib tp => Sys2Proof.Machine.execIcmple iq ia ib tp s
  | .icmpeq iq ia ib tp => Sys2Proof.Machine.execIcmpeq iq ia ib tp s
  | .isubset iq ia ib tp => Sys2Proof.Machine.execIsubset iq ia ib tp s
  | .idisj iq ia ib tp => Sys2Proof.Machine.execIdisj iq ia ib tp s
  | .mldb iq a off => Sys2Proof.Machine.execMldb iq a off s
  | .mma iq t q pk rows => Sys2Proof.Machine.execMma iq t q pk rows s
  | .mmaz iq t q pk rows => Sys2Proof.Machine.execMmaz iq t q pk rows s
  | .mrep iq n => Sys2Proof.Machine.execMrep iq n s
  | .mdrain iq t => Sys2Proof.Machine.execMdrain iq t s
  | .mldbl iq a off => Sys2Proof.Machine.execMldbl iq a off s
  | .fld iq c h sw => Sys2Proof.Machine.execFld iq c h sw s
  | .flds iq c rs => Sys2Proof.Machine.execFlds iq c rs s
  | .fst iq h sw q => Sys2Proof.Machine.execFst iq h sw q s
  | .fsts iq rs q => Sys2Proof.Machine.execFsts iq rs q s
  | .amadd iq rs s2 wd => Sys2Proof.Machine.execAmadd iq rs s2 wd s
  | .amaddF iq c rs s2 wd => Sys2Proof.Machine.execAmaddF iq c rs s2 wd s
  | .ammax iq rs s2 wd => Sys2Proof.Machine.execAmmax iq rs s2 wd s
  | .ammaxF iq c rs s2 wd => Sys2Proof.Machine.execAmmaxF iq c rs s2 wd s
  | .ammin iq rs s2 wd => Sys2Proof.Machine.execAmmin iq rs s2 wd s
  | .amminF iq c rs s2 wd => Sys2Proof.Machine.execAmminF iq c rs s2 wd s
  | .amxchg iq c rs s2 wd => Sys2Proof.Machine.execAmxchg iq c rs s2 wd s
  | .amcas iq c rs s2 wd => Sys2Proof.Machine.execAmcas iq c rs s2 wd s
  | .wcadd iq rs s2 code => Sys2Proof.Machine.execWcadd iq rs s2 code s
  | .wcaddv iq rs q code => Sys2Proof.Machine.execWcaddv iq rs q code s
  | .wcread iq c rs => Sys2Proof.Machine.execWcread iq c rs s
  | .xcopy iq c h sw hsrc => Sys2Proof.Machine.execXcopy iq c h sw hsrc s
  | .xgather iq c h sw rs s2 hsrc => Sys2Proof.Machine.execXgather iq c h sw rs s2 hsrc s
  | .xscatter iq c h sw rs s2 hsrc => Sys2Proof.Machine.execXscatter iq c h sw rs s2 hsrc s
  | .xfill iq c h sw rs => Sys2Proof.Machine.execXfill iq c h sw rs s
  | .wstream iq h sw enc hsrc => Sys2Proof.Machine.execWstream iq h sw enc hsrc s
  | .xsplice iq c h sw rs s2 => Sys2Proof.Machine.execXsplice iq c h sw rs s2 s
  | .xdarn iq c h sw rs s2 => Sys2Proof.Machine.execXdarn iq c h sw rs s2 s
  | .xdarnc iq c rs => Sys2Proof.Machine.execXdarnc iq c rs s
  | .xnote iq rs c => Sys2Proof.Machine.execXnote iq rs c s
  | .tread iq rs c => Sys2Proof.Machine.execTread iq rs c s
  | .xqp iq rs s2 => Sys2Proof.Machine.execXqp iq rs s2 s
  | .xmbox iq rs s2 => Sys2Proof.Machine.execXmbox iq rs s2 s
  | .xarm iq rs s2 => Sys2Proof.Machine.execXarm iq rs s2 s
  | .xlaunch iq rs s2 => Sys2Proof.Machine.execXlaunch iq rs s2 s
  | .rent iq rs s2 att tier => Sys2Proof.Machine.execRent iq rs s2 att tier s
  | .renew iq rs s2 tier => Sys2Proof.Machine.execRenew iq rs s2 tier s
  | .prepay iq rs s2 tier => Sys2Proof.Machine.execPrepay iq rs s2 tier s
  | .sublet iq rs s2 rw tier => Sys2Proof.Machine.execSublet iq rs s2 rw tier s
  | .vacate iq rs s2 tier => Sys2Proof.Machine.execVacate iq rs s2 tier s
  | .rentq iq rs s2 tier => Sys2Proof.Machine.execRentq iq rs s2 tier s
  | .allowq iq rs => Sys2Proof.Machine.execAllowq iq rs s
  | .istatRead iq d => Sys2Proof.Machine.execIstatRead iq d s
  | .srseedWrite iq rs => Sys2Proof.Machine.execSrseedWrite iq rs s
  | .skewWrite iq rs => Sys2Proof.Machine.execSkewWrite iq rs s
  | .rateWrite iq rs tier => Sys2Proof.Machine.execRateWrite iq rs tier s
  | .sliceWrite iq rs => Sys2Proof.Machine.execSliceWrite iq rs s
  | .evcntWrite iq rs k => Sys2Proof.Machine.execEvcntWrite iq rs k s
  | .genayReply n base => Sys2Proof.Machine.execGenayReply n base s
  | .resultLanding n => Sys2Proof.Machine.execResultLanding n s
  | .nearPerform n => Sys2Proof.Machine.execNearPerform n s
  | .planeLoadLand n => Sys2Proof.Machine.execPlaneLoadLand n s
  | .partialSumAdd n => Sys2Proof.Machine.execPartialSumAdd n s
  | .scoreboardStallEnd n => Sys2Proof.Machine.execScoreboardStallEnd n s
  | .mdrainEnd n => Sys2Proof.Machine.execMdrainEnd n s
  | .checkpointComplete n => Sys2Proof.Machine.execCheckpointComplete n s
  | .waittEnd n => Sys2Proof.Machine.execWaittEnd n s
  | .sleepcEnd n => Sys2Proof.Machine.execSleepcEnd n s
  | .qwaitEnd n => Sys2Proof.Machine.execQwaitEnd n s
  | .twaitEnd n => Sys2Proof.Machine.execTwaitEnd n s
  | .twaitaPoll n => Sys2Proof.Machine.execTwaitaPoll n s
  | .wfeWake n => Sys2Proof.Machine.execWfeWake n s
  | .depart n what => Sys2Proof.Machine.execDepart n what s
  | .hop k => Sys2Proof.Machine.execHop k s
  | .perform k => Sys2Proof.Machine.execPerform k s
  | .arrive k => Sys2Proof.Machine.execArrive k s
  | .start n c => Sys2Proof.Machine.execStart n c s
  | .darncStart n c => Sys2Proof.Machine.execDarncStart n c s
  | .tileLaunchStart n => Sys2Proof.Machine.execTileLaunchStart n s
  | .complete n c => Sys2Proof.Machine.execComplete n c s
  | .workEntryComplete qp cc => Sys2Proof.Machine.execWorkEntryComplete qp cc s
  | .fabricReceive src => Sys2Proof.Machine.execFabricReceive src s
  | .rentCommit n => Sys2Proof.Machine.execRentCommit n s
  | .rentClockTick => Sys2Proof.Machine.execRentClockTick s
  | .pitchExpiry k => Sys2Proof.Machine.execPitchExpiry k s
  | .overstayTick k => Sys2Proof.Machine.execOverstayTick k s
  | .scrubStart k => Sys2Proof.Machine.execScrubStart k s
  | .scrubDone k => Sys2Proof.Machine.execScrubDone k s
  | .rentScrubWait n base => Sys2Proof.Machine.execRentScrubWait n base s
  | .rowGroupRefresh r => Sys2Proof.Machine.execRowGroupRefresh r s
  | .patrolScrub line => Sys2Proof.Machine.execPatrolScrub line s
  | .quarantine unit pc => Sys2Proof.Machine.execQuarantine unit pc s
  | .powerSample watts amps => Sys2Proof.Machine.execPowerSample watts amps s
  | .thermalThrottle celsius => Sys2Proof.Machine.execThermalThrottle celsius s
  | .thermalTrip celsius => Sys2Proof.Machine.execThermalTrip celsius s
  | .packageReset => Sys2Proof.Machine.execPackageReset s
  | .taskPlacement part => Sys2Proof.Machine.execTaskPlacement part s
  | .taskStart ts j => Sys2Proof.Machine.execTaskStart ts j s
  | .dependenceMet ts => Sys2Proof.Machine.execDependenceMet ts s
  | .sliceExpiry ts j => Sys2Proof.Machine.execSliceExpiry ts j s
  | .watchdogExpiry ts => Sys2Proof.Machine.execWatchdogExpiry ts s
  | .drainForceStop n => Sys2Proof.Machine.execDrainForceStop n s
  | .taskSetCompletion ts => Sys2Proof.Machine.execTaskSetCompletion ts s
  | .msixTimer q => Sys2Proof.Machine.execMsixTimer q s
  | .notifyTail q v => Sys2Proof.Machine.execNotifyTail q v s
  | .notifyPrio q v => Sys2Proof.Machine.execNotifyPrio q v s
  | .notifyInvalidWrite q off size => Sys2Proof.Machine.execNotifyInvalidWrite q off size s
  | .launch q => Sys2Proof.Machine.execLaunch q s
  | .barrier q => Sys2Proof.Machine.execBarrier q s
  | .credit q => Sys2Proof.Machine.execCredit q s
  | .report q => Sys2Proof.Machine.execReport q s
  | .account q => Sys2Proof.Machine.execAccount q s
  | .partition q => Sys2Proof.Machine.execPartition q s
  | .queue q => Sys2Proof.Machine.execQueue q s
  | .pasidrevRevoke q => Sys2Proof.Machine.execPasidrevRevoke q s
  | .pasidrevRestore q => Sys2Proof.Machine.execPasidrevRestore q s
  | .pageUnmap q => Sys2Proof.Machine.execPageUnmap q s
  | .pageReadonly q => Sys2Proof.Machine.execPageReadonly q s
  | .pageWritable q => Sys2Proof.Machine.execPageWritable q s
  | .pageDemote q => Sys2Proof.Machine.execPageDemote q s
  | .pageShare q => Sys2Proof.Machine.execPageShare q s
  | .desc q => Sys2Proof.Machine.execDesc q s
  | .status q => Sys2Proof.Machine.execStatus q s
  | .debugStop q => Sys2Proof.Machine.execDebugStop q s
  | .debugResume q => Sys2Proof.Machine.execDebugResume q s
  | .saveioRead q => Sys2Proof.Machine.execSaveioRead q s
  | .saveioWrite q => Sys2Proof.Machine.execSaveioWrite q s
  | .fwpatch q => Sys2Proof.Machine.execFwpatch q s
  | .fwstage q => Sys2Proof.Machine.execFwstage q s
  | .fwupdate q => Sys2Proof.Machine.execFwupdate q s
  | .qpRecordWrite qp rec => Sys2Proof.Machine.execQpRecordWrite qp rec s
  | .hostMemoryAccess addr len op => Sys2Proof.Machine.execHostMemoryAccess addr len op s
  | .atsInvalidation pasid addr len answer readOnly => Sys2Proof.Machine.execAtsInvalidation pasid addr len answer readOnly s
  | .pasidStop pasid => Sys2Proof.Machine.execPasidStop pasid s
  | .tdispMessage q st => Sys2Proof.Machine.execTdispMessage q st s
  | .spdmMessage q index => Sys2Proof.Machine.execSpdmMessage q index s
  | .fabricLaunch node hdr image len => Sys2Proof.Machine.execFabricLaunch node hdr image len s
  | .fwupdateTimeout => Sys2Proof.Machine.execFwupdateTimeout s
  | .entryRead n => Sys2Proof.Machine.execEntryRead n s
  | .linkFailure qp => Sys2Proof.Machine.execLinkFailure qp s
  | .nop => Sys2Proof.Machine.execNop s
  | .uiret => Sys2Proof.Machine.execUiret s
  | .uiretFirst => Sys2Proof.Machine.execUiretFirst s
  | .uiretLast => Sys2Proof.Machine.execUiretLast s
  | .eret => Sys2Proof.Machine.execEret s
  | .eretFirst => Sys2Proof.Machine.execEretFirst s
  | .eretLast => Sys2Proof.Machine.execEretLast s
  | .halt => Sys2Proof.Machine.execHalt s
  | .haltFirst => Sys2Proof.Machine.execHaltFirst s
  | .haltLast => Sys2Proof.Machine.execHaltLast s
  | .mswb => Sys2Proof.Machine.execMswb s
  | .mswbFirst => Sys2Proof.Machine.execMswbFirst s
  | .mswbLast => Sys2Proof.Machine.execMswbLast s

end Sys2Proof.Machine
end

