-- ==== Sys2Proof/Machine/Step.lean ====
section
/-!
DEFINITION. One step of the machine, and the state whose next step runs one given word.
-/

namespace Sys2Proof.Machine

/-- Whether a move may be made while the rails are off: only the package reset (23 R370, R371). -/
def offAllows (i : Instr) : Bool := decide (i = .packageReset)

/-- What is served while Rhory serves only SPDM (15 R326, 23 R371): SPDM, the package management block and the rent clock. -/
def spdmAllows (i : Instr) : Bool :=
  match i with
  | .spdmMessage _ _ => true
  | .packageReset => true
  | .powerSample _ _ => true
  | .thermalThrottle _ => true
  | .thermalTrip _ => true
  | .rentClockTick => true
  | _ => false

/-- System software writes the launch-table entry of a node: at most eight digests (16 R341; log 39). -/
def State.writeTable (s : State) (node : BitVec 16) (e : Option LaunchEntry) : State :=
  if e.any (fun x => decide (8 < x.digests.length)) then s else { s with launchTable := Tab.set none s.launchTable node.toNat e }

/-- One step: the move or issue that the outside has chosen, else the turn of agent `cur` (log 4). A move that is not served while
Rhory serves only SPDM does nothing, and a turn then is a tick of the rent clock (15 R326, 23 R371). -/
def step (s : State) : Host.Outcome State Fault Refusal :=
  match s.sched with
  | .move i :: rest =>
    if s.off && !offAllows i then .fault .noPower
    else if s.spdmOnly && !spdmAllows i then .next { s with sched := rest }
    else exec i { s with sched := rest }
  | .issue n :: rest =>
    if s.off then .fault .noPower
    else if s.spdmOnly then .next { s with sched := rest }
    else .next (State.turn { s with sched := rest } n.toNat)
  | .bar2 o size v :: rest =>
    if s.off then .fault .noPower
    else if s.spdmOnly then .next { s with sched := rest }
    else match v with
      | some v => execBar2Write o size v { s with sched := rest }
      | none => .next (State.notifyRead { s with sched := rest } o)
  | .table node e :: rest =>
    if s.off then .fault .noPower
    else if s.spdmOnly then .next { s with sched := rest }
    else .next (State.writeTable { s with sched := rest } node e)
  | .upset x fatal :: rest => if s.off then .fault .noPower else .next (State.upset { s with sched := rest } x fatal)
  | [] =>
    if s.off then .fault .noPower
    else if s.spdmOnly then execRentClockTick s
    else .next (s.turn s.cur.toNat)

/-- The address at which `withFetchWord` places its bundle. -/
def wordPc : Nat := 0x1000

/-- The page that holds the bundle: a leased HBM pitch. -/
def wordPitch : Pitch := { Pitch.free with tier := 4, state := .leased, base := 0x1000, length := 0x1000, paid := 2 ^ 40, rate := 2 }

/-- The task that the bundle belongs to: account 0, context 0, no task set. -/
def wordTask : Task :=
  { account := 0, context := 0, cls := 0, kind := 0, tslot := 0, ts := 0, j := 0, rentwin := 1, pasid := none, save := 0 }

/-- `s` with a word of the opcode table as the next bundle of agent `cur`: a task is placed there at `wordPc`, as Rhory's placement
does, in a mapped page, and nothing else is chosen (log 19). The word stands in the lowest slot whose map accepts it, the other
slots hold NOP (log 10). -/
def State.withFetchWord (s : State) (_nbits w : Nat) : State :=
  let x := BitVec.ofNat 32 w
  let n := s.cur.toNat
  let a := s.agent n
  let bs := bytesOf (bundleOf ((tableSlot x).getD 0) x) 32
  let b : Agent := { a with
    task := some wordTask, wait := .none, stall := .none, mdrain := none, board := none
    r := { a.r with pc := BitVec.ofNat 64 wordPc } }
  let t : State := { s with mem := s.mem.write wordPc bs, sched := [], powerHold := false, currentHold := false, thermalHold := false }
  ((t.setPitch 0 wordPitch).setAgent n b)

end Sys2Proof.Machine
end

