-- ==== Sys2Proof/Safety.lean ====
section
/-!
DEFINITION. What counts as a safe run, when an agent can issue one word by itself, the state after a bundle that runs, and the
invariant that every step keeps.
-/

namespace Sys2Proof.Machine

/-- The outcome is a next state. -/
def isNext (o : Host.Outcome State Fault Refusal) : Bool :=
  match o with
  | .next _ => true
  | _ => false

/-- A run is safe when no step of it ends in a fault or a refusal: the device has its rails, and Rhory serves more than SPDM (15 R326,
23 R370, R371). -/
def State.alive (s : State) : Prop := s.off = false ∧ s.spdmOnly = false

/-- Agent `n` can issue a bundle of one word by itself: it belongs to no gang (02 R61), no repetition is in force or armed (08 R198), and
the interval limits of 02 R66 leave room for one more bundle. -/
def State.ready (s : State) (n : Nat) : Prop :=
  s.members n = [n] ∧ ((s.agent n).mode = .task → (s.agent n).r.repn = 0) ∧
    ((s.agent n).mode ≠ .super → (s.agent n).bundles < 4096) ∧
    ((s.agent n).mode = .userInt ∨ (s.agent n).mode = .userFault → (s.agent n).hbundles < 256)

/-- Whether agent `n` may hold the ordinary words of a slot (01 R37, 12 R268). -/
def State.opens (s : State) (n slot : Nat) : Prop := profBase slot { ctl := isCtl n, mode := (s.agent n).mode } = true

/-- The queue operands of a word can be taken in field order: each finds its queue with an entry, after the pops before it (03 R86). -/
def Agent.supplies (a : Agent) : List QOp → Prop
  | [] => True
  | o :: t => a.queue o.q ≠ [] ∧ (if o.peek then a else a.pop o.q).supplies t

/-- The agent after the pops of a word's queue operands (03 R86). -/
def Agent.taken (a : Agent) (ops : List QOp) : Agent := ((ops.filter (fun o => !o.peek)).map (·.q)).foldl Agent.pop a

/-- One more entry of queue `q` finds a place after the pops of a word (03 R86). -/
def Agent.room (a : Agent) (ops : List QOp) (q : BitVec 4) : Prop :=
  ((a.taken ops).queue q).length + a.reserved q < 8

/-- What every bundle adds to the counters of its agent: the issue cycle, CYCLE, the bundle events, the interval counts of bundles,
withheld commands (`k`) and withheld stores (`m`), and the bundles since a stop request (02 R47, R66, 13 R291, 18 R356, 23 R374). -/
def Agent.retire (a : Agent) (k m : Nat) : Agent :=
  { a with
    evcnt := (((a.event 0x01 1).event 0x02 1).event 0x03 1).evcnt
    icyc := a.icyc + 1
    cycle := a.cycle + 1
    stop := a.stop.count
    woken := false
    bundles := if a.mode = .super then a.bundles else a.bundles + 1
    hbundles := if a.mode = .userInt ∨ a.mode = .userFault then a.hbundles + 1 else a.hbundles
    cmds := a.cmds + k
    stores := a.stores + m }

/-- The state after agent `n` has issued a bundle whose effect on the agent is `f`: nothing outside the agent changes, but for the
bundle cycle of its account (04 R119) and the counter of free values (log 5). -/
def State.issued (s : State) (n k m : Nat) (f : Agent → Agent) : State :=
  let t := (s.setAgent n ((f (s.agent n)).retire k m)).bundleCycle n
  { t with freeCtr := t.freeCtr + 1 }

/-- The invariant: memory is in its canonical form. -/
def State.Inv (s : State) : Prop := s.mem.wf = true

end Sys2Proof.Machine
end

