-- ==== Sys2Proof/Certificates/Slice0/Obligations.lean ====
section
/-!
DEFINITION. The statements for the provers: what each instruction and each move of the machine does, the checks that stop a bundle, taking
an exception, the encodings, and what every step keeps.
-/

namespace Sys2Proof.Spec

open Sys2Proof Sys2Proof.Machine

/-! ## What one slot word does, as the tables of the spec give it -/

/-- A slot word's row: its iteration qualifier, who may hold it (01 R37, 12 R268), its queue operands in field order and the queues that
it pushes (03 R86), the withheld commands and stores that it adds (02 R66), the conditions under which it runs once it is selected (01
R38), and its effect on its agent, from the agent as it stands before the bundle (01 R39). -/
structure Form where
  iq : BitVec 2
  held : Prop
  ops : List QOp := []
  push : List (BitVec 4) := []
  cmds : Nat := 0
  stores : Nat := 0
  ok : Prop := True
  act : Agent → Agent
  /-- The next PC and the loop stack, from the agent before the bundle and the agent after its effects: the fall-through with its loop
  step (02 R55), but for words that jump or set a level. -/
  flow : Agent → Agent → Agent := fun _ a => a.seqStep

/-- The bundle of the word alone: a selected word takes its entries, reserves its pushes and has its effect; the next PC follows. A word
that is not selected has no effect (01 R21). -/
def Form.run (f : Form) (a : Agent) : Agent :=
  if a.selects f.iq then f.flow a (f.push.foldl Agent.reserve ((f.act a).taken f.ops)) else a.seqStep

/-- The conditions of a selected word. -/
def Form.can (f : Form) (a : Agent) : Prop :=
  f.ok ∧ a.supplies f.ops ∧ (∀ q ∈ f.push, a.room f.ops q) ∧ (f.cmds = 0 ∨ a.cmds + f.cmds ≤ 32) ∧
    (f.stores = 0 ∨ a.stores + f.stores ≤ 256)

/-- Instruction `i` runs at `s` as its row says, and changes nothing else. -/
def Form.Says (f : Form) (i : Instr) (s : State) : Prop :=
  let n := s.cur.toNat
  let sel := (s.agent n).selects f.iq
  s.ready n → f.held → (sel = true → f.can (s.agent n)) →
    exec i s = .next (s.issued n (if sel then f.cmds else 0) (if sel then f.stores else 0) f.run)

/-- A word of slots 1 and 2, or one that any agent may hold, which writes sd `lat` issue cycles later. -/
def writesS (iq : BitVec 2) (lat : Nat) (d : BitVec 5) (v : Agent → W64) : Form :=
  { iq := iq, held := True, act := fun a => a.fly a.icyc lat (.s d (v a)) }

/-- A word of slots 1 and 2 that writes ad one issue cycle later. -/
def writesA (iq : BitVec 2) (d : BitVec 4) (v : Agent → W64) : Form :=
  { iq := iq, held := True, act := fun a => a.fly a.icyc 1 (.a d (v a)) }

/-- The integer instructions (03 R77, R78). -/
def integer : Instr → Option Form
  | .add iq d x y => some (writesS iq 1 d (fun a => a.getS x + a.getS y))
  | .addi iq d x i => some (writesS iq 1 d (fun a => a.getS x + i.signExtend 64))
  | .sub iq d x y => some (writesS iq 1 d (fun a => a.getS x - a.getS y))
  | .adds iq d x y =>
    some (writesS iq 1 d (fun a => BitVec.ofInt 64 (max (-(2 ^ 63)) (min (2 ^ 63 - 1) ((a.getS x).toInt + (a.getS y).toInt)))))
  | .subs iq d x y =>
    some (writesS iq 1 d (fun a => BitVec.ofInt 64 (max (-(2 ^ 63)) (min (2 ^ 63 - 1) ((a.getS x).toInt - (a.getS y).toInt)))))
  | .and iq d x y => some (writesS iq 1 d (fun a => a.getS x &&& a.getS y))
  | .andi iq d x i => some (writesS iq 1 d (fun a => a.getS x &&& i.signExtend 64))
  | .or iq d x y => some (writesS iq 1 d (fun a => a.getS x ||| a.getS y))
  | .ori iq d x i => some (writesS iq 1 d (fun a => a.getS x ||| i.signExtend 64))
  | .xor iq d x y => some (writesS iq 1 d (fun a => a.getS x ^^^ a.getS y))
  | .xori iq d x i => some (writesS iq 1 d (fun a => a.getS x ^^^ i.signExtend 64))
  | .sll iq d x y => some (writesS iq 1 d (fun a => a.getS x <<< ((a.getS y) &&& 63#64).toNat))
  | .srl iq d x y => some (writesS iq 1 d (fun a => a.getS x >>> ((a.getS y) &&& 63#64).toNat))
  | .sra iq d x y => some (writesS iq 1 d (fun a => (a.getS x).sshiftRight ((a.getS y) &&& 63#64).toNat))
  | .slli iq d x k => some (writesS iq 1 d (fun a => a.getS x <<< k.toNat))
  | .srli iq d x k => some (writesS iq 1 d (fun a => a.getS x >>> k.toNat))
  | .srai iq d x k => some (writesS iq 1 d (fun a => (a.getS x).sshiftRight k.toNat))
  | .slt iq d x y => some (writesS iq 1 d (fun a => if (a.getS x).toInt < (a.getS y).toInt then 1 else 0))
  | .slti iq d x i => some (writesS iq 1 d (fun a => if (a.getS x).toInt < i.toInt then 1 else 0))
  | .sltu iq d x y => some (writesS iq 1 d (fun a => if (a.getS x).toNat < (a.getS y).toNat then 1 else 0))
  | .min iq d x y => some (writesS iq 1 d (fun a => BitVec.ofInt 64 (min (a.getS x).toInt (a.getS y).toInt)))
  | .max iq d x y => some (writesS iq 1 d (fun a => BitVec.ofInt 64 (max (a.getS x).toInt (a.getS y).toInt)))
  | .minu iq d x y => some (writesS iq 1 d (fun a => BitVec.ofNat 64 (min (a.getS x).toNat (a.getS y).toNat)))
  | .maxu iq d x y => some (writesS iq 1 d (fun a => BitVec.ofNat 64 (max (a.getS x).toNat (a.getS y).toNat)))
  | .clz iq d x =>
    some (writesS iq 1 d (fun a => if a.getS x = 0 then 64 else BitVec.ofNat 64 (63 - Nat.log2 (a.getS x).toNat)))
  | .popc iq d x => some (writesS iq 1 d (fun a => BitVec.ofNat 64 ((List.range 64).countP (fun k => (a.getS x).getLsbD k))))
  | .cmov iq d x y =>
    some { iq := iq, held := True, act := fun a => if a.getS y = 0 then a else a.fly a.icyc 1 (.s d (a.getS x)) }
  | .mul iq d x y => some (writesS iq 3 d (fun a => BitVec.ofNat 64 ((a.getS x).toNat * (a.getS y).toNat)))
  | .mulh iq d x y => some (writesS iq 3 d (fun a => BitVec.ofInt 64 ((a.getS x).toInt * (a.getS y).toInt / 2 ^ 64)))
  | .mulhu iq d x y => some (writesS iq 3 d (fun a => BitVec.ofNat 64 ((a.getS x).toNat * (a.getS y).toNat / 2 ^ 64)))
  | .div iq d x y =>
    some (writesS iq 12 d (fun a => if a.getS y = 0 then BitVec.allOnes 64 else BitVec.ofInt 64 ((a.getS x).toInt.tdiv (a.getS y).toInt)))
  | .divu iq d x y =>
    some (writesS iq 12 d (fun a => if a.getS y = 0 then BitVec.allOnes 64 else BitVec.ofNat 64 ((a.getS x).toNat / (a.getS y).toNat)))
  | .rem iq d x y =>
    some (writesS iq 12 d (fun a => if a.getS y = 0 then a.getS x else BitVec.ofInt 64 ((a.getS x).toInt.tmod (a.getS y).toInt)))
  | .remu iq d x y =>
    some (writesS iq 12 d (fun a => if a.getS y = 0 then a.getS x else BitVec.ofNat 64 ((a.getS x).toNat % (a.getS y).toNat)))
  | .li iq d i => some (writesS iq 1 d (fun _ => i.signExtend 64))
  | .lui iq d i => some (writesS iq 1 d (fun a => (a.getS d <<< 19) ||| i.setWidth 64))
  | _ => none

/-- The FP32 value in bits 31:0 of a register (03 R79). -/
def f32In (a : Agent) (x : BitVec 5) : W32 := (a.getS x).setWidth 32

/-- Scalar FP32, compares and conversions (03 R79–R81): an FP32 result has bits 63:32 zero. -/
def scalarFloat : Instr → Option Form
  | .fadd iq d x y => some (writesS iq 4 d (fun a => (f32Add (f32In a x) (f32In a y)).setWidth 64))
  | .fsub iq d x y => some (writesS iq 4 d (fun a => (f32Sub (f32In a x) (f32In a y)).setWidth 64))
  | .fmul iq d x y => some (writesS iq 4 d (fun a => (f32Mul (f32In a x) (f32In a y)).setWidth 64))
  | .fdiv iq d x y => some (writesS iq 12 d (fun a => (f32Div (f32In a x) (f32In a y)).setWidth 64))
  | .fmin iq d x y => some (writesS iq 4 d (fun a => (f32Min (f32In a x) (f32In a y)).setWidth 64))
  | .fmax iq d x y => some (writesS iq 4 d (fun a => (f32MaxOf (f32In a x) (f32In a y)).setWidth 64))
  | .fcmpEq iq d x y => some (writesS iq 4 d (fun a => if f32Eq (f32In a x) (f32In a y) then 1 else 0))
  | .fcmpLt iq d x y => some (writesS iq 4 d (fun a => if f32Lt (f32In a x) (f32In a y) then 1 else 0))
  | .fcmpLe iq d x y => some (writesS iq 4 d (fun a => if f32Le (f32In a x) (f32In a y) then 1 else 0))
  | .fcmpUn iq d x y => some (writesS iq 4 d (fun a => if f32Un (f32In a x) (f32In a y) then 1 else 0))
  | .fcvtF2i iq d x => some (writesS iq 4 d (fun a => f32ToI64 (f32In a x)))
  | .fcvtI2f iq d x => some (writesS iq 4 d (fun a => (i64ToF32 (a.getS x)).setWidth 64))
  | .fcvtF2bf iq d x => some (writesS iq 4 d (fun a => (f32ToBf16 (f32In a x)).setWidth 64))
  | .fcvtBf2f iq d x => some (writesS iq 4 d (fun a => (bf16ToF32 ((a.getS x).setWidth 16)).setWidth 64))
  | _ => none

/-- Address instructions, identifiers and LIDX (03 R82, R83, 02 R59). -/
def address (n : Nat) : Instr → Option Form
  | .amov iq d x => some (writesA iq d (fun a => a.getS x))
  | .aget iq d x => some (writesS iq 1 d (fun a => a.getA x))
  | .aadd iq d x y => some (writesA iq d (fun a => a.getA x + a.getS y))
  | .aaddi iq d x i => some (writesA iq d (fun a => a.getA x + i.signExtend 64))
  | .agen iq d x y layer =>
    some (writesA iq d (fun a =>
      a.r.kvbase + a.getS x * a.r.kvslot + layer.setWidth 64 * a.r.kvlayer + a.getS y * a.r.kvtok))
  | .rdrankRank iq d => some (writesS iq 1 d (fun _ => BitVec.ofNat 64 (if n < 288 then n % 12 else 12)))
  | .rdrankLoom iq d => some (writesS iq 1 d (fun _ => BitVec.ofNat 64 ((if n < 288 then n / 12 else n - 288) % 6)))
  | .rdrankDie iq d => some (writesS iq 1 d (fun _ => BitVec.ofNat 64 ((if n < 288 then n / 12 else n - 288) / 6)))
  | .rdrankCore iq d => some (writesS iq 1 d (fun _ => BitVec.ofNat 64 n))
  | .lidx iq d l =>
    some (writesS iq 1 d (fun a => if (a.level l.toNat).act then (a.level l.toNat).index else BitVec.allOnes 64))
  | _ => none

/-- Single queue words and shape records (03 R88, R92–R94): a loom controller reaches q12 to q15 and the records of slot 7 alone. -/
def queueShape (n : Nat) : Instr → Option Form
  | .qpops iq d q pk w =>
    some { iq := iq, held := n < 288 ∨ 12 ≤ q.toNat, ops := [⟨q, pk == 1⟩]
           act := fun a => a.fly a.icyc 1 (.s d (((a.queue q).headD 0).extractLsb' (64 * w.toNat) 64)) }
  | .qpushs iq q x =>
    some { iq := iq, held := n < 288 ∨ 12 ≤ q.toNat, push := [q]
           act := fun a => a.fly a.icyc 1 (.push q ((a.getS x).setWidth 4096)) }
  | .shw iq slot h x f =>
    some { iq := iq, held := n < 288 ∨ slot = 3, act := fun a => a.fly a.icyc 1 (.shape slot h f (a.getS x)) }
  | .shr iq d slot h f =>
    some { iq := iq, held := n < 288 ∨ slot = 3, act := fun a => a.fly a.icyc 1 (.s d ((a.shape slot h 1).field f)) }
  | _ => none

/-! ### Slot 0 -/

/-- Agents in the supervisor handler may not hold the waiting words (12 R268), and no handler the words of the task alone (01 R37). -/
def notSuper (a : Agent) : Prop := a.mode ≠ .super
def inTask (a : Agent) : Prop := a.mode = .task

/-- A CSR that an agent may name: a loom controller every one, a core none of 0x210 to 0x22F (01 R37). -/
def namesCsr (n : Nat) (c : BitVec 12) : Prop := 288 ≤ n ∨ c.toNat < 0x210 ∨ 0x22F < c.toNat

/-- CSRR (02 R73): outside the supervisor handler a supervisor register is refused; a read of ISTAT clears NPF (01 R27). -/
def readsCsr (s : State) (n : Nat) (iq : BitVec 2) (d : BitVec 5) (c : BitVec 12) : Form :=
  { iq := iq, held := namesCsr n c, ok := (s.agent n).mode = .super ∨ csrAccess (s.agent n) c ≠ .s
    act := fun a =>
      let b := a.fly a.icyc 1 (.s d (s.csrValue n c))
      if c = 0x005 then { b with r := { b.r with npf := false } } else b }

/-- CSRW (02 R73): outside the supervisor handler only registers of access U take a write (01 R26). -/
def writesCsr (s : State) (n : Nat) (iq : BitVec 2) (x : BitVec 5) (c : BitVec 12) : Form :=
  { iq := iq, held := namesCsr n c, ok := (s.agent n).mode = .super ∨ csrAccess (s.agent n) c = .u
    act := fun a => a.fly a.icyc 1 (.csr c (a.getS x)) }

/-- The words of slot 0 that read or set something and fall through: waits, markers, formats, CSRs (02 R54, R59, R64, R69–R73, 10
R237–R242). A wait holds the next bundle until the row of the table that ends it. -/
def slot0 (s : State) (n : Nat) : Instr → Option Form
  | .nop => some { iq := 0, held := True, act := fun a => a }
  | .ckpt iq => some { iq := iq, held := inTask (s.agent n), act := fun a => { a with wait := .ckpt false false a.r.pc } }
  | .ckptl iq => some { iq := iq, held := inTask (s.agent n), act := fun a => { a with wait := .ckpt true false a.r.pc } }
  | .wfe iq => some { iq := iq, held := notSuper (s.agent n), act := fun a => { a with wait := .wfe } }
  | .waitt iq x => some { iq := iq, held := notSuper (s.agent n), act := fun a => { a with wait := .waitt (a.getS x) } }
  | .sleepc iq x => some { iq := iq, held := notSuper (s.agent n), act := fun a => { a with wait := .sleepc (a.getS x) } }
  | .qwait iq q k => some { iq := iq, held := notSuper (s.agent n), act := fun a => { a with wait := .qwait q k } }
  | .twait iq c x =>
    some { iq := iq, held := notSuper (s.agent n) ∧ (n < 288 ∨ c.toNat ≤ 3), act := fun a => { a with wait := .twait c (a.getS x) } }
  | .twaita iq r x =>
    some { iq := iq, held := notSuper (s.agent n)
           ok := (s.agent n).getA r &&& 7 = 0 ∧ s.vaCheck n (s.agent n).who askCell ((s.agent n).getA r).toNat 8 = none
           act := fun a => { a with wait := .twaita (a.getA r) (a.getS x) } }
  | .qalign iq far near => some { iq := iq, held := True, act := fun a => { a with wait := .qalign (far == 1) (near == 1) a.icyc } }
  | .fence iq scope kind =>
    some { iq := iq, held := True
           act := fun a =>
             let b := if kind.getLsbD 0 then { a with wait := .acquire a.icyc } else a
             if kind.getLsbD 1 then { b with wb := b.wb ++ [.marker scope] } else b }
  | .sev iq x => some { iq := iq, held := True, cmds := 1, act := fun a => { a with wb := a.wb ++ [.event (a.getS x)] } }
  | .uimask iq m => some { iq := iq, held := notSuper (s.agent n), act := fun a => { a with r := { a.r with uimask := m == 1 } } }
  | .fmt iq fam v => some { iq := iq, held := inTask (s.agent n), act := fun a => a.fly a.icyc 4 (.fmt fam v) }
  | .fmts iq fam x =>
    some { iq := iq, held := inTask (s.agent n), ok := famAccepts fam (((s.agent n).getS x).setWidth 8) = true
           act := fun a => a.fly a.icyc 4 (.fmt fam ((a.getS x).setWidth 8)) }
  | .csrr iq d c => some (readsCsr s n iq d c)
  | .istatRead iq d => some (readsCsr s n iq d 0x005)
  | .csrw iq x c => some (writesCsr s n iq x c)
  | .srseedWrite iq x => some (writesCsr s n iq x 0x017)
  | .skewWrite iq x => some (writesCsr s n iq x 0x102)
  | .rateWrite iq x tier => some (writesCsr s n iq x (0x140 + tier.setWidth 12))
  | .sliceWrite iq x => some (writesCsr s n iq x 0x103)
  | .evcntWrite iq x k => some (writesCsr s n iq x (0x208 + k.setWidth 12))
  | _ => none

/-! ### Branches and loops -/

/-- A taken jump to `t`: a jump of the task to 0 ends it with a full checkpoint (02 R46). -/
def jumps (t : W64) (pre a : Agent) : Agent :=
  let b := { a with r := { a.r with pc := t } }
  if t = 0 then { b with wait := .ckpt false true pre.r.pc } else b

/-- A branch to `target` where `taken` holds: the target is a multiple of 32, and no handler jumps to 0 (02 R52, R46). -/
def branch (a : Agent) (iq : BitVec 2) (taken : Agent → Bool) (target : Agent → W64)
    (link : Bool := false) : Form :=
  { iq := iq, held := True
    ok := taken a = true → target a &&& 31 = 0 ∧ (target a = 0 → a.mode = .task)
    act := fun b => if link then b.fly b.icyc 1 (.s 31 (b.r.pc + 32)) else b
    flow := fun pre b => if taken pre then jumps (target pre) pre b else b.seqStep }

/-- The target of a relative branch, in bundles of 32 bytes from its own (02 R52). -/
def relative {w : Nat} (disp : BitVec w) (a : Agent) : W64 := a.r.pc + 32 * disp.signExtend 64

/-- The conditions of BC (02 R52). -/
def holds (c : BitVec 4) (v : W64) : Bool :=
  match c.toNat with
  | 0 => decide (v = 0)
  | 1 => decide (v ≠ 0)
  | 2 => decide (v.toInt < 0)
  | 3 => decide (0 ≤ v.toInt)
  | 4 => decide (0 < v.toInt)
  | _ => decide (v.toInt ≤ 0)

/-- The branches (02 R52): CALL writes s31 one issue cycle later. -/
def branches (a : Agent) : Instr → Option Form
  | .br iq disp => some (branch a iq (fun _ => true) (relative disp))
  | .call iq disp => some (branch a iq (fun _ => true) (relative disp) true)
  | .bc iq c x disp => some (branch a iq (fun a => holds c (a.getS x)) (relative disp))
  | .bpany iq p disp => some (branch a iq (fun a => decide (a.getP p ≠ 0)) (relative disp))
  | .bpnone iq p disp => some (branch a iq (fun a => decide (a.getP p = 0)) (relative disp))
  | .jr iq x => some (branch a iq (fun _ => true) (fun a => a.getS x))
  | .ret iq => some (branch a iq (fun _ => true) (fun a => a.getS 31))
  | _ => none

/-- LBREAK and LSTRIDE (02 R56, R58): LBREAK takes no iteration step, of an inactive level it only goes on (02 R57, log 58); in a user
handler both act on the task's loop stack (log 59). -/
def levels (a : Agent) : Instr → Option Form
  | .lbreak iq l =>
    some { iq := iq, held := notSuper a, act := fun b => b
           flow := fun pre b =>
             if (pre.level l.toNat).act then
               Agent.cascade (pre.level l.toNat).last 6 (b.landA.exitTo l.toNat 6) ((pre.level l.toNat).last + 32)
             else { b with r := { b.r with pc := b.r.pc + 32 } } }
  | .lstride iq l r x =>
    some { iq := iq, held := True, act := fun b => b
           flow := fun pre b => b.seqStep.setStride pre l r (if x = 0 then none else some (pre.getS x)) }
  | _ => none

/-- What a loop word opens: its qualifier, the level, the number of body bundles, and the trip count (02 R54). -/
def opening (a : Agent) : Instr → Option (BitVec 2 × BitVec 3 × Nat × W64)
  | .loop iq l x len => some (iq, l, len.toNat, a.getS x)
  | .loopi iq l k len => some (iq, l, len.toNat, k.setWidth 64)
  | .loops iq l b len => some (iq, l, len.toNat, BitVec.ofNat 64 ((a.r.seqlen.toNat + 2 ^ b.toNat - 1) / 2 ^ b.toNat))
  | _ => none

/-! ### Slots 3 and 4 -/

/-- Slots 3 to 6 belong to the tasks of cores (01 R37, 12 R268). -/
def onCore (a : Agent) (n : Nat) : Prop := n < 288 ∧ a.mode = .task

/-- The post-increment of an address register (05 R123, R133). -/
def bumps (ar : BitVec 4) (pi : BitVec 1) (k : W64) (pre a : Agent) : Agent :=
  if pi = 1 then a.fly pre.icyc 1 (.a ar (pre.getA ar + k)) else a

/-- A near load of `len` bytes at byte offset `e` (05 R121–R123, R130, R131): the entry enters queue q six issue cycles later. -/
def nearLoads (s : State) (n : Nat) (iq : BitVec 2) (q ar : BitVec 4) (pi : BitVec 1) (len : Nat) (e : W64) (entry : Nat → Vec) : Form :=
  { iq := iq, held := onCore (s.agent n) n, push := [q]
    ok := nearCheck s n false e len = none ∧ nearPoison s n e.toNat len = none
    act := fun a =>
      (bumps ar pi (BitVec.ofNat 64 len) a
        (a.fly a.icyc 6 (.push q (entry (s.mem.num (nearAddr n e.toNat) len))))).event 0x09 1 }

/-- A near store (05 R123, R132): the first `len` bytes of the head of q stand in the near store three issue cycles later. -/
def nearStores (s : State) (n : Nat) (iq : BitVec 2) (q ar : BitVec 4) (pi : BitVec 1) (len : Nat) (e : W64) : Form :=
  { iq := iq, held := onCore (s.agent n) n, ops := [⟨q, false⟩]
    ok := nearCheck s n true e len = none ∧
      (s.agent n).counted.length + (newLines (s.agent n) e.toNat len).length ≤ 1024
    act := fun a =>
      let b := { a with
        counted := a.counted ++ newLines a e.toNat len
        nsq := a.nsq ++ [{ due := a.icyc + 3, off := e.toNat, len := len, data := (a.queue q).headD 0 }] }
      (bumps ar pi (BitVec.ofNat 64 len) a b).event 0x0A 1 }

/-- The byte offsets of near words: the address register, 64 bytes per step of the immediate, and a scalar in the indexed forms. -/
def offset {w : Nat} (a : Agent) (ar : BitVec 4) (off : BitVec w) : W64 := a.getA ar + 64 * off.signExtend 64
def offsetX (a : Agent) (ar : BitVec 4) (x : BitVec 5) (off : BitVec 10) : W64 := a.getA ar + a.getS x + 64 * off.signExtend 64

/-- Near loads and stores (05 R130–R132). -/
def near (s : State) (n : Nat) : Instr → Option Form
  | .nld iq q ar pi off => some (nearLoads s n iq q ar pi 512 (offset (s.agent n) ar off) (BitVec.ofNat 4096))
  | .nldh iq q ar pi off => some (nearLoads s n iq q ar pi 256 (offset (s.agent n) ar off) (BitVec.ofNat 4096))
  | .nldb iq q ar pi off =>
    some (nearLoads s n iq q ar pi 64 (offset (s.agent n) ar off)
      (fun x => BitVec.ofNat 4096 (packBits 512 (List.replicate 8 x))))
  | .nldx iq q ar pi x off => some (nearLoads s n iq q ar pi 512 (offsetX (s.agent n) ar x off) (BitVec.ofNat 4096))
  | .nst iq q ar pi off => some (nearStores s n iq q ar pi 512 (offset (s.agent n) ar off))
  | .nsth iq q ar pi off => some (nearStores s n iq q ar pi 256 (offset (s.agent n) ar off))
  | .nstx iq q ar pi x off => some (nearStores s n iq q ar pi 512 (offsetX (s.agent n) ar x off))
  | _ => none

/-- The row that a slot-4 word names: the address register plus the row field (05 R133). -/
def row (a : Agent) (ar : BitVec 4) (r : BitVec 7) : W64 := a.getA ar + r.setWidth 64

/-- A read of accumulator rows (05 R127, R133, R134): the bundle waits while a block of the tile is in flight. -/
def rowReads (s : State) (n : Nat) (iq : BitVec 2) (q t ar : BitVec 4) (pi : BitVec 1) (r : BitVec 7) (first rows : Nat) (x : Vec)
    (after : Agent → Agent := id) : Form :=
  let e := row (s.agent n) ar r
  { iq := iq, held := onCore (s.agent n) n, push := [q]
    ok := (s.agent n).busy t = false ∧ rowCheck s n false t e first rows = none ∧ rowPoison s n (rowNum t first) rows = none
    act := fun a => after (bumps ar pi 1 a (a.fly a.icyc 4 (.push q x))) }

/-- A write of one accumulator row, one issue cycle later (05 R127, R133, R135). -/
def rowWrites (s : State) (n : Nat) (iq : BitVec 2) (ops : List QOp) (t ar : BitVec 4) (pi : BitVec 1) (r : BitVec 7) (x : Vec)
    (reads : Bool := false) : Form :=
  let e := row (s.agent n) ar r
  { iq := iq, held := onCore (s.agent n) n, ops := ops
    ok := (s.agent n).busy t = false ∧ rowCheck s n true t e e.toNat 1 = none ∧
      (reads = true → rowPoison s n (rowNum t e.toNat) 1 = none)
    act := fun a => bumps ar pi 1 a (a.fly a.icyc 1 (.row t (BitVec.ofNat 7 e.toNat) x)) }

/-- Accumulator words (05 R133–R137). -/
def accumulator (s : State) (n : Nat) : Instr → Option Form
  | .ard iq q t ar pi r =>
    let e := (row (s.agent n) ar r).toNat
    some (rowReads s n iq q t ar pi r e 1 (s.accRow n (rowNum t e)))
  | .ardc iq q t ar pi r =>
    let e := (row (s.agent n) ar r).toNat
    some (rowReads s n iq q t ar pi r e 1 (convertRow s n (s.agent n) (s.accRow n (rowNum t e))) Agent.drawRsr)
  | .ardt iq q t ar pi r =>
    some (rowReads s n iq q t ar pi r 0 128 (mkVec (fun l =>
      BitVec.ofNat 32 (s.mem.num (accAddr n (512 * rowNum t l + 4 * (row (s.agent n) ar r).toNat)) 4))))
  | .awr iq q t ar pi r => some (rowWrites s n iq [⟨q, false⟩] t ar pi r (((s.agent n).queue q).headD 0))
  | .aacc iq q t ar pi r =>
    let old := s.accRow n (rowNum t (row (s.agent n) ar r).toNat)
    let x := ((s.agent n).queue q).headD 0
    some (rowWrites s n iq [⟨q, false⟩] t ar pi r (mkVec (fun l => f32Add (lane old l) (lane x l))) true)
  | .azero iq t ar pi r => some (rowWrites s n iq [] t ar pi r 0)
  | .ascl iq q t =>
    some { iq := iq, held := onCore (s.agent n) n, ops := [⟨q, false⟩]
           ok := ∀ b, portBlock (s.agent n) t (s.agent n).icyc = some b →
             s.rentCheck n (s.agent n).who true false 0 n (t.toNat * 65536) (b.rows.length * 512) = none
           act := fun a =>
             { a with blocks := a.blocks.map (fun b =>
                 if b.tile == t && b.port == a.icyc then b.scale ((a.queue q).headD 0) else b) } }
  | _ => none

/-! ### Slot 5 -/

/-- A vector word (07 R164–R166): with destination mode 1 the result, zero outside the mask, is pushed; else it lands in the lanes of the
mask of vd. -/
def vec (a : Agent) (n : Nat) (iq : BitVec 2) (lat : Nat) (vd : BitVec 5) (md : BitVec 2) (ops : List QOp) (mask x : Vec)
    (after : Agent → Agent := id) : Form :=
  { iq := iq, held := onCore a n, ops := ops, push := if md = 1 then [vd.setWidth 4] else []
    act := fun a => after (a.fly a.icyc lat (if md = 1 then .push (vd.setWidth 4) (x &&& mask) else .v vd mask x)) }

/-- The lanes that a predicate selects, and every lane. -/
def lanes (a : Agent) (pg : BitVec 3) : Vec := laneMask (a.getP pg)
def everyLane : Vec := BitVec.allOnes 4096

/-- One result lane from each lane of the two sources, of the one source, or of the two sources and vd. -/
def lane2 (f : W32 → W32 → W32) (p : Vec × Vec) : Vec := mkVec (fun l => f (lane p.1 l) (lane p.2 l))
def lane1 (f : W32 → W32) (x : Vec) : Vec := mkVec (fun l => f (lane x l))
def lane3 (f : W32 → W32 → W32 → W32) (d : Vec) (p : Vec × Vec) : Vec := mkVec (fun l => f (lane d l) (lane p.1 l) (lane p.2 l))

/-- The lane function of a two-source vector word, and the issue cycles after which its result lands (07 R167–R170, R175, R177). -/
def binary : Instr → Option (BitVec 2 × Nat × BitVec 5 × BitVec 5 × BitVec 5 × BitVec 2 × BitVec 2 × BitVec 3 × BitVec 2 × (W32 → W32 → W32))
  | .vadd iq vd va vb ma mb pg md => some (iq, 3, vd, va, vb, ma, mb, pg, md, f32Add)
  | .vsub iq vd va vb ma mb pg md => some (iq, 3, vd, va, vb, ma, mb, pg, md, f32Sub)
  | .vmul iq vd va vb ma mb pg md => some (iq, 3, vd, va, vb, ma, mb, pg, md, f32Mul)
  | .vmin iq vd va vb ma mb pg md => some (iq, 3, vd, va, vb, ma, mb, pg, md, f32Min)
  | .vmax iq vd va vb ma mb pg md => some (iq, 3, vd, va, vb, ma, mb, pg, md, f32MaxOf)
  | .vdiv iq vd va vb ma mb pg md => some (iq, 8, vd, va, vb, ma, mb, pg, md, f32Div)
  | .vpexp iq vd va vb ma mb pg md => some (iq, 8, vd, va, vb, ma, mb, pg, md, pexpCode)
  | .viadd iq vd va vb ma mb pg md => some (iq, 3, vd, va, vb, ma, mb, pg, md, fun x y => x + y)
  | .visub iq vd va vb ma mb pg md => some (iq, 3, vd, va, vb, ma, mb, pg, md, fun x y => x - y)
  | .vimul iq vd va vb ma mb pg md => some (iq, 3, vd, va, vb, ma, mb, pg, md, fun x y => x * y)
  | .vimin iq vd va vb ma mb pg md =>
    some (iq, 3, vd, va, vb, ma, mb, pg, md, fun x y => BitVec.ofInt 32 (min x.toInt y.toInt))
  | .vimax iq vd va vb ma mb pg md =>
    some (iq, 3, vd, va, vb, ma, mb, pg, md, fun x y => BitVec.ofInt 32 (max x.toInt y.toInt))
  | .vand iq vd va vb ma mb pg md => some (iq, 3, vd, va, vb, ma, mb, pg, md, fun x y => x &&& y)
  | .vor iq vd va vb ma mb pg md => some (iq, 3, vd, va, vb, ma, mb, pg, md, fun x y => x ||| y)
  | .vxor iq vd va vb ma mb pg md => some (iq, 3, vd, va, vb, ma, mb, pg, md, fun x y => x ^^^ y)
  | .vshl iq vd va vb ma mb pg md => some (iq, 3, vd, va, vb, ma, mb, pg, md, fun x y => x <<< (y &&& 31#32).toNat)
  | .vshr iq vd va vb ma mb pg md => some (iq, 3, vd, va, vb, ma, mb, pg, md, fun x y => x >>> (y &&& 31#32).toNat)
  | .vsra iq vd va vb ma mb pg md => some (iq, 3, vd, va, vb, ma, mb, pg, md, fun x y => x.sshiftRight (y &&& 31#32).toNat)
  | .vdot4 iq vd va vb ma mb pg md =>
    some (iq, 3, vd, va, vb, ma, mb, pg, md, fun x y =>
      BitVec.ofInt 32 (((List.range 4).map (fun k => (byteAt x k).toInt * (byteAt y k).toInt)).sum))
  | _ => none

/-- The lane function of a one-source vector word (07 R167, R168, R169, R172). -/
def unary : Instr → Option (BitVec 2 × Nat × BitVec 5 × BitVec 5 × BitVec 2 × BitVec 3 × BitVec 2 × (W32 → W32))
  | .vabs iq vd va ma pg md => some (iq, 3, vd, va, ma, pg, md, fun x => x &&& 0x7FFFFFFF#32)
  | .vneg iq vd va ma pg md => some (iq, 3, vd, va, ma, pg, md, fun x => x ^^^ 0x80000000#32)
  | .vnot iq vd va ma pg md => some (iq, 3, vd, va, ma, pg, md, fun x => ~~~x)
  | .vmov iq vd va ma pg md => some (iq, 3, vd, va, ma, pg, md, fun x => x)
  | .vrcp iq vd va ma pg md => some (iq, 8, vd, va, ma, pg, md, f32Rcp)
  | .vrsq iq vd va ma pg md => some (iq, 8, vd, va, ma, pg, md, f32Rsq)
  | .vsqrt iq vd va ma pg md => some (iq, 8, vd, va, ma, pg, md, f32Sqrt)
  | .vexp2 iq vd va ma pg md => some (iq, 8, vd, va, ma, pg, md, f32Exp2)
  | .vexp iq vd va ma pg md => some (iq, 8, vd, va, ma, pg, md, f32ExpMode .rne)
  | .vlog2 iq vd va ma pg md => some (iq, 8, vd, va, ma, pg, md, f32Log2)
  | .vsig iq vd va ma pg md => some (iq, 8, vd, va, ma, pg, md, f32Sig)
  | .vtanh iq vd va ma pg md => some (iq, 8, vd, va, ma, pg, md, f32Tanh)
  | _ => none

/-- The word of a two-source and of a one-source row. -/
def binaryForm (a : Agent) (n : Nat) (i : Instr) : Option Form :=
  (binary i).map (fun (iq, lat, vd, va, vb, ma, mb, pg, md, f) =>
    vec a n iq lat vd md (modeOps ma va ++ modeOps mb vb) (lanes a pg) (lane2 f (a.sources ma va mb vb)))
def unaryForm (a : Agent) (n : Nat) (i : Instr) : Option Form :=
  (unary i).map (fun (iq, lat, vd, va, ma, pg, md, f) =>
    vec a n iq lat vd md (modeOps ma va) (lanes a pg) (lane1 f (a.source ma va).1))

/-- A compare writes its predicate, zero where the governing predicate is (07 R170). -/
def compares (a : Agent) (n : Nat) (iq : BitVec 2) (pd : BitVec 3) (va vb : BitVec 5) (ma mb : BitVec 2) (pg : BitVec 3)
    (f : W32 → W32 → Bool) : Form :=
  { iq := iq, held := onCore a n, ops := modeOps ma va ++ modeOps mb vb
    act := fun a => a.fly a.icyc 3 (.p pd (mkPred (fun l =>
      (a.getP pg).getLsbD l && f (lane (a.sources ma va mb vb).1 l) (lane (a.sources ma va mb vb).2 l)))) }

/-- A predicate word (07 R171). -/
def predicate (a : Agent) (n : Nat) (iq : BitVec 2) (pd : BitVec 3) (x : Pred) : Form :=
  { iq := iq, held := onCore a n, act := fun a => a.fly a.icyc 3 (.p pd x) }

/-- Fused words, compares and predicates (07 R167, R170, R171, R176, R177). -/
def fusedOrPredicate (a : Agent) (n : Nat) : Instr → Option Form
  | .vfma iq vd va vb ma mb pg =>
    some (vec a n iq 3 vd 0 (modeOps ma va ++ modeOps mb vb) (lanes a pg) (lane3 f32Fma (a.getV vd) (a.sources ma va mb vb)))
  | .vfms iq vd va vb ma mb pg =>
    some (vec a n iq 3 vd 0 (modeOps ma va ++ modeOps mb vb) (lanes a pg) (lane3 f32Fms (a.getV vd) (a.sources ma va mb vb)))
  | .vpmac iq vd va vb ma mb pg =>
    some (vec a n iq 3 vd 0 (modeOps ma va ++ modeOps mb vb) (lanes a pg) (lane3 pmac (a.getV vd) (a.sources ma va mb vb)))
  | .vcmpeq iq pd va vb ma mb pg => some (compares a n iq pd va vb ma mb pg f32Eq)
  | .vcmplt iq pd va vb ma mb pg => some (compares a n iq pd va vb ma mb pg f32Lt)
  | .vcmple iq pd va vb ma mb pg => some (compares a n iq pd va vb ma mb pg f32Le)
  | .vcmpun iq pd va vb ma mb pg => some (compares a n iq pd va vb ma mb pg f32Un)
  | .vicmpeq iq pd va vb ma mb pg => some (compares a n iq pd va vb ma mb pg (fun x y => decide (x = y)))
  | .vicmplt iq pd va vb ma mb pg => some (compares a n iq pd va vb ma mb pg (fun x y => decide (x.toInt < y.toInt)))
  | .pand iq pd pa pb => some (predicate a n iq pd (a.getP pa &&& a.getP pb))
  | .por iq pd pa pb => some (predicate a n iq pd (a.getP pa ||| a.getP pb))
  | .pxor iq pd pa pb => some (predicate a n iq pd (a.getP pa ^^^ a.getP pb))
  | .pnot iq pd pa => some (predicate a n iq pd (~~~(a.getP pa)))
  | .pset iq pd x => some (predicate a n iq pd (mkPred (fun l => decide (l < (a.getS x).toNat))))
  | .pcnt iq d pa =>
    some { iq := iq, held := onCore a n
           act := fun a => a.fly a.icyc 3 (.s d (BitVec.ofNat 64 ((List.range 128).countP (fun l => (a.getP pa).getLsbD l)))) }
  | _ => none

/-- Words that move or rearrange lanes, convert, pack or reduce (07 R172–R174, R178, R179). -/
def rearranges (s : State) (n : Nat) (i : Instr) : Option Form :=
  let a := s.agent n
  match i with
  | .vsel iq vd va vb ma mb pg md =>
    let p := a.sources ma va mb vb
    some (vec a n iq 3 vd md (modeOps ma va ++ modeOps mb vb) everyLane ((p.2 &&& ~~~(lanes a pg)) ||| (p.1 &&& lanes a pg)))
  | .vperm iq vd va vb ma mb pg md =>
    let p := a.sources ma va mb vb
    some (vec a n iq 3 vd md (modeOps ma va ++ modeOps mb vb) (lanes a pg)
      (mkVec (fun l => lane p.1 ((lane p.2 l).toNat % 128))))
  | .vrot iq vd va vb ma mb pg md =>
    let p := a.sources ma va mb vb
    some (vec a n iq 3 vd md (modeOps ma va ++ modeOps mb vb) (lanes a pg)
      (mkVec (fun l => lane p.1 ((l + (lane p.2 0).toNat % 128) % 128))))
  | .viota iq vd pg md => some (vec a n iq 3 vd md [] (lanes a pg) (mkVec (fun l => BitVec.ofNat 32 l)))
  | .vpack iq vd va vb ma mb pg md =>
    let p := a.sources ma va mb vb
    some (vec a n iq 3 vd md (modeOps ma va ++ modeOps mb vb) (~~~(idleBits (a.getP pg) 8 256)) (packVec p.1 p.2))
  | .vunpk iq vd va ma pg md =>
    some (vec a n iq 3 vd md (modeOps ma va) (lanes a pg) (mkVec (fun l => (byteAt (a.source ma va).1 l).setWidth 32)))
  | .vcvt iq vd va ma pg md =>
    some (vec a n iq 3 vd md (modeOps ma va) (cvtMask pg a) (cvtVec s n a a.r.rsr.toNat (a.source ma va).1) Agent.drawRsr)
  | .vrsum iq vd va ma pg md => some (vec a n iq 9 vd md (modeOps ma va) everyLane (reduceTo f32Add (f32Zero true) (a.getP pg) (a.source ma va).1))
  | .vrmax iq vd va ma pg md => some (vec a n iq 9 vd md (modeOps ma va) everyLane (reduceTo f32MaxOf (f32Inf true) (a.getP pg) (a.source ma va).1))
  | .vrmin iq vd va ma pg md => some (vec a n iq 9 vd md (modeOps ma va) everyLane (reduceTo f32Min (f32Inf false) (a.getP pg) (a.source ma va).1))
  | .vmaxi iq vd va ma pg md =>
    some (vec a n iq 9 vd md (modeOps ma va) everyLane
      (extremum (fun y x => decide (f32Key x < f32Key y)) (f32Inf true) (a.getP pg) (a.source ma va).1))
  | .vmini iq vd va ma pg md =>
    some (vec a n iq 9 vd md (modeOps ma va) everyLane
      (extremum (fun y x => decide (f32Key y < f32Key x)) (f32Inf false) (a.getP pg) (a.source ma va).1))
  | .vscan iq vd va ma pg md => some (vec a n iq 9 vd md (modeOps ma va) everyLane (scanVec (a.getP pg) (a.source ma va).1))
  | _ => none

/-- An interval word that writes one interval register, or one vector register's lower 64 lanes, six issue cycles later (07 R180–R182). -/
def interval (a : Agent) (n : Nat) (iq : BitVec 2) (d : BitVec 4) (f : Nat → Option Iv) : Form :=
  { iq := iq, held := onCore a n, act := fun a => a.fly a.icyc 6 (.i d (ivVec f)) }
def bounds (a : Agent) (n : Nat) (iq : BitVec 2) (d : BitVec 4) (f : Nat → W32) : Form :=
  { iq := iq, held := onCore a n, act := fun a => a.fly a.icyc 6 (.v (d.setWidth 5) everyLane (ofLanes ((List.range 64).map f))) }

/-- An interval compare writes its sure and its possible predicate, 2 t − 1 and 2 t (07 R185). -/
def verdicts (a : Agent) (n : Nat) (iq : BitVec 2) (t : BitVec 3) (ia ib : BitVec 4) (f : Option Iv → Option Iv → Bool × Bool) : Form :=
  { iq := iq, held := onCore a n
    act := fun a =>
      let r (l : Nat) : Bool × Bool := f (ivLane (a.getI ia) l) (ivLane (a.getI ib) l)
      (a.fly a.icyc 6 (.p (2 * t - 1) (mkPred (fun l => decide (l < 64) && (r l).1)))).fly a.icyc 6
        (.p (2 * t) (mkPred (fun l => decide (l < 64) && (r l).2))) }

/-- Interval forms that compute a result from their sources (07 R181, R182, R185). -/
def intervals (a : Agent) (n : Nat) (i : Instr) : Option Form :=
  let x (r : BitVec 4) (l : Nat) : Option Iv := ivLane (a.getI r) l
  match i with
  | .iadd iq d ia ib => some (interval a n iq d (fun l => ivFwd .add (x ia l) (x ib l)))
  | .isub iq d ia ib => some (interval a n iq d (fun l => ivFwd .sub (x ia l) (x ib l)))
  | .imul iq d ia ib => some (interval a n iq d (fun l => ivFwd .mul (x ia l) (x ib l)))
  | .idiv iq d ia ib => some (interval a n iq d (fun l => ivFwd .div (x ia l) (x ib l)))
  | .isqr iq d ia => some (interval a n iq d (fun l => ivFwd .sqr (x ia l) (x ia l)))
  | .isqrt iq d ia => some (interval a n iq d (fun l => ivFwd .sqrt (x ia l) (x ia l)))
  | .iexp iq d ia => some (interval a n iq d (fun l => ivFwd .exp (x ia l) (x ia l)))
  | .ilog iq d ia => some (interval a n iq d (fun l => ivFwd .log (x ia l) (x ia l)))
  | .imin iq d ia ib => some (interval a n iq d (fun l => ivFwd .min (x ia l) (x ib l)))
  | .imax iq d ia ib => some (interval a n iq d (fun l => ivFwd .max (x ia l) (x ib l)))
  | .iabs iq d ia => some (interval a n iq d (fun l => ivFwd .abs (x ia l) (x ia l)))
  | .ihull iq d ia ib => some (interval a n iq d (fun l => ivHull (x ia l) (x ib l)))
  | .imeet iq d ia ib => some (interval a n iq d (fun l => ivMeet (x ia l) (x ib l)))
  | .ifrom iq d ia ib =>
    some (interval a n iq d (fun l => ivOf (lane (a.getV (ia.setWidth 5)) l) (lane (a.getV (ib.setWidth 5)) l)))
  | .isplit iq d ia ib =>
    some { iq := iq, held := onCore a n ∧ d ≠ ib
           act := fun a => (a.fly a.icyc 6 (.i d (ivVec (fun l => lowerHalf (ivLane (a.getI ia) l))))).fly a.icyc 6
             (.i ib (ivVec (fun l => upperHalf (ivLane (a.getI ia) l)))) }
  | .itolo iq d ia => some (bounds a n iq d (fun l => lane (a.getI ia) (2 * l)))
  | .itohi iq d ia => some (bounds a n iq d (fun l => lane (a.getI ia) (2 * l + 1)))
  | .imid iq d ia => some (bounds a n iq d (fun l => ivMid (x ia l)))
  | .iwid iq d ia => some (bounds a n iq d (fun l => ivWid (x ia l)))
  | .icmplt iq ia ib t => some (verdicts a n iq t ia ib (onBoth (fun u v => (f32Lt u.hi v.lo, f32Lt u.lo v.hi))))
  | .icmple iq ia ib t => some (verdicts a n iq t ia ib (onBoth (fun u v => (f32Le u.hi v.lo, f32Le u.lo v.hi))))
  | .icmpeq iq ia ib t =>
    some (verdicts a n iq t ia ib (onBoth (fun u v =>
      (f32Eq u.lo u.hi && f32Eq u.hi v.lo && f32Eq v.lo v.hi, !(ivMeet (some u) (some v) == none)))))
  | .isubset iq ia ib t => some (verdicts a n iq t ia ib (fun u v => (ivSubset u v, ivSubset u v)))
  | .idisj iq ia ib t => some (verdicts a n iq t ia ib (fun u v => (ivMeet u v == none, ivMeet u v == none)))
  | _ => none

/-- The backward form of an interval operation: which operation, whether it narrows two operands, its result register and its operands
(07 R183). -/
def backward : Instr → Option (BitVec 2 × IForm × Bool × BitVec 4 × BitVec 4 × BitVec 4)
  | .iaddB iq d ia ib => some (iq, .add, true, d, ia, ib)
  | .isubB iq d ia ib => some (iq, .sub, true, d, ia, ib)
  | .imulB iq d ia ib => some (iq, .mul, true, d, ia, ib)
  | .idivB iq d ia ib => some (iq, .div, true, d, ia, ib)
  | .isqrB iq d ia => some (iq, .sqr, false, d, ia, ia)
  | .isqrtB iq d ia => some (iq, .sqrt, false, d, ia, ia)
  | .iexpB iq d ia => some (iq, .exp, false, d, ia, ia)
  | .ilogB iq d ia => some (iq, .log, false, d, ia, ia)
  | .iminB iq d ia ib => some (iq, .min, true, d, ia, ib)
  | .imaxB iq d ia ib => some (iq, .max, true, d, ia, ib)
  | .iabsB iq d ia => some (iq, .abs, false, d, ia, ia)
  | _ => none

/-- A backward form narrows its operands against its result, and marks progress in ISTAT unless ITHR is a NaN (07 R183, R184). -/
def backwardForm (a : Agent) (n : Nat) (i : Instr) : Option Form :=
  (backward i).map (fun (iq, k, two, d, ia, ib) =>
    let same := !two || decide (ia = ib)
    let out (l : Nat) : Option Pair := contract k same (ivLane (a.getI d) l) (ivLane (a.getI ia) l) (ivLane (a.getI ib) l)
    let t := f32Num (a.r.ithr.setWidth 32)
    let moved := (List.range 64).any (fun l =>
      narrowed t (ivLane (a.getI ia) l) ((out l).map Pair.x) ||
        (!same && narrowed t (ivLane (a.getI ib) l) ((out l).map Pair.y)))
    { iq := iq, held := onCore a n
      act := fun a =>
        let b := a.fly a.icyc 6 (.i ia (ivVec (fun l => (out l).map Pair.x)))
        let b := if same then b else b.fly a.icyc 6 (.i ib (ivVec (fun l => (out l).map Pair.y)))
        if moved && !decide (t = .nan) then b.fly a.icyc 6 .npf else b })

/-! ### Slot 6 -/

/-- A plane load into the inactive plane, eight issue cycles later (08 R192). -/
def planeLoads (s : State) (n : Nat) (iq : BitVec 2) (ar : BitVec 4) (off : BitVec 20) (swap : Bool) : Form :=
  { iq := iq, held := onCore (s.agent n) n, ok := frameCheck s n (offset (s.agent n) ar off) = none
    act := fun a => { a with planeLoads := a.planeLoads ++
      [{ due := a.icyc + 8, plane := 1 - a.r.active, frame := BitVec.ofNat 8 ((offset a ar off).toNat / 32768), swap := swap }] } }

/-- A matrix multiply (08 R194, R195): its block stands at the port seven issue cycles later, and KC advances by the block's depth. -/
def multiplies (s : State) (n : Nat) (iq : BitVec 2) (zero : Bool) (t q : BitVec 4) (pk : BitVec 1) (rows : BitVec 7) : Form :=
  { iq := iq, held := onCore (s.agent n) n, ops := [⟨q, pk == 1⟩], ok := mmaCheck s n t (rows.toNat + 1) = none
    act := fun a =>
      match pairOf a.r.ma a.r.mb with
      | none => a
      | some (k, u) =>
        let b : Agent := { a with
          blocks := a.blocks ++
            [{ port := a.icyc + 7, tile := t, zero := zero, rows := blockRows a k u ((a.queue q).headD 0) (rows.toNat + 1) }]
          r := { a.r with kc := a.r.kc + BitVec.ofNat 7 u } }
        b.event 0x08 1 }

/-- Matrix words (08 R191–R198): MREP arms the repeat prefix for the next bundle. -/
def matrix (s : State) (n : Nat) : Instr → Option Form
  | .mldb iq ar off => some (planeLoads s n iq ar off false)
  | .mldbl iq ar off => some (planeLoads s n iq ar off true)
  | .mma iq t q pk rows => some (multiplies s n iq false t q pk rows)
  | .mmaz iq t q pk rows => some (multiplies s n iq true t q pk rows)
  | .mrep iq k =>
    some { iq := iq, held := onCore (s.agent n) n, act := fun a => a
           flow := fun _ b => let c := b.seqStep; { c with r := { c.r with repn := k, repw := 0 } } }
  | .mdrain iq t => some { iq := iq, held := onCore (s.agent n) n, act := fun a => { a with mdrain := some t } }
  | _ => none

/-! ### Slot 7 -/

/-- Slot 7 belongs to tasks and user handlers (12 R268); some of its words to cores alone (01 R37). -/
def notSuper7 (a : Agent) : Prop := a.mode ≠ .super
def coreOnly7 (a : Agent) (n : Nat) : Prop := a.mode ≠ .super ∧ n < 288

/-- Record h of slot 7: the shadow copy with .sw, which the word then exchanges with the active one (03 R91). -/
def record (a : Agent) (h : BitVec 2) (sw : BitVec 1) : Shape := a.shape 3 h (if sw = 1 then 1 else 0)
def exchanged (sw : BitVec 1) (hs : List (BitVec 2)) (a : Agent) : Agent :=
  if sw = 1 then hs.foldl (fun a h => a.swapShape 3 h) a else a

/-- A far store: the entry is withheld with its elements (09 R214). -/
def stores (a : Agent) (n : Nat) (iq : BitVec 2) (q : BitVec 4) (ok : Prop) (es : Agent → List Elem) (after : Agent → Agent) : Form :=
  { iq := iq, held := coreOnly7 a n, ops := [⟨q, false⟩], stores := 1, ok := ok
    act := fun a => after { a with wb := a.wb ++ [.store (es a) ((a.queue q).headD 0)] } }

/-- A withheld command on the bytes at `va`, aligned and in no window that the rule refuses (09 R213, R215). -/
def withholds (a : Agent) (iq : BitVec 2) (va : W64) (align len : Nat) (push : List (BitVec 4)) (c : Agent → Cmd) : Form :=
  { iq := iq, held := notSuper7 a, push := push, cmds := 1, ok := va.toNat % align = 0 ∧ windowRefuses va len = none
    act := fun a => { a with wb := a.wb ++ [c a] } }

/-- An atomic of 4 or 8 bytes (09 R215). -/
def atomic (a : Agent) (iq : BitVec 2) (op : AtOp) (wd : BitVec 2) (x : BitVec 5) (v v2 : Agent → W64) (c : Option (BitVec 2)) : Form :=
  let k := if wd = 1 then 8 else 4
  let q := c.map (fun c => 12 + c.setWidth 4)
  withholds a iq (a.getS x) k k q.toList (fun a => .atomic op (wd == 1) (a.getS x) (v a) (v2 a) q)

/-- The eight lines of FLDS and FSTS (09 R214). -/
def lines (va : W64) : List Elem := (List.range 8).map (fun i => { addr := va + BitVec.ofNat 64 (64 * i), len := 64, off := 64 * i })

/-- Far stores, atomics, WCADD, WCADDV and XARM (09 R214–R216, 16 R332, R339). -/
def withheld (a : Agent) (n : Nat) (i : Instr) : Option Form :=
  match i with
  | .fst iq h sw q =>
    some (stores a n iq q (shapeRefuses a.r.pc (record a h sw) = none) (fun a => shapeElems (record a h sw)) (exchanged sw [h]))
  | .fsts iq x q =>
    some (stores a n iq q ((a.getS x).toNat % 64 = 0 ∧ windowRefuses (a.getS x) 512 = none)
      (fun a => lines (a.getS x)) id)
  | .amadd iq x y wd => some (atomic a iq .add wd x (fun a => a.getS y) (fun _ => 0) none)
  | .amaddF iq c x y wd => some (atomic a iq .add wd x (fun a => a.getS y) (fun _ => 0) (some c))
  | .ammax iq x y wd => some (atomic a iq .max wd x (fun a => a.getS y) (fun _ => 0) none)
  | .ammaxF iq c x y wd => some (atomic a iq .max wd x (fun a => a.getS y) (fun _ => 0) (some c))
  | .ammin iq x y wd => some (atomic a iq .min wd x (fun a => a.getS y) (fun _ => 0) none)
  | .amminF iq c x y wd => some (atomic a iq .min wd x (fun a => a.getS y) (fun _ => 0) (some c))
  | .amxchg iq c x y wd => some (atomic a iq .xchg wd x (fun a => a.getS y) (fun _ => 0) (some c))
  | .amcas iq c x y wd => some (atomic a iq .cas wd x (fun a => a.getS (y ++ 0#1)) (fun a => a.getS (y ++ 1#1)) (some c))
  | .wcadd iq x y code => some (withholds a iq (a.getS x) 64 64 [] (fun a => .wcAdd (a.getS x) code ((a.getS y).setWidth 32)))
  | .wcaddv iq x q code =>
    some { withholds a iq (a.getS x) 64 8192 [] (fun a => .wcAddV (a.getS x) code ((a.queue q).headD 0)) with
      held := coreOnly7 a n, ops := [⟨q, false⟩] }
  | .xarm iq x y =>
    some { withholds a iq (a.getS x) 16 16 [] (fun a => .xarm (a.getS x) (a.getS y)) with
      ok := (a.getS x).toNat % 16 = 0 ∧ a.getS y &&& ~~~0x000001FF3FFFFFFF#64 = 0 }
  | _ => none

/-- An engine operation (09 R206, R217): it takes the next number of its context with the records and registers that it captures, and is
withheld; a swapped record changes its copies. -/
def engine (a : Agent) (n : Nat) (core : Bool) (iq : BitVec 2) (op : BitVec 6) (c : BitVec 3) (sw : BitVec 1) (hs : List (BitVec 2))
    (dst src : Shape) (x y : W64) (enc : Bool) : Form :=
  { iq := iq, held := if core then coreOnly7 a n else notSuper7 a, cmds := 1
    act := fun a =>
      exchanged sw hs { a with
        wb := a.wb ++ [.engine { op := op, ctx := c, num := Tab.get 0 a.r.next c.toNat + 1, dst := dst, src := src, s := x, s2 := y
                                 enc := enc, docreg := a.r.docreg, kvslot := a.r.kvslot, kvtok := a.r.kvtok, kvlayer := a.r.kvlayer
                                 devthr := a.r.devthr.setWidth 32 }]
        r := { a.r with next := Tab.set 0 a.r.next c.toNat (Tab.get 0 a.r.next c.toNat + 1) } } }

/-- Engine operations (09 R217–R220, 08 R202, 11 R251–R255). -/
def engines (a : Agent) (n : Nat) : Instr → Option Form
  | .xcopy iq c h sw g => some (engine a n false iq 0x10 (c.setWidth 3) sw [h, g] (record a h sw) (record a g sw) 0 0 false)
  | .xgather iq c h sw x y g =>
    some (engine a n false iq 0x11 (c.setWidth 3) sw [h, g] (record a h sw) (record a g sw) (a.getS x) (a.getS y) false)
  | .xscatter iq c h sw x y g =>
    some (engine a n false iq 0x12 (c.setWidth 3) sw [h, g] (record a h sw) (record a g sw) (a.getS x) (a.getS y) false)
  | .xfill iq c h sw x => some (engine a n false iq 0x13 (c.setWidth 3) sw [h] (record a h sw) Shape.reset (a.getS x) 0 false)
  | .wstream iq h sw enc g => some (engine a n true iq 0x14 4 sw [h, g] (record a h sw) (record a g sw) 0 0 (enc == 1))
  | .xsplice iq c h sw x y =>
    some (engine a n true iq 0x15 (5 + c.setWidth 3) sw [h] Shape.reset (record a h sw) (a.getS x) (a.getS y) false)
  | .xdarn iq c h sw x y =>
    some (engine a n true iq 0x16 (5 + c.setWidth 3) sw [h] Shape.reset (record a h sw) (a.getS x) (a.getS y) false)
  | .xdarnc iq c x => some (engine a n true iq 0x17 (5 + c.setWidth 3) 0 [] Shape.reset Shape.reset (a.getS x) 0 false)
  | _ => none

/-- A context that an agent may name in XNOTE and TREAD: a loom controller has contexts 0 to 3 (01 R37). -/
def namesCtx (n : Nat) (c : BitVec 3) : Prop := n < 288 ∨ c.toNat ≤ 3

/-- XNOTE and TREAD (09 R221, R223): a request that the timeline has reached pends at once. -/
def timelines (a : Agent) (n : Nat) : Instr → Option Form
  | .xnote iq x c =>
    let v := a.getS x
    let t := a.timeline c
    some { iq := iq, held := notSuper7 a ∧ namesCtx n c
           act := fun a =>
             if v ≠ 0 ∧ v.toNat ≤ t.count.toNat then
               { a with r := { a.r with
                 noteReq := Tab.set 0 a.r.noteReq c.toNat 0
                 notes := Tab.set none a.r.notes c.toNat (some { num := t.count.setWidth 64, status := t.lastst }) } }
             else { a with r := { a.r with noteReq := Tab.set 0 a.r.noteReq c.toNat v } } }
  | .tread iq x c =>
    some { iq := iq, held := namesCtx n c, act := fun a => a.fly a.icyc 1 (.s x (a.timeline c).cell) }
  | _ => none

/-- A rent instruction or query sends its request to Genay and stalls the next bundle for the reply (04 R105, R117). -/
def asks (iq : BitVec 2) (held : Prop) (op : BitVec 6) (k : Nat) (d : BitVec 5) (x y : W64) (att tier : BitVec 3) : Form :=
  { iq := iq, held := held, cmds := k
    act := fun a => { a with stall := .genay { op := op, x := x, y := y, d := d, att := att, tier := tier, cyc := a.icyc } } }

/-- Rent instructions (04 R105, R117), fabric, mailbox and launch commands (16 R335, R340, 13 R296). -/
def stalls (s : State) (n : Nat) (i : Instr) : Option Form :=
  let a := s.agent n
  match i with
  | .rent iq x y att tier => some (asks iq (notSuper7 a) 0x20 1 x (a.getS x) (a.getS y) att tier)
  | .renew iq x y tier => some (asks iq (notSuper7 a) 0x21 1 y (a.getS x) (a.getS y) 0 tier)
  | .prepay iq x y tier => some (asks iq (notSuper7 a) 0x22 1 y (a.getS x) (a.getS y) 0 tier)
  | .sublet iq x y rw tier => some (asks iq (notSuper7 a) 0x23 1 y (a.getS x) (a.getS y) (rw.setWidth 3) tier)
  | .vacate iq x y tier => some (asks iq (notSuper7 a) 0x24 1 y (a.getS x) 0 0 tier)
  | .rentq iq x y tier => some (asks iq True 0x25 0 y (a.getS x) 0 0 tier)
  | .allowq iq x => some (asks iq True 0x26 0 x 0 0 0 0)
  | .xqp iq x y =>
    some { iq := iq, held := 288 ≤ n ∧ a.mode = .task, cmds := 1
           ok := s.isMaster n = true ∧ (a.getS x).toNat % 64 = 0 ∧ (a.getS y).toNat < 1024 ∧ s.entryRefuses n (a.getS x) = none
           act := fun a => { a with stall := .xqp (a.getS x) ((a.getS y).setWidth 10) } }
  | .xmbox iq x y =>
    some { iq := iq, held := 288 ≤ n ∧ a.mode = .task, cmds := 1, ok := s.isMaster n = false ∧ s.entryRefuses n (a.getS x) = none
           act := fun a => { a with stall := .xmbox (a.getS x) y a.icyc } }
  | .xlaunch iq x y =>
    some { iq := iq, held := 288 ≤ n ∧ a.mode = .task, cmds := 1, ok := s.entryRefuses n (a.getS x) = none
           act := fun a => { a with stall := .xlaunch (a.getS x) y a.icyc } }
  | _ => none


/-! ### Words whose effect leaves their agent -/

/-- Far loads (09 R214): the entry is promised, and the load goes to the FLQ with the storage that its elements' translation gives at issue
(14 R305) and with the pitches that hold them. -/
def farLoad (a : Agent) (s : State) (n : Nat) (iq c : BitVec 2) (ok : Prop) (es : List Elem) (after : Agent → Agent) : Form × List Nat :=
  let els := s.placed n a.who.pasid es
  ({ iq := iq, held := notSuper7 a, push := [12 + c.setWidth 4]
     ok := ok ∧ lowest (es.filterMap (fun e => s.refuses n a.who askLoad e.addr e.len)) = none
     act := fun b =>
       (after { b with flq := b.flq ++ [{ q := 12 + c.setWidth 4, cyc := b.icyc, id := 0, parts := 1, es := els
                                          pitches := s.pitchesOf n els, dropped := false }] }).event 0x0B 1 },
    s.pitchesOf n els)

/-- FLD, FLDS and WCREAD (09 R214, R216), with the pitches whose INFLIGHT the word raises (04 R109): WCREAD is withheld with its queue, its
pitch and the storage of its cell. -/
def reads (s : State) (n : Nat) (i : Instr) : Option (Form × List Nat) :=
  let a := s.agent n
  match i with
  | .fld iq c h sw =>
    some (farLoad a s n iq c (shapeRefuses a.r.pc (record a h sw) = none) (shapeElems (record a h sw)) (exchanged sw [h]))
  | .flds iq c x => some (farLoad a s n iq c ((a.getS x).toNat % 64 = 0 ∧ windowRefuses (a.getS x) 512 = none) (lines (a.getS x)) id)
  | .wcread iq c x =>
    let va := a.getS x
    let ks := (s.pitchAt n va.toNat).toList
    some ({ withholds a iq va 64 64 [12 + c.setWidth 4]
              (fun _ => .wcRead va (12 + c.setWidth 4) ks (s.storage n a.who.pasid va.toNat)) with
        ok := (va.toNat % 64 = 0 ∧ windowRefuses va 64 = none) ∧ s.wideRefuses n a.who askSync va 64 = none }, ks)
  | _ => none

/-- TRAP and BRK: qualifier, cause and imm16 (12 R274). -/
def trapping : Instr → Option (BitVec 2 × Byte × BitVec 16)
  | .trap iq imm => some (iq, 0x0F, imm)
  | .brk iq imm => some (iq, 0x10, imm)
  | _ => none

/-- The qualifiers of the four words of fixed encoding. -/
def uirets : Instr → Option (BitVec 2)
  | .uiret => some 0
  | .uiretFirst => some 1
  | .uiretLast => some 2
  | _ => none
def erets : Instr → Option (BitVec 2)
  | .eret => some 0
  | .eretFirst => some 1
  | .eretLast => some 2
  | _ => none
def halts : Instr → Option (BitVec 2)
  | .halt => some 0
  | .haltFirst => some 1
  | .haltLast => some 2
  | _ => none
def swaps : Instr → Option (BitVec 2)
  | .mswb => some 0
  | .mswbFirst => some 1
  | .mswbLast => some 2
  | _ => none

/-- The PC at which UIRET resumes: the saved one, in a fault handler shadow s31 (02 R69, 12 R265). -/
def back (a : Agent) : W64 := if a.mode = .userFault then Tab.get 0 a.shadow.s 31 else a.resume

/-! ## The checks -/

/-- A trap that agent `n` takes in slot `k` (12 R259). -/
def traps (s : State) (n : Nat) (code : Byte) (k : Nat) (imm : BitVec 16) (f : W64) : State :=
  s.takeTrap n { cause := code, slot := k, imm := imm, faddr := f } false

/-- The row of any word that has one above. -/
def anyForm (s : State) (n : Nat) (i : Instr) : Option Form :=
  let a := s.agent n
  ((((integer i).or (scalarFloat i)).or ((address n i).or (queueShape n i))).or
    (((slot0 s n i).or (branches a i)).or ((levels a i).or (near s n i)))).or
  ((((accumulator s n i).or (binaryForm a n i)).or ((unaryForm a n i).or (fusedOrPredicate a n i))).or
    ((((rearranges s n i).or (intervals a n i)).or ((backwardForm a n i).or (matrix s n i))).or
      (((withheld a n i).or (engines a n i)).or ((timelines a n i).or (stalls s n i)))))

/-! ## Traps -/

/-- The registers after a restore (12 R261 steps 5 and 7): the duplicate set, with the entries that released commands delivered since,
the notes since, and the event latch; after a light checkpoint the dead registers read zero (02 R65, R262, 10 R237). -/
def restored (a : Agent) : Regs :=
  let d := if a.dupLight then { a.dup with v := [], p := [], i := [], q := [] } else a.dup
  { d with
    q := a.arrived.foldl (fun t x => Tab.modify [] t x.1.toNat (fun es => es ++ [x.2])) d.q
    notes := (List.range 7).foldl (fun t c => match Tab.get none a.r.notes c with
      | some x => Tab.set none t c (some x)
      | none => t) d.notes
    latch := d.latch || a.evSince }

/-- The registers outside the reloaded planes' fault fields (08 R199) and the PC. -/
def Regs.sameBut (r t : Regs) : Prop := { t with pc := r.pc, pfault0 := r.pfault0, pfault1 := r.pfault1 } = r

/-- CAUSE (12 R259): RANK, IMM, LIGHT, HND, SLOT and CODE. -/
def causeOf (rank : Nat) (imm : BitVec 16) (light hnd : Bool) (slot : Nat) (code : Byte) : W64 :=
  BitVec.ofNat 64 (code.toNat + 2 ^ 8 * slot + 2 ^ 11 * hnd.toNat + 2 ^ 12 * light.toNat + 2 ^ 16 * imm.toNat + 2 ^ 32 * rank)

/-- The causes that are delivered to the user (12 R260). -/
def toUser : List Byte := [0x03, 0x04, 0x08, 0x09, 0x0A, 0x0D, 0x12, 0x13, 0x14, 0x15]

end Sys2Proof.Spec

open Sys2Proof Sys2Proof.Machine Sys2Proof.Spec

/-! ## The statements: the words of a bundle -/

/-- The integer instructions (03 R77, R78). -/
def Sys2Proof.Spec.IntegerWords : Prop := ∀ i s F, integer i = some F → F.Says i s

/-- A CMOV counts as a writer of sd whatever its condition (03 R77): beside another word that writes the same register it is a conflict of
the bundle (01 R40), which takes 0x02 in the slot of the first of the two. -/
def Sys2Proof.Spec.CmovConflict : Prop :=
  ∀ i (s : State) F w d iq x y, integer i = some F → wordOf i = some w → w.writes = [.s d] → d ≠ 0 → let n := s.cur.toNat
    s.members n = [n] →
    s.issue n [{ w with slot := 1 }, { wCmov iq d x y with slot := 2 }] = traps s n 0x02 1 0 (s.agent n).r.pc

/-- Scalar FP32 arithmetic, compares and conversions (03 R79–R81). -/
def Sys2Proof.Spec.ScalarFloatWords : Prop := ∀ i s F, scalarFloat i = some F → F.Says i s

/-- Address registers, AGEN, identifiers and LIDX (03 R82, R83, 02 R59). -/
def Sys2Proof.Spec.AddressWords : Prop := ∀ i s F, address s.cur.toNat i = some F → F.Says i s

/-- Single queue words and shape words (03 R88, R93). -/
def Sys2Proof.Spec.QueueAndShapeWords : Prop := ∀ i s F, queueShape s.cur.toNat i = some F → F.Says i s

/-- The words of slot 0 that fall through: NOP, CKPT and CKPTL (02 R64, R65), UIMASK and the waits (R69, R70, 10 R237, R241, R242), FMT and
FMTS (02 R72), CSRR and CSRW (R73, 01 R26, R27), FENCE and QALIGN (10 R239, R240) and SEV (R241). The free part of CYCLE and of the event
counters is log 5. -/
def Obligations.Slot0Words : Prop := ∀ i s F, slot0 s s.cur.toNat i = some F → F.Says i s

/-- Branches (02 R52). -/
def Sys2Proof.Spec.BranchWords : Prop := ∀ i s F, branches (s.agent s.cur.toNat) i = some F → F.Says i s

/-- LBREAK and LSTRIDE (02 R56, R58). -/
def Sys2Proof.Spec.LevelWords : Prop := ∀ i s F, levels (s.agent s.cur.toNat) i = some F → F.Says i s

/-- LOOP, LOOPI and LOOPS (02 R54): with no active level at or inside `l`, a count of 0 skips the body; else the level opens, its entry
values are the flagged address registers, the other levels stay, and issue goes on at the first bundle of the body. -/
def Sys2Proof.Spec.LoopWords : Prop :=
  ∀ i s iq l len c, opening (s.agent s.cur.toNat) i = some (iq, l, len, c) →
    let n := s.cur.toNat
    let a := s.agent n
    s.ready n → a.mode = .task → a.selects iq = true → (∀ j ≤ l.toNat, j < 6 → (a.level j).act = false) →
    ∃ pc lv, exec i s = .next (s.issued n 0 0 (fun a => { a with r := { a.r with pc := pc, levels := lv } })) ∧
      (c = 0 → pc = a.r.pc + 32 * BitVec.ofNat 64 (len + 1) ∧ lv = a.r.levels) ∧
      (c ≠ 0 → pc = a.r.pc + 32 ∧ (∀ j, j ≠ l.toNat → Tab.get Level.reset lv j = a.level j) ∧
        ∃ entry, Tab.get Level.reset lv l.toNat =
            { act := true, count := c, index := 0, start := a.r.pc + 32, last := a.r.pc + 32 * BitVec.ofNat 64 len
              stride := (a.level l.toNat).stride, entry := entry } ∧
          ∀ r : BitVec 4, Tab.get none (a.level l.toNat).stride r.toNat ≠ none → Tab.get 0 entry r.toNat = a.getA r)

/-- A loop word with an active level at or inside its own is an illegal encoding (02 R54). -/
def Sys2Proof.Spec.LoopNesting : Prop :=
  ∀ i s iq l len c, opening (s.agent s.cur.toNat) i = some (iq, l, len, c) →
    let n := s.cur.toNat
    let a := s.agent n
    s.ready n → a.mode = .task → a.selects iq = true → (∃ j ≤ l.toNat, j < 6 ∧ (a.level j).act = true) →
    exec i s = .next (traps s n 0x01 0 0 a.r.pc)

/-- The fields of the three loop words (02 R54). -/
def Sys2Proof.Spec.LoopEncodings : Prop :=
  (∀ (iq : BitVec 2) (l : BitVec 3) (c : BitVec 5) (len : BitVec 16),
    encode (.loop iq l c len) = iq ++ 0x08#6 ++ l ++ c ++ len ∧ encode (.loops iq l c len) = iq ++ 0x0A#6 ++ l ++ c ++ len) ∧
  ∀ (iq : BitVec 2) (l : BitVec 3) (imm : BitVec 13) (len : BitVec 8), encode (.loopi iq l imm len) = iq ++ 0x09#6 ++ l ++ imm ++ len

/-- The iteration step of the spindle at the END of the innermost level (02 R55): while iterations remain, the flagged strides are added
and issue goes on at START; after the last, the flagged registers return to their entry values, the level is left, and issue falls through
unless the next level outside ends at the same bundle, which then takes its own step. No other address register and no other level changes. -/
def Obligations.IterationStep : Prop :=
  ∀ s l, let n := s.cur.toNat
    let a := s.agent n
    let v := a.level l
    let strided (v : Level) (x : W64) (r : BitVec 4) : W64 := match Tab.get none v.stride r.toNat with
      | some y => x + y
      | none => x
    let rewound (v : Level) (x : W64) (r : BitVec 4) : W64 := match Tab.get none v.stride r.toNat with
      | some _ => Tab.get 0 v.entry r.toNat
      | none => x
    s.ready n → a.mode = .task → a.innermost = some l → v.last = a.r.pc → (∀ f ∈ a.flight, ∀ d x, f.res ≠ .a d x) →
    ∃ t, exec .nop s = .next t ∧ let b := t.agent n
      ((v.index + 1).toNat < v.count.toNat →
        b.r.pc = v.start ∧ b.level l = { v with index := v.index + 1 } ∧ (∀ j, j ≠ l → b.level j = a.level j) ∧
          ∀ r, b.getA r = strided v (a.getA r) r) ∧
      (v.count.toNat ≤ (v.index + 1).toNat → (∀ j, l < j → j < 6 → (a.level j).act = true → (a.level j).last ≠ a.r.pc) →
        b.r.pc = a.r.pc + 32 ∧ b.level l = { v with index := v.index + 1, act := false } ∧ (∀ j, j ≠ l → b.level j = a.level j) ∧
          ∀ r, b.getA r = rewound v (a.getA r) r) ∧
      (v.count.toNat ≤ (v.index + 1).toNat → ∀ m, l < m → m < 6 → (∀ j, l < j → j < m → (a.level j).act = false) →
        let w := a.level m
        w.act = true → w.last = a.r.pc → (w.index + 1).toNat < w.count.toNat →
        b.r.pc = w.start ∧ b.level l = { v with index := v.index + 1, act := false } ∧ b.level m = { w with index := w.index + 1 } ∧
          (∀ j, j ≠ l → j ≠ m → b.level j = a.level j) ∧ ∀ r, b.getA r = strided w (rewound v (a.getA r) r) r)

/-- Near loads and stores (05 R121–R123, R130–R132). -/
def Sys2Proof.Spec.NearWords : Prop := ∀ i s F, near s s.cur.toNat i = some F → F.Says i s

/-- Accumulator words (05 R133–R137). -/
def Sys2Proof.Spec.AccumulatorWords : Prop := ∀ i s F, accumulator s s.cur.toNat i = some F → F.Says i s

/-- Vector words of one result lane per lane (07 R164–R170, R172, R175, R177). -/
def Sys2Proof.Spec.LaneWords : Prop :=
  ∀ i s F, (binaryForm (s.agent s.cur.toNat) s.cur.toNat i = some F ∨ unaryForm (s.agent s.cur.toNat) s.cur.toNat i = some F) → F.Says i s

/-- Fused words, compares and predicates (07 R167, R170, R171, R176, R177). -/
def Sys2Proof.Spec.FusedAndPredicateWords : Prop :=
  ∀ i s F, fusedOrPredicate (s.agent s.cur.toNat) s.cur.toNat i = some F → F.Says i s

/-- Permutations, reductions, selections, conversions and broadcasts (07 R171–R174). -/
def Sys2Proof.Spec.RearrangingWords : Prop := ∀ i s F, rearranges s s.cur.toNat i = some F → F.Says i s

/-- The bytes of a VPACK (07 R173), and the bounds of the exact sum of a VDOT4 (07 R177). -/
def Sys2Proof.Spec.PackedBytesAndDots : Prop :=
  (∀ x y : Vec, ∀ j, j < 512 → byteAt (packVec x y) j =
    if j < 128 then (lane x j).setWidth 8 else if j < 256 then (lane y (j - 128)).setWidth 8 else 0) ∧
  ∀ x y : W32, let sum := ((List.range 4).map (fun k => (byteAt x k).toInt * (byteAt y k).toInt)).sum
    sum ≤ 65536 ∧ -65024 ≤ sum

/-- Interval words and their verdicts (07 R180–R182, R185). -/
def Sys2Proof.Spec.IntervalWords : Prop := ∀ i s F, intervals (s.agent s.cur.toNat) s.cur.toNat i = some F → F.Says i s

/-- Backward interval forms (07 R183, R184). -/
def Sys2Proof.Spec.BackwardWords : Prop := ∀ i s F, backwardForm (s.agent s.cur.toNat) s.cur.toNat i = some F → F.Says i s

/-- Matrix words (08 R191–R198). -/
def Sys2Proof.Spec.MatrixWords : Prop := ∀ i s F, matrix s s.cur.toNat i = some F → F.Says i s

/-- The repetition of a matrix multiply (08 R198). The bundle after an MREP arms REPW with its selected MMA or MMAZ and leaves n - 1
repetitions, or the prefix lapses. Each later bundle issues the repeated word as its own, whatever qualifier that word has, and REPN falls
by one. The word's refusal is reported in slot 6, and a slot-6 word of such a bundle is an illegal encoding. -/
def Sys2Proof.Spec.Repetition : Prop :=
  ∀ s (iq : BitVec 2) (z : Bool) (t q : BitVec 4) pk rows, let n := s.cur.toNat
    let a := s.agent n
    let i : Instr := if z then .mmaz iq t q pk rows else .mma iq t q pk rows
    let left := a.r.repn - 1
    let armed (k : BitVec 8) (w : W32) (b : Agent) : Agent := { b with r := { b.r with repn := k, repw := w } }
    let again : W32 := if left = 0 then 0 else encode i
    let first := multiplies s n iq z t q pk rows
    let more := multiplies s n 0 z t q pk rows
    s.members n = [n] → onCore a n → a.bundles < 4096 → a.r.repn ≠ 0 →
    (a.r.repw = 0 →
      (a.selects iq = true → first.can a → exec i s = .next (s.issued n 0 0 (fun b => armed left again (first.run b)))) ∧
      exec .nop s = .next (s.issued n 0 0 (fun b => armed 0 0 b.seqStep))) ∧
    (a.r.repw = encode i →
      (more.can a → exec .nop s = .next (s.issued n 0 0 (fun b => armed left again (more.run b)))) ∧
      (more.ok → a.queue q = [] → exec .nop s = .next (traps s n 0x04 6 0 (q.setWidth 64))) ∧
      ∀ j g, matrix s n j = some g → exec j s = .next (traps s n 0x01 6 0 a.r.pc))

/-- MSWB (08 R193): every plane load lands first, then the planes are exchanged and KC is 0. -/
def Sys2Proof.Spec.PlaneSwap : Prop :=
  ∀ i s iq, swaps i = some iq → let n := s.cur.toNat
    s.ready n → onCore (s.agent n) n →
    exec i s = if (s.agent n).selects iq = true then
        .next ((s.landPlanes n).issued n 0 0 (fun a => ({ a with r := { a.r with active := 1 - a.r.active, kc := 0 } } : Agent).seqStep))
      else .next (s.issued n 0 0 Agent.seqStep)

/-- Far stores, atomics, WCADD, WCADDV and XARM are withheld (09 R214–R216, 16 R332, R339). -/
def Sys2Proof.Spec.WithheldWords : Prop := ∀ i s F, withheld (s.agent s.cur.toNat) s.cur.toNat i = some F → F.Says i s

/-- FLD, FLDS and WCREAD (09 R214, R216): a read that passes its checks raises INFLIGHT of the pitches that it reads (04 R109). -/
def Sys2Proof.Spec.ReadWords : Prop :=
  ∀ i s F ks, reads s s.cur.toNat i = some (F, ks) → let n := s.cur.toNat
    let sel := (s.agent n).selects F.iq
    s.ready n → F.held → (sel = true → F.can (s.agent n)) →
    exec i s = .next (if sel then (s.issued n F.cmds 0 F.run).raise ks else s.issued n 0 0 F.run)

/-- Engine operations, XNOTE and TREAD (09 R206, R217–R223, 08 R202, 11 R251–R255). -/
def Sys2Proof.Spec.EngineWords : Prop :=
  ∀ i s F, (engines (s.agent s.cur.toNat) s.cur.toNat i = some F ∨ timelines (s.agent s.cur.toNat) s.cur.toNat i = some F) → F.Says i s

/-- Rent instructions and queries, XQP, XMBOX and XLAUNCH stall for their answers (04 R105, R117, 13 R296, 16 R335, R340). -/
def Sys2Proof.Spec.StallingWords : Prop := ∀ i s F, stalls s s.cur.toNat i = some F → F.Says i s

/-- Until a result lands, a word changes no byte of memory, no other agent and no pitch (01 R39, 02 R47, R64): the frame of every word
that has a row above. -/
def Sys2Proof.Spec.WordFrame : Prop :=
  ∀ i s F t, anyForm s s.cur.toNat i = some F → let n := s.cur.toNat
    s.ready n → F.held → ((s.agent n).selects F.iq = true → F.can (s.agent n)) → exec i s = .next t →
    (∀ x, t.mem.read x = s.mem.read x) ∧ (∀ m, m ≠ n → t.agent m = s.agent m) ∧ (∀ k, t.pitch k = s.pitch k) ∧
      t.cur = s.cur ∧ t.sched = s.sched ∧ t.now = s.now

/-- A word that its qualifier does not select leaves the machine as NOP does (01 R21). -/
def Sys2Proof.Spec.UnselectedWord : Prop :=
  ∀ i s F, anyForm s s.cur.toNat i = some F → let n := s.cur.toNat
    s.ready n → F.held → (s.agent n).selects F.iq = false → exec i s = exec .nop s

/-- Agent `n` belongs to a ganged loom task, each rank of which can issue one bundle more (02 R61). -/
def Sys2Proof.Spec.gangReady (s : State) (n : Nat) : Prop :=
  n < 288 ∧ (∃ t, (s.agent n).task = some t ∧ t.kind = 1) ∧
    ∀ m ∈ s.members n, (s.agent m).mode = .task ∧ (s.agent m).r.repn = 0 ∧ (s.agent m).bundles < 4096

/-- Ganged issue (02 R61, R62). A bundle of a gang issues on its twelve ranks and on no other agent, each with its own registers. JR whose
targets agree takes every rank there; ranks that differ in a target, or in whether BC is taken, take 0x05 with the bundle's address. -/
def Sys2Proof.Spec.GangIssues : Prop :=
  ∀ s, let n := s.cur.toNat
    let ms := (List.range 12).map (fun k => 12 * (n / 12) + k)
    gangReady s n →
    (∀ i F, integer i = some F → ∃ t, exec i s = .next t ∧ t.mem = s.mem ∧
      (∀ m ∈ ms, t.agent m = (s.issued m 0 0 F.run).agent m) ∧ ∀ m, m ∉ ms → t.agent m = s.agent m) ∧
    (∀ iq x, (∀ m ∈ ms, (s.agent m).selects iq = true ∧ (s.agent m).getS x &&& 31 = 0) →
      (∀ v, v ≠ 0 → (∀ m ∈ ms, (s.agent m).getS x = v) → ∃ t, exec (.jr iq x) s = .next t ∧ ∀ m ∈ ms, (t.agent m).r.pc = v) ∧
      ((∃ m ∈ ms, ∃ k ∈ ms, (s.agent m).getS x ≠ (s.agent k).getS x) →
        exec (.jr iq x) s = .next (traps s n 0x05 0 0 (s.agent n).r.pc))) ∧
    (∀ iq c x disp, (∀ m ∈ ms, (s.agent m).selects iq = true ∧ (s.agent m).r.pc = (s.agent n).r.pc) → (s.agent n).r.pc &&& 31 = 0 →
      (∃ m ∈ ms, ∃ k ∈ ms, holds c ((s.agent m).getS x) ≠ holds c ((s.agent k).getS x)) →
      exec (.bc iq c x disp) s = .next (traps s n 0x05 0 0 (s.agent n).r.pc))

/-- A trap on any rank of a gang (02 R63, 12 R261, R265): of the ranks that refuse a bundle the lowest is reported, every rank goes back to
its last checkpoint with that CAUSE and FADDR, and all enter the handler of rank 0 (log 57). -/
def Sys2Proof.Spec.GangTraps : Prop :=
  (∀ s iq q x m, let n := s.cur.toNat
    gangReady s n → (∀ k ∈ s.members n, (s.agent k).selects iq = true) → m ∈ s.members n →
    8 ≤ ((s.agent m).queue q).length + (s.agent m).reserved q →
    (∀ k ∈ s.members n, k < m → ((s.agent k).queue q).length + (s.agent k).reserved q < 8) →
    exec (.qpushs iq q x) s = .next (traps s m 0x03 1 0 (q.setWidth 64))) ∧
  ∀ s n c k imm f, gangReady s n → c ∈ toUser → k < 8 → let v := (s.agent (12 * (n / 12))).dup.ufvec
    v ≠ 0 → (∀ m ∈ s.members n, (s.agent m).dup.ufvec &&& 31 = 0) → ∀ m ∈ s.members n,
    let a := s.agent m
    let b := (traps s n c k imm f).agent m
    b.mode = .userFault ∧ b.cause = causeOf (n % 12) imm (s.agent n).dupLight false k c ∧ b.faddr = f ∧ b.r.pc = v ∧
      b.resume = a.dup.pc ∧ Regs.sameBut b.r (restored a) ∧ b.flight = [] ∧ b.nsq = [] ∧ b.wb = [] ∧ b.wait = .none ∧ b.bundles = 0

/-- Both words of a bundle read the state before it (01 R39): two integer words in slots 1 and 2 with different destinations. -/
def Obligations.ParallelWords : Prop :=
  ∀ i j (s : State) F G v w d e, integer i = some F → integer j = some G → wordOf i = some v → wordOf j = some w →
    v.writes = [.s d] → w.writes = [.s e] → d ≠ e → let n := s.cur.toNat
    let a := s.agent n
    s.ready n → a.selects F.iq = true → a.selects G.iq = true →
    ∃ xs ys, F.act a = { a with flight := a.flight ++ xs } ∧ G.act a = { a with flight := a.flight ++ ys } ∧
      s.issue n [{ v with slot := 1 }, { w with slot := 2 }] =
        s.issued n 0 0 (fun a => ({ a with flight := a.flight ++ xs ++ ys } : Agent).seqStep)

/-! ## The statements: refusals of a bundle -/

/-- A word that its agent may not hold is an illegal encoding, selected or not (01 R37, R38 step 1, 12 R268). That no limit of the interval
is looked at before is log 55. -/
def Sys2Proof.Spec.ProfileRefusal : Prop :=
  ∀ i s F, (anyForm s s.cur.toNat i = some F ∨ ∃ ks, reads s s.cur.toNat i = some (F, ks)) → let n := s.cur.toNat
    s.members n = [n] → ¬ F.held → exec i s = .next (traps s n 0x01 ((i.slot).getD 0) 0 (s.agent n).r.pc)

/-- A pop or peek of an empty queue takes 0x04 and a push past eight places 0x03, with the queue's number (03 R86). A bundle at
the limit of its interval is refused before (log 55). -/
def Sys2Proof.Spec.QueueRefusals : Prop :=
  ∀ s iq d q pk k x, let n := s.cur.toNat
    let a := s.agent n
    s.ready n → (n < 288 ∨ 12 ≤ q.toNat) → a.selects iq = true →
    (a.queue q = [] → exec (.qpops iq d q pk k) s = .next (traps s n 0x04 1 0 (q.setWidth 64))) ∧
      (8 ≤ (a.queue q).length + a.reserved q → exec (.qpushs iq q x) s = .next (traps s n 0x03 1 0 (q.setWidth 64)))

/-- In the user view, ERET, HALT, a read of a supervisor CSR and a write of a CSR that is not of access U take 0x0E (00 R11, 01 R38 step 3,
02 R73, R74, 12 R269). That 0x0E comes before the limits of the interval, 0x06 and 0x16, is log 55. -/
def Sys2Proof.Spec.PrivilegeRefusals : Prop :=
  ∀ s i iq d x c, let n := s.cur.toNat
    let a := s.agent n
    s.members n = [n] → (a.mode = .task → a.r.repn = 0) → a.mode ≠ .super → namesCsr n c →
    ((erets i = some iq ∨ halts i = some iq) → a.selects iq = true → exec i s = .next (traps s n 0x0E 0 0 a.r.pc)) ∧
      (csrAccess a c = .s → a.selects iq = true → exec (.csrr iq d c) s = .next (traps s n 0x0E 0 0 a.r.pc)) ∧
      (csrAccess a c ≠ .u → a.selects iq = true → exec (.csrw iq x c) s = .next (traps s n 0x0E 0 0 a.r.pc))

/-- After 4,096 bundles of an interval the next one without a checkpoint takes 0x06 (02 R66), in slot 0 (log 55), and a branch to an address
that is no multiple of 32 takes 0x0D (02 R52). -/
def Sys2Proof.Spec.LimitAndTargetRefusals : Prop :=
  ∀ s, let n := s.cur.toNat
    let a := s.agent n
    s.members n = [n] → a.mode = .task → a.r.repn = 0 →
    (4096 ≤ a.bundles → exec .nop s = .next (traps s n 0x06 0 0 a.r.pc)) ∧
      (∀ iq x, a.bundles < 4096 → a.selects iq = true → a.getS x &&& 31 ≠ 0 →
        exec (.jr iq x) s = .next (traps s n 0x0D 0 0 (a.getS x)))

/-! ## The statements: traps and returns -/

/-- TRAP and BRK: a selected word traps, one that its qualifier does not select does nothing (12 R274). -/
def Obligations.TrapWords : Prop :=
  ∀ i s iq c imm, trapping i = some (iq, c, imm) → let n := s.cur.toNat
    s.ready n → exec i s = .next (if (s.agent n).selects iq then traps s n c 0 imm (s.agent n).r.pc else s.issued n 0 0 Agent.seqStep)

/-- A trap of a task that the user handles (12 R261, R265, 02 R68): the registers of the last checkpoint, CAUSE and FADDR, the shadow
bank with CAUSE, FADDR, CKPC and the resume PC, and issue at UFVEC; nothing of the interval is left. -/
def Obligations.UserTrapEntry : Prop :=
  ∀ s n c k imm f, s.members n = [n] → (s.agent n).mode = .task → c ∈ toUser → k < 8 →
    (s.agent n).dup.ufvec ≠ 0 → (s.agent n).dup.ufvec &&& 31 = 0 →
    let a := s.agent n
    let b := (traps s n c k imm f).agent n
    let cause := causeOf 0 imm a.dupLight false k c
    b.mode = .userFault ∧ b.cause = cause ∧ b.faddr = f ∧ b.ckpc = a.ckpc ∧ b.r.pc = a.dup.ufvec ∧ b.resume = a.dup.pc ∧
      Regs.sameBut b.r (restored a) ∧ b.getS 24 = cause ∧ b.getS 25 = f ∧ b.getS 26 = a.ckpc ∧ b.getS 31 = a.dup.pc ∧
      (∀ d : BitVec 5, d.toNat ∈ [27, 28, 29, 30] → b.getS d = Tab.get 0 a.shadow.s d.toNat) ∧
      b.flight = [] ∧ b.nsq = [] ∧ b.planeLoads = [] ∧ b.blocks = [] ∧ b.wb = [] ∧ b.journal = [] ∧ b.touched = [] ∧
      b.wait = .none ∧ b.stall = .none ∧ b.bundles = 0 ∧ b.cmds = 0 ∧ b.stores = 0 ∧ b.resv = []

/-- A trap of a task that the supervisor handles (12 R260, R261, R267): the supervisor bank with CAUSE, FADDR, CKPC and the resume PC,
and issue at SVEC in the supervisor view. -/
def Sys2Proof.Spec.SupervisorTrapEntry : Prop :=
  ∀ s n c k imm f, s.members n = [n] → (s.agent n).mode ≠ .super → k < 8 →
    (c ∉ toUser ∨ (s.agent n).mode ≠ .task ∨ (s.agent n).dup.ufvec = 0) → (s.agent n).svec ≠ 0 → (s.agent n).svec &&& 31 = 0 →
    let a := s.agent n
    let b := (traps s n c k imm f).agent n
    let cause := causeOf 0 imm a.dupLight (decide (a.mode ≠ .task)) k c
    b.mode = .super ∧ b.cause = cause ∧ b.faddr = f ∧ b.ckpc = a.ckpc ∧ b.r.pc = a.svec ∧ b.resume = a.dup.pc ∧
      Regs.sameBut b.r (restored a) ∧ b.getS 24 = cause ∧ b.getS 25 = f ∧ b.getS 26 = a.ckpc ∧ b.getS 31 = a.dup.pc ∧
      b.shadow = a.shadow ∧ b.flight = [] ∧ b.wb = [] ∧ b.wait = .none ∧ b.stall = .none

/-- What agent `n` saves of its interval is in order: memory, the journal and the touched rows are in their canonical form, and name lines
and rows of the core's stores. -/
def Sys2Proof.Spec.saves (s : State) (n : Nat) : Prop :=
  s.mem.wf = true ∧ (s.agent n).journal.wf none = true ∧ (s.agent n).touched.wf none = true ∧
    (∀ e ∈ (s.agent n).journal, e.1 < 32768) ∧ (∀ e ∈ (s.agent n).touched, e.1 < 2048) ∧ n < 312

/-- From `s` to `t` the journalled near lines and the touched accumulator rows of agent `n` hold their saved bytes again, and no other byte
changes (12 R261 step 3, 05 R124, R128). -/
def Sys2Proof.Spec.reverts (s t : State) (n : Nat) : Prop :=
  let a := s.agent n
  (∀ l, l < 32768 → ∀ x, Tab.get none a.journal l = some x → t.mem.num (nearAddr n (64 * l)) 64 = x.toNat) ∧
    (∀ r, r < 2048 → ∀ x, Tab.get none a.touched r = some x → t.mem.num (accAddr n (512 * r)) 512 = x.toNat) ∧
    (∀ y, (∀ l, Tab.get none a.journal l ≠ none → y < nearAddr n (64 * l) ∨ nearAddr n (64 * l) + 64 ≤ y) →
      (∀ r, Tab.get none a.touched r ≠ none → y < accAddr n (512 * r) ∨ accAddr n (512 * r) + 512 ≤ y) →
      t.mem.read y = s.mem.read y)

/-- The memory of a trapped interval reverts (12 R261 step 3, 05 R124, R128). -/
def Obligations.TrapRevertsMemory : Prop :=
  ∀ s n c k imm f, s.members n = [n] → (s.agent n).mode = .task → (s.agent n).svec ≠ 0 → (s.agent n).svec &&& 31 = 0 → saves s n →
    reverts s (traps s n c k imm f) n

/-- The task of agent `n` has ended with its interval discarded (02 R74): nothing of it is left, its memory has reverted, and every other
agent stays. -/
def Sys2Proof.Spec.ended (s t : State) (n : Nat) : Prop :=
  (t.agent n).task = none ∧ (t.agent n).mode = .task ∧ (t.agent n).wait = .none ∧ (t.agent n).flight = [] ∧ (t.agent n).wb = [] ∧
    (t.agent n).journal = [] ∧ (t.agent n).touched = [] ∧ (∀ m, m ≠ n → t.agent m = s.agent m) ∧ (saves s n → reverts s t n)

/-- A trap inside the supervisor handler, or one whose entry finds no valid SVEC, is a double trap: the task ends (12 R268). -/
def Sys2Proof.Spec.DoubleTrap : Prop :=
  ∀ s n c k imm f, s.members n = [n] → (s.agent n).task ≠ none →
    ((s.agent n).mode = .super ∨ (c ∉ toUser ∧ ((s.agent n).svec = 0 ∨ (s.agent n).svec &&& 31 ≠ 0))) →
    ended s (traps s n c k imm f) n

/-- UIRET (02 R50, R69, 12 R265): a selected one waits for the slot-7 word of its bundle that still stalls; then results in flight land, the
task's bank is back, and issue goes on at the saved PC; a saved PC of 0 ends the task with a checkpoint. One that its qualifier does not
select only goes on (01 R21; log 54). Outside a user handler UIRET is an illegal encoding (01 R37, 12 R268). -/
def Sys2Proof.Spec.UserReturn : Prop :=
  ∀ i s iq, uirets i = some iq → let n := s.cur.toNat
    let a := s.agent n
    (s.ready n → (a.mode = .userInt ∨ a.mode = .userFault) → a.selects iq = false → exec i s = .next (s.issued n 0 0 Agent.seqStep)) ∧
    (s.ready n → (a.mode = .userInt ∨ a.mode = .userFault ∧ back a &&& 31 = 0) → a.selects iq = true →
      let w := s.issued n 0 0 (fun b => { b with resume := back b })
      let v := w.setAgent n { w.agent n with wait := .uiret }
      (a.stall ≠ .none → exec i s = .next v) ∧
      (a.stall = .none → ∃ t, exec i s = .next t ∧ let u := v.drain n
        t.agent n = { u.agent n with
            mode := .task, hbundles := 0
            wait := if back a = 0 then .ckpt false true (u.agent n).r.pc else .none
            r := { (u.agent n).r with pc := back a } } ∧
          (∀ x, t.mem.read x = u.mem.read x) ∧ (∀ m, m ≠ n → t.agent m = s.agent m))) ∧
    (s.members n = [n] → a.mode ≠ .userInt → a.mode ≠ .userFault → exec i s = .next (traps s n 0x01 0 0 a.r.pc))

/-- ERET (02 R50, 12 R269): in the supervisor view a selected one waits for the slot-7 word of its bundle that still stalls; then results in
flight land and issue goes on at supervisor s31 in the user view with the task's bank; 0 ends the task with a checkpoint. After a fatal
cause the task ends (R270), and a target that is no multiple of 32 is a double trap. One that its qualifier does not select only goes on
(log 54). -/
def Sys2Proof.Spec.SupervisorReturn : Prop :=
  ∀ i s iq, erets i = some iq → let n := s.cur.toNat
    let a := s.agent n
    let pc := Tab.get 0 a.super.s 31
    let fatal := a.cause.setWidth 8 ∈ [0x06#8, 0x07#8, 0x16#8]
    s.ready n → a.mode = .super →
    (a.selects iq = false → exec i s = .next (s.issued n 0 0 Agent.seqStep)) ∧
    (a.selects iq = true →
      let w := s.issued n 0 0 (fun b => { b with resume := pc })
      let v := w.setAgent n { w.agent n with wait := .eret }
      (a.stall ≠ .none → exec i s = .next v) ∧
      (a.stall = .none → ∃ t, exec i s = .next t ∧
        (¬ fatal → pc &&& 31 = 0 → let u := v.drain n
          t.agent n = { u.agent n with
              mode := .task
              wait := if pc = 0 then .ckpt false true (u.agent n).r.pc else .none
              r := { (u.agent n).r with pc := pc } } ∧
            (∀ x, t.mem.read x = u.mem.read x) ∧ (∀ m, m ≠ n → t.agent m = s.agent m)) ∧
        ((fatal ∨ pc &&& 31 ≠ 0) → a.task ≠ none → (∀ f ∈ a.flight, ∀ u r x, f.res ≠ .row u r x) → ended s t n)))

/-- HALT in the supervisor view ends the task of its agent, with everything since the last checkpoint discarded (02 R74). One that its
qualifier does not select only goes on (log 54). -/
def Sys2Proof.Spec.HaltWord : Prop :=
  ∀ i s iq, halts i = some iq → let n := s.cur.toNat
    let a := s.agent n
    s.ready n → a.mode = .super →
    (a.selects iq = false → exec i s = .next (s.issued n 0 0 Agent.seqStep)) ∧
    (a.selects iq = true → a.task ≠ none → ∃ t, exec i s = .next t ∧ ended s t n)

/-! ## The statements: what lands, and the ends of waits -/

/-- What a field of a shape record reads as once `v` is written to it (03 R92, R93). -/
def Sys2Proof.Spec.fieldValue (f : BitVec 9) (v : W64) : W64 :=
  if f.toNat < 6 then (v.setWidth 24).setWidth 64
  else if f.toNat < 12 then (v.setWidth 32).signExtend 64
  else if f = 12 then (v.setWidth 57).setWidth 64
  else if f = 13 then (v.setWidth 3).setWidth 64
  else if f = 14 then (v.setWidth 8).setWidth 64
  else if f = 15 then (v.setWidth 16 &&& 0xFF0F#16).setWidth 64
  else (v.setWidth 48).setWidth 64

/-- What a control and status register reads as once `v` has landed in it (01 R26, R27, 02 R73, 23 R373), where it takes a write and is no
event count; SLICE is the partition's, if one holds the loom (13 R295). -/
def Sys2Proof.Spec.csrWritten (s : State) (n : Nat) (c : BitVec 12) (v : W64) : Option W64 :=
  let k := c.toNat
  if k ∈ [0x003, 0x004, 0x006, 0x010, 0x011, 0x012, 0x013, 0x014, 0x015, 0x016, 0x017, 0x100, 0x104, 0x105] then some v
  else if 0x140 ≤ k ∧ k ≤ 0x145 then some v
  else if k = 0x005 then some (v &&& 1)
  else if k = 0x102 then some (v &&& 7)
  else if k = 0x103 ∧ (s.partOf n).isSome = true then some v
  else if (0x200 ≤ k ∧ k ≤ 0x207) ∨ (0x210 ≤ k ∧ k ≤ 0x21F) then some (v &&& 0xFF)
  else none

/-- An event count after a landing: the value written to it; where the select beside it is written, it keeps the free part that it has
counted (23 R373, log 5). -/
def Sys2Proof.Spec.countAfter (s : State) (r : Res) (count select : Nat) (timed : Bool) (old : W64) : W64 :=
  match r with
  | .csr c v => if c.toNat = count then v else if c.toNat = select ∧ timed = true then old + Config.stallCycles s.freeCtr else old
  | _ => old

/-- What a landing result leaves of agent `n` (02 R47–R50, 03 R85, R93, 06 R159, 07 R165, 23 R373): the register, lanes, queue, field,
format or control and status register that it names has its value, and every other one of every kind stays. -/
def Sys2Proof.Spec.landed (s t : State) (n : Nat) (r : Res) : Prop :=
  let a := s.agent n
  let b := t.agent n
  let fmt (k : Nat) (old : Byte) : Byte := match r with
    | .fmt fam v => if min fam.toNat 5 = k then v else old
    | _ => old
  (∀ e, b.getS e = match r with
    | .s d v => if e = d ∧ d ≠ 0 then v else a.getS e
    | _ => a.getS e) ∧
  (∀ e, b.getA e = match r with
    | .a d v => if e = d then v else a.getA e
    | _ => a.getA e) ∧
  (∀ e, b.getV e = match r with
    | .v d m x => if e = d then (a.getV d &&& ~~~m) ||| (x &&& m) else a.getV e
    | _ => a.getV e) ∧
  (∀ e, b.getP e = match r with
    | .p d x => if e = d ∧ d ≠ 0 then x else a.getP e
    | _ => a.getP e) ∧
  (∀ e, b.getI e = match r with
    | .i d x => if e = d then x else a.getI e
    | _ => a.getI e) ∧
  (∀ q, b.queue q = match r with
    | .push d x => if q = d then a.queue q ++ [x] else a.queue q
    | _ => a.queue q) ∧
  (∀ q : BitVec 4, Tab.get 0 b.resv q.toNat = match r with
    | .push d _ => if q = d then Tab.get 0 a.resv q.toNat - 1 else Tab.get 0 a.resv q.toNat
    | _ => Tab.get 0 a.resv q.toNat) ∧
  ((∀ l g e v, r = .shape l g e v → 0 < l.toNat) → ∀ (k h : BitVec 2) copy (f : BitVec 9), 0 < k.toNat → copy < 2 → f.toNat ≤ 16 →
    (b.shape k h copy).field f = match r with
      | .shape l g e v => if k = l ∧ h = g ∧ copy = 1 ∧ f = e then fieldValue f v else (a.shape k h copy).field f
      | _ => (a.shape k h copy).field f) ∧
  (b.r.ma = fmt 0 a.r.ma ∧ b.r.mb = fmt 1 a.r.mb ∧ b.r.aout = fmt 2 a.r.aout ∧ b.r.vin = fmt 3 a.r.vin ∧ b.r.vout = fmt 4 a.r.vout ∧
    b.r.rnd = fmt 5 a.r.rnd) ∧
  (∀ e : BitVec 12, e ≠ 0x023 → ¬ (0x208 ≤ e.toNat ∧ e.toNat ≤ 0x20F) → ¬ (0x220 ≤ e.toNat ∧ e.toNat ≤ 0x22F) →
    t.csrValue n e = match r with
      | .csr c v => if e = c then (csrWritten s n c v).getD (s.csrValue n e) else s.csrValue n e
      | .npf => if e = 0x005 then 1 else s.csrValue n e
      | _ => s.csrValue n e) ∧
  (∀ j < 8, Tab.get 0 b.evcnt j =
    countAfter s r (0x208 + j) (0x200 + j) (timedSource (Tab.get 0 a.evsel j)) (Tab.get 0 a.evcnt j)) ∧
  (∀ j < 16, Tab.get 0 b.levcnt j =
    countAfter s r (0x220 + j) (0x210 + j) (loomTimed (Tab.get 0 a.levsel j)) (Tab.get 0 a.levcnt j)) ∧
  b.r.rsr = (match r with
    | .csr c _ => if c = 0x017 then 0 else a.r.rsr
    | _ => a.r.rsr) ∧
  (∀ k, Tab.get none b.touched k = match r with
    | .row u w _ => if k = 128 * u.toNat + w.toNat ∧ Tab.get none a.touched k = none then some (s.accRow n k) else Tab.get none a.touched k
    | _ => Tab.get none a.touched k) ∧
  (∀ p, Tab.get Partition.reset t.parts p = match r with
    | .csr c v =>
      if c = 0x103 ∧ s.partOf n = some p then { Tab.get Partition.reset s.parts p with slice := v } else Tab.get Partition.reset s.parts p
    | _ => Tab.get Partition.reset s.parts p) ∧
  b.r.pc = a.r.pc ∧ b.r.levels = a.r.levels ∧ b.mode = a.mode ∧ b.wait = a.wait ∧ b.stall = a.stall ∧ b.wb = a.wb ∧ b.nsq = a.nsq ∧
    b.planeLoads = a.planeLoads ∧ b.blocks = a.blocks ∧ b.dup = a.dup ∧ b.journal = a.journal ∧ b.task = a.task

/-- RESULT_LANDING (02 R47, R49): the earliest result whose time has come lands; memory changes only by the row of an accumulator write, and
every other agent, every pitch and every account stay. -/
def Obligations.ResultLanding : Prop :=
  ∀ (s : State) (k : BitVec 9) f, let n := k.toNat
    nextFlight (s.agent n).flight = some f → (s.agent n).lands (2 * f.due) = true → s.quarantined = [] →
    ∃ t, exec (.resultLanding k) s = .next t ∧ (t.agent n).flight = (s.agent n).flight.erase f ∧ landed s t n f.res ∧
      (∀ m, m ≠ n → t.agent m = s.agent m) ∧ t.pitches = s.pitches ∧ t.accounts = s.accounts ∧
      match f.res with
      | .row u r x => t.accRow n (128 * u.toNat + r.toNat) = x ∧
          ∀ y, (y < accAddr n (512 * (128 * u.toNat + r.toNat)) ∨ accAddr n (512 * (128 * u.toNat + r.toNat)) + 512 ≤ y) →
            t.mem.read y = s.mem.read y
      | _ => t.mem = s.mem

/-- NEAR_PERFORM (05 R123, R124): the store at the head of the near-store queue puts its bytes, every other byte of memory stays, and a
line that the journal does not hold is saved first. A QALIGN of the near path lands the stores issued before its bundle (10 R240). -/
def Obligations.NearStoreLanding : Prop :=
  ∀ (s : State) (k : BitVec 9) x xs, let n := k.toNat
    let a := s.agent n
    a.nsq = x :: xs → (a.lands (2 * x.due) = true ∨ ∃ far cyc, a.wait = .qalign far true cyc ∧ x.due < cyc + 3) → s.quarantined = [] →
    x.len ≤ 512 →
    ∃ t, exec (.nearPerform k) s = .next t ∧ (t.agent n).nsq = xs ∧ (t.agent n).r = a.r ∧
      (∀ i, i < x.len → t.mem.read (nearAddr n (x.off + i)) = byteAt x.data i) ∧
      (∀ y, (y < nearAddr n x.off ∨ nearAddr n x.off + x.len ≤ y) → t.mem.read y = s.mem.read y) ∧
      ∀ l, Tab.get none (t.agent n).journal l =
        if Tab.get none a.journal l = none ∧ x.off / 64 ≤ l ∧ l < x.off / 64 + x.len / 64 then
          some (BitVec.ofNat 512 (s.mem.num (nearAddr n (64 * l)) 64))
        else Tab.get none a.journal l

/-- PLANE_LOAD_LAND (08 R192): the plane holds the frame's rows and its FRAME, and MLDBL's landing exchanges the planes. -/
def Obligations.PlaneLoadLanding : Prop :=
  ∀ (s : State) (k : BitVec 9) x xs, let n := k.toNat
    let a := s.agent n
    a.planeLoads = x :: xs → a.lands (2 * x.due) = true → poisonedAt s (canopyAddr n (32768 * x.frame.toNat)) 32768 = none →
    ∃ t, exec (.planeLoadLand k) s = .next t ∧ t.mem = s.mem ∧
      let b := t.agent n
      b.planeLoads = xs ∧ (∀ r, r < 128 → Tab.get 0 (if x.plane = 0 then b.plane0 else b.plane1) r = s.frameRow n x.frame.toNat r) ∧
        (if x.plane = 0 then b.r.frame0 else b.r.frame1) = 1#1 ++ x.frame ∧ (if x.plane = 0 then b.r.pfault0 else b.r.pfault1) = 0 ∧
        b.r.active = (if x.swap then x.plane else a.r.active) ∧ b.r.kc = (if x.swap then 0 else a.r.kc)

/-- PARTIAL_SUM_ADD (08 R194, 06 R157): the oldest block is added to its tile's rows, or written to them by MMAZ; no other byte of memory
changes. -/
def Sys2Proof.Spec.BlockAddition : Prop :=
  ∀ (s : State) (k : BitVec 9) b bs, let n := k.toNat
    let a := s.agent n
    a.blocks = b :: bs → a.lands (2 * b.port + 1) = true → b.rows.length ≤ 128 → s.quarantined = [] →
    ∃ t, exec (.partialSumAdd k) s = .next t ∧ (t.agent n).blocks = bs ∧ (t.agent n).r = a.r ∧
      (∀ r x, b.rows[r]? = some x → t.accRow n (128 * b.tile.toNat + r) =
        if b.zero then x else mkVec (fun j => f32Add (lane (s.accRow n (128 * b.tile.toNat + r)) j) (lane x j))) ∧
      ∀ y, (y < accAddr n (65536 * b.tile.toNat) ∨ accAddr n (65536 * b.tile.toNat) + 512 * b.rows.length ≤ y) →
        t.mem.read y = s.mem.read y

/-- A row after the blocks of its tile, oldest first: each is added, or written by MMAZ (08 R194, 06 R157). -/
def Sys2Proof.Spec.rowAfter (bs : List Block) (r : Nat) (x : Vec) : Vec :=
  bs.foldl (fun x b => match b.rows[r]? with
    | none => x
    | some y => if b.zero then y else mkVec (fun j => f32Add (lane x j) (lane y j))) x

/-- SCOREBOARD_STALL_END and MDRAIN_END (05 R127, 08 R196, R197): every block of the tile is added into its rows in issue order, unscaled,
the stall is over, and no byte outside the tile and no other agent changes. -/
def Sys2Proof.Spec.TileStallEnds : Prop :=
  ∀ (s : State) (k : BitVec 9) u, let n := k.toNat
    let a := s.agent n
    (∀ b ∈ a.blocks, b.rows.length ≤ 128) → s.quarantined = [] →
    let fin (t : State) : Prop := (t.agent n).blocks = a.blocks.filter (fun b => b.tile != u) ∧ (t.agent n).busy u = false ∧
      (t.agent n).r = a.r ∧ (∀ m, m ≠ n → t.agent m = s.agent m) ∧
      (∀ r < 128, t.accRow n (128 * u.toNat + r) =
        rowAfter (a.blocks.filter (fun b => b.tile == u)) r (s.accRow n (128 * u.toNat + r))) ∧
      ∀ y, (y < accAddr n (65536 * u.toNat) ∨ accAddr n (65536 * u.toNat) + 65536 ≤ y) → t.mem.read y = s.mem.read y
    (a.board = some u → ∃ t, exec (.scoreboardStallEnd k) s = .next t ∧ (t.agent n).board = none ∧ fin t) ∧
      (a.mdrain = some u → ∃ t, exec (.mdrainEnd k) s = .next t ∧ (t.agent n).mdrain = none ∧ fin t)

/-- Whether a stop request abandons a wait of the agent (02 R71): in a handler a pre-emption waits for its end (13 R291), and in a trap's
handler so does a debug stop (12 R279), log 31. -/
def Sys2Proof.Spec.abandons (a : Agent) : Prop :=
  a.stop.watchdog ≠ none ∨ (a.stop.debug = true ∧ a.mode ≠ .userFault ∧ a.mode ≠ .super) ∨ (a.stop.preempt ≠ none ∧ a.mode = .task)

/-- The ends of the waiting instructions (02 R70, 10 R241, R242): once nothing of the agent is in flight, no slot-7 word of its
bundle stalls and no MDRAIN waits, no stop request abandons the wait and what it waits for holds, the wait is over and nothing else changes,
but that WFE consumes the latch and that a poll is an access to its bytes (04 R114, 14 R310). SLEEPC ends when it is chosen (log 50). -/
def Sys2Proof.Spec.WaitsEnd : Prop :=
  ∀ (s : State) (k : BitVec 9), let n := k.toNat
    let a := s.agent n
    let fin := s.setAgent n { a with wait := .none }
    ¬ abandons a → a.settled = true →
    (∀ v, a.wait = .waitt v → v.toNat ≤ s.now.toNat →
      exec (.waittEnd k) s = .next (s.setAgent n { a with wait := .none, woken := true })) ∧
      (∀ v, a.wait = .sleepc v → exec (.sleepcEnd k) s = .next fin) ∧
      (∀ q m, a.wait = .qwait q m → m.toNat ≤ (a.queue q).length → exec (.qwaitEnd k) s = .next fin) ∧
      (a.wait = .wfe → a.r.latch = true →
        exec (.wfeWake k) s = .next (s.setAgent n { a with wait := .none, r := { a.r with latch := false } })) ∧
      (∀ c v, a.wait = .twait c v → a.farFault = none → v.toNat ≤ (a.timeline c).count.toNat → (a.timeline c).frec = none →
        exec (.twaitEnd k) s = .next fin) ∧
      (∀ e v, a.wait = .twaita e v → twaitaCheck s n e = none → s.vaPoison n a.who.pasid e.toNat 8 = none → v.toNat ≤ s.pollValue n e →
        exec (.twaitaPoll k) s =
          .next ((s.touchVa n a.who.pasid e.toNat 8).setAgent n { a with wait := .none }))

/-- The causes and addresses that a recorded fault is delivered with (09 R211, R212). -/
def Sys2Proof.Spec.recordCause (f : Frec) : Byte :=
  if f.status = 0x01 then (if f.sub then 0x09 else 0x08)
  else if f.status = 0x02 then 0x0A
  else if f.status = 0x03 then 0x0C
  else if f.status = 0x05 then 0x0B
  else if f.status = 0x06 then 0x11
  else if f.status = 0x0B then 0x12
  else if f.status = 0x0C then 0x13
  else 0x14
def Sys2Proof.Spec.recordAddr (f : Frec) : W64 := if f.status = 0x04 ∨ f.status = 0x07 ∨ f.status = 0x08 then f.num else f.addr

/-- The faults that a TWAIT delivers (09 R212, R214): first the far fault of a released store or atomic, whatever COUNT is (log 35); else,
once COUNT has reached its operand, the first faulting completion of the context, if its operation is one of those waited for, which FREC
then no longer holds. -/
def Sys2Proof.Spec.WaitDelivers : Prop :=
  ∀ (s : State) (k : BitVec 9) c v, let n := k.toNat
    let a := s.agent n
    s.members n = [n] → a.wait = .twait c v → ¬ abandons a → a.settled = true →
    (∀ f, a.farFault = some f →
      exec (.twaitEnd k) s = .next (traps (s.setAgent n { a with farFault := none }) n f.1 0 0 f.2)) ∧
    (∀ f, a.farFault = none → v.toNat ≤ (a.timeline c).count.toNat → (a.timeline c).frec = some f →
      (f.num.toNat ≤ v.toNat → exec (.twaitEnd k) s = .next (traps
        (s.setAgent n (a.setCtx a.who.tslot.toNat c.toNat { a.timeline c with frec := none })) n (recordCause f) 0 0 (recordAddr f))) ∧
      (v.toNat < f.num.toNat → exec (.twaitEnd k) s = .next (s.setAgent n { a with wait := .none })))

/-- `i` is the row of the table that ends wait `w` of agent `k`. -/
def Sys2Proof.Spec.endsWait (w : Wait) (k : BitVec 9) (i : Instr) : Prop :=
  match w with
  | .waitt _ => i = .waittEnd k
  | .sleepc _ => i = .sleepcEnd k
  | .qwait _ _ => i = .qwaitEnd k
  | .wfe => i = .wfeWake k
  | .twait _ _ => i = .twaitEnd k
  | .twaita _ _ => i = .twaitaPoll k
  | _ => False

/-- A stop request, of a debugger, of pre-emption or of a drain, that meets any of the six waiting instructions abandons the wait, one that
was pending as the wait began too (log 81): the agent is restored to its last checkpoint and stops there (02 R71). -/
def Sys2Proof.Spec.WaitAbandoned : Prop :=
  ∀ (s : State) (k : BitVec 9) i, let n := k.toNat
    let a := s.agent n
    s.members n = [n] → abandons a → endsWait a.wait k i →
    ∃ t, exec i s = .next t ∧ (t.agent n).wait = .stop ∧ Regs.sameBut { (t.agent n).r with pc := a.dup.pc } (restored a) ∧
      (t.agent n).r.pc = a.dup.pc ∧ (t.agent n).flight = [] ∧ (t.agent n).wb = [] ∧ (∀ m, m ≠ n → t.agent m = s.agent m) ∧
      (saves s n → reverts s t n)

/-- What a released command joins (02 R64 step 4, 10 R228): a far command the FSQ, an engine, fabric, mailbox or launch command the ECB,
a marker both, a rent operation Genay's commits. -/
def Sys2Proof.Spec.fsqOf (c : Cmd) : Bool :=
  match c with
  | .rent _ => false
  | .engine _ => false
  | .xqp _ _ => false
  | .xmbox _ _ _ => false
  | .xlaunch _ => false
  | _ => true
def Sys2Proof.Spec.ecbOf (c : Cmd) : Bool :=
  match c with
  | .marker _ => true
  | .engine _ => true
  | .xqp _ _ => true
  | .xmbox _ _ _ => true
  | .xlaunch _ => true
  | _ => false

/-- The withheld commands as they leave: of one pitch that a later VACATE of the interval gives up, a RENT is given up at its commit and an
extension releases its hold there (04 R102, R106, R117). -/
def Sys2Proof.Spec.leaves : List Cmd → List Cmd
  | [] => []
  | c :: cs =>
    (match c with
    | .rent (.rent d h) => if Cmd.rent (.vacate d) ∈ cs then .rent (.void d h) else c
    | .rent (.prepay d h _) => if Cmd.rent (.vacate d) ∈ cs then .rent (.drop d h) else c
    | .rent (.renew d h _) => if Cmd.rent (.vacate d) ∈ cs then .rent (.drop d h) else c
    | _ => c) :: leaves cs

/-- The withheld commands of agent `n` have joined their queues in their order (02 R64 step 4, 10 R228 M3). -/
def Sys2Proof.Spec.released (s t : State) (n : Nat) : Prop :=
  let a := s.agent n
  let b := t.agent n
  b.fsq.map Held.cmd = a.fsq.map Held.cmd ++ (leaves a.wb).filter fsqOf ∧ b.ecb.map Held.cmd = a.ecb.map Held.cmd ++ (leaves a.wb).filter ecbOf ∧
    t.commits = s.commits ++ (leaves a.wb).filterMap (fun c => match c with
      | .rent r => some { agent := n, ts := a.who.ts, op := r }
      | _ => none)

/-- CHECKPOINT_COMPLETE (02 R64): once nothing of the interval is in flight and no check refuses a withheld command, the duplicate set is
the registers, the journal, the touched bits and the interval's counters are empty, CKPC is the checkpoint's bundle, and the withheld
commands are released in their order, those about a pitch that the interval vacates later as R102 and R117 say; the registers and memory
stay. With no request pending, issue goes on. -/
def Sys2Proof.Spec.CheckpointCompletes : Prop :=
  ∀ (s : State) (k : BitVec 9) light pc, let n := k.toNat
    let a := s.agent n
    s.members n = [n] → a.wait = .ckpt light false pc → s.ckptReady [n] = true → a.farFault = none → s.blocksInsolvent n = false →
    s.firstRefused n = none → a.stop = StopReq.none → (∀ c, Tab.get none a.r.notes c = none) →
    ∃ t, exec (.checkpointComplete k) s = .next t ∧ t.mem = s.mem ∧
      let b := t.agent n
      b.r = a.r ∧ b.dup = a.r ∧ b.dupLight = light ∧ b.ckpc = pc ∧ b.wait = .none ∧ b.journal = [] ∧ b.touched = [] ∧ b.wb = [] ∧
        b.bundles = 0 ∧ b.hbundles = 0 ∧ b.cmds = 0 ∧ b.stores = 0 ∧ b.resv = [] ∧
        (∀ q : BitVec 4, Tab.get 0 b.owed q.toNat = Tab.get 0 a.owed q.toNat + Tab.get 0 a.resv q.toNat) ∧
        released s t n ∧ (∀ m, m ≠ n → t.agent m = s.agent m)

/-- A checkpoint that a check stops releases nothing and takes the trap: of a far fault that a released store or atomic met (09 R214), of an
account that may not commit its charges (04 R108), else of the first withheld command that step 4 refuses (02 R64 step 4, 12 R272). -/
def Sys2Proof.Spec.CheckpointRefused : Prop :=
  ∀ (s : State) (k : BitVec 9) light final pc c f, let n := k.toNat
    let a := s.agent n
    let v := s.setAgent n { a with farFault := none }
    s.members n = [n] → a.wait = .ckpt light final pc → s.ckptReady [n] = true → a.drains = false →
    (a.farFault = some (c, f) → exec (.checkpointComplete k) s = .next (traps v n c 0 0 f)) ∧
      (a.farFault = none → s.blocksInsolvent n = true → exec (.checkpointComplete k) s = .next (traps v n 0x15 0 0 pc)) ∧
      (a.farFault = none → s.blocksInsolvent n = false → s.firstRefused n = some (c, f) →
        exec (.checkpointComplete k) s = .next (traps v n c 0 0 f))

/-- The final checkpoint of a task, of a jump to 0 (02 R46, 04 R111): the withheld commands are released, the agent is free, and the loom
task has ended with the completion code of its set unchanged. A leased pitch of the task in the core's own stores is vacated at once where
nothing accesses it and Genay has no commit to receive; it waits for INFLIGHT where something does. -/
def Sys2Proof.Spec.FinalCheckpoint : Prop :=
  ∀ (s : State) (k : BitVec 9) light pc, let n := k.toNat
    let a := s.agent n
    s.members n = [n] → a.wait = .ckpt light true pc → s.ckptReady [n] = true → a.farFault = none → s.blocksInsolvent n = false →
    s.firstRefused n = none → a.stop = StopReq.none → a.task ≠ none →
    ∃ t, exec (.checkpointComplete k) s = .next t ∧ t.mem = s.mem ∧
      let b := t.agent n
      b.task = none ∧ b.mode = .task ∧ b.wait = .none ∧ b.wb = [] ∧ b.journal = [] ∧ b.touched = [] ∧ b.r = a.r ∧
        (∀ m, m ≠ n → t.agent m = s.agent m) ∧ (a.wb = [] → b.fsq = a.fsq ∧ b.ecb = a.ecb) ∧
        (∀ u x, Tab.get none s.tasksets a.who.ts = some u → u.tasks[a.who.j]? = some x → x.stat ≠ .ended →
          ∃ v y, Tab.get none t.tasksets a.who.ts = some v ∧ v.code = u.code ∧ v.tasks[a.who.j]? = some y ∧ y.stat = .ended) ∧
        (∀ d, a.wb = [] → (∀ c ∈ s.commits, c.agent ≠ n) → let p := s.pitch d
          p.state = .leased → p.tier.toNat ≤ 2 → p.unit = n → p.account = a.who.account → p.context = a.who.context →
          (p.inflight = 0 → (t.pitch d).state = .scrubbing) ∧
            (p.inflight ≠ 0 → t.pitch d = { p with vacWhenIdle := true }))

/-- A pending note is served at a checkpoint (02 R67, R68, 09 R222): the user-interrupt handler starts at UIVEC with the shadow bank's
s24 to s27 holding the context, the operation, the counter cell and the status. -/
def Obligations.NoteServed : Prop :=
  ∀ (s : State) (k : BitVec 9) light pc c x, let n := k.toNat
    let a := s.agent n
    s.members n = [n] → a.wait = .ckpt light false pc → s.ckptReady [n] = true → a.farFault = none → s.blocksInsolvent n = false →
    s.firstRefused n = none → a.stop = StopReq.none → a.wb = [] → c < 7 → Tab.get none a.r.notes c = some x →
    (∀ d, d < c → Tab.get none a.r.notes d = none) → a.r.uimask = false → a.r.repn = 0 → a.r.uivec ≠ 0 → a.r.uivec &&& 31 = 0 →
    ∃ t, exec (.checkpointComplete k) s = .next t ∧
      let b := t.agent n
      b.mode = .userInt ∧ b.r.pc = a.r.uivec ∧ b.resume = a.r.pc ∧ b.dup = a.r ∧ Tab.get none b.r.notes c = none ∧
        b.getS 24 = BitVec.ofNat 64 c ∧ b.getS 25 = x.num ∧ b.getS 26 = (a.timeline (BitVec.ofNat 3 c)).cell ∧
        b.getS 27 = x.status.setWidth 64

/-! ## The statements: channels, homes and engines -/

/-- An entry of agent `n` that has just departed for its home (10 R226–R228). -/
def Sys2Proof.Spec.departed (n : Nat) (w : Who) (seq : Nat) (g : Point × Load) : Transit :=
  { agent := n, owner := w, seq := seq, load := g.2, passed := .agent n, route := routeTo n g.1, home := g.1 }

/-- The homes of a far access: its elements, cut into cells where an arm counter lies in one, go with those of their home, each home once
(10 R226, R233; log 13). -/
def Sys2Proof.Spec.HomesOfElements : Prop :=
  ∀ (s : State) n es, let gs := s.byHome n es
    (gs.map (·.1)).Nodup ∧ (∀ g ∈ gs, g.2 ≠ [] ∧ ∀ e ∈ g.2, s.homeAt n e.addr.toNat e.phys = g.1) ∧
      List.Perm (gs.flatMap (·.2)) (es.flatMap s.cut) ∧
      ((∀ e ∈ es, ∀ j < e.len, s.isArm (e.addr.toNat + j) = false) → es.flatMap s.cut = es)

/-- Whether a home lies within scope `sc` of agent `n`, and the point of the scope (10 R230). -/
def Sys2Proof.Spec.inScope (n sc : Nat) (h : Point) : Prop :=
  h = .agent n ∨ sc = 1 ∧ (h = .lop (loomOf n) ∨ ∃ b, h = .agent b ∧ loomOf b = loomOf n) ∨
    sc = 2 ∧ (h = .dop (dieOf n) ∨ (∃ m, h = .lop m ∧ m / 6 = dieOf n) ∨ ∃ b, h = .agent b ∧ loomOf b / 6 = dieOf n) ∨
    sc = 3 ∧ h ≠ .hcp ∨ 4 ≤ sc
def Sys2Proof.Spec.pointOf (n sc : Nat) : Point :=
  if sc = 0 then .agent n else if sc = 1 then .lop (loomOf n) else if sc = 2 then .dop (dieOf n) else if sc = 3 then .vop else .hcp

/-- A departed entry no longer holds a marker of scope `sc`: its home lies outside the scope and it has passed the scope's point (10 R239).
An entry whose home lies within the scope holds the marker until it has performed. -/
def Sys2Proof.Spec.lets (u : Transit) (sc : Nat) : Prop :=
  ¬ inScope u.agent sc u.home ∧
    (sc = 0 ∨ pointOf u.agent sc ∈ routeTo u.agent u.home ∧ pointOf u.agent sc ∉ u.route)

/-- No entry of agent `n` that has departed from the same queue and not performed is a TSO access (10 R234). -/
def Sys2Proof.Spec.tsoFree (s : State) (n : Nat) (kind : Load → Bool) : Prop :=
  ∀ u ∈ s.transit, u.agent = n → kind u.load = true → s.isTso n u.load = false

/-- DEPART (10 R228 M4, R234, R239, R241): the head of the FLQ or FSQ enters the first channel of the route to its home, one entry for each
home of its bytes (log 13), unless it is a TSO access behind another of its queue; R234 holds no WCREAD and no XARM. A marker leaves both queues once
every FSQ entry before it has performed within its scope or passed the point of the scope. -/
def Sys2Proof.Spec.EntriesDepart : Prop :=
  ∀ (s : State) (k : BitVec 9), let n := k.toNat
    let a := s.agent n
    (∀ x xs, a.flq = x :: xs →
      ((s.isTso n (.read x) = false ∨ tsoFree s n Load.isRead) → ∃ t, exec (.depart k .load) s = .next t ∧ (t.agent n).flq = xs ∧
        t.transit = s.transit ++ (s.byHome n x.es).map (fun g => departed n a.who 0
          (g.1, .read { x with es := g.2, id := s.loadSeq, parts := (s.byHome n x.es).length })) ∧
        t.loadSeq = s.loadSeq + 1 ∧ t.mem = s.mem ∧ ∀ m, m ≠ n → t.agent m = s.agent m) ∧
      (s.isTso n (.read x) = true → ¬ tsoFree s n Load.isRead → exec (.depart k .load) s = .next s)) ∧
    (∀ h xs es v, a.fsq = h :: xs → h.cmd = .store es v →
      ((s.isTso n (.cmd h.cmd) = false ∨ tsoFree s n Load.isStored) → ∃ t, exec (.depart k .store) s = .next t ∧ (t.agent n).fsq = xs ∧
        t.transit = s.transit ++ (s.byHome n (s.placed n h.owner.pasid es)).map (fun g =>
          departed n h.owner h.seq (g.1, .cmd (.store g.2 v))) ∧ t.mem = s.mem ∧ ∀ m, m ≠ n → t.agent m = s.agent m) ∧
      (s.isTso n (.cmd h.cmd) = true → ¬ tsoFree s n Load.isStored → exec (.depart k .store) s = .next s)) ∧
    (∀ h xs, a.fsq = h :: xs →
      ((∃ op wide va v v2 q, h.cmd = .atomic op wide va v v2 q) ∨ (∃ va fmt x, h.cmd = .wcAdd va fmt x)) ∧
          (s.isTso n (.cmd h.cmd) = false ∨ tsoFree s n Load.isStored) ∨
        (∃ va q ks y, h.cmd = .wcRead va q ks y) ∨ (∃ va x, h.cmd = .xarm va x) →
      ∃ t, exec (.depart k .store) s = .next t ∧ (t.agent n).fsq = xs ∧ t.mem = s.mem ∧
        t.transit = s.transit ++ [departed n h.owner h.seq (s.loadHome n h.owner.pasid (.cmd h.cmd), .cmd h.cmd)]) ∧
    (∀ h xs va fmt x, a.fsq = h :: xs → h.cmd = .wcAddV va fmt x → (s.isTso n (.cmd h.cmd) = false ∨ tsoFree s n Load.isStored) →
      ∃ t, exec (.depart k .store) s = .next t ∧ (t.agent n).fsq = xs ∧ t.mem = s.mem ∧
        t.transit = s.transit ++ (List.range 128).map (fun l =>
          let c : Load := .cmd (.wcAdd (va + BitVec.ofNat 64 (64 * l)) fmt (BitVec.ofNat 32 (x.toNat / 2 ^ (fmtBits fmt * l) % 2 ^ fmtBits fmt)))
          departed n h.owner h.seq (s.loadHome n h.owner.pasid c, c))) ∧
    (∀ h xs b, a.fsq = h :: xs → h.cmd = .event b → b.toNat < 312 → (∀ u ∈ s.transit, u.agent = n → u.load.isStored = false) →
      ∃ t, exec (.depart k .store) s = .next t ∧ (t.agent n).fsq = xs ∧ t.mem = s.mem ∧
        t.transit = s.transit ++ [departed n h.owner h.seq (.agent b.toNat, .cmd (.event b))]) ∧
    (∀ h xs (sc : BitVec 3), a.fsq = h :: xs → h.cmd = .marker sc →
      ((∀ u ∈ s.transit, u.agent = n → u.load.isStored = true → lets u sc.toNat) →
        ∃ t, exec (.depart k .store) s = .next t ∧ (t.agent n).fsq = xs ∧ t.transit = s.transit ∧ t.mem = s.mem ∧
          (∀ pre m post, a.ecb = pre ++ m :: post → m.isMarker = true → (∀ z ∈ pre, z.isMarker = false) →
            (t.agent n).ecb = pre ++ post)) ∧
      ((∃ u ∈ s.transit, u.agent = n ∧ u.load.isStored = true ∧ ¬ lets u sc.toNat) → exec (.depart k .store) s = .next s))

/-- HOP (10 R228 M5): an entry at the head of its channel passes the next point of its route. -/
def Sys2Proof.Spec.EntriesHop : Prop :=
  ∀ (s : State) i e p ps, s.transit[i]? = some e → e.route = p :: ps →
    (∀ u ∈ s.transit.take i, u.passed ≠ e.passed ∨ u.route.head? ≠ some p) →
    exec (.hop i) s = .next { s with transit := s.transit.eraseIdx i ++ [{ e with passed := p, route := ps }] }

/-- Entry `i` of the channels is the next to perform at its home (10 R227, R228 M6). -/
def Sys2Proof.Spec.atHome (s : State) (i : Nat) (e : Transit) : Prop :=
  s.transit[i]? = some e ∧ e.route = [] ∧ ∀ u ∈ s.transit.take i, u.route ≠ [] ∨ u.home ≠ e.home

/-- PERFORM of a far load, or of the part of it that has one home (log 13; 10 R228 M6, R233, 09 R214): it reads every byte of its elements at the
storage that its translation gave (14 R304, R305), each to its place of the entry; with its last part the entry may arrive. Poison traps on
arrival (14 R314). -/
def Sys2Proof.Spec.LoadPerforms : Prop :=
  ∀ (s : State) i e x, atHome s i e → e.load = .read x → (∀ z ∈ x.es, regionOf z.addr.toNat = .rented) →
    let entry : Vec := x.es.foldl (fun v z => v ||| (BitVec.ofNat 4096 (natOfBytes (s.mem.bytes z.phys z.len)) <<< (8 * z.off))) 0
    let trap := x.es.findSome? (fun z => (poisonedAt s z.phys z.len).map (fun p => ((0x11 : Byte), z.addr + BitVec.ofNat 64 (p - z.phys))))
    let same (y : Arrival) : Prop := y.agent = e.agent ∧ y.owed = false ∧ y.parts ≠ 0 ∧ y.id = x.id
    ∃ t, exec (.perform i) s = .next t ∧ t.mem = s.mem ∧ t.transit = s.transit.eraseIdx i ∧ t.agents = s.agents ∧
      ((∀ y ∈ s.arrivals, ¬ same y) → t.arrivals = s.arrivals ++ [{
        agent := e.agent, owner := e.owner, q := x.q, entry := entry, pitches := x.pitches, owed := false, dropped := x.dropped, trap := trap
        id := x.id, parts := x.parts - 1 }]) ∧
      ∀ pre y post, s.arrivals = pre ++ y :: post → same y → (∀ z ∈ pre ++ post, ¬ same z) →
        t.arrivals = pre ++ { y with entry := y.entry ||| entry, trap := y.trap.or trap, parts := y.parts - 1 } :: post

/-- PERFORM of a released store of one element inside a page and of an atomic (09 R214, R215): the bytes stand at their address, the old word
of a fetch form is delivered, and no other byte of memory changes. -/
def Sys2Proof.Spec.StoresPerform : Prop :=
  ∀ (s : State) i e va k, let n := e.agent
    let x := s.storage n e.owner.pasid va.toNat
    atHome s i e → s.quarantined = [] → s.live n e.owner va = true → 0 < k → va.toNat % 4096 + k ≤ 4096 →
    s.partPoison n e.owner.pasid va k = none → s.vaPoison n e.owner.pasid va.toNat k = none → regionOf va.toNat = .rented →
    (∀ z v, z.addr = va → z.len = k → z.off + k ≤ 512 → e.load = .cmd (.store [z] v) → ∃ t, exec (.perform i) s = .next t ∧
      t.transit = s.transit.eraseIdx i ∧
      (∀ j, j < k → t.mem.read (x + j) = byteAt v (z.off + j)) ∧ (∀ y, (y < x ∨ x + k ≤ y) → t.mem.read y = s.mem.read y)) ∧
    (∀ op wide v v2 q, k = (if wide then 8 else 4) → e.load = .cmd (.atomic op wide va v v2 q) →
      ∃ t old, exec (.perform i) s = .next t ∧ old = BitVec.ofNat (8 * k) (s.mem.num x k) ∧ t.transit = s.transit.eraseIdx i ∧
        t.mem.num x k = (atomicNew op (8 * k) old (v.setWidth (8 * k)) (v2.setWidth (8 * k))).toNat ∧
        (∀ y, (y < x ∨ x + k ≤ y) → t.mem.read y = s.mem.read y) ∧
        (q = none → t.arrivals = s.arrivals) ∧
        ∀ d, q = some d → t.arrivals = s.arrivals ++ [{
          agent := n, owner := e.owner, q := d, entry := old.setWidth 4096, pitches := [], owed := true, dropped := false, trap := none }])

/-- A released atomic or store that reaches its pitch after the lapse performs nothing; a fetch form and a WCREAD deliver EXPIRED (04 R112
step 3). -/
def Sys2Proof.Spec.LapsedEntriesPerform : Prop :=
  ∀ (s : State) i e va, let n := e.agent
    let expired (q : BitVec 4) (ks : List Nat) : Arrival :=
      { agent := n, owner := e.owner, q := q, entry := (0x800000000000000B#64).setWidth 4096, pitches := ks, owed := true, dropped := false
        trap := none }
    atHome s i e → s.live n e.owner va = false →
    (∀ z v, z.addr = va → e.load = .cmd (.store [z] v) →
      ∃ t, exec (.perform i) s = .next t ∧ t.mem = s.mem ∧ t.arrivals = s.arrivals ∧ t.transit = s.transit.eraseIdx i) ∧
    (∀ op wide v v2 q, e.load = .cmd (.atomic op wide va v v2 (some q)) →
      ∃ t, exec (.perform i) s = .next t ∧ t.mem = s.mem ∧ t.arrivals = s.arrivals ++ [expired q []]) ∧
    (∀ fmt x, e.load = .cmd (.wcAdd va fmt x) → ∃ t, exec (.perform i) s = .next t ∧ t.mem = s.mem ∧ t.wcStatus = s.wcStatus) ∧
    (∀ q ks y, e.load = .cmd (.wcRead va q ks y) →
      ∃ t, exec (.perform i) s = .next t ∧ t.mem = s.mem ∧ t.arrivals = s.arrivals ++ [expired q ks])

/-- A wide cell after an add of a value (06 R151): the exact sum at 2^-192, held at the ends of its range, and the status bits of NaN, the
infinities and overflow. -/
def Sys2Proof.Spec.cellAfter (v : BitVec 512) (st : Byte) (x : Machine.Num) : BitVec 512 × Byte :=
  match x with
  | .nan => (v, st ||| 2)
  | .inf neg => (v, st ||| (if neg then 8 else 4))
  | .fin neg m e =>
    let w : Int := v.toInt + (if neg then -1 else 1) * (m * 2 ^ (e + 192).toNat : Nat)
    if 2 ^ 511 - 1 < w then (BitVec.ofInt 512 (2 ^ 511 - 1), st ||| 1)
    else if w < -(2 ^ 511) then (BitVec.ofInt 512 (-(2 ^ 511)), st ||| 1)
    else (BitVec.ofInt 512 w, st)

/-- PERFORM of the wide-cell commands (06 R150–R152, 09 R216): an add changes the cell's 64 bytes and its status as R151 says, and no other
byte; a read delivers the value of R152 in lane 0 and the status in lane 1. -/
def Sys2Proof.Spec.WideCellsPerform : Prop :=
  ∀ (s : State) i e va, let n := e.agent
    let y := s.storage n e.owner.pasid va.toNat
    atHome s i e → s.quarantined = [] → s.live n e.owner va = true → va.toNat % 64 = 0 → regionOf va.toNat = .rented →
    (∀ fmt x, (fmt = 0x00 ∨ fmt = 0x01 ∨ isBinary8 fmt = true) → s.vaPoison n e.owner.pasid va.toNat 64 = none →
      e.load = .cmd (.wcAdd va fmt x) →
      let c := cellAfter (BitVec.ofNat 512 (s.mem.num y 64)) (Tab.get 0 s.wcStatus y) (fmtNum fmt (x.toNat % 2 ^ fmtBits fmt))
      ∃ t, exec (.perform i) s = .next t ∧ t.transit = s.transit.eraseIdx i ∧ t.mem.num y 64 = c.1.toNat ∧
        Tab.get 0 t.wcStatus y = c.2 ∧ (∀ z, (z < y ∨ y + 64 ≤ z) → t.mem.read z = s.mem.read z)) ∧
    (∀ q ks z, poisonedAt s z 64 = none → e.load = .cmd (.wcRead va q ks z) →
      let c : Wide := { v := BitVec.ofNat 512 (s.mem.num z 64), st := Tab.get 0 s.wcStatus z }
      ∃ t, exec (.perform i) s = .next t ∧ t.mem = s.mem ∧ t.wcStatus = s.wcStatus ∧ t.arrivals = s.arrivals ++ [{
        agent := n, owner := e.owner, q := q, entry := BitVec.ofNat 4096 (c.read.toNat + 2 ^ 32 * c.st.toNat), pitches := ks, owed := true
        dropped := false, trap := none }])

/-- PERFORM of an XARM, and the firing of an arm counter (16 R332, R333, R339): THRESH, EVEN and AGENT are the fields of the operand, ARMED is
set, FIRED and EXPIRED are clear, and COUNT is 0 where the operand says so; a counter whose COUNT has reached THRESH fires at once: FIRED
takes the place of ARMED, every entry that waits on it is handed over, and with EVEN an event leaves the VOP for AGENT. -/
def Sys2Proof.Spec.ArmCounterFires : Prop :=
  ∀ (s : State) i e va x, let n := e.agent
    let y := s.storage 0 none va.toNat
    let count := if x.getLsbD 28 then 0 else s.mem.num y 8 % 2 ^ 28
    let thresh := (x.extractLsb' 0 28).toNat
    let agent := (x.extractLsb' 32 9).toNat
    let even := if x.getLsbD 29 then 1 else 0
    atHome s i e → e.load = .cmd (.xarm va x) → s.quarantined = [] → s.live n e.owner va = true → va.toNat % 16 = 0 →
    regionOf va.toNat = .rented →
    ∃ t, exec (.perform i) s = .next t ∧
      (thresh ≤ count → ∀ w ∈ t.work, (trigOf w.entry).toNat = va.toNat → w.handed = true) ∧
      ((∀ w ∈ s.work, w.handed = true ∨ (trigOf w.entry).toNat ≠ va.toNat) →
        (if x.getLsbD 28 then t.mem.num y 8 = 0 else t.mem.num y 8 = s.mem.num y 8) ∧
        t.mem.num (y + 8) 8 = thresh + (if thresh ≤ count then 2 ^ 29 else 2 ^ 28) + 2 ^ 31 * even + 2 ^ 32 * agent ∧
        (∀ z, (z < y ∨ y + 16 ≤ z) → t.mem.read z = s.mem.read z) ∧
        Tab.get none t.arms (va.toNat / 16) = some (e.owner.account, e.owner.context) ∧
        t.transit = s.transit.eraseIdx i ++ (if thresh ≤ count ∧ x.getLsbD 29 = true ∧ agent < 312 then [{
          agent := 312, owner := { account := e.owner.account, context := e.owner.context, pasid := none, tslot := 0, ts := 0, j := 0 }, seq := 0
          load := .cmd (.event (BitVec.ofNat 64 agent)), passed := .vop
          route := [.dop (dieOf agent), .lop (loomOf agent), .agent agent], home := .agent agent }] else []))

/-- DEPART of an element access of an engine operation (10 R226, R228 M7, 09 R211): it enters the route to its home from the agent's LOP, one
entry for each home of its bytes; the first in index order that does not translate stops the operation with TRANSLATION. Nothing orders the
reads but the steps of a slot operation; a write waits for everything ahead of it that may still stop the operation. A step begins once what
is before it is done; of a splice's rotation, a darning's judgement and a read made in parts, once what they need has been read, the rest
follows (11 R252, R254). -/
def Sys2Proof.Spec.ElementsDepart : Prop :=
  ∀ (s : State) (k : BitVec 9) c j r i m, let n := k.toNat
    s.running = [r] → r.agent = n → r.op.ctx = c → r.todo[j]? = some (i, m) →
    let rest := r.todo.eraseIdx j
    let runs (x : Running) : Prop := exec (.depart k (.element c j)) s = .next { s with running := [x] }
    (∀ p len, m.place = some (p, len) → s.mayEnter r j = true →
      (s.firstFault n r.owner (r.todo.take (j + 1)) = none →
        let parts := s.partsOf n r.owner.pasid p len
        let enters (todo : List (Nat × Micro)) (ms : List (Point × Micro)) : Prop := exec (.depart k (.element c j)) s = .next { s with
          running := [{ r with todo := todo }]
          transit := s.transit ++ ms.map (fun x => { agent := n, owner := r.owner, seq := r.seq, load := .element c i x.2
                                                     passed := .lop (loomOf n), route := (routeTo n x.1).tail, home := x.1 }) }
        let key (l : Nat) : Nat := 2 * (64 * i + l) + 1
        (∀ h o l, parts = [(h, o, l)] → enters rest [(h, m)]) ∧
        (parts.length ≠ 1 → ∀ dst bs, m.writes = some (dst, bs) →
          enters rest (parts.map (fun x => (x.1, .put (dst.shift x.2.1) ((bs.drop x.2.1).take x.2.2))))) ∧
        (parts.length ≠ 1 → m.writes = none →
          enters (insertAt i [.join m ((List.range parts.length).map key)] rest)
            (parts.zipIdx.map (fun x => (x.1.1, .keep (p.shift x.1.2.1) x.1.2.2 (key x.2)))))) ∧
      (∀ l x, s.firstFault n r.owner (r.todo.take (j + 1)) = some (l, x) →
        ∃ t, exec (.depart k (.element c j)) s = .next t ∧ t.mem = s.mem ∧ t.agents = s.agents ∧
          t.running = [{ r with todo := r.todo.filter (fun y => decide (y.1 < l)), status := 0x05, faddr := x, sub := false }])) ∧
    (m.reads ≠ none → (∀ x ∈ r.todo.take j, x.2 ≠ .gate true) → s.mayEnter r j = true) ∧
    (m.reads = none → m.place ≠ none → (∃ x ∈ r.todo.take j, x.2.isPut = false) → exec (.depart k (.element c j)) s = .next s) ∧
    (let spent (ks : List Nat) := r.kept.filter (fun y => !ks.contains y.1)
      let has (x : Nat) : Prop := ∃ y ∈ r.kept, y.1 = x
      (∀ u, m = .turn u → has u.even → has u.odd →
        runs { r with todo := insertAt i (u.puts r.kept) rest, kept := spent [u.even, u.odd] }) ∧
      (∀ src dst l ks, m = .join (.copy src dst l) ks → (∀ x ∈ ks, has x) →
        runs { r with todo := insertAt i [.put dst (ks.flatMap (keptAt r.kept))] rest, kept := spent ks }) ∧
      (∀ full, m = .gate full → j = 0 → (∀ y ∈ s.flying n c, i ≤ y.1) → runs { r with todo := rest }) ∧
      (∀ d slot b0 l len, m = .judge d slot b0 l len → j = 0 → (∀ y ∈ s.flying n c, i ≤ y.1) →
        runs { r with todo := rest ++ (judged r.op d slot b0 l len r.kept).zipIdx.map (fun y => (i + y.2, y.1)), kept := [] }) ∧
      (((∃ full, m = .gate full) ∨ ∃ d slot b0 l len, m = .judge d slot b0 l len) → (j ≠ 0 ∨ ∃ y ∈ s.flying n c, y.1 < i) →
        exec (.depart k (.element c j)) s = .next s))

/-- PERFORM of an element access (10 R228 M6, R233, 09 R211, R219, R220, 08 R203, 11 R252, R254): a write puts its bytes at its place and no
other byte of memory changes; of a copy, gather, scatter, splice or darning the bytes that an element reads are written next or kept for
the rotation, the judgement or the rest of a read made in parts; of a compressed weight block element j is the dictionary byte that code j
names. Poison stops the operation with the lowest poisoned address of the whole read. -/
def Sys2Proof.Spec.ElementPerforms : Prop :=
  ∀ (s : State) i e c x m r, let n := e.agent
    let q := e.owner.pasid
    atHome s i e → e.load = .element c x m → s.running = [r] → r.agent = n → r.owner = e.owner → r.op.ctx = c →
    (∀ d bs, m = .put d bs → s.quarantined = [] →
      (d.tier.toNat ≤ 3 ∨ (regionOf d.addr.toNat = .rented ∧ d.addr.toNat % 4096 + bs.length ≤ 4096)) →
      let y := s.spotAddr n q d
      ∃ t, exec (.perform i) s = .next t ∧ t.running = s.running ∧ t.transit = s.transit.eraseIdx i ∧
        (∀ j, j < bs.length → t.mem.read (y + j) = bs.getD j 0) ∧
        ∀ z, (z < y ∨ y + bs.length ≤ z) → t.mem.read z = s.mem.read z) ∧
    (∀ p len, m.reads = some (p, len) →
      (let stops (f : W64) : Prop := ∃ t, exec (.perform i) s = .next t ∧ t.mem = s.mem ∧
          t.running = [{ r with todo := r.todo.filter (fun y => decide (y.1 < x)), status := 0x06, faddr := f, sub := false }]
        let part := ∃ src k key, m = .keep src k key ∧ key % 2 = 1
        (∀ f, ¬ part → s.spotPoison n q p len = some f → stops f) ∧
        ∀ src k key w z l f, m = .keep src k key → key % 2 = 1 → r.partOf key = some w → w.reads = some (z, l) →
          s.spotPoison n q p len ≠ none → s.spotPoison n q z l = some f → stops f) ∧
      (s.spotPoison n q p len = none →
        let bs := s.spotBytes n q p len
        let adds (ms : List Micro) : Prop := ∃ t, exec (.perform i) s = .next t ∧ t.mem = s.mem ∧ t.transit = s.transit.eraseIdx i ∧
          t.running = [{ r with todo := insertAt x ms r.todo }]
        (∀ src dst k, m = .copy src dst k → adds [.put dst bs]) ∧
        (∀ src dst, m = .entry src dst → adds [.put dst (bytesOfNat 16 (setField (natOfBytes bs) 111 1 0))]) ∧
        (∀ y dev wm, m = .amend y dev wm → adds [.put (vaSpot y) (bytesOfNat 16 (setField (amended (natOfBytes bs) dev wm) 111 1 0))]) ∧
        (∀ src k key, m = .keep src k key → ∃ t, exec (.perform i) s = .next t ∧ t.mem = s.mem ∧
          t.running = [{ r with kept := r.kept ++ [(key, bs)] }]) ∧
        (∀ src dsts bf16, m = .dict src dsts bf16 → dsts.length ≤ 2 * (bs.length - 16) → ∃ ms, adds ms ∧ ms.length = dsts.length ∧
          ∀ j d, dsts[j]? = some d →
            let code := (bs.getD (16 + j / 2) 0).toNat / (if j % 2 = 0 then 1 else 16) % 16
            ms[j]? = some (.put { tier := 2, addr := d } (if bf16 then [0, bs.getD code 0] else [bs.getD code 0])))))

/-- The tag check of a block (11 R248, R249, R257): an entry of a document is compared with the registry, and is current where the registry's
entry holds its DOC and VER. A stale block, or one that is out of date, stops the operation with STALEBLOCK once its entry is marked, where
the context may write it (log 72); an incomplete one stops it with UNREPAIRED in strict mode and is noted PARTIAL else, unless a later
element has stopped the operation before. The mark writes the entry with STALE set and changes no other byte of memory. -/
def Sys2Proof.Spec.TagChecks : Prop :=
  ∀ (s : State) i e c x elem entry layer strict reg count write r, let n := e.agent
    let q := e.owner.pasid
    let entryAt (a : W64) : Nat := natOfBytes (s.spotBytes n q (vaSpot a) 16)
    atHome s i e → s.running = [r] → r.agent = n → r.owner = e.owner → r.op.ctx = c →
    let gives (z : Running) : Prop := ∃ t, exec (.perform i) s = .next t ∧ t.mem = s.mem ∧ t.running = [z]
    let stopped (st : Byte) : Running := { r with todo := r.todo.filter (fun y => decide (y.1 < x)), status := st, faddr := elem, sub := false }
    let stale (ent : Nat) : Prop := gives (if write then { r with todo := insertAt x [.stale elem entry (setField ent 110 1 1)] r.todo }
      else stopped 0x0B)
    let complete (ent : Nat) : Prop := ent.testBit 109 = false ∨ layer ≤ ent / 2 ^ 100 % 2 ^ 8
    let judges (ent : Nat) : Prop := (complete ent → gives r) ∧ (¬ complete ent → strict = true → gives (stopped 0x0C)) ∧
      (¬ complete ent → strict = false → gives (if r.status = 0 then { r with status := 0x09 } else r))
    (e.load = .element c x (.tag elem entry layer strict reg count write) → s.spotPoison n q (vaSpot entry) 16 = none →
      let ent := entryAt entry
      (ent.testBit 110 = true → stale ent) ∧
      (ent.testBit 110 = false → ent.testBit 108 = true →
        gives { r with todo := insertAt x [.look elem entry layer strict (regEntry reg count (ent % 2 ^ 48)) ent write] r.todo }) ∧
      (ent.testBit 110 = false → ent.testBit 108 = false → judges ent)) ∧
    (∀ a ent, e.load = .element c x (.look elem entry layer strict a ent write) → s.spotPoison n q (vaSpot a) 16 = none →
      let current := entryAt a % 2 ^ 80 = ent % 2 ^ 80
      (¬ current → stale ent) ∧ (current → judges ent)) ∧
    (∀ v, e.load = .element c x (.stale elem entry v) → s.quarantined = [] → regionOf entry.toNat = .rented → entry.toNat % 4096 + 16 ≤ 4096 →
      let y := s.storage n q entry.toNat
      ∃ t, exec (.perform i) s = .next t ∧ t.running = [stopped 0x0B] ∧ t.mem.num y 16 = setField v 111 1 0 % 2 ^ 128 ∧
        ∀ z, (z < y ∨ y + 16 ≤ z) → t.mem.read z = s.mem.read z)

/-- The fall of INFLIGHT of pitch `d` by one (04 R102, R109, R111): above 1 it is one less and nothing else changes; as it reaches 0 a pitch
without SYNC in overstay lapses, a leased one that its task's end has left is vacated with the refund of that moment, and any other stays
in its state. A tick that the pitch began with INFLIGHT above 0, at or past its end, is charged first at the double rate where it is not
charged yet. Every other pitch stays. -/
def Sys2Proof.Spec.falls (s t : State) (d : Nat) : Prop :=
  let p := s.pitch d
  let c := s.account p.account
  let late := s.expiryDue d = true ∨ (p.state = .overstay ∧ p.lapsedAt < s.now.toNat)
  let x := 2 * p.length * p.rate
  (∀ k, k ≠ d → t.pitch k = s.pitch k) ∧
  (late → p.inflight ≠ 0 →
    (t.pitch d).charged = p.charged + x ∧ (t.pitch d).inflight = p.inflight - 1 ∧ (t.pitch d).lapsedAt = s.now.toNat ∧
      (t.pitch d).state = (if p.inflight = 1 then .lapsed else .overstay) ∧
      (-(2 ^ 63) ≤ c.committed.toInt - x → (t.account p.account).committed.toInt = c.committed.toInt - x) ∧
      (c.overstay.toNat + x < 2 ^ 64 → (t.account p.account).overstay.toNat = c.overstay.toNat + x)) ∧
  (¬ late →
  (p.inflight ≠ 1 ∨ (p.state ≠ .overstay ∧ (p.state ≠ .leased ∨ p.vacWhenIdle = false)) →
    t.pitch d = { p with inflight := p.inflight - 1 } ∧ t.account p.account = c) ∧
  (p.inflight = 1 → p.state = .overstay → p.att.getLsbD 0 = false →
    t.pitch d = { p with
      inflight := 0, state := .lapsed, lapsedAt := s.now.toNat, endedSubs := p.subs, subs := [], vacWhenIdle := false, drained := false
      tentBy := none } ∧ t.account p.account = c) ∧
  (p.inflight = 1 → p.state = .leased → p.vacWhenIdle = true →
    let r := (p.paid - s.now.toNat - 1) * p.length * p.rate
    (t.pitch d).state = .scrubbing ∧ (t.pitch d).inflight = 0 ∧ (t.pitch d).subs = [] ∧
      (c.committed.toInt + r < 2 ^ 63 → (t.account p.account).committed.toInt = c.committed.toInt + r)))

/-- ARRIVE and COMPLETE of a load or an operation that holds a pitch: its INFLIGHT falls (04 R102, R109, R111). -/
def Sys2Proof.Spec.InflightFalls : Prop :=
  ∀ (s : State) d, ((s.pitch d).att.getLsbD 0 = false ∨
      ((s.pitch d).state ≠ .overstay ∧ s.expiryDue d = false ∧ (s.pitch d).drained = false)) →
    (∀ i x, s.arrivals[i]? = some x → x.parts = 0 → x.pitches = [d] → (x.dropped = true ∨ x.trap = none) →
      ∃ t, exec (.arrive i) s = .next t ∧ falls s t d) ∧
    (∀ (k : BitVec 9) c r, s.runningOn k.toNat c = some r → r.todo = [] → s.flying k.toNat c = [] → r.pitches = [d] →
      ∃ t, exec (.complete k c) s = .next t ∧ falls s t d)

/-- ARRIVE (10 R228 M9, 03 R86, R89): an entry of which every part has performed enters its queue; a load's reservation becomes held, an owed
entry is owed no longer and is kept for a restore; a load that a restore has dropped leaves nothing; poison traps (14 R314). -/
def Sys2Proof.Spec.EntriesArrive : Prop :=
  ∀ (s : State) i x, let n := x.agent
    let a := s.agent n
    s.arrivals[i]? = some x → x.pitches = [] →
    (x.parts ≠ 0 → exec (.arrive i) s = .next s) ∧
    (x.parts = 0 → x.dropped = true → ∃ t, exec (.arrive i) s = .next t ∧ t.arrivals = s.arrivals.eraseIdx i ∧ t.agent n = a) ∧
    (x.parts = 0 → x.dropped = false → s.runs n x.owner = true → x.trap = none →
      ∃ t, exec (.arrive i) s = .next t ∧ t.arrivals = s.arrivals.eraseIdx i ∧ t.mem = s.mem ∧
        (t.agent n).queue x.q = a.queue x.q ++ [x.entry] ∧ (∀ q, q ≠ x.q → (t.agent n).queue q = a.queue q) ∧
        (∀ m, m ≠ n → t.agent m = s.agent m) ∧
        (x.owed = false → Tab.get 0 (t.agent n).resv x.q.toNat = Tab.get 0 a.resv x.q.toNat - 1) ∧
        (x.owed = true → Tab.get 0 (t.agent n).owed x.q.toNat = Tab.get 0 a.owed x.q.toNat - 1 ∧
          (t.agent n).arrived = a.arrived ++ [(x.q, x.entry)])) ∧
    (∀ c f, x.parts = 0 → x.dropped = false → s.runs n x.owner = true → x.trap = some (c, f) → exec (.arrive i) s =
      .next (traps (State.setAgent { s with arrivals := s.arrivals.eraseIdx i } n (a.arrive x.owed x.q x.entry)) n c 0 0 f))

/-- START and DARNC_START (09 R207, R211, 10 R239, 11 R255, R256): an operation leaves the ECB and runs as its checks plan it, its accesses
numbered in index order, or ends with the status of the first check that fails; its pitches' INFLIGHT rises. An operation that a marker, its
context or its slot holds stays. -/
def Obligations.OperationsStart : Prop :=
  ∀ (s : State) (k : BitVec 9) c j h e, let n := k.toNat
    let ecb := (s.agent n).ecb
    let i : Instr := if e.op = 0x17 then .darncStart k c else .start k c
    nextOp c ecb = some (j, h, e) → c ≠ 7 →
    ((openTo ecb j = false ∨ s.ctxBusy n c = true ∨ s.slotBusy (s.slotHeader n h.owner e) = true ∨
      (e.op = 0x17 ∧ s.doneBefore n h.seq = false)) → exec i s = .next s) ∧
    (openTo ecb j = true → s.ctxBusy n c = false → s.slotBusy (s.slotHeader n h.owner e) = false →
      (e.op = 0x17 → s.doneBefore n h.seq = true) →
      ∃ t r, exec i s = .next t ∧ (t.agent n).ecb = ecb.eraseIdx j ∧
        t.running = s.running ++ [r] ∧ r.agent = n ∧ r.owner = h.owner ∧ r.op = e ∧ r.seq = h.seq ∧ t.mem = s.mem ∧
        match (s.leaveEcb n j).planOf n h.owner e with
        | .ok p => r.todo = p.todo.zipIdx.map (fun x => (x.2, x.1)) ∧ r.status = p.status ∧ r.pitches = s.pitchesTouched n p.touched ∧
            ∀ d, (t.pitch d).inflight = (s.pitch d).inflight + r.pitches.count d
        | .error x => r.todo = [] ∧ r.status = x.status ∧ r.faddr = x.faddr ∧ t.pitches = s.pitches)

/-- What an element copy of XCOPY and a fill of XFILL plan (09 R218, R219): the elements in index order. -/
def Sys2Proof.Spec.CopyAndFillPlans : Prop :=
  ∀ (s : State) n w e p,
    (e.op = 0x10 → e.src.flags = 0 → s.planOf n w e = .ok p →
      e.dst.fmt = e.src.fmt ∧ e.dst.count = e.src.count ∧
        p.todo = (e.src.spots.zip e.dst.spots).map (fun z => .copy z.1 z.2 (elemBytes e.src.fmt))) ∧
    (e.op = 0x13 → s.planOf n w e = .ok p → p.todo = e.dst.spots.map (fun z => .put z (bytesOf e.s (elemBytes e.dst.fmt))))

/-- COMPLETE (09 R205, R208, R212, R221): COUNT is the operation's number, FAILS, LASTF and LASTST follow its status, the first faulting
completion is recorded, and a request that COUNT has reached makes a note pending. -/
def Obligations.OperationsComplete : Prop :=
  ∀ (s : State) (k : BitVec 9) c r, let n := k.toNat
    let a := s.agent n
    let slot := r.owner.tslot.toNat
    let x := a.ctx slot c.toNat
    s.runningOn n c = some r → r.todo = [] → s.flying n c = [] → r.pitches = [] →
    ∃ t, exec (.complete k c) s = .next t ∧ t.running = s.running.filter (fun z => z ≠ r) ∧
      (s.runs n r.owner = true → t.mem = s.mem) ∧
      let y := (t.agent n).ctx slot c.toNat
      y.count = r.op.num.setWidth 56 ∧ y.lastst = r.status ∧ y.lastf = decide (r.status ≠ 0) ∧
        (r.status = 0 → y.fails = x.fails ∧ y.frec = x.frec) ∧ (r.status ≠ 0 → x.fails ≠ 127 → y.fails = x.fails + 1) ∧
        (faulting r.status = true → x.frec = none →
          y.frec = some { num := r.op.num, status := r.status, addr := r.faddr, sub := r.sub }) ∧
        (s.runs n r.owner = true → Tab.get 0 a.r.noteReq c.toNat ≠ 0 → (Tab.get 0 a.r.noteReq c.toNat).toNat ≤ r.op.num.toNat →
          Tab.get 0 (t.agent n).r.noteReq c.toNat = 0 ∧
            Tab.get none (t.agent n).r.notes c.toNat = some { num := r.op.num, status := r.status })

/-- ENTRY_READ (16 R335, R340, 13 R296): XQP withholds the entry that it read; XMBOX reserves a mailbox slot, or answers BUSY where all
sixteen are taken and NOMASTER where the die's master holds no task of the account; XLAUNCH withholds a header that passes its checks, with
the partition, class and rent window of the conductor, else it answers the first failing code and withholds nothing. A command turned away
does not count. Poison in the 64 bytes traps in slot 7 (14 R314); a read of them is an access like any other (04 R114, 14 R310). -/
def Obligations.EntryReads : Prop :=
  ∀ (s : State) (k : BitVec 9) va, let n := k.toNat
    let a := s.agent n
    let e := s.entryAt n a.who.pasid va
    let poison := s.vaPoison n a.who.pasid va.toNat 64
    let box := Tab.get [] s.mailbox (dieOf n)
    let read := s.touchVa n a.who.pasid va.toNat 64
    let refused (d : BitVec 5) (cyc : Nat) (c : W64) : Prop := exec (.entryRead k) s = .next (read.setAgent n { a with
      stall := .none, cmds := a.cmds - 1, flight := a.flight ++ [{ due := cyc + 1, res := .s d (0x8000000000000000#64 ||| c) }] })
    ((∃ qp, a.stall = .xqp va qp) ∨ (∃ d cyc, a.stall = .xmbox va d cyc) ∨ (∃ d cyc, a.stall = .xlaunch va d cyc) →
      ∀ p, poison = some p → exec (.entryRead k) s = .next (traps s n 0x11 7 0 (BitVec.ofNat 64 p))) ∧
    (poison = none →
      (∀ qp, a.stall = .xqp va qp →
        exec (.entryRead k) s = .next (read.setAgent n { a with stall := .none, wb := a.wb ++ [.xqp e qp] })) ∧
      (∀ d cyc, a.stall = .xmbox va d cyc →
        (16 ≤ box.length → refused d cyc 1) ∧
        (box.length < 16 → s.masterHolds (dieOf n) a.who.account = false → refused d cyc 2) ∧
        (box.length < 16 → s.masterHolds (dieOf n) a.who.account = true →
          ∃ t, exec (.entryRead k) s = .next t ∧ (t.agent n).stall = .none ∧ (t.agent n).cmds = a.cmds ∧
            (t.agent n).flight = a.flight ++ [{ due := cyc + 1, res := .s d 0 }] ∧
            ∃ slot, Tab.get [] t.mailbox (dieOf n) = box ++ [slot] ∧ slot.agent = n ∧ slot.account = a.who.account ∧ slot.req = none ∧
              (t.agent n).wb = a.wb ++ [.xmbox (BitVec.ofNat 2 (dieOf n)) slot.order e])) ∧
      (∀ d cyc, a.stall = .xlaunch va d cyc →
        let c1 := e.extractLsb' 57 7 ≠ 0 ∨ e.extractLsb' 104 24 ≠ 0 ∨ e.extractLsb' 448 64 ≠ 0 ∨ hdrKind e ≠ 0
        let c2 := 11 < hdrRank e
        let c3 := hdrAccount e ≠ a.who.account ∨ hdrContext e ≠ a.who.context
        let c4 := hdrPc e = 0 ∨ hdrPc e &&& 31 ≠ 0
        (c1 → refused d cyc 1) ∧ (¬ c1 → c2 → refused d cyc 2) ∧ (¬ c1 → ¬ c2 → c3 → refused d cyc 3) ∧
          (¬ c1 → ¬ c2 → ¬ c3 → c4 → refused d cyc 4) ∧
          (¬ c1 → ¬ c2 → ¬ c3 → ¬ c4 → ∀ u, Tab.get none s.tasksets a.who.ts = some u →
            exec (.entryRead k) s = .next (read.setAgent n { a with
              stall := .none, wb := a.wb ++ [.xlaunch { hdr := e, part := u.part, cls := u.cls, rentwin := u.rentwin }]
              flight := a.flight ++ [{ due := cyc + 1, res := .s d 0 }] }))))

/-! ## The statements: Genay -/

/-- GENAY_REPLY and RENT_SCRUB_WAIT for a RENT that passes every check (04 R98, R101, R105, R116, R117): the pitch stands tentative for its
core where Genay places it, its storage reads zero, the charge is held on the account, the operation is withheld, and the base lands one
issue cycle after the bundle. -/
def Obligations.RentGranted : Prop :=
  ∀ (s : State) (k : BitVec 9) (base : BitVec 57) r b d i, let n := k.toNat
    let a := s.agent n
    let w := a.who
    let tier := r.tier.toNat
    let len := roundUp tier r.x.toNat
    let rate := (s.rates.at tier).toNat
    let cost := len * rate * r.y.toNat
    a.stall = .genay r → r.op = 0x20 → (i = .genayReply k base ∨ i = .rentScrubWait k base) →
    0 < r.x.toNat → r.x.toNat ≤ largestPitch tier → 0 < r.y.toNat → r.y.toNat < 2 ^ 48 → s.now.toNat + r.y.toNat < 2 ^ 63 → cost < 2 ^ 63 →
    (tier ≤ 2 → n < 288) → s.insolvent w.account = false → s.heldBy w.account < 65536 → s.inUse < 262144 →
    a.wait ≠ .uiret → a.wait ≠ .eret →
    s.place tier n len base.toNat = some b → s.freshPitch = some d → s.cannotPay n w.account cost = false →
    ∃ t, exec i s = .next t ∧
      (let p := t.pitch d
       p.state = .tentative ∧ p.tentBy = some n ∧ p.account = w.account ∧ p.context = w.context ∧ p.tier = r.tier ∧ p.att = r.att ∧
         p.base = b ∧ p.length = len ∧ p.paid = s.now.toNat + r.y.toNat ∧ p.rate = rate ∧ p.inflight = 0 ∧ p.subs = []) ∧
      (t.account w.account).hold = (s.account w.account).hold + cost ∧
      (t.account w.account).committed = (s.account w.account).committed ∧
      (t.agent n).wb = a.wb ++ [.rent (.rent d cost)] ∧ (t.agent n).stall = .none ∧
      (t.agent n).flight = a.flight ++ [{ due := r.cyc + 1, res := .s r.d (BitVec.ofNat 64 b) }] ∧
      (∀ j, j < len → t.mem.read (tierAddr tier (unitOf tier n) (b + j)) = 0)

/-- The refusals of a RENT in their order (04 R98, R104, R116–R118): LIMIT, TIER, INSOLVENT, NOSPACE, INSUFFICIENT. The status lands in the
output register, and no pitch and no account changes. Without a place the RENT waits where storage that is being scrubbed would satisfy it. -/
def Obligations.RentRefused : Prop :=
  ∀ (s : State) (k : BitVec 9) (base : BitVec 57) r, let n := k.toNat
    let a := s.agent n
    let w := a.who
    let tier := r.tier.toNat
    let len := roundUp tier r.x.toNat
    let cost := len * (s.rates.at tier).toNat * r.y.toNat
    let bad := r.x.toNat = 0 ∨ largestPitch tier < r.x.toNat ∨ r.y.toNat = 0 ∨ 2 ^ 48 ≤ r.y.toNat ∨ 2 ^ 63 ≤ s.now.toNat + r.y.toNat ∨
      2 ^ 63 ≤ cost
    let ctl := tier ≤ 2 ∧ 288 ≤ n
    let full := 65536 ≤ s.heldBy w.account ∨ 262144 ≤ s.inUse
    let status (c : Byte) : Prop := exec (.genayReply k base) s = .next (s.setAgent n { a with
      stall := .none, allow := s.allowance w.account
      flight := a.flight ++ [{ due := r.cyc + 1, res := .s r.d (0x8000000000000000#64 ||| c.setWidth 64) }] })
    a.stall = .genay r → r.op = 0x20 → a.wait ≠ .uiret → a.wait ≠ .eret →
    (bad → status 0x0A) ∧ (¬ bad → ctl → status 0x07) ∧ (¬ bad → ¬ ctl → (s.account w.account).committed.toInt < 0 → status 0x02) ∧
      (¬ bad → ¬ ctl → 0 ≤ (s.account w.account).committed.toInt → full → status 0x03) ∧
      (¬ bad → ¬ ctl → 0 ≤ (s.account w.account).committed.toInt → ¬ full → s.place tier n len base.toNat = none →
        let scrubbed : State := { s with pitches := s.pitches.filter (fun x => decide (x.2.state ≠ .scrubbing)) }
        (scrubbed.place tier n len 0 = none → status 0x03) ∧
          ((scrubbed.place tier n len 0).isSome = true → exec (.genayReply k base) s = .next s)) ∧
      (¬ bad → ¬ ctl → 0 ≤ (s.account w.account).committed.toInt → ¬ full → (s.place tier n len base.toNat).isSome = true →
        s.freshPitch.isSome = true → s.cannotPay n w.account cost = true → status 0x01)

/-- The replies that only read (04 R97, R117): ALLOWQ answers the available allowance, committed less held, RENTQ PAID_UNTIL of an own pitch
that has not lapsed, with the core's own tentative extensions (04 R106). A UIRET of the bundle that waited for the answer returns with it
(02 R50, R69). -/
def Sys2Proof.Spec.RentQueries : Prop :=
  ∀ (s : State) (k : BitVec 9) (base : BitVec 57) r, let n := k.toNat
    let a := s.agent n
    let c := s.account a.who.account
    let after (v : W64) : State := s.setAgent n { a with
      stall := .none, allow := s.allowance a.who.account, flight := a.flight ++ [{ due := r.cyc + 1, res := .s r.d v }] }
    a.stall = .genay r →
    (-2 ^ 63 ≤ c.committed.toInt - c.hold → s.allowance a.who.account = BitVec.ofInt 64 (c.committed.toInt - c.hold)) ∧
      (a.wait ≠ .uiret → a.wait ≠ .eret →
        (r.op = 0x26 → exec (.genayReply k base) s = .next (after (s.allowance a.who.account))) ∧
        (∀ d p, r.op = 0x25 → (r.tier.toNat ≤ 2 → n < 288) → s.holding n r.tier.toNat r.x.toNat = .own d p → s.lapsedFor d p = false →
          exec (.genayReply k base) s = .next (after (BitVec.ofNat 64 (s.paidFor n d))))) ∧
      (r.op = 0x26 → a.wait = .uiret → s.members n = [n] → ∃ t, exec (.genayReply k base) s = .next t ∧
        let u := (after (s.allowance a.who.account)).drain n
        t.agent n = { u.agent n with
            mode := .task, hbundles := 0
            wait := if a.resume = 0 then .ckpt false true (u.agent n).r.pc else .none
            r := { (u.agent n).r with pc := a.resume } } ∧
          (∀ x, t.mem.read x = u.mem.read x) ∧ (∀ m, m ≠ n → t.agent m = s.agent m))

/-- RENEW, PREPAY, SUBLET and VACATE of an own pitch (04 R102, R106, R113, R117): an extension holds the cost of the new ticks and is
withheld; a SUBLET of a range inside the pitch, in granules, and a VACATE are withheld. -/
def Sys2Proof.Spec.RentExtended : Prop :=
  ∀ (s : State) (k : BitVec 9) (base : BitVec 57) r d p, let n := k.toNat
    let a := s.agent n
    let w := a.who
    let old := s.paidFor n d
    let new := if r.op = 0x22 then old + r.y.toNat else max old (s.now.toNat + r.y.toNat)
    let cost := (new - old) * p.length * p.rate
    a.stall = .genay r → (r.tier.toNat ≤ 2 → n < 288) → s.holding n r.tier.toNat r.x.toNat = .own d p → s.lapsedFor d p = false →
    a.wait ≠ .uiret → a.wait ≠ .eret →
    ((r.op = 0x21 ∨ r.op = 0x22) → r.y.toNat < 2 ^ 48 → (r.op = 0x22 → r.y.toNat ≠ 0) → new < 2 ^ 63 → cost < 2 ^ 63 → new ≠ old →
      s.insolvent w.account = false → s.cannotPay n w.account cost = false →
      ∃ t, exec (.genayReply k base) s = .next t ∧ (t.account w.account).hold = (s.account w.account).hold + cost ∧
        (t.agent n).wb = a.wb ++ [.rent (if r.op = 0x22 then .prepay d cost r.y.toNat else .renew d cost (s.now.toNat + r.y.toNat))] ∧
        (t.agent n).flight = a.flight ++ [{ due := r.cyc + 1, res := .s r.d 0 }] ∧ t.pitches = s.pitches) ∧
    (let g := granule r.tier.toNat
     let count := (r.y.extractLsb' 26 30).toNat
     r.op = 0x23 → 2 < r.tier.toNat → r.y.extractLsb' 56 8 = 0 → r.x.toNat % g = 0 → r.x.toNat - p.base + count * g ≤ p.length → count ≠ 0 →
      (s.subletsFor n d).length < 4 →
      ∃ t, exec (.genayReply k base) s = .next t ∧ (t.agent n).wb = a.wb ++ [.rent (.sublet d (r.y.extractLsb' 0 10) (r.y.extractLsb' 10 16)
          ((r.x.toNat - p.base) / g) count (decide (r.att = 1)))] ∧
        (t.agent n).flight = a.flight ++ [{ due := r.cyc + 1, res := .s r.d 0 }] ∧ t.pitches = s.pitches) ∧
    (r.op = 0x24 → p.inflight = 0 →
      ∃ t, exec (.genayReply k base) s = .next t ∧ (t.agent n).wb = a.wb ++ [.rent (.vacate d)] ∧
        (t.agent n).flight = a.flight ++ [{ due := r.cyc + 1, res := .s r.d 0 }] ∧ t.pitches = s.pitches)

/-- A sum that the committed allowance, a signed 64-bit count, can hold (04 R95; outside it the value is free, log 60). -/
def Sys2Proof.Spec.counts64 (x : Int) : Prop := -(2 ^ 63) ≤ x ∧ x < 2 ^ 63

/-- RENT_COMMIT (04 R102, R106): a RENT is charged what it held and its pitch leased; a PREPAY is charged what it held and moves PAID_UNTIL;
a RENEW moves it to the later of PAID_UNTIL and its issue's now + n, charges the ticks gained and releases the rest of its hold; a SUBLET
gives its context the range, and one of length 0 ends it (R113); a VACATE refunds the ticks after the next and sends the pitch to scrubbing,
INFLIGHT notwithstanding. Of a pitch that its interval gave up, a RENT goes to scrubbing and an extension has no effect, and the hold is
released (R102, R117). A new sublet enters behind the others (log 62). -/
def Obligations.RentCommits : Prop :=
  ∀ (s : State) (k : BitVec 9) ts rest d, let n := k.toNat
    let p := s.pitch d
    let c := s.account p.account
    let has (op : RentOp) : Prop := s.commits = { agent := n, ts := ts, op := op } :: rest
    let pays (t : State) (h x : Nat) : Prop := (t.account p.account).hold = c.hold - h ∧
      (counts64 (c.committed.toInt - x) → (t.account p.account).committed.toInt = c.committed.toInt - x) ∧
      (c.charged.toNat + x < 2 ^ 64 → (t.account p.account).charged.toNat = c.charged.toNat + x)
    (∀ h, has (.rent d h) → p.state = .tentative → s.now.toNat < p.paid → h ≤ c.hold →
      ∃ t, exec (.rentCommit k) s = .next t ∧ t.commits = rest ∧ t.pitch d = { p with state := .leased, tentBy := none, charged := p.charged + h } ∧
        pays t h h) ∧
    (∀ h m, has (.prepay d h m) → p.state = .leased → s.now.toNat < p.paid → h ≤ c.hold →
      ∃ t, exec (.rentCommit k) s = .next t ∧ t.commits = rest ∧ t.pitch d = { p with paid := p.paid + m, charged := p.charged + h } ∧
        pays t h h) ∧
    (∀ h target, has (.renew d h target) → p.state = .leased → s.now.toNat < p.paid → h ≤ c.hold →
      let new := max p.paid target
      let cost := (new - p.paid) * p.length * p.rate
      ∃ t, exec (.rentCommit k) s = .next t ∧ t.commits = rest ∧ t.pitch d = { p with paid := new, charged := p.charged + cost } ∧
        pays t h cost) ∧
    (∀ acct ctx first count rw, has (.sublet d acct ctx first count rw) → p.state = .leased →
      let others := p.subs.filter (fun x => decide (¬(x.account = acct ∧ x.context = ctx)))
      others.length < 4 →
      ∃ t, exec (.rentCommit k) s = .next t ∧ t.commits = rest ∧ t.pitch d = { p with subs := others ++
        (if count = 0 then [] else [{ account := acct, context := ctx, rw := rw, first := first, count := count }]) }) ∧
    (has (.vacate d) → p.state = .leased →
      let r := (p.paid - s.now.toNat - 1) * p.length * p.rate
      ∃ t, exec (.rentCommit k) s = .next t ∧ t.commits = rest ∧ (t.pitch d).state = .scrubbing ∧ (t.pitch d).vacated = true ∧
        (t.pitch d).subs = [] ∧ (counts64 (c.committed.toInt + r) → (t.account p.account).committed.toInt = c.committed.toInt + r)) ∧
    (∀ h, has (.void d h) → p.state = .tentative → h ≤ c.hold →
      ∃ t, exec (.rentCommit k) s = .next t ∧ t.commits = rest ∧ (t.pitch d).state = .scrubbing ∧ (t.account p.account).hold = c.hold - h ∧
        (t.account p.account).committed = c.committed) ∧
    (∀ h, has (.drop d h) → h ≤ c.hold →
      ∃ t, exec (.rentCommit k) s = .next t ∧ t.commits = rest ∧ t.pitch d = p ∧ (t.account p.account).hold = c.hold - h ∧
        (t.account p.account).committed = c.committed)

/-- RENT_CLOCK_TICK (04 R96): once every step of this tick is done, the next tick begins; memory, agents, accounts and pitches stay. -/
def Sys2Proof.Spec.ClockTicks : Prop :=
  ∀ s : State, s.updateLate = false → (∀ e ∈ s.pitches, s.sweepDue e.1 = false) →
    (∀ e ∈ s.agents, s.owesTick e.1 = false ∧ s.owesStop e.1 = false) →
    (∀ e ∈ s.tasksets, ∀ u, e.2 = some u → s.drainDue u = false) →
    ∃ t, exec .rentClockTick s = .next t ∧ t.now = s.now + 1 ∧ t.mem = s.mem ∧ t.agents = s.agents ∧ t.accounts = s.accounts ∧
      t.pitches = s.pitches

/-- PITCH_EXPIRY and OVERSTAY_TICK (04 R102, R103): a leased pitch whose time has come lapses, with its sublets, where nothing accesses it;
else it overstays at the double rate, tick by tick. -/
def Sys2Proof.Spec.PitchesExpire : Prop :=
  ∀ (s : State) d, let p := s.pitch d
    let c := s.account p.account
    let x := 2 * p.length * p.rate
    let charges (t : State) : Prop := t.pitch d = { p with state := .overstay, charged := p.charged + x, lapsedAt := s.now.toNat } ∧
      (counts64 (c.committed.toInt - x) → (t.account p.account).committed.toInt = c.committed.toInt - x) ∧
      (c.overstay.toNat + x < 2 ^ 64 → (t.account p.account).overstay.toNat = c.overstay.toNat + x)
    (p.state = .leased → p.paid ≤ s.now.toNat → s.extensionPending d = false →
      (p.inflight = 0 → p.att.getLsbD 0 = false → ∃ t, exec (.pitchExpiry d) s = .next t ∧ t.pitch d = { p with
          state := .lapsed, lapsedAt := s.now.toNat, endedSubs := p.subs, subs := [], vacWhenIdle := false, drained := false
          tentBy := none } ∧
        t.mem = s.mem ∧ t.agents = s.agents ∧ t.accounts = s.accounts ∧ ∀ e, e ≠ d → t.pitch e = s.pitch e) ∧
      (p.inflight ≠ 0 → ∃ t, exec (.pitchExpiry d) s = .next t ∧ charges t)) ∧
    ((p.paid > s.now.toNat ∨ s.extensionPending d = true) → p.state = .leased → exec (.pitchExpiry d) s = .next s) ∧
    (p.state = .overstay → p.lapsedAt < s.now.toNat → ∃ t, exec (.overstayTick d) s = .next t ∧ charges t)

/-- The lapse of a SYNC pitch (04 R112): a core that polls a cell of it in TWAITA takes the expiry fault with the cell's address, 0x08 for the
owner's context and 0x09 for a sublessee; one in WFE of such a context receives an event; an arm counter in it is EXPIRED and no longer
ARMED; the work entries that wait on a counter in it complete EXPIRED. -/
def Sys2Proof.Spec.SyncPitchLapses : Prop :=
  ∀ (s : State) d, let p := s.pitch d
    let whose (m : Nat) : Option Byte :=
      let w := (s.agent m).who
      if w.account = p.account ∧ w.context = p.context then some 0x08
      else if p.subs.any (fun x => x.account == w.account && x.context == w.context) then some 0x09 else none
    p.state = .leased → p.paid ≤ s.now.toNat → s.extensionPending d = false → p.inflight = 0 → p.att.getLsbD 0 = true →
    s.quarantined = [] → (s.agents.map (·.1)).Nodup →
    ∃ t, exec (.pitchExpiry d) s = .next t ∧ (t.pitch d).state = .lapsed ∧ (t.pitch d).subs = [] ∧
      (∀ w ∈ s.work, w.handed = false → trigOf w.entry ≠ 0 → p.holds 4 0 (trigOf w.entry).toNat = true →
        { w with handed := true, received := true, cc := 0x01 } ∈ t.work) ∧
      (∀ m ∈ s.agents.map (·.1), (∀ z ∈ s.agents.map (·.1), z ≠ m → (s.agent z).wait ≠ .wfe ∧ ∀ va v, (s.agent z).wait ≠ .twaita va v) →
        (∀ va v c, (s.agent m).wait = .twaita va v → p.covers m va.toNat = true → whose m = some c → s.members m = [m] →
          (s.agent m).mode = .task → (s.agent m).wb = [] → (s.agent m).dup.ufvec = 0 → (s.agent m).svec ≠ 0 → (s.agent m).svec &&& 31 = 0 →
          (t.agent m).mode = .super ∧ (t.agent m).cause.setWidth 8 = c ∧ (t.agent m).faddr = va ∧ (t.agent m).wait = .none ∧
            (t.agent m).r.pc = (s.agent m).svec) ∧
        ((s.agent m).wait = .wfe → whose m ≠ none → (t.agent m).r.latch = true ∧ (t.agent m).wait = .wfe)) ∧
      ((∀ z, (s.agent z).wait ≠ .wfe ∧ ∀ va v, (s.agent z).wait ≠ .twaita va v) → ∀ va, p.holds 4 0 va = true → va % 16 = 0 →
        regionOf va = .rented → s.page va = Page.plain → Tab.get none s.arms (va / 16) ≠ none →
        (t.mem.num (va + 8) 8).testBit 28 = false ∧ (t.mem.num (va + 8) 8).testBit 30 = true)

/-- SCRUB_START and SCRUB_DONE (04 R102, R104, 14 R302): the tick after its lapse a pitch enters scrubbing and its pages are unmapped; at the
end every byte of it is zero, every byte outside it stays, and the descriptor is free. -/
def Sys2Proof.Spec.PitchesScrub : Prop :=
  ∀ (s : State) d, let p := s.pitch d
    let lo := tierAddr p.tier.toNat p.unit p.base
    (p.state = .lapsed → p.lapsedAt < s.now.toNat →
      ∃ t, exec (.scrubStart d) s = .next t ∧ (t.pitch d).state = .scrubbing ∧ t.mem = s.mem) ∧
    (p.state = .scrubbing → p.inflight = 0 →
      ∃ t, exec (.scrubDone d) s = .next t ∧ t.pitch d = Pitch.free ∧ (∀ j, j < p.length → t.mem.read (lo + j) = 0) ∧
        (∀ y, (y < lo ∨ lo + p.length ≤ y) → t.mem.read y = s.mem.read y) ∧ ∀ e, e ≠ d → t.pitch e = s.pitch e)

/-! ## The statements: the fabric and the mailbox -/

/-- QP_RECORD_WRITE (16 R331): the record's fields, unless posted entries have not completed. -/
def Sys2Proof.Spec.QueuePairWritten : Prop :=
  ∀ (s : State) qp x,
    ((s.qpair qp.toNat).posted = 0 → ∃ t, exec (.qpRecordWrite qp x) s = .next t ∧
      (let q := t.qpair qp.toNat
       q.valid = x.getLsbD 0 ∧ q.loop = x.getLsbD 1 ∧ q.e2e = x.getLsbD 2 ∧ q.account = x.extractLsb' 3 10 ∧
         q.context = x.extractLsb' 13 16 ∧ q.node = x.extractLsb' 32 16 ∧ q.rqp = x.extractLsb' 48 10 ∧
         q.ports = x.extractLsb' 64 16 ∧ q.keyslot = x.extractLsb' 80 16 ∧ q.posted = 0) ∧
      ∀ k, k ≠ qp.toNat → t.qpair k = s.qpair k) ∧
    ((s.qpair qp.toNat).posted ≠ 0 → exec (.qpRecordWrite qp x) s = .next s)

/-- FABRIC_RECEIVE of a plain WRITE on a LOOP queue pair (16 R337): DST holds the data and the entry may complete. -/
def Sys2Proof.Spec.FabricWrites : Prop :=
  ∀ (s : State) qp w, let q := s.qpair (s.qpair qp.toNat).rqp.toNat
    let e := w.entry
    let va := workDst e
    let x := s.storage w.agent none va.toNat
    s.work = [w] → w.qp = qp → w.handed = true → w.received = false → s.heldWork w.num = false → (s.qpair qp.toNat).loop = true →
    workOp e = 1 → workFits e = true → s.remoteRefuses w.agent q e = false → workRctr e = 0 → w.data.length = workLen e →
    regionOf va.toNat = .rented → va.toNat % 4096 + workLen e ≤ 4096 → s.quarantined = [] →
    ∃ t, exec (.fabricReceive (.loop qp)) s = .next t ∧ t.work = [{ w with received := true, cc := 0x00 }] ∧
      (∀ j, j < workLen e → t.mem.read (x + j) = w.data.getD j 0) ∧
      (∀ y, (y < x ∨ x + workLen e ≤ y) → t.mem.read y = s.mem.read y)

/-- WORK_ENTRY_COMPLETE and LINK_FAILURE (16 R337): the entry leaves its queue pair, POSTED falls, and the DONE cell receives the status
with bit 63 set. -/
def Sys2Proof.Spec.WorkCompletes : Prop :=
  ∀ (s : State) qp w cc, let e := w.entry
    let va := workDone e
    let x := s.storage w.agent w.owner.pasid va.toNat
    s.work = [w] → w.qp = qp → w.handed = true → workOp e ≠ 3 → workLctr e = 0 → va ≠ 0 → va.toNat % 8 = 0 →
    s.refuses w.agent w.owner askAtomic va 8 = none → regionOf va.toNat = .rented → s.quarantined = [] →
    let done (t : State) (c : Byte) : Prop := t.work = [] ∧ (t.qpair qp.toNat).posted = (s.qpair qp.toNat).posted - 1 ∧
      t.mem.num x 8 = 2 ^ 63 + c.toNat ∧ ∀ y, (y < x ∨ x + 8 ≤ y) → t.mem.read y = s.mem.read y
    (w.received = true → ∃ t, exec (.workEntryComplete qp cc) s = .next t ∧ done t w.cc) ∧
      (w.received = false → (s.qpair qp.toNat).loop = false →
        (∃ t, exec (.linkFailure qp) s = .next t ∧ done t 0x06) ∧
          (cc = 0 ∨ cc = 3 ∨ cc = 5 → ∃ t, exec (.workEntryComplete qp cc) s = .next t ∧ done t cc))

/-- The start of a fabric, mailbox or launch command (10 R228 M7, 16 R340, 13 R296): a mailbox request enters the route to the master of its
die; as it performs there it fills its slot, with the sender's fields in bytes 56 to 63, and the master's latch is set; a launch waits for
its rank. A marker before the command holds it (10 R239). -/
def Sys2Proof.Spec.CommandsStart : Prop :=
  ∀ (s : State) (k : BitVec 9), let n := k.toNat
    (∀ h rest, (s.agent n).ecb = h :: rest →
      (∀ d j req, h.cmd = .xmbox d j req → ∃ t, exec (.start k 7) s = .next t ∧ (t.agent n).ecb = rest ∧ t.mem = s.mem ∧
        t.transit = s.transit ++ [departed n h.owner h.seq (.agent (s.masterOf d.toNat), .cmd h.cmd)]) ∧
      (∀ l, h.cmd = .xlaunch l → ∃ t, exec (.start k 7) s = .next t ∧ (t.agent n).ecb = rest ∧ t.mem = s.mem ∧
        t.tileLaunches = s.tileLaunches ++ [(n, h.owner, l)]) ∧
      (h.isMarker = true → exec (.start k 7) s = .next s)) ∧
    (∀ i e d j req, atHome s i e → e.load = .cmd (.xmbox d j req) →
      ∃ t, exec (.perform i) s = .next t ∧ t.transit = s.transit.eraseIdx i ∧ t.mem = s.mem ∧
        Tab.get [] t.mailbox d.toNat = (Tab.get [] s.mailbox d.toNat).map (fun x =>
          if x.order = j then { x with req := some (mailRequest e.agent e.owner req) } else x) ∧
        (t.agent (s.masterOf d.toNat)).r.latch = true)

/-! ## The statements: the package -/

/-- ROW_GROUP_REFRESH, PATROL_SCRUB, POWER_SAMPLE and THERMAL_THROTTLE (14 R310, R311, R313, 23 R369, R370). A group that holds a pitch in
use, or storage that Genay holds for itself, is refreshed once its timestamp reaches the window less 1 ms; its last refresh, every write and
every scrub of a leased line of it set the timestamp; a hold of issue begins above its limit and lasts until a measurement lies below it. The
bank and row group of an address and Genay's own storage are log 45. -/
def Sys2Proof.Spec.UpkeepAndLimits : Prop :=
  ∀ (s : State) (g : RefreshAt) line watts amps celsius,
    let ms := s.now.toNat / 1000
    let window := if 85 < g.celsius then 16 else 32
    let due := s.groupInUse g.group = true ∧ s.groupStamp g.group + window ≤ ms + 1
    let live (p : Pitch) : Prop := p.state = .tentative ∨ p.state = .leased ∨ p.state = .overstay ∨ p.state = .scrubbing
    let hold (limit : Nat) (held : Bool) (x : Nat) : Bool := if limit < x then true else if x < limit then false else held
    (due → exec (.rowGroupRefresh g) s = .next { s with refreshed := Tab.set 0 s.refreshed g.group ms }) ∧
    (¬ due → exec (.rowGroupRefresh g) s = .next s) ∧
    (s.groupInUse g.group = true ↔ Config.genayGroup g.group = true ∨
      ∃ e ∈ s.pitches, 4 ≤ e.2.tier.toNat ∧ live e.2 ∧ rangeInGroup g.group e.2.base e.2.length = true) ∧
    (Tab.get 0 s.refreshed g.group ≤ s.groupStamp g.group ∧ ∀ e ∈ s.activated, groupOf e.1 = g.group → e.2 ≤ s.groupStamp g.group) ∧
    (∀ a (bs : List Byte) j, a < 0x00FFD00000000000 → j < bs.length → Tab.get 0 (s.put a bs).activated ((a + j) / 256) = ms) ∧
    (s.leasedLine line = true → ∃ l, exec (.patrolScrub line) s = .next { s with scrubLine := line, activated := l } ∧
      (64 * line < 0x00FFD00000000000 → Tab.get 0 l (line / 4) = ms) ∧ ∀ b, b ≠ line / 4 → Tab.get 0 l b = Tab.get 0 s.activated b) ∧
    (s.leasedLine line = false → exec (.patrolScrub line) s = .next s) ∧
    exec (.powerSample watts amps) s = .next { s with
      powerHold := hold s.cfg.pcap s.powerHold watts, currentHold := hold Config.currentLimit s.currentHold amps } ∧
    (105 < celsius → exec (.thermalThrottle celsius) s = .next { s with thermalHold := true }) ∧
    (celsius < 100 → exec (.thermalThrottle celsius) s = .next { s with thermalHold := false }) ∧
    (100 ≤ celsius → celsius ≤ 105 → exec (.thermalThrottle celsius) s = .next s)

/-- QUARANTINE (14 R315, 15 R322): the unit is lost, and the privileged interface gets an EVENT that names it; with none nobody hears of
it. The numbers of the units are the model's (log 8). -/
def Sys2Proof.Spec.UnitQuarantined : Prop :=
  ∀ (s : State) u c, u.toNat ≤ 12 → c.toNat < 64 → (u, c) ∉ s.quarantined →
    let lost : State := { s with quarantined := s.quarantined ++ [(u, c)] }
    let code : W64 := BitVec.ofNat 64 (1 + (if u.toNat < 12 then 2 ^ 8 * u.toNat + 2 ^ 16 * c.toNat else 2 ^ 8 * (0x80 + c.toNat)))
    ∃ t, exec (.quarantine u c) s = .next t ∧ t.quarantined = s.quarantined ++ [(u, c)] ∧ t.agents = s.agents ∧ t.pitches = s.pitches ∧
      ((∀ k, k < 64 → (s.qrec (BitVec.ofNat 6 k)).priv = false) → t = lost) ∧
      ∀ q, (s.qrec q).priv = true → (∀ p, p ≠ q → (s.qrec p).priv = false) → t = lost.postDone q (BitVec.allOnes 64) 0x0D code

/-- THERMAL_TRIP above 115 °C and PACKAGE_RESET (15 R326, 23 R370, R371): every register, queue, pitch, account and task is as at reset and
memory of the package reads zero; after a trip the rails are off, after a reset they are on. The package then serves requests if an image and
the configuration record can be used, and takes SPDM messages only if no image can. That memory, the host's own too, reads zero where nothing
is listed is log 1. -/
def Sys2Proof.Spec.PackageRestarts : Prop :=
  ∀ (s : State) celsius i, (i = .packageReset ∨ i = .thermalTrip celsius ∧ 115 < celsius) →
    let used (bs : List Byte) : Prop := Config.imageVerifies s.cfg.fwkey bs = true ∧ s.fw.keptVersion ≤ Config.imageVersion bs
    let image := if s.fw.useB then s.fw.imageB else s.fw.imageA
    let other := if s.fw.useB then s.fw.imageA else s.fw.imageB
    ∃ t, exec i s = .next t ∧ (t.off = true ↔ i ≠ .packageReset) ∧ (∀ n, t.agent n = Agent.reset) ∧ t.pitches = [] ∧ t.accounts = [] ∧
      t.tasksets = [] ∧ t.queues = [] ∧ t.requests = [] ∧ t.now = State.reset.now ∧ t.rates = Rates.reset ∧
      t.reportNo = s.reportNo ∧ t.cfg = s.cfg ∧ t.fw.keptVersion = s.fw.keptVersion ∧ t.fw.patches = [] ∧ t.fw.staged = false ∧
      (∀ y, y < 2 ^ 64 → t.mem.read y = 0) ∧ (∀ y, 2 ^ 64 ≤ y → t.mem.read y = s.mem.read y) ∧
      (i = .packageReset →
        (used image → t.fw.useB = s.fw.useB ∧ t.spdmOnly = !s.cfg.fits s.fw.keptVersion) ∧
        (¬ used image → used other → t.fw.useB = !s.fw.useB ∧ t.spdmOnly = !s.cfg.fits s.fw.keptVersion) ∧
        (¬ used image → ¬ used other → t.spdmOnly = true))


/-! ## The statements: the host side -/

/-- Request `r` of interface `q`, of opcode `op`, is next to be served, the only one of its interface, well formed and entitled (15 R318,
R320), and the interface is not leaving its TDISP state (R325). -/
def Sys2Proof.Spec.posed (s : State) (q : BitVec 6) (r : Req) (op : Byte) : Prop :=
  (∃ rest, s.requests = r :: rest ∧ ∀ x ∈ rest, x.q ≠ q) ∧ r.q = q ∧ r.opcode = op ∧ r.malformed = false ∧
    r.pasid = (s.qrec q).pasid ∧ s.revoked.contains r.pasid = false ∧ (0x10 ≤ op.toNat → (s.qrec q).priv = true) ∧
    (s.qrec q).leaving = none

/-- The request is gone and its completion packet is posted (15 R322). -/
def Sys2Proof.Spec.answer (s : State) (r : Req) (st : Byte) (v : W64) : State := (s.dropReq r).postDone r.q r.tag st v

/-- The completion packet and the record after it (15 R319, R322, R323): TAG, STATUS, PHASE, SQHEAD and RESULT stand at CQTAIL, CQTAIL
advances and PHASE turns at the wrap; a message follows once COUNT completions are unsignalled. -/
def Sys2Proof.Spec.CompletionPosted : Prop :=
  ∀ (s : State) q tag st v, let r := s.qrec q
    let c := hostAddr (r.cqbase.toNat + 32 * r.cqtail.toNat)
    let t := s.postDone q tag st v
    let x := t.qrec q
    let tail := (r.cqtail.toNat + 1) % 2 ^ r.cqlog.toNat
    (r.state = false → t = s) ∧
    (r.state = true → s.quarantined = [] →
      t.mem.num c 8 = tag.toNat ∧ t.mem.read (c + 8) = st ∧ t.mem.num (c + 9) 1 = r.phase.toNat ∧ t.mem.num (c + 10) 2 = r.sqhead.toNat ∧
      t.mem.num (c + 12) 4 = 0 ∧ t.mem.num (c + 16) 8 = v.toNat ∧ t.mem.num (c + 24) 8 = 0 ∧
      (∀ y, (y < c ∨ c + 32 ≤ y) → t.mem.read y = s.mem.read y) ∧
      x.cqtail = BitVec.ofNat 16 tail ∧ x.phase = (if tail = 0 then !r.phase else r.phase) ∧
      t.sent = s.sent ++ (if r.rvalid ∧ r.count.toNat ≤ r.unsignalled + 1 then [Sent.msix r.vector] else []) ∧
      t.requests = s.requests ∧ t.agents = s.agents ∧ t.accounts = s.accounts ∧ t.pitches = s.pitches ∧ t.tasksets = s.tasksets)

/-- The rows of the table that serve a request (15 R321): the interface, and the opcode and selector that the row serves. -/
def Sys2Proof.Spec.requestRow : Instr → Option (BitVec 6 × (Req → Prop))
  | .launch q => some (q, fun r => r.opcode = 0x01)
  | .barrier q => some (q, fun r => r.opcode = 0x02)
  | .credit q => some (q, fun r => r.opcode = 0x10)
  | .report q => some (q, fun r => r.opcode = 0x11)
  | .account q => some (q, fun r => r.opcode = 0x12)
  | .partition q => some (q, fun r => r.opcode = 0x13)
  | .queue q => some (q, fun r => r.opcode = 0x14)
  | .pasidrevRevoke q => some (q, fun r => r.opcode = 0x15 ∧ r.a1 = 1)
  | .pasidrevRestore q => some (q, fun r => r.opcode = 0x15 ∧ r.a1 = 0)
  | .pageUnmap q => some (q, fun r => r.opcode = 0x16 ∧ r.a2 = 1)
  | .pageReadonly q => some (q, fun r => r.opcode = 0x16 ∧ r.a2 = 2)
  | .pageWritable q => some (q, fun r => r.opcode = 0x16 ∧ r.a2 = 3)
  | .pageDemote q => some (q, fun r => r.opcode = 0x16 ∧ r.a2 = 4)
  | .pageShare q => some (q, fun r => r.opcode = 0x16 ∧ r.a2 = 5)
  | .desc q => some (q, fun r => r.opcode = 0x17)
  | .status q => some (q, fun r => r.opcode = 0x18)
  | .debugStop q => some (q, fun r => r.opcode = 0x19 ∧ r.a1 = 1)
  | .debugResume q => some (q, fun r => r.opcode = 0x19 ∧ r.a1 = 2)
  | .saveioRead q => some (q, fun r => r.opcode = 0x1A ∧ r.a5 = 0)
  | .saveioWrite q => some (q, fun r => r.opcode = 0x1A ∧ r.a5 = 1)
  | .fwpatch q => some (q, fun r => r.opcode = 0x1B)
  | .fwstage q => some (q, fun r => r.opcode = 0x1C)
  | .fwupdate q => some (q, fun r => r.opcode = 0x1D)
  | _ => none

/-- A MALFORMED request, one under a wrong or revoked PASID, and a supervisor request without PRIV complete with their status and do nothing
else, whichever row serves them; a row leaves a request of another opcode or selector alone (15 R320). -/
def Sys2Proof.Spec.RequestRefusals : Prop :=
  ∀ (s : State) i q p r, requestRow i = some (q, p) → (∃ rest, s.requests = r :: rest ∧ ∀ x ∈ rest, x.q ≠ q) → r.q = q →
    (s.qrec q).leaving = none → s.fw.updating = none →
    (r.malformed = true → exec i s = .next (answer s r 0x08 0)) ∧
    (r.malformed = false → ¬ p r → exec i s = .next s) ∧
    (r.malformed = false → p r →
      let right := r.pasid = (s.qrec q).pasid ∧ s.revoked.contains r.pasid = false
      (¬ right → exec i s = .next (answer s r 0x06 0)) ∧
      (right → 0x10 ≤ r.opcode.toNat → (s.qrec q).priv = false → exec i s = .next (answer s r 0x09 0)))

/-- CREDIT, ACCOUNT, STATUS and PARTITION (04 R97, 13 R289, R295, 15 R321). That a weight outside 1 to 65,535 and a partition of 24 or more
complete REFUSED is the model's choice (log 22). -/
def Obligations.AccountCommands : Prop :=
  ∀ (s : State) q r, let acct : BitVec 10 := r.a0.setWidth 10
    let c := s.account acct
    let mask : BitVec 24 := r.a1.setWidth 24
    (posed s q r 0x10 → let v := BitVec.ofInt 64 (min (c.committed.toInt + r.a1.toNat) (2 ^ 63 - 1))
      exec (.credit q) s = .next (answer (s.modAccount acct (fun c => { c with committed := v })) r 0 v)) ∧
    (posed s q r 0x12 → 1 ≤ r.a1.toNat → r.a1.toNat ≤ 65535 →
      exec (.account q) s =
        .next (answer (s.modAccount acct (fun c => { c with weight := r.a1.setWidth 16, parts := r.a2.setWidth 24 })) r 0 0)) ∧
    (posed s q r 0x12 → (r.a1 = 0 ∨ 65535 < r.a1.toNat) → exec (.account q) s = .next (answer s r 0x01 0)) ∧
    (posed s q r 0x18 → exec (.status q) s =
      .next (answer (s.modAccount acct (fun c => { c with clamped := false })) r 0 (if c.clamped then 1 else 0))) ∧
    (posed s q r 0x13 → r.a0.toNat < 24 →
      ((∀ l < 24, mask.getLsbD l = true → s.loomFree l = true) →
        ∃ ps, exec (.partition q) s = .next (answer { s with parts := ps } r 0 0) ∧ ∀ k < 24,
          Tab.get Partition.reset ps k = { Tab.get Partition.reset s.parts k with
            looms := if k = r.a0.toNat then mask else (Tab.get Partition.reset s.parts k).looms &&& ~~~mask }) ∧
      ((∃ l < 24, mask.getLsbD l = true ∧ s.loomFree l = false) → exec (.partition q) s = .next (answer s r 0x07 0)))

/-- The tasks `ys` are `xs` with the states `f` gives; one that holds its loom no more has its slice closed (13 R290). -/
def Sys2Proof.Spec.closed (xs ys : List LoomTask) (f : LoomTask → TStat) : Prop :=
  ys.length = xs.length ∧ ∀ (j : Nat) (x : LoomTask), xs[j]? = some x →
    ∃ y : LoomTask, ys[j]? = some y ∧ y = { x with stat := f x, due := y.due, held := y.held } ∧
    (x.due = false ∨ f x = .running → y.due = x.due ∧ y.held = x.held)

/-- What the revocation of a PASID does: its bit, and the end of the launches under it that have not started; the pass of an account moves
only where a slice had begun (13 R290). -/
def Sys2Proof.Spec.revokes (s t : State) (p : BitVec 20) : Prop :=
  t = { s with revoked := t.revoked, tasksets := t.tasksets, passes := t.passes } ∧ (∀ x, x ∈ t.revoked ↔ x = p ∨ x ∈ s.revoked) ∧
    ((∀ ts u, Tab.get none s.tasksets ts = some u → u.pasid = some p → ∀ x ∈ u.tasks, x.due = false) → t.passes = s.passes) ∧
    ∀ ts, (Tab.get none s.tasksets ts = none → Tab.get none t.tasksets ts = none) ∧ ∀ u, Tab.get none s.tasksets ts = some u →
      let hit := u.pasid = some p ∧ (∃ q tag k, u.source = .queue q tag k) ∧ ∀ x ∈ u.tasks, x.stat = .waiting ∨ x.stat = .placed
      (hit → ∃ xs : List LoomTask, closed u.tasks xs (fun _ => .ended) ∧
        Tab.get none t.tasksets ts = some { u with code := if u.code.toNat < 6 then 0x06 else u.code, tasks := xs }) ∧
      (¬ hit → Tab.get none t.tasksets ts = some u)

/-- PASIDREV and the PCIe PASID stop (15 R324). -/
def Obligations.PasidCommands : Prop :=
  ∀ (s : State), (s.tasksets.map (·.1)).Nodup →
    (∀ p, ∃ t, exec (.pasidStop p) s = .next t ∧ revokes s t p) ∧
    (∀ q r, posed s q r 0x15 → r.a1 = 1 →
      ∃ t, exec (.pasidrevRevoke q) s = .next (answer t r 0 0) ∧ revokes s t (r.a0.setWidth 20)) ∧
    (∀ q r, posed s q r 0x15 → r.a1 = 0 →
      ∃ l, exec (.pasidrevRestore q) s = .next (answer { s with revoked := l } r 0 0) ∧
        ∀ x, x ∈ l ↔ x ≠ r.a0.setWidth 20 ∧ x ∈ s.revoked)

/-- An account that becomes active in a partition takes the lowest active pass, or keeps a higher one (13 R290). -/
def Sys2Proof.Spec.joined (s t : State) (part acct : Nat) : Prop :=
  ∀ k, Tab.get 0 t.passes k =
    if k = 1024 * part + acct ∧ acct ∉ s.activeIn part then
      match (s.activeIn part).map (s.passOf part) with
      | [] => Tab.get 0 s.passes k
      | p :: ps => BitVec.ofNat 64 (max (s.passOf part acct) (ps.foldl min p))
    else Tab.get 0 s.passes k

/-- LAUNCH and BARRIER (13 R286–R290, 15 R321): a LAUNCH that passes its checks is queued and completes later; its class is no higher than
PRIO. One that is refused, or for which the partition has no room, writes its code to DONE. BARRIER waits for the launches before it. The read
of the header is an access like any other (04 R114, 14 R310). That a header address which is not 64-byte aligned, or which Rhory cannot read,
is refused with REFUSED is the model's choice (log 77). -/
def Sys2Proof.Spec.LaunchCommands : Prop :=
  ∀ (s : State) q r, let x := s.qrec q
    let h := s.entryAt 0 (some x.pasid) r.a0
    let table : BitVec 512 := if hdrLooptab h = 0 then 0 else s.entryAt nobody none (hdrLooptab h)
    let ts := s.nextTs + 1
    let who := whoOf h (some x.pasid) 0 0
    let read := s.touchFor (s.issuer q) r.a0 64
    let refused (cc : Byte) : State := answer (read.writeDone nobody who (hdrDone h) cc) r cc 0
    (posed s q r 0x01 → (r.a0.toNat % 64 ≠ 0 ∨ s.reaches (s.issuer q) false r.a0 64 = false) →
      exec (.launch q) s = .next (answer s r 0x01 0)) ∧
    (posed s q r 0x01 → r.a0.toNat % 64 = 0 → s.reaches (s.issuer q) false r.a0 64 = true →
      (hdrAccount h ≠ x.account → exec (.launch q) s = .next (refused 0x01)) ∧
      (hdrAccount h = x.account → 4096 ≤ s.queuedIn x.part → exec (.launch q) s = .next (refused 0x07)) ∧
      (hdrAccount h = x.account → s.queuedIn x.part < 4096 → read.launchOk none who x.part.toNat h = false →
        exec (.launch q) s = .next (refused 0x01)) ∧
      (hdrAccount h = x.account → s.queuedIn x.part < 4096 → hdrDep h = 0 → read.launchOk none who x.part.toNat h = true →
        ∃ t u, exec (.launch q) s = .next t ∧ Tab.get none t.tasksets ts = some u ∧ t.nextTs = ts ∧ t.mem = s.mem ∧
          t.agents = s.agents ∧ t.requests = s.requests.erase r ∧ t.queues = s.queues ∧ u.source = .queue q r.tag r.num ∧ u.hdr = h ∧
          u.part = x.part ∧ u.cls = (if hdrClass h ≤ r.prio then hdrClass h else r.prio) ∧ u.ready = true ∧
          u.tasks.length = loopProduct table 2 ∧ (∀ y ∈ u.tasks, y.stat = .waiting) ∧
          (Tab.get none s.tasksets ts = none → joined s t x.part.toNat x.account.toNat))) ∧
    (posed s q r 0x02 →
      (s.launchBefore q r.num = false → exec (.barrier q) s = .next (answer s r 0 0)) ∧
      (s.launchBefore q r.num = true → exec (.barrier q) s = .next s))

/-- FABRIC_LAUNCH (16 R341, 13 R288): the sender's launch-table entry decides account, image and allowance cap; without one, or with another
account or image, one that reads as poison too (log 78), or with no room in the partition, the sender hears status 0x07 and the code goes to
DONE. -/
def Sys2Proof.Spec.FabricLaunches : Prop :=
  ∀ (s : State) (node : BitVec 16) h (image len : W64), let ts := s.nextTs + 1
    let read := s.touchVa 0 none image.toNat len.toNat
    let refused (w : State) (cc : Byte) : State :=
      State.writeDone { w with sent := w.sent ++ [.fabricDone node 0x07] } nobody (whoOf h none 0 0) (hdrDone h) cc
    (Tab.get none s.launchTable node.toNat = none → exec (.fabricLaunch node h image len) s = .next (refused s 0x01)) ∧
    (∀ e, Tab.get none s.launchTable node.toNat = some e →
      let known := s.vaPoison 0 none image.toNat len.toNat = none ∧ hdrAccount h = e.account ∧
        Config.sha512 (s.vaBytes 0 none image.toNat len.toNat) ∈ e.digests
      (¬ known → exec (.fabricLaunch node h image len) s = .next (refused read 0x01)) ∧
      (known → 4096 ≤ s.queuedIn e.part → exec (.fabricLaunch node h image len) s = .next (refused read 0x07)) ∧
      (known → s.queuedIn e.part < 4096 → read.launchOk none (whoOf h none 0 0) e.part.toNat h = false →
        exec (.fabricLaunch node h image len) s = .next (refused read 0x01)) ∧
      (known → s.queuedIn e.part < 4096 → hdrDep h = 0 → read.launchOk none (whoOf h none 0 0) e.part.toNat h = true →
        ∃ t u, exec (.fabricLaunch node h image len) s = .next t ∧ Tab.get none t.tasksets ts = some u ∧ t.nextTs = ts ∧ t.mem = s.mem ∧
          t.agents = s.agents ∧ t.sent = s.sent ∧ u.source = .fabric node ∧ u.hdr = h ∧ u.part = e.part ∧ u.cap = some e.cap ∧
          u.cls = hdrClass h ∧ u.ready = true ∧ ∀ y ∈ u.tasks, y.stat = .waiting))

/-- `n` frames from `lo` on are changed by `g`, which is told the place of the frame. -/
def Sys2Proof.Spec.repaged (s u : State) (lo n : Nat) (g : Nat → Page → Page) : Prop :=
  u = { s with pages := u.pages } ∧ ∀ f, Tab.get Page.plain u.pages f =
    if lo ≤ f ∧ f < lo + n then g (f - lo) (Tab.get Page.plain s.pages f) else Tab.get Page.plain s.pages f

/-- PAGE (14 R302, R303, 15 R321): once no released store to the page is pending, its frames become unmapped, read-only, writable, smaller,
or share the storage of other frames. A page in no pitch of the context is NOTFOUND for each of the five (log 92). -/
def Sys2Proof.Spec.PageCommands : Prop :=
  ∀ (s : State) q r p i, posed s q r 0x16 →
    let va := r.a1.toNat
    let len := r.a4.toNat
    let k := s.pageLogAt p va
    let lo := va / 2 ^ k * 2 ^ k
    let fine (o : Host.Outcome State Fault Refusal) (g : Page → Page) : Prop :=
      ∃ u, o = .next (answer u r 0 0) ∧ repaged s u (lo / 4096) (2 ^ k / 4096) (fun _ => g)
    let row := (r.a2 = 1 ∧ i = .pageUnmap q) ∨ (r.a2 = 2 ∧ i = .pageReadonly q) ∨ (r.a2 = 3 ∧ i = .pageWritable q) ∨
      (r.a2 = 4 ∧ i = .pageDemote q ∧ r.a3.toNat ≤ k)
    let whole := va + len ≤ p.base + p.length ∧ ∃ j y, s.findPitch 4 0 r.a5.toNat = some (j, y) ∧ r.a5.toNat + len ≤ y.base + y.length
    (s.ctxPitch r.a0 va = none → (row ∨ (r.a2 = 4 ∧ i = .pageDemote q) ∨ (r.a2 = 5 ∧ i = .pageShare q)) →
      exec i s = .next (answer s r 0x0C 0)) ∧
    (s.ctxPitch r.a0 va = some p → s.pendingOn lo (lo + 2 ^ k) (fun _ => true) = true → row → exec i s = .next s) ∧
    (s.ctxPitch r.a0 va = some p → r.a2 = 5 → ¬ whole → exec (.pageShare q) s = .next (answer s r 0x0C 0)) ∧
    (s.ctxPitch r.a0 va = some p → r.a2 = 5 → whole → s.pendingOn va (va + len) (fun _ => true) = true → exec (.pageShare q) s = .next s) ∧
    (s.ctxPitch r.a0 va = some p → s.pendingOn lo (lo + 2 ^ k) (fun _ => true) = false →
      (r.a2 = 1 → fine (exec (.pageUnmap q) s) (fun g => { g with unmapped := true })) ∧
      (r.a2 = 2 → fine (exec (.pageReadonly q) s) (fun g => { g with readOnly := true })) ∧
      (r.a2 = 3 → fine (exec (.pageWritable q) s) (fun g => { g with readOnly := false })) ∧
      (r.a2 = 4 → r.a3.toNat ≤ k → fine (exec (.pageDemote q) s) (fun g => { g with size := some r.a3.toNat })) ∧
      (r.a2 = 4 → k < r.a3.toNat → exec (.pageDemote q) s = .next (answer s r 0x08 0))) ∧
    (s.ctxPitch r.a0 va = some p → r.a2 = 5 → whole → s.pendingOn va (va + len) (fun _ => true) = false →
      ∃ u, exec (.pageShare q) s = .next (answer u r 0 0) ∧ repaged s u (va / 4096) (len / 4096) (fun i g =>
        { g with share := some (s.frameOf (r.a5.toNat + 4096 * i)), unmapped := false, size := some 12 }))

/-- ATS_INVALIDATION (14 R307): once nothing released under the old translation is pending, the new answer holds for the pages of the range
and for no other. Before any answer the model reads a host address as its own frame (log 67). -/
def Sys2Proof.Spec.TranslationsInvalidated : Prop :=
  ∀ (s : State) (p : BitVec 20) (a len : W64) (ans : AtsAnswer) ro, let lo := 0x0100000000000000 + a.toNat
    let key := hostPageKey p a.toNat
    let count := (a.toNat % 4096 + len.toNat + 4095) / 4096
    (s.pendingOn lo (lo + len.toNat) (fun w => decide (w.pasid = some p)) = true → exec (.atsInvalidation p a len ans ro) s = .next s) ∧
    (s.pendingOn lo (lo + len.toNat) (fun w => decide (w.pasid = some p)) = false →
      ∃ l, exec (.atsInvalidation p a len ans ro) s = .next { s with hostPages := l } ∧ ∀ f, Tab.get HostPage.plain l f =
        if key ≤ f ∧ f < key + count then
          match ans with
          | .refused => { refused := true, readOnly := ro, frame := none }
          | .frames phys => { refused := false, readOnly := ro, frame := some (phys.toNat / 4096 + (f - key)) }
        else Tab.get HostPage.plain s.hostPages f)

/-- REPORT and DESC (04 R101, R120): the report's and the descriptor's bytes at the address that the command names. The last 512 bytes of a
report are the device's signature over the first 128, a free value (log 6), and so are the stalls in its bundle-cycles (log 5). DESC finds the
descriptor as log 27 says, and both act for the interface's PASID (log 21). -/
def Sys2Proof.Spec.ReadingCommands : Prop :=
  ∀ (s : State) q r,
    (posed s q r 0x11 → s.reaches (s.issuer q) true r.a1 640 = true →
      let c := s.account (r.a0.setWidth 10)
      ∃ bs : List Byte, bs.length = 640 ∧ exec (.report q) s =
        .next (answer (State.vaStore { s with reportNo := s.reportNo + 1, freeCtr := s.freeCtr + 1 } 0 (some (s.qrec q).pasid)
            r.a1.toNat bs) r 0 (s.reportNo + 1)) ∧
        bs.drop 128 = (List.range 512).map (Config.signature s.attestKey (bs.take 128) s.freeCtr) ∧
        numAt bs 0 4 = 1 ∧ numAt bs 4 4 = r.a0.toNat % 1024 ∧ numAt bs 0x08 8 = (s.reportNo + 1).toNat ∧ numAt bs 0x10 8 = s.now.toNat ∧
        numAt bs 0x18 8 = c.charged.toNat ∧ numAt bs 0x20 8 = c.refunded.toNat ∧ numAt bs 0x28 8 = c.overstay.toNat ∧
        numAt bs 0x30 8 = (c.bundleCycles + Config.stallCycles s.freeCtr).toNat ∧
        (∀ k < 6, numAt bs (0x38 + 8 * k) 8 = (Tab.get 0 c.moved k).toNat) ∧ numAt bs 0x68 8 = c.fabric.toNat ∧
        numAt bs 0x70 8 = c.committed.toNat ∧ numAt bs 0x78 8 = 0) ∧
    (posed s q r 0x17 → s.descPitch r.a0 r.a1 = none → exec (.desc q) s = .next (answer s r 0x0C 0)) ∧
    (∀ p, posed s q r 0x17 → s.descPitch r.a0 r.a1 = some p → s.reaches (s.issuer q) true r.a2 128 = true →
      ∃ bs : List Byte, bs.length = 128 ∧ 
        exec (.desc q) s = .next (answer (s.vaStore 0 (some (s.qrec q).pasid) r.a2.toNat bs) r 0 0) ∧
        numAt bs 0 4 = p.account.toNat + 2 ^ 10 * p.context.toNat + 2 ^ 26 * p.tier.toNat + 2 ^ 29 * p.state.code ∧
        numAt bs 4 4 = p.att.toNat + 2 ^ 3 * (p.subs.length % 2 ^ 29) ∧
        numAt bs 0x08 8 = p.base % 2 ^ 64 ∧ numAt bs 0x10 8 = p.length % 2 ^ 64 ∧ numAt bs 0x18 8 = p.paid % 2 ^ 64 ∧
        numAt bs 0x20 8 = p.rate % 2 ^ 64 ∧ numAt bs 0x28 8 = p.inflight % 2 ^ 64 ∧
        numAt bs 0x30 8 = (BitVec.ofInt 64 p.charged).toNat ∧ numAt bs 0x38 8 = 0 ∧
        ∀ k < 4, match p.subs[k]? with
          | none => numAt bs (0x40 + 16 * k) 8 = 0 ∧ numAt bs (0x48 + 16 * k) 8 = 0
          | some y =>
            numAt bs (0x40 + 16 * k) 8 = y.account.toNat + 2 ^ 10 * y.context.toNat + 2 ^ 26 * y.rw.toNat + 2 ^ 27 ∧
            numAt bs (0x48 + 16 * k) 8 = (y.first + 2 ^ 30 * y.count) % 2 ^ 64)

/-- QUEUE (15 R319, R325): the S fields of a record are replaced as a whole; a locked record and a field out of its range are refused. The
64 bytes are read as the issuing interface's (log 21); where they cannot be read the answer is NOTFOUND (log 22). -/
def Sys2Proof.Spec.QueueCommand : Prop :=
  ∀ (s : State) q r, posed s q r 0x14 →
    let p : BitVec 6 := r.a0.setWidth 6
    let y := s.qrec p
    let x := s.entryAt 0 (some (s.qrec q).pasid) r.a1
    let read := s.touchFor (s.issuer q) r.a1 64
    ((y.tdisp = 1 ∨ y.tdisp = 2) → exec (.queue q) s = .next (answer s r 0x0A 0)) ∧
    (y.tdisp ≠ 1 → y.tdisp ≠ 2 → s.reaches (s.issuer q) false r.a1 64 = false → exec (.queue q) s = .next (answer s r 0x0C 0)) ∧
    (y.tdisp ≠ 1 → y.tdisp ≠ 2 → s.reaches (s.issuer q) false r.a1 64 = true →
      (recordFits x = false → exec (.queue q) s = .next (answer read r 0x08 0)) ∧
      (recordFits x = true → exec (.queue q) s = .next (answer (read.setQrec p { y with
        state := x.getLsbD 0, priv := x.getLsbD 1, account := x.extractLsb' 6 10, part := x.extractLsb' 16 5, pasid := x.extractLsb' 32 20,
        sqbase := x.extractLsb' 64 64, sqlog := x.extractLsb' 128 5, cqbase := x.extractLsb' 192 64, cqlog := x.extractLsb' 256 5,
        rvalid := x.getLsbD 320, vector := x.extractLsb' 321 11, count := x.extractLsb' 332 8, timer := x.extractLsb' 340 16,
        wdog := x.extractLsb' 384 32 }) r 0 0)))

/-- SAVEIO and CXL.mem accesses (12 R278, 04 R114, 10 R235): bytes are copied out of or into the save region of a stopped task; a host
access to host memory is made at once; one to device memory enters at the HCP, line by line, and performs at the home of its bytes; one to
storage that no pitch in force covers reaches nothing. A region that reads as poison is not copied out (log 78). That the host reads and
writes a line that it holds at once is log 28; the tag and the
agent index of SAVEIO are those of log 25. -/
def Sys2Proof.Spec.DataCommands : Prop :=
  ∀ (s : State), (∀ q r ts u x base, posed s q r 0x1A → s.setOfTag r.a0 = some (ts, u) → u.regionAt r.a1.toNat = some (x, base) →
      x.isStopped = true → s.saveAreaOk x.task.account x.task.context x.task.save.toNat (areaOf x.task.kind) = true → r.a4 ≠ 0 →
      let p := some (s.qrec q).pasid
      let lo := base + r.a3.toNat
      let len := r.a4.toNat
      (r.a5 = 0 → s.reaches (s.issuer q) true r.a2 len = true → s.vaPoison 0 none lo len = none → exec (.saveioRead q) s =
        .next (answer ((s.touchVa 0 none lo len).vaStore 0 p r.a2.toNat (s.vaBytes 0 none lo len)) r 0 0)) ∧
      (r.a5 = 0 → s.reaches (s.issuer q) true r.a2 len = true → s.vaPoison 0 none lo len ≠ none →
        exec (.saveioRead q) s = .next (answer s r 0x0C 0)) ∧
      (r.a5 = 1 → s.reaches (s.issuer q) false r.a2 len = true → exec (.saveioWrite q) s =
        .next (answer ((s.touchFor (s.issuer q) r.a2 len).vaStore 0 none lo (s.vaBytes 0 p r.a2.toNat len)) r 0 0))) ∧
    (∀ (a : W64) len bs cached off, regionOf a.toNat = .host off →
      (2 ^ 57 < a.toNat + bs.length → exec (.hostMemoryAccess a len (.write bs cached)) s = .next s) ∧
      (2 ^ 57 < a.toNat + len → exec (.hostMemoryAccess a len (.read cached)) s = .next s) ∧
      (a.toNat + bs.length ≤ 2 ^ 57 → exec (.hostMemoryAccess a len (.write bs cached)) s = .next (s.vaStore 0 none a.toNat bs)) ∧
      (a.toNat + len ≤ 2 ^ 57 → s.vaPoison 0 none a.toNat len = none →
        exec (.hostMemoryAccess a len (.read cached)) s = .next { s with sent := s.sent ++ [.hostRead a (s.vaBytes 0 none a.toNat len)] })) ∧
    (∀ (a : W64) len (data : Option (List Byte)) cached, (∀ off, regionOf a.toNat ≠ .host off) →
      let k := (data.map List.length).getD len
      let op : HostOp := match data with
        | some bs => .write bs cached
        | none => .read cached
      let enter (x : Nat × Nat) : Transit :=
        let y := a + BitVec.ofNat 64 x.1
        let h := s.homeAt 0 y.toNat (s.storage 0 none y.toNat)
        { agent := 313, owner := { account := 0, context := 0, pasid := none, tslot := 0, ts := 0, j := 0 }, seq := 0,
          load := .host y x.2 (data.map (fun bs => (bs.drop x.1).take x.2)) cached, passed := .hcp,
          route := if h = .vop then [.vop] else [.vop, h], home := h }
      (s.hostReaches a.toNat k = false → exec (.hostMemoryAccess a len op) s = .next s) ∧
      (s.hostReaches a.toNat k = true →
        (∀ x ∈ s.hostPieces a.toNat k, s.storage 0 none (a + BitVec.ofNat 64 x.1).toNat / 64 ∉ s.hostLines) →
        exec (.hostMemoryAccess a len op) s = .next { s with transit := s.transit ++ (s.hostPieces a.toNat k).map enter }) ∧
      (0 < k → a.toNat % 64 + k ≤ 64 → (∀ j < k, s.isArm (a.toNat + j) = false) → s.hostPieces a.toNat k = [(0, k)])) ∧
    (∀ i e (a : W64) len data cached, atHome s i e → e.load = .host a len data cached →
      let k := (data.map List.length).getD len
      let l := s.storage 0 none a.toNat / 64
      let w : State := { s with transit := s.transit.eraseIdx i }
      let lines := if cached = true ∧ s.hostShared a.toNat = true ∧ l ∉ s.hostLines then s.hostLines ++ [l] else s.hostLines
      (s.hostReaches a.toNat k = false → exec (.perform i) s = .next w) ∧
      (s.hostReaches a.toNat k = true →
        (∀ bs, data = some bs → exec (.perform i) s = .next { w.vaStore 0 none a.toNat bs with hostLines := lines }) ∧
        (data = none → s.vaPoison 0 none a.toNat len = none → exec (.perform i) s = .next { w.touchVa 0 none a.toNat len with
          hostLines := lines, sent := s.sent ++ [.hostRead a (s.vaBytes 0 none a.toNat len)] })))

/-- Agent `m` after `f` has reached its stop requests; an agent without a task is left as it is. -/
def Sys2Proof.Spec.asked (a : Agent) (f : StopReq → StopReq) : Agent := if a.task.isSome then { a with stop := f a.stop } else a

/-- The state of a loom task once its set is discarded: one that has not started is over (13 R298). -/
def Sys2Proof.Spec.unstarted (x : LoomTask) : TStat := if x.stat = .placed ∨ x.stat = .waiting then .ended else x.stat

/-- The tasks of set `ts` and of its conductors' tiles change by `f`; every other set stays. -/
def Sys2Proof.Spec.changed (s t : State) (ts : Nat) (f : LoomTask → LoomTask) : Prop :=
  ∀ k, Tab.get none t.tasksets k =
    if k ∈ ts :: s.tileSets ts then (Tab.get none s.tasksets k).map (fun (u : TaskSet) => { u with tasks := u.tasks.map f })
    else Tab.get none s.tasksets k

/-- DEBUG stop and resume (12 R275, R278, 13 R296), where no agent waits: every agent of a running task of the set, a conductor's tiles
included, is asked to stop, and a task that pre-emption has stopped stays stopped; resume lets the held tasks run again. -/
def Sys2Proof.Spec.DebugCommands : Prop :=
  ∀ (s : State) q r, posed s q r 0x19 →
    (s.setOfTag r.a0 = none → (r.a1 = 1 → exec (.debugStop q) s = .next (answer s r 0x0C 0)) ∧
      (r.a1 = 2 → exec (.debugResume q) s = .next (answer s r 0x0C 0))) ∧
    ∀ ts u, s.setOfTag r.a0 = some (ts, u) →
    (r.a1 = 1 → (∀ m, (s.agent m).inWait = false) →
      ∃ t, exec (.debugStop q) s = .next (answer t r 0 0) ∧ t.mem = s.mem ∧
        (∀ m, ((∃ x ∈ s.tasksWith ts, x.stat = .running ∧ m ∈ x.agents) → t.agent m = asked (s.agent m) (fun z => { z with debug := true })) ∧
          ((∀ x ∈ s.tasksWith ts, x.stat = .running → m ∉ x.agents) → t.agent m = s.agent m)) ∧
        changed s t ts (fun x => if x.stat = .stopped false then { x with stat := .stopped true } else x)) ∧
    (r.a1 = 2 → (∀ x ∈ s.tasksWith ts, x.stat ≠ .stopped true) → exec (.debugResume q) s = .next (answer s r 0x0C 0)) ∧
    (r.a1 = 2 → (∃ x ∈ s.tasksWith ts, x.stat = .stopped true) →
      ((∃ x ∈ s.tasksWith ts, x.stat = .stopped true ∧ ∃ m ∈ x.agents, s.areaOk m (x.region m) x.lightLevels = false) →
        exec (.debugResume q) s = .next (answer s r 0x01 0)) ∧
      ((∀ x ∈ s.tasksWith ts, x.stat = .stopped true → ∀ m ∈ x.agents, s.areaOk m (x.region m) x.lightLevels = true) →
        ∃ t, exec (.debugResume q) s = .next (answer t r 0 0) ∧ t.mem = s.mem ∧ t.agents = s.agents ∧
          changed s t ts (fun x => if x.stat = .stopped true then { x with stat := .stopped false } else x)))

/-- SLICE_EXPIRY, WATCHDOG_EXPIRY and DRAIN_FORCE_STOP (13 R291, R297, R298), where no agent waits. The slice of a task that runs, or whose
tiles hold its loom still, reaches as it ends the agents of the loom, tiles included; a tile has none of its own. A drain asks the agents on
the set's looms for the watchdog's stop and those on the partition's other looms for a
pre-emption; every other agent stays as it is. An agent that has not stopped 4,096 bundles after its request ends with its interval discarded,
and no other agent changes. -/
def Sys2Proof.Spec.StopRequests : Prop :=
  ∀ (s : State), (∀ m, (s.agent m).inWait = false) →
    (∀ ts j u x, Tab.get none s.tasksets ts = some u → u.tasks[j]? = some x →
      let goes := (x.stat = .running ∨ s.tilesHold ts j = true) ∧ x.slice ≤ x.held ∧ ∀ n p i, u.source ≠ .conductor n p i
      (goes → ∃ t, exec (.sliceExpiry ts j) s = .next t ∧ t.mem = s.mem ∧ t.tasksets = s.tasksets ∧
          ∀ m, t.agent m = if m ∈ loomAgents (loomOf x.agent) then
            asked (s.agent m) (fun z => { z with preempt := some (z.preempt.getD 0) }) else s.agent m) ∧
      (¬ goes → exec (.sliceExpiry ts j) s = .next s)) ∧
    (∀ ts u q tag k, Tab.get none s.tasksets ts = some u → u.source = .queue q tag k → u.overdue = false →
      (Tab.get Partition.reset s.parts u.part.toNat).stopping = false →
      (((s.qrec q).wdog = 0 ∨ u.heldTicks ≤ (s.qrec q).wdog.toNat) → exec (.watchdogExpiry ts) s = .next s) ∧
      ((s.qrec q).wdog ≠ 0 → (s.qrec q).wdog.toNat < u.heldTicks →
        let hers := s.heldLooms ts u
        let mine (m : Nat) : Bool := hers.any (fun l => (loomAgents l).contains m)
        let beside (m : Nat) : Bool := (s.loomsOf u.part.toNat).any (fun l => !hers.contains l && (loomAgents l).contains m)
        ∃ t, exec (.watchdogExpiry ts) s = .next t ∧ t.mem = s.mem ∧
          (∀ p, Tab.get Partition.reset t.parts p = { Tab.get Partition.reset s.parts p with
            stopping := (Tab.get Partition.reset s.parts p).stopping || p == u.part.toNat }) ∧
          (∃ xs, closed u.tasks xs unstarted ∧ Tab.get none t.tasksets ts = some { u with overdue := true, tasks := xs }) ∧
          (∀ p, p ≠ ts → Tab.get none t.tasksets p = Tab.get none s.tasksets p) ∧
          ∀ m, t.agent m = asked (s.agent m) (fun z => { z with
            watchdog := if mine m then some (z.watchdog.getD 0) else z.watchdog
            preempt := if beside m then some (z.preempt.getD 0) else z.preempt }))) ∧
    (∀ (k : BitVec 9) c, let n := k.toNat
      s.members n = [n] → (s.agent n).task ≠ none → (s.agent n).stop.watchdog = some c →
      (c < 4096 → exec (.drainForceStop k) s = .next s) ∧
      (4096 ≤ c → ∃ t, exec (.drainForceStop k) s = .next t ∧ ended s t n ∧
        ∀ u x, let w := (s.agent n).who
          Tab.get none s.tasksets w.ts = some u → u.tasks[w.j]? = some x → x.stat ≠ .ended →
          ∃ v y, Tab.get none t.tasksets w.ts = some v ∧ 4 ≤ v.code.toNat ∧ v.tasks[w.j]? = some y ∧ y.stat = .ended))

/-- FWPATCH and FWSTAGE (15 R326–R329, 23 R372): a patch file for the image in use leaves its valid entries in the patch RAM; an image that
the firmware key accepts, no older than the kept version, takes the slot that is not in use. The digest and the checks of a signature are
functions without a body (log 6). -/
def Sys2Proof.Spec.FirmwareCommands : Prop :=
  ∀ (s : State) q r, let va := r.a0.toNat
    let p := some (s.qrec q).pasid
    let hdr := s.vaBytes 0 p va 64
    let count := numAt hdr 4 4
    let len := numAt hdr 8 4
    let image := if s.fw.useB then s.fw.imageB else s.fw.imageA
    let head := s.touchFor (s.issuer q) r.a0 64
    let file := head.touchFor (s.issuer q) r.a0 len
    (posed s q r 0x1B → s.reaches (s.issuer q) false r.a0 64 = false → exec (.fwpatch q) s = .next (answer s r 0x0C 0)) ∧
    (posed s q r 0x1B → s.reaches (s.issuer q) false r.a0 64 = true →
      (numAt hdr 0 4 ≠ 1 ∨ count = 0 ∨ 64 < count ∨ len ≠ 64 + 1024 * count ∨ numAt hdr 12 4 ≠ 0) →
      exec (.fwpatch q) s = .next (answer head r 0x08 0)) ∧
    (posed s q r 0x1B → s.reaches (s.issuer q) false r.a0 64 = true → numAt hdr 0 4 = 1 → 1 ≤ count → count ≤ 64 →
      len = 64 + 1024 * count → numAt hdr 12 4 = 0 → s.reaches (s.issuer q) false r.a0 (64 + 1024 * count) = true →
      (numAt hdr 16 48 ≠ ((Config.sha512 image).extractLsb' 0 384).toNat → exec (.fwpatch q) s = .next (answer file r 0x0B 0)) ∧
      (numAt hdr 16 48 = ((Config.sha512 image).extractLsb' 0 384).toNat →
        let left := ((List.range count).map (fun k => s.vaBytes 0 p (va + 64 + 1024 * k) 1024)).foldl (s.fw.takeEntry s.cfg.fwkey)
          (s.fw.patches, 0)
        exec (.fwpatch q) s = .next (answer { file with fw := { s.fw with patches := left.1 } } r (if left.2 = count then 0x0B else 0)
          (BitVec.ofNat 64 left.2)))) ∧
    (posed s q r 0x1C → s.reaches (s.issuer q) false r.a0 r.a1.toNat = false → exec (.fwstage q) s = .next (answer s r 0x0C 0)) ∧
    (posed s q r 0x1C → s.reaches (s.issuer q) false r.a0 r.a1.toNat = true →
      let bs := s.vaBytes 0 p va r.a1.toNat
      let file := s.touchFor (s.issuer q) r.a0 r.a1.toNat
      ((Config.imageVerifies s.cfg.fwkey bs = false ∨ Config.imageVersion bs < s.fw.keptVersion) →
        exec (.fwstage q) s = .next (answer file r 0x0B 0)) ∧
      (Config.imageVerifies s.cfg.fwkey bs = true → s.fw.keptVersion ≤ Config.imageVersion bs →
        ∃ f, exec (.fwstage q) s = .next (answer { file with fw := f } r 0 0) ∧ f.staged = true ∧ f.useB = s.fw.useB ∧
          f.patches = s.fw.patches ∧ (if f.useB then f.imageB else f.imageA) = image ∧ (if f.useB then f.imageA else f.imageB) = bs))

/-- One entry of a patch file (15 R327, R328): refused without a valid signature over its first 512 bytes, below the kept version or with the
patch RAM full; else it stands at its address, in address order, every other entry stays, and the control store reads it there in place of
the image's word (log 65). -/
def Sys2Proof.Spec.PatchEntries : Prop :=
  ∀ (f : Firmware) key ps k bs, let a : BitVec 12 := BitVec.ofNat 12 (numAt bs 0 2)
    let w : BitVec 96 := BitVec.ofNat 96 (numAt bs 2 12)
    let signed := Config.signatureVerifies key (bs.take 512) (bs.drop 512)
    ((signed = false ∨ numAt bs 14 4 < f.keptVersion ∨ (64 ≤ ps.length ∧ ∀ p ∈ ps, p.1 ≠ a)) →
      f.takeEntry key (ps, k) bs = (ps, k + 1)) ∧
    (signed = true → f.keptVersion ≤ numAt bs 14 4 → (ps.length < 64 ∨ ∃ p ∈ ps, p.1 = a) →
      List.Pairwise (fun x y => x.1.toNat < y.1.toNat) ps →
      ∃ l, f.takeEntry key (ps, k) bs = (l, k) ∧ List.Pairwise (fun x y => x.1.toNat < y.1.toNat) l ∧
        (∀ x, x ∈ l ↔ x = (a, w) ∨ (x ∈ ps ∧ x.1 ≠ a)) ∧ ∀ c,
          Firmware.word { f with patches := l } c = if c = a then w else Firmware.word { f with patches := ps } c)

/-- The device's pitches as an update resets it (15 R329 step 3, 04 R102): those of tiers 0 to 3 are vacated with the refund of R102; one of
HBM or the far tier stays as it is but for the accesses that the reset ends, with which an overstay lapses. Accounts that hold no such pitch,
memory, agents, queue records and what has been sent stay. -/
def Sys2Proof.Spec.DeviceVacated : Prop :=
  ∀ (s : State), (s.pitches.map (·.1)).Nodup → (∀ k, (s.pitch k).inflight = 0 ∨ (s.pitch k).att.getLsbD 0 = false) →
    let w := s.vacateDevice
    let kept (p : Pitch) : Prop := p.inflight = 0 ∧ (4 ≤ p.tier.toNat ∨ (p.state ≠ .leased ∧ p.state ≠ .tentative))
    w.mem = s.mem ∧ w.agents = s.agents ∧ w.queues = s.queues ∧ w.requests = s.requests ∧ w.sent = s.sent ∧ w.now = s.now ∧ w.fw = s.fw ∧
      (∀ acct, (∀ k, (s.pitch k).account = acct → kept (s.pitch k)) → w.account acct = s.account acct) ∧
      ∀ k, let p := s.pitch k
        let y := w.pitch k
        let c := s.account p.account
        let refund := (p.paid - s.now.toNat - 1) * p.length * p.rate
        (kept p → y = p) ∧
        (p.inflight = 0 → p.tier.toNat ≤ 3 → p.state = .leased ∨ p.state = .tentative →
          y.state = .scrubbing ∧ y.vacated = true ∧ y.subs = []) ∧
        (p.inflight = 0 → p.tier.toNat ≤ 3 → p.state = .leased → (∀ j, j ≠ k → (s.pitch j).account = p.account → kept (s.pitch j)) →
          counts64 (c.committed.toInt + refund) → (w.account p.account).committed.toInt = c.committed.toInt + refund) ∧
        (p.inflight ≠ 0 → 4 ≤ p.tier.toNat → p.state = .leased → s.expiryDue k = false → p.vacWhenIdle = false →
          y = { p with inflight := 0 }) ∧
        (p.inflight ≠ 0 → 4 ≤ p.tier.toNat → p.state = .overstay ∨ s.expiryDue k = true → y.state = .lapsed ∧ y.inflight = 0)

/-- FWUPDATE and its timeout (15 R329): the request first stops placement and waits; once no task set runs the other image is in use, the
update completes OK, the device is at its reset state with an empty patch RAM, its core, canopy and loom stores empty and their pitches
vacated, while HBM, the far tier, the accounts and RENTNOW stay; the records come back, one under TDISP in its error state, an EVENT 0x02
goes to the privileged interfaces and the rings are fetched again. A deadline that passes first ends the update BUSY, and so does a second
FWUPDATE. -/
def Sys2Proof.Spec.FirmwareUpdate : Prop :=
  ∀ (s : State),
    (∀ q r, posed s q r 0x1D → s.fw.staged = false → s.fw.updating = none → exec (.fwupdate q) s = .next (answer s r 0x0C 0)) ∧
    (∀ q r, posed s q r 0x1D → s.fw.staged = true → s.fw.updating = none → (s.qrec q).sqhead.toNat < 2 ^ (s.qrec q).sqlog.toNat →
      exec (.fwupdate q) s = .next { s with
        fw := { s.fw with updating := some (q, r.tag, s.now.toNat + r.a0.toNat) }
        queues := Tab.set QRec.reset s.queues q.toNat (s.qrec q) }) ∧
    (∀ q r p tag k, posed s q r 0x1D → s.fw.staged = true → s.fw.updating = some (p, tag, k) → p ≠ q →
      (∃ x ∈ s.requests, x.q = p ∧ x.opcode = 0x1D ∧ x.tag = tag) → exec (.fwupdate q) s = .next (answer s r 0x07 0)) ∧
    (∀ q r k, posed s q r 0x1D → s.fw.staged = true → s.fw.updating = some (q, r.tag, k) →
      (s.anyRunning = true → exec (.fwupdate q) s = .next s) ∧
      (s.anyRunning = false →
        let w := (s.dropReq r).vacateDevice
        let u := w.postDone q r.tag 0 0
        let v := u.fwReset
        exec (.fwupdate q) s = .next (v.postEvent 0x2).fetchAll ∧
        v.fw = { s.fw with useB := !s.fw.useB, staged := false, patches := [], updating := none } ∧
        v.agents = [] ∧ v.tasksets = [] ∧ v.running = [] ∧ v.transit = [] ∧ v.arrivals = [] ∧ v.parts = [] ∧
        v.now = s.now ∧ v.pitches = w.pitches ∧ v.accounts = w.accounts ∧ v.sent = u.sent ∧ v.requests = w.requests ∧
        (∀ p, let y := u.qrec p
          v.qrec p = { y with state := y.state && y.layout == 1, tdisp := if y.tdisp = 1 ∨ y.tdisp = 2 then 3 else y.tdisp }) ∧
        ∀ y, v.mem.read y = if y < 2 ^ 60 ∨ 2 ^ 64 ≤ y then u.mem.read y else 0)) ∧
    (∀ q r k, posed s q r 0x1D → s.fw.updating = some (q, r.tag, k) →
      (s.anyRunning = true → k ≤ s.now.toNat →
        exec .fwupdateTimeout s = .next (answer { s with fw := { s.fw with updating := none } } r 0x07 0).fetchAll) ∧
      ((s.anyRunning = false ∨ s.now.toNat < k) → exec .fwupdateTimeout s = .next s)) ∧
    (s.fw.updating = none → exec .fwupdateTimeout s = .next s)

/-- TDISP and SPDM messages (15 R325, R330), where no agent waits. An interface that leaves CONFIG_LOCKED or RUN for neither has its task sets
discarded first, which post nothing, and is served no more until they are gone; then it keeps only LAYOUT of its record and drops its
requests. A measurement is the digest of what it measures, with a signature over it under the attestation key, a free value (log 6). What a
message clears, and that it waits for the task sets, is log 24. -/
def Sys2Proof.Spec.SecurityMessages : Prop :=
  ∀ (s : State) q (st : BitVec 2) (k : Byte), let r := s.qrec q
    let locked := r.tdisp = 1 ∨ r.tdisp = 2
    let own (u : TaskSet) : Bool := match u.source with
      | .queue p _ _ => p == q
      | _ => false
    let hers (u : TaskSet) : Prop := own u = true ∨ u.source = .silent q
    let cleared : QRec :=
      { state := false, priv := false, tdisp := st, prio := 0, account := 0, part := 0, pasid := 0, sqbase := 0, sqlog := 0, sqhead := 0,
        sqtail := 0, cqbase := 0, cqlog := 0, cqtail := 0, phase := false, rvalid := false, vector := 0, count := 0, timer := 0, wdog := 0,
        errcnt := 0, layout := r.layout, unsignalled := 0, firstAt := 0, leaving := none }
    (r.leaving = none → (¬ locked ∨ st = 1 ∨ st = 2) → exec (.tdispMessage q st) s = .next (s.setQrec q { r with tdisp := st })) ∧
    (∀ z, r.leaving = some z → exec (.tdispMessage q st) s = .next (s.setQrec q { r with leaving := some st })) ∧
    (r.leaving = none → locked → st ≠ 1 → st ≠ 2 → (s.tasksets.map (·.1)).Nodup → (∀ m, (s.agent m).inWait = false) →
      ((∀ ts u, Tab.get none s.tasksets ts = some u → ¬ hers u) →
        ∃ t, exec (.tdispMessage q st) s = .next t ∧ (∀ x ∈ t.requests, x.q ≠ q) ∧ t.qrec q = cleared ∧ t.agents = s.agents ∧
          t.tasksets = s.tasksets) ∧
      ((∃ ts u, Tab.get none s.tasksets ts = some u ∧ hers u) →
        ∃ t, exec (.tdispMessage q st) s = .next t ∧ t.requests = s.requests ∧ t.qrec q = { r with leaving := some st } ∧ t.mem = s.mem ∧
          t.sent = s.sent ∧
          (∀ ts, Tab.get none s.tasksets ts = none → Tab.get none t.tasksets ts = none) ∧
          (∀ ts u, Tab.get none s.tasksets ts = some u → (own u = false → Tab.get none t.tasksets ts = some u) ∧
            (own u = true → ∃ xs, closed u.tasks xs unstarted ∧
              Tab.get none t.tasksets ts = some { u with source := .silent q, overdue := true, tasks := xs })) ∧
          ∀ m, let held := ∃ ts u l, Tab.get none s.tasksets ts = some u ∧ own u = true ∧ l ∈ s.heldLooms ts u ∧ m ∈ loomAgents l
            (held → t.agent m = asked (s.agent m) (fun z => { z with watchdog := some (z.watchdog.getD 0) })) ∧
            (¬ held → t.agent m = s.agent m))) ∧
    (∀ bs : List Byte, ((k = 1 ∧ bs = if s.fw.useB then s.fw.imageB else s.fw.imageA) ∨ (k = 2 ∧ bs = s.fw.patchBytes) ∨
        (k = 3 ∧ bs = s.cfg.bytes) ∨ (k = 4 ∧ bs = r.bytes)) →
      let d := Config.sha512 bs
      exec (.spdmMessage q k) s = .next { s with
        sent := s.sent ++ [.spdm k d ((List.range 512).map (Config.signature s.attestKey (k :: bytesOf d 64) s.freeCtr))]
        freeCtr := s.freeCtr + 1 }) ∧
    ((k = 0 ∨ 4 < k.toNat) → exec (.spdmMessage q k) s = .next s)

/-- Notify writes and the message timer (15 R318, R323, R329): a disabled interface takes none, a write of another offset or size counts and
changes nothing, and during a firmware update the ring is left as it is. -/
def Sys2Proof.Spec.NotifyWrites : Prop :=
  ∀ (s : State) q (v : W64), let r := s.qrec q
    let size := 2 ^ r.sqlog.toNat
    let tail := v.toNat % 2 ^ 16
    let k := (tail + size - r.sqhead.toNat % size) % size
    let req (i : Nat) : Req := reqOf q (s.reqNo + i) r.prio
      (BitVec.ofNat 512 (s.mem.num (hostAddr (r.sqbase.toNat + 64 * ((r.sqhead.toNat + i) % size))) 64))
    let bad := { r with errcnt := if r.errcnt = BitVec.allOnes 32 then r.errcnt else r.errcnt + 1 }
    (r.state = false → exec (.notifyTail q v) s = .next s ∧ exec (.notifyPrio q v) s = .next s ∧
      ∀ (off : BitVec 12) n, exec (.notifyInvalidWrite q off n) s = .next s) ∧
    (r.state = true → tail < size → s.fw.updating ≠ none →
      exec (.notifyTail q v) s = .next (s.setQrec q { r with sqtail := v.setWidth 16 })) ∧
    (r.state = true → size ≤ tail → exec (.notifyTail q v) s = .next (s.setQrec q bad)) ∧
    (r.state = true → tail < size → s.fw.updating = none → (∀ x ∈ s.requests, x.q ≠ q) → (∀ i < k, (req i).malformed = false) →
      exec (.notifyTail q v) s = .next (State.setQrec { s with requests := s.requests ++ (List.range k).map req, reqNo := s.reqNo + k } q
        { r with sqtail := v.setWidth 16, sqhead := v.setWidth 16 })) ∧
    (r.state = true → exec (.notifyPrio q v) s = .next (s.setQrec q { r with prio := v.setWidth 2 })) ∧
    (∀ (off : BitVec 12) n, r.state = true → ((off ≠ 0 ∧ off ≠ 8) ∨ (n ≠ 4 ∧ n ≠ 8)) →
      exec (.notifyInvalidWrite q off n) s = .next (s.setQrec q bad)) ∧
    (r.rvalid = true → 0 < r.unsignalled → r.timer ≠ 0 → r.firstAt + r.timer.toNat ≤ s.now.toNat →
      exec (.msixTimer q) s = .next (State.setQrec { s with sent := s.sent ++ [.msix r.vector] } q { r with unsignalled := 0 }))

/-! ## The statements: Rhory -/

/-- The registers `g` are those that the save region at `base` holds (12 R276–R278, 13 R293); of a full save, the vector, predicate and
interval registers, the shape records and every loop level too, of a light one the active levels. The PC and the loop stack are those of the
region that the lead `lm` has at `lbase`: rank 0's of a gang, else the agent's own (02 R61). -/
def Sys2Proof.Spec.readBack (s : State) (m base lm lbase : Nat) (g : Regs) : Prop :=
  let v (o k : Nat) : Nat := natOfBytes (s.vaBytes m none (base + o) k)
  let b (o : Nat) : Byte := BitVec.ofNat 8 (v o 1)
  let d (o : Nat) : W64 := BitVec.ofNat 64 (v o 8)
  let vl (o k : Nat) : Nat := natOfBytes (s.vaBytes lm none (lbase + o) k)
  let dl (o : Nat) : W64 := BitVec.ofNat 64 (vl o 8)
  g.pc = dl 0x08 ∧ (∀ k < 31, Tab.get 0 g.s (k + 1) = d (0x48 + 8 * k)) ∧ (∀ k < 16, Tab.get 0 g.a k = d (0x140 + 8 * k)) ∧
    g.ma = b 0x18 ∧ g.mb = b 0x19 ∧ g.aout = b 0x1A ∧ g.vin = b 0x1B ∧ g.vout = b 0x1C ∧ g.rnd = b 0x1D ∧
    g.rsr = BitVec.ofNat 48 (v 0x20 6) ∧ g.ufvec = d 0x1C0 ∧ g.uivec = d 0x1C8 ∧ g.ithr = d 0x1D0 ∧ g.seqlen = d 0x1D8 ∧
    g.kvbase = d 0x1E0 ∧ g.kvslot = d 0x1E8 ∧ g.kvtok = d 0x1F0 ∧ g.kvlayer = d 0x1F8 ∧ g.devthr = d 0x200 ∧ g.docreg = d 0x208 ∧
    g.srseed = d 0x210 ∧ g.npf = (v 7 1).testBit 2 ∧ g.uimask = (v 7 1).testBit 0 ∧
    (∀ c < 7, Tab.get 0 g.next c = d (0x2A0 + 32 * c) - 1 ∧ Tab.get 0 g.noteReq c = d (0x2A8 + 32 * c)) ∧
    g.active = BitVec.ofNat 1 (v 0x2C 1) ∧ g.kc = BitVec.ofNat 7 (v 0x2D 1) ∧ g.frame0 = BitVec.ofNat 9 (v 0x2E 2) ∧
    g.frame1 = BitVec.ofNat 9 (v 0x30 2) ∧ g.repn = b 0x34 ∧ g.repw = BitVec.ofNat 32 (v 0x38 4) ∧
    (∀ l < 6, let x := Tab.get Level.reset g.levels l
      (vl 4 1 ≠ 1 ∨ (vl 6 1).testBit l = true) → x.act = (vl 6 1).testBit l ∧ x.count = dl (0x380 + 48 * l) ∧
        x.index = dl (0x388 + 48 * l) ∧ x.start = dl (0x390 + 48 * l) ∧ x.last = dl (0x398 + 48 * l)) ∧
    (v 4 1 ≠ 1 → (∀ k < 32, Tab.get 0 g.v k = BitVec.ofNat 4096 (v (0x1100 + 512 * k) 512)) ∧
      (∀ k < 7, Tab.get 0 g.p (k + 1) = BitVec.ofNat 128 (v (0x5110 + 16 * k) 16)) ∧
      (∀ k < 16, Tab.get 0 g.i k = BitVec.ofNat 4096 (v (0x5180 + 512 * k) 512)) ∧
      ∀ k < 24, Tab.get Shape.reset g.shapes k = s.readShape m (base + 0xAA0 + 64 * k)) ∧
    (v 4 1 = 1 → g.v = [] ∧ g.p = [] ∧ g.i = [])

/-- TASK_PLACEMENT (13 R284, R290, R293, R295, R296, 12 R278): the next loom task of a partition takes a free loom with a new slice, or
resumes, a conductor with its stopped tiles: each agent goes on with the registers, the shadow bank and the checkpoint address of its save
region, the ranks of a gang with the PC and loop stack of rank 0. -/
def Sys2Proof.Spec.TasksPlaced : Prop :=
  ∀ (s : State) (part : BitVec 5) ts j u x, let p := Tab.get Partition.reset s.parts part.toNat
    (p.stopping = true ∨ s.fw.updating ≠ none ∨ s.nextTask part.toNat = none → exec (.taskPlacement part) s = .next s) ∧
    (p.stopping = false → s.fw.updating = none → s.nextTask part.toNat = some (ts, j) → Tab.get none s.tasksets ts = some u →
      u.tasks[j]? = some x →
      (∀ l, x.stat = .waiting → (s.beginSlice ts j part.toNat x).pickLoom u j x = some l →
        ∃ t v y, exec (.taskPlacement part) s = .next t ∧ t.agents = s.agents ∧ t.mem = s.mem ∧ Tab.get none t.tasksets ts = some v ∧
          v.tasks[j]? = some y ∧ y.stat = .placed ∧ y.agent = firstAgent u.hdr l ∧ y.held = 0 ∧
          y.slice = max p.slice.toNat (if x.lightStop then 8 else 36)) ∧
      (let g := s.resumeGroup ts j x;
        x.stat = .stopped false → (s.tasksets.map (·.1)).Nodup → (g.flatMap (fun y => y.2.2.agents)).Nodup → (∀ y ∈ g, y.2.2.graph = []) →
        ∃ t, exec (.taskPlacement part) s = .next t ∧ t.mem = s.mem ∧ ∀ y ∈ g,
          (∃ v z, Tab.get none t.tasksets y.1 = some v ∧ v.tasks[y.2.1]? = some z ∧ z.stat = .running ∧ z.agent = y.2.2.agent) ∧
          ∀ m ∈ y.2.2.agents, let base := y.2.2.region m
            let b := t.agent m
            let lm := if y.2.2.task.kind = 1 then y.2.2.agents.headD m else m
            b.task = some y.2.2.task ∧ b.mode = .task ∧ b.journal = [] ∧ b.touched = [] ∧ b.flight = [] ∧ b.wb = [] ∧
              readBack s m base lm (y.2.2.region lm) b.r ∧ b.ckpc = BitVec.ofNat 64 (natOfBytes (s.vaBytes m none (base + 0x10) 8)) ∧
              (∀ k < 8, Tab.get 0 b.shadow.s (24 + k) = BitVec.ofNat 64 (natOfBytes (s.vaBytes m none (base + 0x240 + 8 * k) 8))) ∧
              ∀ k < 4, Tab.get 0 b.shadow.a (12 + k) = BitVec.ofNat 64 (natOfBytes (s.vaBytes m none (base + 0x280 + 8 * k) 8))))

/-- The choice of the next loom task and of its loom (13 R284, R290). Of the tasks of a partition that can be placed the next has the lowest
pass, then the lowest account, the highest class and the earliest acceptance, in the order of its set. A waiting task takes a loom of its
partition that fits: of the first die that has one, the dies in turn from the task's number on, the lowest. That the tasks of one set come in
their order, that the dies are counted upwards and that the lowest loom is taken is log 93. -/
def Sys2Proof.Spec.TasksChosen : Prop :=
  ∀ (s : State) (part : Nat),
    let can (ts j : Nat) (u : TaskSet) (x : LoomTask) : Prop := Tab.get none s.tasksets ts = some u ∧ u.tasks[j]? = some x ∧
      u.part.toNat = part ∧ u.overdue = false ∧ s.placeable u ts j x = true
    let key (ts j : Nat) (u : TaskSet) (x : LoomTask) : List Nat :=
      [s.passOf part x.task.account.toNat, x.task.account.toNat, 3 - u.cls.toNat, ts, j]
    ((s.tasksets.map (·.1)).Nodup →
      (s.nextTask part = none ↔ ∀ ts j u x, ¬ can ts j u x) ∧
      ∀ ts j, s.nextTask part = some (ts, j) →
        ∃ u x, can ts j u x ∧ ∀ ts' j' u' x', can ts' j' u' x' → ¬ key ts' j' u' x' < key ts j u x) ∧
    ∀ (u : TaskSet) j x, let ls := s.loomsOf u.part.toNat
      let dies := (ls.map (· / 6)).dedup
      let turn (l : Nat) : Nat := (dies.idxOf (l / 6) + dies.length - j % max 1 dies.length) % max 1 dies.length
      (s.pickLoom u j x = none ↔ ∀ l ∈ ls, s.loomFits u x l = false) ∧
      ∀ l, s.pickLoom u j x = some l → l ∈ ls ∧ s.loomFits u x l = true ∧
        ∀ m ∈ ls, s.loomFits u x m = true → turn l < turn m ∨ (turn l = turn m ∧ l ≤ m)

/-- TASK_START (13 R281, R286, R298, 02 R46, 09 R210): the agents of a placed task begin at its PC with the arguments in s1 to s8, the CSRs of
the parameter block, s31 zero, every loop level inactive, UIMASK clear and no note pending, and their timeline slot's cells zero, once no
operation of an earlier holder and no stopped task keeps that slot and no drain holds the partition; a launch that no longer passes its checks
ends. -/
def Sys2Proof.Spec.TasksStart : Prop :=
  ∀ (s : State) ts j u x, Tab.get none s.tasksets ts = some u → u.tasks[j]? = some x → x.stat = .placed →
    let free := (Tab.get Partition.reset s.parts u.part.toNat).stopping = false ∧
      ∀ m ∈ x.agents, s.slotFree m x.task.tslot = true ∧ s.slotHeld m x.task.tslot = false
    let p := s.vaBytes x.agent none (hdrParam u.hdr).toNat 192
    let others : State := { s with tasksets := Tab.set none s.tasksets ts none }
    let okay := others.launchOk (some x.agent) (whoOf u.hdr u.pasid ts j) u.part.toNat u.hdr
    (¬ free → exec (.taskStart ts j) s = .next s) ∧
    (free → okay = true → ∃ t v y, exec (.taskStart ts j) s = .next t ∧ t.mem = s.mem ∧ Tab.get none t.tasksets ts = some v ∧
      v.tasks[j]? = some y ∧ y.stat = .running ∧ y.agent = x.agent ∧
      (∀ m, m ∉ x.agents → t.agent m = s.agent m) ∧ ∀ m ∈ x.agents, (t.agent m).task = some y.task ∧ (t.agent m).mode = .task ∧
        (t.agent m).r.pc = hdrPc u.hdr ∧ (t.agent m).dup = (t.agent m).r ∧
        (∀ k < 7, (t.agent m).getS (BitVec.ofNat 5 (k + 1)) = BitVec.ofNat 64 (numAt p (8 * k) 8)) ∧
        (t.agent m).getS 8 = (if 1 < u.tasks.length then BitVec.ofNat 64 j else BitVec.ofNat 64 (numAt p 0x38 8)) ∧
        (let g := (t.agent m).r
          let d (o : Nat) : W64 := BitVec.ofNat 64 (numAt p o 8)
          g.seqlen = d 0x40 ∧ g.kvbase = d 0x48 ∧ g.kvslot = d 0x50 ∧ g.kvtok = d 0x58 ∧ g.kvlayer = d 0x60 ∧
            g.devthr = BitVec.ofNat 64 (numAt p 0x68 4) ∧ g.docreg = d 0x70 ∧ g.srseed = d 0x78 ∧ (t.agent m).getS 31 = 0 ∧
            (∀ l < 6, ((t.agent m).level l).act = false) ∧ g.uimask = false ∧ ∀ c, Tab.get none g.notes c = none) ∧
        ∀ c < 7, (t.agent m).ctx y.task.tslot.toNat c = EngCtx.reset) ∧
    (free → okay = false → ∃ t v y, exec (.taskStart ts j) s = .next t ∧ t.mem = s.mem ∧ t.agents = s.agents ∧
      Tab.get none t.tasksets ts = some v ∧ v.tasks[j]? = some y ∧ y.stat = .ended ∧ 1 ≤ v.code.toNat)

/-- DEPENDENCE_MET (13 R287, R290): a read of the cell that finds the count makes the set ready, one that is refused or that meets poison (log
78) ends it; once the cell's pitch has gone, whether the condition held until then decides. While the pitch has reached its expiry and has
not lapsed nothing is decided (log 79). The read is an access like any other (04 R114, 14 R310). -/
def Sys2Proof.Spec.DependencesMet : Prop :=
  ∀ (s : State) ts u, Tab.get none s.tasksets ts = some u → u.ready = false → (∃ x ∈ u.tasks, x.stat ≠ .ended) →
    let w := whoOf u.hdr u.pasid ts 0
    let va := hdrDep u.hdr
    let d := s.depState nobody w u.hdr u.dep
    let read := if va = 0 then s else s.touchVa nobody w.pasid va.toNat 8
    let off (c : Byte) : Prop := ∃ t, exec (.dependenceMet ts) s = .next t ∧ t.mem = s.mem ∧ t.agents = s.agents ∧
      Tab.get none t.tasksets ts = some { u with code := c, tasks := u.tasks.map (fun (x : LoomTask) => { x with stat := .ended }) }
    (u.dep = some true → d = .met) ∧ (u.dep = some false → d = .ends 0x02) ∧ (u.dep = none → va = 0 → d = .met) ∧
    (u.dep = none → va ≠ 0 → regionOf va.toNat = .rented → let no := s.refuses nobody w askLoad va 8
      (∀ z, no = some z → d = if (z.1 = 0x08 ∨ z.1 = 0x09) ∧ s.expiring nobody va = true then .unmet else .ends 0x01) ∧
      (no = none → s.vaPoison nobody w.pasid va.toNat 8 ≠ none → d = .ends 0x01) ∧
      (no = none → s.vaPoison nobody w.pasid va.toNat 8 = none →
        d = if (hdrDepcount u.hdr).toNat ≤ natOfBytes (s.vaBytes nobody w.pasid va.toNat 8) then .met else .unmet)) ∧
    (d = .met → ∃ t, exec (.dependenceMet ts) s = .next t ∧
      Tab.get none t.tasksets ts = some { u with ready := true } ∧ t.mem = s.mem ∧ t.agents = s.agents ∧
      joined s t u.part.toNat (hdrAccount u.hdr).toNat) ∧
    (d = .unmet → exec (.dependenceMet ts) s = .next read) ∧
    (∀ c, d = .ends c → u.code = 0 → (∀ x ∈ u.tasks, x.due = false) → off c)

/-- TILE_LAUNCH_START (13 R287, R296, 20 R360): a conductor's launches start in release order, and one whose loom, rank or timeline slot is
not free, or whose dependence is still open, holds back those behind it; the tile begins at its PC on the rank that its header names and takes
over the stop requests of its conductor (log 38); a start that its checks refuse writes REFUSED to DONE, a dependence that cannot be met its
own code. -/
def Sys2Proof.Spec.TilesStart : Prop :=
  ∀ (s : State) (k : BitVec 9) pre w (l : Launch) post, let n := k.toNat
    let h := l.hdr
    let m := 12 * loomOf n + hdrRank h
    let who := whoOf h w.pasid (s.nextTs + 1) 0
    let dep := s.tileDep n w l
    let rest := State.touchDep { s with tileLaunches := s.tileLaunches.erase (n, w, l) } n who h
    let free := dep ≠ .unmet ∧ s.ownsLoom n w = true ∧ (Tab.get Partition.reset s.parts l.part.toNat).stopping = false ∧
      (s.agent m).task = none ∧ s.slotFree m (hdrTslot h) = true ∧ s.slotHeld m (hdrTslot h) = false
    s.tileLaunches = pre ++ (n, w, l) :: post → (∀ z ∈ pre, z.1 ≠ n) →
    (¬ free → exec (.tileLaunchStart k) s = .next s) ∧
    (∀ c, free → dep = .ends c → exec (.tileLaunchStart k) s = .next (rest.writeDone m who (hdrDone h) c)) ∧
    (free → dep = .met → rest.tileOk m who l.part.toNat h = false →
      exec (.tileLaunchStart k) s = .next (rest.writeDone m who (hdrDone h) 0x01)) ∧
    (free → dep = .met → rest.tileOk m who l.part.toNat h = true →
      ∃ t v, exec (.tileLaunchStart k) s = .next t ∧ t.tileLaunches = rest.tileLaunches ∧ t.mem = s.mem ∧ t.nextTs = s.nextTs + 1 ∧
        Tab.get none t.tasksets (s.nextTs + 1) = some v ∧ v.source = .conductor n w.ts w.j ∧ v.hdr = h ∧ v.part = l.part ∧ v.cls = l.cls ∧
        v.rentwin = l.rentwin ∧ v.pasid = w.pasid ∧ (∀ y ∈ v.tasks, y.stat = .running ∧ y.agent = m) ∧
        (t.agent m).r.pc = hdrPc h ∧ (t.agent m).task ≠ none ∧ (t.agent m).mode = .task ∧ (∀ z, z ≠ m → t.agent z = s.agent z) ∧
        (n ≠ m → let r := (s.agent n).stop
          (t.agent m).stop = if s.runs n w = true
            then { debug := r.debug, preempt := r.preempt.map (fun _ => 0), watchdog := r.watchdog.map (fun _ => 0) }
            else { debug := false, preempt := none, watchdog := none }))

/-- TASK_SET_COMPLETION (13 R288, R298, 15 R325): once every task has ended, a conductor's tiles included (log 85), and every released entry has
performed, the completion goes to the queue, the fabric node or the DONE cell of the launch, and the set is gone. A discarded set is first
swept: its tasks and its tiles' are over, its context's pitches vacated, one that is in use as its INFLIGHT reaches 0, the agents of its looms
without a task at their reset state; then it is reported with WATCHDOG and its partition places again. The last set of an interface that
leaves its TDISP state clears the record, drops the requests fetched for it (log 24) and posts nothing. -/
def Sys2Proof.Spec.TaskSetsComplete : Prop :=
  ∀ (s : State) ts u, Tab.get none s.tasksets ts = some u →
    let a := ((u.tasks.head?).map (fun x => if x.slice ≤ 1 then nobody else x.agent)).getD nobody
    let told (w : State) : State := State.forget (w.writeDone a (whoOf u.hdr u.pasid ts 0) (hdrDone u.hdr) u.code) ts
    let out : State := match u.source with
      | .queue q tag _ => told (s.postDone q tag u.code (if u.code = 0x03 then u.cause else 0))
      | .fabric node => told { s with sent := s.sent ++ [.fabricDone node (if u.code = 0 then 0x00 else 0x07)] }
      | .conductor _ _ _ => told s
      | .silent _ => s.forget ts
    (u.overdue = false → (∀ x ∈ u.tasks, x.stat = .ended) → s.setPerformed ts = true → s.tilesOpen ts = false →
      exec (.taskSetCompletion ts) s = .next out) ∧
    (u.overdue = false → ((∃ x ∈ u.tasks, x.stat ≠ .ended) ∨ s.setPerformed ts = false ∨ s.tilesOpen ts = true) →
      exec (.taskSetCompletion ts) s = .next s) ∧
    (u.overdue = true → u.swept = false →
      ((s.drained u ts = false ∨ s.setPerformed ts = false) → exec (.taskSetCompletion ts) s = .next s) ∧
      (s.drained u ts = true → s.setPerformed ts = true → ts ∉ s.tileSets ts → ∃ t v, exec (.taskSetCompletion ts) s = .next t ∧
        Tab.get none t.tasksets ts = some v ∧ v.swept = true ∧ v.overdue = true ∧ v.code = 0x04 ∧ v.source = u.source ∧
        (∀ x ∈ v.tasks, x.stat = .ended) ∧ (∀ y ∈ s.tileSets ts, Tab.get none t.tasksets y = none) ∧
        ((∀ m, (s.agent m).wait ≠ .wfe ∧ ∀ va v, (s.agent m).wait ≠ .twaita va v) →
          ∀ key, (s.pitch key).account = hdrAccount u.hdr → (s.pitch key).context = hdrContext u.hdr →
          ((s.pitch key).state = .tentative → (t.pitch key).state = .scrubbing) ∧
          ((s.pitch key).state = .leased → (s.pitch key).inflight = 0 → (t.pitch key).state = .scrubbing) ∧
          ((s.pitch key).state = .leased → (s.pitch key).inflight ≠ 0 →
            t.pitch key = { s.pitch key with vacWhenIdle := true, drained := true })) ∧
        ∀ l ∈ u.looms, ∀ m ∈ loomAgents l, (s.agent m).task = none → (t.agent m).r = Regs.reset ∧ (t.agent m).mode = .task)) ∧
    (∀ q tag k, u.overdue = true → u.swept = true → u.source = .queue q tag k →
      ∃ ps, exec (.taskSetCompletion ts) s = .next { out with parts := ps } ∧ ∀ p, Tab.get Partition.reset ps p =
        if p = u.part.toNat then { Tab.get Partition.reset s.parts p with stopping := false } else Tab.get Partition.reset s.parts p) ∧
    (∀ q st, u.overdue = true → u.swept = true → u.source = .silent q → (s.qrec q).leaving = some st → (s.tasksets.map (·.1)).Nodup →
      (∀ p v, p ≠ ts → Tab.get none s.tasksets p = some v → v.source ≠ .silent q) →
      ∃ t, exec (.taskSetCompletion ts) s = .next t ∧ Tab.get none t.tasksets ts = none ∧ (∀ x ∈ t.requests, x.q ≠ q) ∧
        (t.qrec q).state = false ∧ (t.qrec q).leaving = none ∧ (t.qrec q).tdisp = st ∧ (t.qrec q).layout = (s.qrec q).layout)

/-! ## The statements: decoding, stepping, reset -/

/-- Words written out from the encodings of chapters 02 to 16, one or more of every slot, and what they are. -/
def Obligations.DecodedWords : Prop :=
  decodeSlot 0 0x1B000000 = .ok .eret ∧ decodeSlot 0 0x1A000001 = .ok (.trap 0 1) ∧ decodeSlot 0 0x1E000042 = .ok (.brk 0 0x42) ∧
    decodeSlot 0 0x09000409 = .ok (.loopi 0 0 4 9) ∧ decodeSlot 1 0x05214C00 = .ok (.mulh 0 4 5 6) ∧
    decodeSlot 1 0x213FFFFF = .ok (.li 0 7 0x7FFFF) ∧ decodeSlot 2 0x29114C02 = .ok (.agen 0 2 5 6 2) ∧
    decodeSlot 1 0x32630000 = .ok (.qpops 0 12 12 0 0) ∧ decodeSlot 3 0x01040000 = .ok (.nld 0 0 4 0 0) ∧
    decodeSlot 4 0x01000000 = .ok (.ard 0 0 0 0 0 0) ∧ decodeSlot 5 0x010B1281 = .ok (.vadd 0 1 12 9 1 0 0 1) ∧
    decodeSlot 6 0x040C7F00 = .ok (.mmaz 0 0 12 0 127) ∧ decodeSlot 7 0x02414000 = .ok (.flds 0 1 5) ∧
    decodeSlot 7 0x03100400 = .ok (.fst 0 1 0 2) ∧ decodeSlot 7 0x10400001 = .ok (.xcopy 0 1 0 0 1) ∧
    decodeSlot 7 0x1E014C00 = .ok (.xlaunch 0 5 6)

/-- Encoding and decoding agree (01 R20, R36): the word of a well-formed instruction decodes in its slot to that instruction, with every
operand. -/
def Obligations.EncodingDecodes : Prop := ∀ i k, i.slot = some k → i.wf = true → decodeSlot k (encode i) = .ok i

/-- A step runs the decoded instructions (01 R17, R36, R38, 02 R53): where the agent whose turn it is, or its gang, can issue and its bundle
can be fetched, the step is the issue of the words that the eight slots decode to, in slot order; one word alone is that instruction, eight
zero words are NOP, and a word that decodes to nothing is an illegal encoding. A move that the outside has chosen is its own. -/
def Sys2Proof.Spec.StepRunsWord : Prop :=
  ∀ (s : State), s.alive →
    (∀ i rest, s.sched = .move i :: rest → step s = exec i { s with sched := rest }) ∧
    let n := (s.members s.cur.toNat).headD s.cur.toNat
    let b := s.bundleAt n (s.agent n).r.pc.toNat
    (s.sched = [] → s.canIssue s.cur.toNat = true → s.fetchFault n (s.agent n).r.pc.toNat = none →
      (∀ f : Nat → Option Word, (∃ k < 8, f k ≠ none) →
        (∀ k < 8, (slotWord b k = 0 ∧ f k = none) ∨ ∃ i w, slotWord b k ≠ 0 ∧ decodeSlot k (slotWord b k) = .ok i ∧ wordOf i = some w ∧
          f k = some { w with slot := k }) →
        step s = .next (s.issue n ((List.range 8).filterMap f))) ∧
      (∀ i k, n = s.cur.toNat → k < 8 → slotWord b k ≠ 0 → (∀ j < 8, j ≠ k → slotWord b j = 0) →
        decodeSlot k (slotWord b k) = .ok i → i.slot = some k → step s = exec i s) ∧
      (n = s.cur.toNat → (∀ k < 8, slotWord b k = 0) → step s = exec .nop s) ∧
      ((∃ k < 8, slotWord b k ≠ 0 ∧ ∀ i, decodeSlot k (slotWord b k) ≠ .ok i) →
        ∃ k < 8, step s = .next (traps s n 0x01 k 0 (s.agent n).r.pc)))

/-- The state after package reset (23 R371, and the reset values of chapters 02 to 15), and that memory is in its canonical form there. -/
def Obligations.ResetState : Prop :=
  let s := State.reset
  s.now = 0 ∧ (∀ a, s.mem.read a = 0) ∧ s.Inv ∧ s.alive ∧ s.requests = [] ∧ s.tasksets = [] ∧
    (∀ n, let a := s.agent n
      a.task = none ∧ a.mode = .task ∧ a.flight = [] ∧ a.wb = [] ∧ a.flq = [] ∧ a.fsq = [] ∧ a.ecb = [] ∧ (∀ d, a.getS d = 0) ∧
        (∀ d, a.getA d = 0) ∧ (∀ l, (a.level l).act = false) ∧ ∀ q, a.queue q = []) ∧
    (∀ k, (s.pitch k).state = .free) ∧ (∀ c, (s.account c).committed = 0) ∧
    s.rates.at 0 = 64 ∧ s.rates.at 1 = 32 ∧ s.rates.at 2 = 16 ∧ s.rates.at 3 = 8 ∧ s.rates.at 4 = 2 ∧ s.rates.at 5 = 1 ∧
    (∀ q, (s.qrec q).state = false ∧ (s.qrec q).phase = true ∧ (s.qrec q).prio = 3)

/-- Every step keeps memory in its canonical form: equal memories are equal data. -/
def Obligations.StepKeepsMemory : Prop := ∀ s t : State, s.Inv → step s = .next t → t.Inv

/-! ## The statements that have several parts -/

/-- Integer instructions write the results of 03 R77, and CMOV always counts as a writer (R77). -/
def Obligations.IntegerWordsAndWriters : Prop := Spec.IntegerWords ∧ Spec.CmovConflict

/-- Scalar FP32, address, identifier, LIDX, single queue word and shape instructions complete as their rules say (R59, R79, R80, R81, R82,
R83, R88, R93). -/
def Obligations.ScalarFloatAddressQueueWords : Prop := Spec.ScalarFloatWords ∧ Spec.AddressWords ∧ Spec.QueueAndShapeWords

/-- Branches go to their targets; LBREAK leaves its level and LSTRIDE sets a stride (R46, R52, R56, R58). -/
def Obligations.BranchAndLevelWords : Prop := Spec.BranchWords ∧ Spec.LevelWords

/-- LOOP, LOOPI and LOOPS have their encodings, open their level, skip the body on a count of 0, and refuse a bad nesting (R54). -/
def Obligations.LoopOpening : Prop := Spec.LoopWords ∧ Spec.LoopNesting ∧ Spec.LoopEncodings

/-- Near loads and stores and accumulator words complete with their bytes, rows and landings (R121, R122, R123, R127, R130, R131, R132,
R133, R134, R135, R136, R137). -/
def Obligations.NearAndAccumulatorWords : Prop := Spec.NearWords ∧ Spec.AccumulatorWords

/-- Vector and predicate instructions complete with the lanes that chapter 07 gives, VDOT4 exactly (R164, R165, R167–R179). The
transcendental lanes of R168 are those that log 7 computes. -/
def Obligations.VectorWords : Prop := Spec.LaneWords ∧ Spec.FusedAndPredicateWords ∧ Spec.RearrangingWords ∧ Spec.PackedBytesAndDots

/-- Interval instructions, forward, backward and compares, complete with the intervals of their rules (R180, R181, R182, R183, R184, R185).
The sign of a zero that IMID, ITOLO and ITOHI write is log 41, what an entire result leaves to a backward form is log 42, and the
transcendental bounds are those of log 7. -/
def Obligations.IntervalWords : Prop := Spec.IntervalWords ∧ Spec.BackwardWords

/-- Matrix words: plane loads, multiplies, the repeat prefix and its repetitions, MDRAIN and MSWB (R191, R192, R193, R194, R195, R196,
R197, R198). -/
def Obligations.MatrixWordsAndPlaneSwap : Prop := Spec.MatrixWords ∧ Spec.PlaneSwap ∧ Spec.Repetition

/-- Far loads join their queue and hold their pitches; far stores, atomics, wide-cell commands and XARM are withheld with what they capture
(R89, R91, R105, R109, R214, R215, R216, R225, R305, R339). -/
def Obligations.FarMemoryWords : Prop := Spec.WithheldWords ∧ Spec.ReadWords

/-- Engine operations take their number and are withheld; rent, fabric, mailbox and launch words stall (R105, R115, R202, R206, R217, R221,
R223, R251, R253, R255, R296, R335, R340). What XSPLICE and XDARN capture at issue is log 71. -/
def Obligations.EngineAndStallingWords : Prop := Spec.EngineWords ∧ Spec.StallingWords

/-- Until it lands, a word changes no memory, no other agent, no pitch; an unselected word acts as NOP; a ganged bundle issues on its twelve
ranks (R21, R39, R47, R61, R62, R64). -/
def Obligations.WordFrame : Prop := Spec.WordFrame ∧ Spec.UnselectedWord ∧ Spec.GangIssues

/-- A word outside the profile takes 0x01; supervisor words and registers in the user view take 0x0E (R11, R37, R38, R73, R74, R268, R269).
Their place before the limits of an interval is log 55. -/
def Obligations.ProfileAndPrivilegeRefusals : Prop := Spec.ProfileRefusal ∧ Spec.PrivilegeRefusals

/-- Empty pops take 0x04, full pushes 0x03, the 4,097th bundle 0x06, a misaligned target 0x0D (R52, R66, R86). That 0x06
reports slot 0, and before a queue is looked at, is log 55. -/
def Obligations.QueueLimitTargetRefusals : Prop := Spec.QueueRefusals ∧ Spec.LimitAndTargetRefusals

/-- A trap that the supervisor handles enters at SVEC with its bank; a trap in that handler is a double trap; the ranks of a gang enter
one handler (R63, R259, R260, R261, R267, R268). That it is the handler of rank 0 is log 57. -/
def Obligations.SupervisorTrapEntry : Prop := Spec.SupervisorTrapEntry ∧ Spec.DoubleTrap ∧ Spec.GangTraps

/-- UIRET and ERET land what is in flight and resume the task; HALT ends it (R69, R74, R265, R269, R270). -/
def Obligations.HandlerReturns : Prop := Spec.UserReturn ∧ Spec.SupervisorReturn ∧ Spec.HaltWord

/-- A matrix block is added to, or written over, the rows of its tile; a stall ends when all of them are (R127, R157, R194, R196, R197).
-/
def Obligations.BlockAdditionAndStallEnds : Prop := Spec.BlockAddition ∧ Spec.TileStallEnds

/-- Each waiting instruction ends when what it waits for holds; a stop request abandons it (R70, R71, R212, R214, R241, R242). The mark that a
WAITT leaves is log 16, a stop request in a handler or pending as the wait begins logs 31 and 81, a far fault whatever COUNT is log 35, the
end of a SLEEPC log 50. -/
def Obligations.WaitEnds : Prop := Spec.WaitsEnd ∧ Spec.WaitDelivers ∧ Spec.WaitAbandoned

/-- A checkpoint copies the registers and releases the withheld commands in order, or traps and releases none (R64, R228, R272). -/
def Obligations.CheckpointOutcomes : Prop := Spec.CheckpointCompletes ∧ Spec.CheckpointRefused ∧ Spec.FinalCheckpoint

/-- Heads of the FLQ and FSQ depart for their home, markers in their order; entries hop along their route (R226, R227, R228, R234, R239).
That the bytes of one home travel together is log 13. -/
def Obligations.EntriesTravel : Prop := Spec.EntriesDepart ∧ Spec.HomesOfElements ∧ Spec.EntriesHop

/-- A far load reads its bytes at its home; a store, an atomic, a wide-cell add or an XARM changes exactly its bytes, and an arm counter that
has reached its threshold fires (R112, R151, R152, R214, R215, R216, R228, R233, R332, R333, R339). That a cell is an arm counter
once an XARM has armed it is log 70, that a load is performed in parts, one for each home, log 13. -/
def Obligations.EntriesPerform : Prop :=
  Spec.LoadPerforms ∧ Spec.StoresPerform ∧ Spec.LapsedEntriesPerform ∧ Spec.WideCellsPerform ∧ Spec.ArmCounterFires

/-- An engine operation performs element after element: XCOPY copies in index order, XFILL fills, every element travels to the homes of
its bytes (R203, R211, R218, R219, R220, R226, R228, R252, R254, R257). What the STALE mark asks is log 72. -/
def Obligations.OperationsMakeElements : Prop :=
  Spec.ElementsDepart ∧ Spec.ElementPerforms ∧ Spec.TagChecks ∧ Spec.CopyAndFillPlans

/-- An entry enters its queue, or leaves nothing; the INFLIGHT of the pitches that it or an operation held falls (R86, R89, R102, R109, R111,
R228). -/
def Obligations.EntriesArrive : Prop := Spec.EntriesArrive ∧ Spec.InflightFalls

/-- RENEW, PREPAY, SUBLET and VACATE of an own pitch are withheld; RENTQ and ALLOWQ answer (R97, R102, R106, R113, R117). -/
def Obligations.RentExtensionsAndQueries : Prop := Spec.RentExtended ∧ Spec.RentQueries

/-- The tick advances when its steps are done; pitches lapse, overstay at the double rate, are scrubbed and freed (R96, R102, R103, R104,
R302). -/
def Obligations.PitchLifetimes : Prop := Spec.PitchesExpire ∧ Spec.SyncPitchLapses ∧ Spec.ClockTicks ∧ Spec.PitchesScrub

/-- Queue-pair records are written while idle; a LOOP WRITE puts its data; a completion writes DONE (R331, R336, R337). When an entry of a
pair without LOOP completes, and with which of its codes, comes from outside (log 44). -/
def Obligations.FabricEntries : Prop := Spec.QueuePairWritten ∧ Spec.FabricWrites ∧ Spec.WorkCompletes

/-- Refresh, scrub, power and heat change their fields alone; quarantine records its unit; a reset resets (R310, R311, R313, R315, R322, R326,
R369, R370, R371). Unlisted memory is log 1, the numbers of units log 8, row groups log 45. -/
def Obligations.PackageUpkeep : Prop := Spec.UpkeepAndLimits ∧ Spec.UnitQuarantined ∧ Spec.PackageRestarts

/-- Malformed, wrong-PASID and unprivileged requests complete so; the completion packet and its record (R319, R320, R322, R323).
The rings lie in host memory at CQBASE and SQBASE as they stand (logs 20, 21). -/
def Obligations.RequestsAnswered : Prop := Spec.RequestRefusals ∧ Spec.CompletionPosted

/-- LAUNCH and a fabric launch queue a task set or complete refused; BARRIER waits for earlier launches (R286, R288, R289, R290, R321, R341).
The statuses that the spec gives no name are logs 22 and 77, the DONE cell of a refused launch log 51, the order of requests log 46. -/
def Obligations.LaunchCommands : Prop := Spec.LaunchCommands ∧ Spec.FabricLaunches

/-- PAGE and ATS invalidation change exactly the pages they name, once no released store is pending on them (R272, R273, R302, R303, R306,
R307, R321). The page that PAGE acts on is log 26, a page in no pitch log 92, the host's pages logs 9 and 67. -/
def Obligations.PageCommands : Prop := Spec.PageCommands ∧ Spec.TranslationsInvalidated

/-- REPORT, DESC, SAVEIO and host accesses move exactly the bytes they name (R101, R114, R120, R235, R321). The free bytes of a report are
logs 5 and 6; whose addresses a command names, which descriptor DESC finds, what SAVEIO counts and what a host access reaches are logs 21, 25,
27 and 28; a save region that reads as poison is log 78. -/
def Obligations.ReadingAndDataCommands : Prop := Spec.ReadingCommands ∧ Spec.DataCommands

/-- QUEUE replaces the S fields of a record; notify writes fetch requests, set PRIO or count errors (R318, R319, R323, R325). The address of
the new record is read as log 21 says, and one that cannot be read is NOTFOUND by log 22. -/
def Obligations.QueueAndNotify : Prop := Spec.QueueCommand ∧ Spec.NotifyWrites

/-- DEBUG stop and resume, slice expiry, the watchdog and the forced stop reach exactly their agents (R275, R278, R291, R296, R297, R298).
The tag of a set is looked up as log 25 says. -/
def Obligations.DebugAndStopRequests : Prop := Spec.DebugCommands ∧ Spec.StopRequests

/-- FWPATCH takes the valid entries of a patch file; FWSTAGE stages an accepted image in the other slot (R326, R327, R328, R329). Digests and
signatures are functions without a body (log 6), the words of an image too (log 65); a file that cannot be reached is log 22. -/
def Obligations.FirmwareFiles : Prop := Spec.FirmwareCommands ∧ Spec.PatchEntries

/-- FWUPDATE waits for running sets, then switches the image; TDISP and SPDM messages (R325, R329, R330). The statuses of an update that
cannot be made and the order of its steps are log 23, a set that ends within the tick of the deadline log 87, what a message clears log 24. -/
def Obligations.FirmwareUpdateAndMessages : Prop := Spec.DeviceVacated ∧ Spec.FirmwareUpdate ∧ Spec.SecurityMessages

/-- Rhory places the next loom task on a free loom or resumes it; a task starts with its launch state (R46, R210, R278, R281, R284, R286, R290,
R293, R295). A loom where a stopped task keeps the timeline slot is passed over (log 74); the rent window is that of the
acceptance (log 84), the order of tasks and looms log 93. -/
def Obligations.TasksPlacedAndStarted : Prop := Spec.TasksPlaced ∧ Spec.TasksChosen ∧ Spec.TasksStart

/-- A dependence makes its set ready or ends it; a performed set completes and writes DONE (R287, R288, R290, R298, R325). The first reads of
a DEP cell are log 37, poison log 78, a pitch about to lapse log 79; that a set waits for its tiles is log 85, that the requests fetched for an
interface go with its last silent set log 24. -/
def Obligations.SetsBecomeReadyAndComplete : Prop := Spec.DependencesMet ∧ Spec.TaskSetsComplete

/-- The XLAUNCH commands of a loom controller start in release order; one that cannot start holds the rest; a mailbox request fills its slot
(R288, R291, R296, R340, R360). Which loom is still a conductor's own is log 15, the stop requests that a tile takes over log 38. -/
def Obligations.TileLaunchOrder : Prop := Spec.TilesStart ∧ Spec.CommandsStart

/-- A step issues the words that the eight slots of the bundle at the PC decode to, or runs the chosen move (R17, R36, R38, R53). -/
def Obligations.StepRunsBundle : Prop := Spec.StepRunsWord
end

