-- ==== Sys2Proof/Laws/Table.lean ====
section
/-!
SUPPORT. The laws of sparse tables: what a read gives after a write, and that a write keeps the canonical form.
-/

namespace Sys2Proof

variable {α : Type}

@[simp] theorem Tab.get_nil (d : α) (k : Nat) : Tab.get d [] k = d := rfl

/-- A read passes over entries without its key. -/
theorem Tab.get_append_left (d : α) (t u : Tab α) (k : Nat) (h : ∀ x ∈ t, x.1 ≠ k) : Tab.get d (t ++ u) k = Tab.get d u k := by
  induction t with
  | nil => rfl
  | cons x t ih =>
    have hx : x.1 ≠ k := h x (by simp)
    simp [Tab.get, hx]
    exact ih (fun y hy => h y (by simp [hy]))

/-- A read finds nothing behind the entries with its key. -/
theorem Tab.get_append_right (d : α) (t u : Tab α) (k : Nat) (h : ∀ x ∈ u, x.1 ≠ k) : Tab.get d (t ++ u) k = Tab.get d t k := by
  induction t with
  | nil =>
    have := Tab.get_append_left d u [] k h
    simpa using this
  | cons x t ih => by_cases hx : x.1 = k <;> simp [Tab.get, hx, ih]

/-- A filter that keeps every entry of a key does not change its read. -/
theorem Tab.get_filter (d : α) (t : Tab α) (p : Nat × α → Bool) (k : Nat) (h : ∀ x ∈ t, x.1 = k → p x = true) :
    Tab.get d (t.filter p) k = Tab.get d t k := by
  induction t with
  | nil => rfl
  | cons x t ih =>
    have ih := ih (fun y hy => h y (by simp [hy]))
    by_cases hx : x.1 = k
    · have hp := h x (by simp) hx
      simp [Tab.get, hp, hx]
    · by_cases hp : p x <;> simp [Tab.get, hp, hx, ih]

variable [DecidableEq α]

/-- The entries of a run lie in its keys. -/
theorem Tab.run_keys (d : α) (k : Nat) (vs : List α) : ∀ x ∈ Tab.run d k vs, k ≤ x.1 ∧ x.1 < k + vs.length := by
  induction vs generalizing k with
  | nil => simp [Tab.run]
  | cons v vs ih =>
    intro x hx
    simp only [Tab.run, List.mem_append] at hx
    rcases hx with hx | hx
    · by_cases hv : v = d <;> simp [hv] at hx
      subst hx; simp
    · have := ih (k + 1) x hx
      simp; omega

/-- A read inside a run. -/
theorem Tab.get_run (d : α) (k : Nat) (vs : List α) (j : Nat) (h : j < vs.length) :
    Tab.get d (Tab.run d k vs) (k + j) = vs[j] := by
  induction vs generalizing k j with
  | nil => simp at h
  | cons v vs ih =>
    cases j with
    | zero =>
      have hr : Tab.get d (Tab.run d (k + 1) vs) k = d := by
        have := Tab.get_append_left d (Tab.run d (k + 1) vs) [] k
          (fun x hx => by have := Tab.run_keys d (k + 1) vs x hx; omega)
        simpa using this
      by_cases hv : v = d <;> simp [Tab.run, Tab.get, hv, hr]
    | succ j =>
      have hj : j < vs.length := by simpa using h
      have := ih (k + 1) j hj
      have e : k + (j + 1) = k + 1 + j := by omega
      by_cases hv : v = d
      · simp [Tab.run, hv, e, this]
      · have hk : ¬ k = k + 1 + j := by omega
        simp [Tab.run, Tab.get, hv, e, hk, this]

/-- A read after a write of its own key. -/
@[simp] theorem Tab.get_set (d : α) (t : Tab α) (k : Nat) (v : α) : Tab.get d (Tab.set d t k v) k = v := by
  unfold Tab.set
  rw [List.append_assoc, Tab.get_append_left _ _ _ _ (by simp; omega)]
  rw [Tab.get_append_right _ _ _ _ (by simp; intro a _ _ h; omega)]
  by_cases hv : v = d <;> simp [Tab.get, hv]

/-- A read after a write of another key. -/
theorem Tab.get_set_ne (d : α) (t : Tab α) (k j : Nat) (v : α) (h : j ≠ k) :
    Tab.get d (Tab.set d t k v) j = Tab.get d t j := by
  unfold Tab.set
  have hm : ∀ x ∈ (if v = d then ([] : Tab α) else [(k, v)]), x.1 ≠ j := by
    intro x hx; by_cases hv : v = d <;> simp [hv] at hx; subst hx; exact fun e => h e.symm
  rcases Nat.lt_or_gt_of_ne h with hl | hg
  · rw [Tab.get_append_right _ _ _ _ (by simp; omega), Tab.get_append_right _ _ _ _ hm]
    exact Tab.get_filter d t _ j (by intro x _ e; simp [e, hl])
  · rw [List.append_assoc, Tab.get_append_left _ _ _ _ (by simp; omega), Tab.get_append_left _ _ _ _ hm]
    exact Tab.get_filter d t _ j (by intro x _ e; simp [e]; omega)

/-- Writing the same key twice. -/
theorem Tab.set_set (d : α) (t : Tab α) (k : Nat) (v w : α) : Tab.set d (Tab.set d t k v) k w = Tab.set d t k w := by
  unfold Tab.set
  have h1 : ∀ l : Tab α, (l.filter (fun x => decide (x.1 < k))).filter (fun x => decide (k < x.1)) = [] := by
    intro l; simp [List.filter_filter]; intro x y _ h; omega
  have h2 : ∀ l : Tab α, (l.filter (fun x => decide (k < x.1))).filter (fun x => decide (x.1 < k)) = [] := by
    intro l; simp [List.filter_filter]; intro x y _ h; omega
  by_cases hv : v = d <;> simp [hv, List.filter_append, h1, h2, List.filter_filter]

/-- A read inside a range that was written. -/
theorem Tab.get_setRange_in (d : α) (t : Tab α) (k : Nat) (vs : List α) (j : Nat) (h : j < vs.length) :
    Tab.get d (Tab.setRange d t k vs) (k + j) = vs[j] := by
  unfold Tab.setRange
  rw [List.append_assoc, Tab.get_append_left _ _ _ _ (by simp; omega), Tab.get_append_right _ _ _ _ (by simp; omega)]
  exact Tab.get_run d k vs j h

/-- A read outside a range that was written. -/
theorem Tab.get_setRange_out (d : α) (t : Tab α) (k : Nat) (vs : List α) (j : Nat) (h : j < k ∨ k + vs.length ≤ j) :
    Tab.get d (Tab.setRange d t k vs) j = Tab.get d t j := by
  unfold Tab.setRange
  have hm : ∀ x ∈ Tab.run d k vs, x.1 ≠ j := by
    intro x hx; have := Tab.run_keys d k vs x hx; omega
  rcases h with hl | hg
  · rw [Tab.get_append_right _ _ _ _ (by simp; omega), Tab.get_append_right _ _ _ _ hm]
    exact Tab.get_filter d t _ j (by intro x _ e; simp [e, hl])
  · rw [List.append_assoc, Tab.get_append_left _ _ _ _ (by simp; omega), Tab.get_append_left _ _ _ _ hm]
    exact Tab.get_filter d t _ j (by intro x _ e; simp [e]; omega)

/-! ## The canonical form -/

/-- The canonical form as a statement about the whole list. -/
theorem Tab.wf_iff (d : α) (t : Tab α) :
    Tab.wf d t = true ↔ t.Pairwise (fun x y => x.1 < y.1) ∧ ∀ x ∈ t, x.2 ≠ d := by
  induction t with
  | nil => simp [Tab.wf]
  | cons x t ih =>
    cases t with
    | nil => simp [Tab.wf]
    | cons y t =>
      simp only [Tab.wf, Bool.and_eq_true, decide_eq_true_eq, ih, List.pairwise_cons, List.mem_cons]
      constructor
      · rintro ⟨⟨hl, hd⟩, ⟨hp, hq⟩, hr⟩
        refine ⟨⟨?_, hp, hq⟩, ?_⟩
        · rintro z (rfl | hz)
          · exact hl
          · exact Nat.lt_trans hl (hp z hz)
        · rintro z (rfl | hz)
          · exact hd
          · exact hr z hz
      · rintro ⟨⟨hl, hp, hq⟩, hr⟩
        exact ⟨⟨hl y (by simp), hr x (by simp)⟩, ⟨hp, hq⟩, fun z hz => hr z (by simp [hz])⟩

/-- A run is in canonical form. -/
theorem Tab.run_wf (d : α) (k : Nat) (vs : List α) : Tab.wf d (Tab.run d k vs) = true := by
  rw [Tab.wf_iff]
  induction vs generalizing k with
  | nil => simp [Tab.run]
  | cons v vs ih =>
    have hi := ih (k + 1)
    by_cases hv : v = d
    · simpa [Tab.run, hv] using hi
    · have hk := Tab.run_keys d (k + 1) vs
      simp only [Tab.run, hv, if_false, List.singleton_append, List.pairwise_cons, List.mem_cons]
      refine ⟨⟨fun x hx => by have := hk x hx; omega, hi.1⟩, ?_⟩
      rintro x (rfl | hx)
      · exact hv
      · exact hi.2 x hx

/-- Dropping entries keeps the canonical form. -/
theorem Tab.filter_wf (d : α) (t : Tab α) (p : Nat × α → Bool) (h : Tab.wf d t = true) : Tab.wf d (t.filter p) = true := by
  rw [Tab.wf_iff] at h ⊢
  exact ⟨h.1.filter _, fun x hx => h.2 x (List.mem_filter.1 hx).1⟩

/-- Writing a range keeps the canonical form. -/
theorem Tab.setRange_wf (d : α) (t : Tab α) (k : Nat) (vs : List α) (h : Tab.wf d t = true) :
    Tab.wf d (Tab.setRange d t k vs) = true := by
  have hr := (Tab.wf_iff d _).1 (Tab.run_wf d k vs)
  have hk := Tab.run_keys d k vs
  rw [Tab.wf_iff] at h ⊢
  unfold Tab.setRange
  refine ⟨?_, ?_⟩
  · rw [List.append_assoc, List.pairwise_append, List.pairwise_append]
    refine ⟨h.1.filter _, ⟨hr.1, h.1.filter _, ?_⟩, ?_⟩
    · intro x hx y hy
      have := hk x hx
      simp at hy; omega
    · intro x hx y hy
      simp at hx
      rcases List.mem_append.1 hy with hy | hy
      · have := hk y hy; omega
      · simp at hy; omega
  · intro x hx
    simp only [List.mem_append] at hx
    rcases hx with (hx | hx) | hx
    · exact h.2 x (List.mem_filter.1 hx).1
    · exact hr.2 x hx
    · exact h.2 x (List.mem_filter.1 hx).1

/-- A write is the write of a range of one value. -/
theorem Tab.set_eq_setRange (d : α) (t : Tab α) (k : Nat) (v : α) : Tab.set d t k v = Tab.setRange d t k [v] := by
  simp [Tab.set, Tab.setRange, Tab.run]

/-- Writing one key keeps the canonical form. -/
theorem Tab.set_wf (d : α) (t : Tab α) (k : Nat) (v : α) (h : Tab.wf d t = true) : Tab.wf d (Tab.set d t k v) = true := by
  rw [Tab.set_eq_setRange]; exact Tab.setRange_wf d t k [v] h

end Sys2Proof
end

