-- ==== Sys2Proof/Laws/State.lean ====
section
/-!
SUPPORT. What the updates of State leave unchanged, field by field, and what a read gives after them.
-/

namespace Sys2Proof.Machine

/-! ## setAgent -/

@[simp] theorem State.setAgent_cur (s : State) (n : Nat) (a : Agent) : (s.setAgent n a).cur = s.cur := rfl
@[simp] theorem State.setAgent_sched (s : State) (n : Nat) (a : Agent) : (s.setAgent n a).sched = s.sched := rfl
@[simp] theorem State.setAgent_freeCtr (s : State) (n : Nat) (a : Agent) : (s.setAgent n a).freeCtr = s.freeCtr := rfl
@[simp] theorem State.setAgent_mem (s : State) (n : Nat) (a : Agent) : (s.setAgent n a).mem = s.mem := rfl
@[simp] theorem State.setAgent_wcStatus (s : State) (n : Nat) (a : Agent) : (s.setAgent n a).wcStatus = s.wcStatus := rfl
@[simp] theorem State.setAgent_hostLines (s : State) (n : Nat) (a : Agent) : (s.setAgent n a).hostLines = s.hostLines := rfl
@[simp] theorem State.setAgent_poison (s : State) (n : Nat) (a : Agent) : (s.setAgent n a).poison = s.poison := rfl
@[simp] theorem State.setAgent_quarantined (s : State) (n : Nat) (a : Agent) : (s.setAgent n a).quarantined = s.quarantined := rfl
@[simp] theorem State.setAgent_transit (s : State) (n : Nat) (a : Agent) : (s.setAgent n a).transit = s.transit := rfl
@[simp] theorem State.setAgent_arrivals (s : State) (n : Nat) (a : Agent) : (s.setAgent n a).arrivals = s.arrivals := rfl
@[simp] theorem State.setAgent_running (s : State) (n : Nat) (a : Agent) : (s.setAgent n a).running = s.running := rfl
@[simp] theorem State.setAgent_now (s : State) (n : Nat) (a : Agent) : (s.setAgent n a).now = s.now := rfl
@[simp] theorem State.setAgent_rates (s : State) (n : Nat) (a : Agent) : (s.setAgent n a).rates = s.rates := rfl
@[simp] theorem State.setAgent_accounts (s : State) (n : Nat) (a : Agent) : (s.setAgent n a).accounts = s.accounts := rfl
@[simp] theorem State.setAgent_pitches (s : State) (n : Nat) (a : Agent) : (s.setAgent n a).pitches = s.pitches := rfl
@[simp] theorem State.setAgent_commits (s : State) (n : Nat) (a : Agent) : (s.setAgent n a).commits = s.commits := rfl
@[simp] theorem State.setAgent_pages (s : State) (n : Nat) (a : Agent) : (s.setAgent n a).pages = s.pages := rfl
@[simp] theorem State.setAgent_hostPages (s : State) (n : Nat) (a : Agent) : (s.setAgent n a).hostPages = s.hostPages := rfl
@[simp] theorem State.setAgent_reportNo (s : State) (n : Nat) (a : Agent) : (s.setAgent n a).reportNo = s.reportNo := rfl
@[simp] theorem State.setAgent_qpairs (s : State) (n : Nat) (a : Agent) : (s.setAgent n a).qpairs = s.qpairs := rfl
@[simp] theorem State.setAgent_work (s : State) (n : Nat) (a : Agent) : (s.setAgent n a).work = s.work := rfl
@[simp] theorem State.setAgent_reductions (s : State) (n : Nat) (a : Agent) : (s.setAgent n a).reductions = s.reductions := rfl
@[simp] theorem State.setAgent_mailbox (s : State) (n : Nat) (a : Agent) : (s.setAgent n a).mailbox = s.mailbox := rfl
@[simp] theorem State.setAgent_mailSeq (s : State) (n : Nat) (a : Agent) : (s.setAgent n a).mailSeq = s.mailSeq := rfl
@[simp] theorem State.setAgent_loadSeq (s : State) (n : Nat) (a : Agent) : (s.setAgent n a).loadSeq = s.loadSeq := rfl
@[simp] theorem State.setAgent_relSeq (s : State) (n : Nat) (a : Agent) : (s.setAgent n a).relSeq = s.relSeq := rfl
@[simp] theorem State.setAgent_workSeq (s : State) (n : Nat) (a : Agent) : (s.setAgent n a).workSeq = s.workSeq := rfl
@[simp] theorem State.setAgent_arms (s : State) (n : Nat) (a : Agent) : (s.setAgent n a).arms = s.arms := rfl
@[simp] theorem State.setAgent_launchTable (s : State) (n : Nat) (a : Agent) : (s.setAgent n a).launchTable = s.launchTable := rfl
@[simp] theorem State.setAgent_parts (s : State) (n : Nat) (a : Agent) : (s.setAgent n a).parts = s.parts := rfl
@[simp] theorem State.setAgent_passes (s : State) (n : Nat) (a : Agent) : (s.setAgent n a).passes = s.passes := rfl
@[simp] theorem State.setAgent_tasksets (s : State) (n : Nat) (a : Agent) : (s.setAgent n a).tasksets = s.tasksets := rfl
@[simp] theorem State.setAgent_nextTs (s : State) (n : Nat) (a : Agent) : (s.setAgent n a).nextTs = s.nextTs := rfl
@[simp] theorem State.setAgent_tileLaunches (s : State) (n : Nat) (a : Agent) : (s.setAgent n a).tileLaunches = s.tileLaunches := rfl
@[simp] theorem State.setAgent_queues (s : State) (n : Nat) (a : Agent) : (s.setAgent n a).queues = s.queues := rfl
@[simp] theorem State.setAgent_requests (s : State) (n : Nat) (a : Agent) : (s.setAgent n a).requests = s.requests := rfl
@[simp] theorem State.setAgent_reqNo (s : State) (n : Nat) (a : Agent) : (s.setAgent n a).reqNo = s.reqNo := rfl
@[simp] theorem State.setAgent_revoked (s : State) (n : Nat) (a : Agent) : (s.setAgent n a).revoked = s.revoked := rfl
@[simp] theorem State.setAgent_cfg (s : State) (n : Nat) (a : Agent) : (s.setAgent n a).cfg = s.cfg := rfl
@[simp] theorem State.setAgent_fw (s : State) (n : Nat) (a : Agent) : (s.setAgent n a).fw = s.fw := rfl
@[simp] theorem State.setAgent_certChain (s : State) (n : Nat) (a : Agent) : (s.setAgent n a).certChain = s.certChain := rfl
@[simp] theorem State.setAgent_attestKey (s : State) (n : Nat) (a : Agent) : (s.setAgent n a).attestKey = s.attestKey := rfl
@[simp] theorem State.setAgent_powerHold (s : State) (n : Nat) (a : Agent) : (s.setAgent n a).powerHold = s.powerHold := rfl
@[simp] theorem State.setAgent_currentHold (s : State) (n : Nat) (a : Agent) : (s.setAgent n a).currentHold = s.currentHold := rfl
@[simp] theorem State.setAgent_thermalHold (s : State) (n : Nat) (a : Agent) : (s.setAgent n a).thermalHold = s.thermalHold := rfl
@[simp] theorem State.setAgent_off (s : State) (n : Nat) (a : Agent) : (s.setAgent n a).off = s.off := rfl
@[simp] theorem State.setAgent_spdmOnly (s : State) (n : Nat) (a : Agent) : (s.setAgent n a).spdmOnly = s.spdmOnly := rfl
@[simp] theorem State.setAgent_scrubLine (s : State) (n : Nat) (a : Agent) : (s.setAgent n a).scrubLine = s.scrubLine := rfl
@[simp] theorem State.setAgent_refreshed (s : State) (n : Nat) (a : Agent) : (s.setAgent n a).refreshed = s.refreshed := rfl
@[simp] theorem State.setAgent_activated (s : State) (n : Nat) (a : Agent) : (s.setAgent n a).activated = s.activated := rfl
@[simp] theorem State.setAgent_wiped (s : State) (n : Nat) (a : Agent) : (s.setAgent n a).wiped = s.wiped := rfl
@[simp] theorem State.setAgent_sent (s : State) (n : Nat) (a : Agent) : (s.setAgent n a).sent = s.sent := rfl
@[simp] theorem State.setAgent_account (s : State) (n : Nat) (a : Agent) (x : BitVec 10) : (s.setAgent n a).account x = s.account x := rfl
@[simp] theorem State.setAgent_pitch (s : State) (n : Nat) (a : Agent) (m : Nat) : (s.setAgent n a).pitch m = s.pitch m := rfl

/-! ## store -/

@[simp] theorem State.store_cur (s : State) (a : Nat) (bs : List Byte) : (s.store a bs).cur = s.cur := rfl
@[simp] theorem State.store_sched (s : State) (a : Nat) (bs : List Byte) : (s.store a bs).sched = s.sched := rfl
@[simp] theorem State.store_freeCtr (s : State) (a : Nat) (bs : List Byte) : (s.store a bs).freeCtr = s.freeCtr := rfl
@[simp] theorem State.store_agents (s : State) (a : Nat) (bs : List Byte) : (s.store a bs).agents = s.agents := rfl
@[simp] theorem State.store_wcStatus (s : State) (a : Nat) (bs : List Byte) : (s.store a bs).wcStatus = s.wcStatus := rfl
@[simp] theorem State.store_hostLines (s : State) (a : Nat) (bs : List Byte) : (s.store a bs).hostLines = s.hostLines := rfl
@[simp] theorem State.store_poison (s : State) (a : Nat) (bs : List Byte) : (s.store a bs).poison = s.poison := rfl
@[simp] theorem State.store_quarantined (s : State) (a : Nat) (bs : List Byte) : (s.store a bs).quarantined = s.quarantined := rfl
@[simp] theorem State.store_transit (s : State) (a : Nat) (bs : List Byte) : (s.store a bs).transit = s.transit := rfl
@[simp] theorem State.store_arrivals (s : State) (a : Nat) (bs : List Byte) : (s.store a bs).arrivals = s.arrivals := rfl
@[simp] theorem State.store_running (s : State) (a : Nat) (bs : List Byte) : (s.store a bs).running = s.running := rfl
@[simp] theorem State.store_now (s : State) (a : Nat) (bs : List Byte) : (s.store a bs).now = s.now := rfl
@[simp] theorem State.store_rates (s : State) (a : Nat) (bs : List Byte) : (s.store a bs).rates = s.rates := rfl
@[simp] theorem State.store_accounts (s : State) (a : Nat) (bs : List Byte) : (s.store a bs).accounts = s.accounts := rfl
@[simp] theorem State.store_pitches (s : State) (a : Nat) (bs : List Byte) : (s.store a bs).pitches = s.pitches := rfl
@[simp] theorem State.store_commits (s : State) (a : Nat) (bs : List Byte) : (s.store a bs).commits = s.commits := rfl
@[simp] theorem State.store_pages (s : State) (a : Nat) (bs : List Byte) : (s.store a bs).pages = s.pages := rfl
@[simp] theorem State.store_hostPages (s : State) (a : Nat) (bs : List Byte) : (s.store a bs).hostPages = s.hostPages := rfl
@[simp] theorem State.store_reportNo (s : State) (a : Nat) (bs : List Byte) : (s.store a bs).reportNo = s.reportNo := rfl
@[simp] theorem State.store_qpairs (s : State) (a : Nat) (bs : List Byte) : (s.store a bs).qpairs = s.qpairs := rfl
@[simp] theorem State.store_work (s : State) (a : Nat) (bs : List Byte) : (s.store a bs).work = s.work := rfl
@[simp] theorem State.store_reductions (s : State) (a : Nat) (bs : List Byte) : (s.store a bs).reductions = s.reductions := rfl
@[simp] theorem State.store_mailbox (s : State) (a : Nat) (bs : List Byte) : (s.store a bs).mailbox = s.mailbox := rfl
@[simp] theorem State.store_mailSeq (s : State) (a : Nat) (bs : List Byte) : (s.store a bs).mailSeq = s.mailSeq := rfl
@[simp] theorem State.store_loadSeq (s : State) (a : Nat) (bs : List Byte) : (s.store a bs).loadSeq = s.loadSeq := rfl
@[simp] theorem State.store_relSeq (s : State) (a : Nat) (bs : List Byte) : (s.store a bs).relSeq = s.relSeq := rfl
@[simp] theorem State.store_workSeq (s : State) (a : Nat) (bs : List Byte) : (s.store a bs).workSeq = s.workSeq := rfl
@[simp] theorem State.store_arms (s : State) (a : Nat) (bs : List Byte) : (s.store a bs).arms = s.arms := rfl
@[simp] theorem State.store_launchTable (s : State) (a : Nat) (bs : List Byte) : (s.store a bs).launchTable = s.launchTable := rfl
@[simp] theorem State.store_parts (s : State) (a : Nat) (bs : List Byte) : (s.store a bs).parts = s.parts := rfl
@[simp] theorem State.store_passes (s : State) (a : Nat) (bs : List Byte) : (s.store a bs).passes = s.passes := rfl
@[simp] theorem State.store_tasksets (s : State) (a : Nat) (bs : List Byte) : (s.store a bs).tasksets = s.tasksets := rfl
@[simp] theorem State.store_nextTs (s : State) (a : Nat) (bs : List Byte) : (s.store a bs).nextTs = s.nextTs := rfl
@[simp] theorem State.store_tileLaunches (s : State) (a : Nat) (bs : List Byte) : (s.store a bs).tileLaunches = s.tileLaunches := rfl
@[simp] theorem State.store_queues (s : State) (a : Nat) (bs : List Byte) : (s.store a bs).queues = s.queues := rfl
@[simp] theorem State.store_requests (s : State) (a : Nat) (bs : List Byte) : (s.store a bs).requests = s.requests := rfl
@[simp] theorem State.store_reqNo (s : State) (a : Nat) (bs : List Byte) : (s.store a bs).reqNo = s.reqNo := rfl
@[simp] theorem State.store_revoked (s : State) (a : Nat) (bs : List Byte) : (s.store a bs).revoked = s.revoked := rfl
@[simp] theorem State.store_cfg (s : State) (a : Nat) (bs : List Byte) : (s.store a bs).cfg = s.cfg := rfl
@[simp] theorem State.store_fw (s : State) (a : Nat) (bs : List Byte) : (s.store a bs).fw = s.fw := rfl
@[simp] theorem State.store_certChain (s : State) (a : Nat) (bs : List Byte) : (s.store a bs).certChain = s.certChain := rfl
@[simp] theorem State.store_attestKey (s : State) (a : Nat) (bs : List Byte) : (s.store a bs).attestKey = s.attestKey := rfl
@[simp] theorem State.store_powerHold (s : State) (a : Nat) (bs : List Byte) : (s.store a bs).powerHold = s.powerHold := rfl
@[simp] theorem State.store_currentHold (s : State) (a : Nat) (bs : List Byte) : (s.store a bs).currentHold = s.currentHold := rfl
@[simp] theorem State.store_thermalHold (s : State) (a : Nat) (bs : List Byte) : (s.store a bs).thermalHold = s.thermalHold := rfl
@[simp] theorem State.store_off (s : State) (a : Nat) (bs : List Byte) : (s.store a bs).off = s.off := rfl
@[simp] theorem State.store_spdmOnly (s : State) (a : Nat) (bs : List Byte) : (s.store a bs).spdmOnly = s.spdmOnly := rfl
@[simp] theorem State.store_scrubLine (s : State) (a : Nat) (bs : List Byte) : (s.store a bs).scrubLine = s.scrubLine := rfl
@[simp] theorem State.store_refreshed (s : State) (a : Nat) (bs : List Byte) : (s.store a bs).refreshed = s.refreshed := rfl
@[simp] theorem State.store_activated (s : State) (a : Nat) (bs : List Byte) : (s.store a bs).activated = s.activated := rfl
@[simp] theorem State.store_wiped (s : State) (a : Nat) (bs : List Byte) : (s.store a bs).wiped = s.wiped := rfl
@[simp] theorem State.store_sent (s : State) (a : Nat) (bs : List Byte) : (s.store a bs).sent = s.sent := rfl
@[simp] theorem State.store_agent (s : State) (a : Nat) (bs : List Byte) (m : Nat) : (s.store a bs).agent m = s.agent m := rfl
@[simp] theorem State.store_account (s : State) (a : Nat) (bs : List Byte) (x : BitVec 10) : (s.store a bs).account x = s.account x := rfl
@[simp] theorem State.store_pitch (s : State) (a : Nat) (bs : List Byte) (m : Nat) : (s.store a bs).pitch m = s.pitch m := rfl

/-! ## modAccount -/

@[simp] theorem State.modAccount_cur (s : State) (c : BitVec 10) (f : Account → Account) : (s.modAccount c f).cur = s.cur := rfl
@[simp] theorem State.modAccount_sched (s : State) (c : BitVec 10) (f : Account → Account) : (s.modAccount c f).sched = s.sched := rfl
@[simp] theorem State.modAccount_freeCtr (s : State) (c : BitVec 10) (f : Account → Account) : (s.modAccount c f).freeCtr = s.freeCtr := rfl
@[simp] theorem State.modAccount_agents (s : State) (c : BitVec 10) (f : Account → Account) : (s.modAccount c f).agents = s.agents := rfl
@[simp] theorem State.modAccount_mem (s : State) (c : BitVec 10) (f : Account → Account) : (s.modAccount c f).mem = s.mem := rfl
@[simp] theorem State.modAccount_wcStatus (s : State) (c : BitVec 10) (f : Account → Account) : (s.modAccount c f).wcStatus = s.wcStatus := rfl
@[simp] theorem State.modAccount_hostLines (s : State) (c : BitVec 10) (f : Account → Account) : (s.modAccount c f).hostLines = s.hostLines := rfl
@[simp] theorem State.modAccount_poison (s : State) (c : BitVec 10) (f : Account → Account) : (s.modAccount c f).poison = s.poison := rfl
@[simp] theorem State.modAccount_quarantined (s : State) (c : BitVec 10) (f : Account → Account) : (s.modAccount c f).quarantined = s.quarantined := rfl
@[simp] theorem State.modAccount_transit (s : State) (c : BitVec 10) (f : Account → Account) : (s.modAccount c f).transit = s.transit := rfl
@[simp] theorem State.modAccount_arrivals (s : State) (c : BitVec 10) (f : Account → Account) : (s.modAccount c f).arrivals = s.arrivals := rfl
@[simp] theorem State.modAccount_running (s : State) (c : BitVec 10) (f : Account → Account) : (s.modAccount c f).running = s.running := rfl
@[simp] theorem State.modAccount_now (s : State) (c : BitVec 10) (f : Account → Account) : (s.modAccount c f).now = s.now := rfl
@[simp] theorem State.modAccount_rates (s : State) (c : BitVec 10) (f : Account → Account) : (s.modAccount c f).rates = s.rates := rfl
@[simp] theorem State.modAccount_pitches (s : State) (c : BitVec 10) (f : Account → Account) : (s.modAccount c f).pitches = s.pitches := rfl
@[simp] theorem State.modAccount_commits (s : State) (c : BitVec 10) (f : Account → Account) : (s.modAccount c f).commits = s.commits := rfl
@[simp] theorem State.modAccount_pages (s : State) (c : BitVec 10) (f : Account → Account) : (s.modAccount c f).pages = s.pages := rfl
@[simp] theorem State.modAccount_hostPages (s : State) (c : BitVec 10) (f : Account → Account) : (s.modAccount c f).hostPages = s.hostPages := rfl
@[simp] theorem State.modAccount_reportNo (s : State) (c : BitVec 10) (f : Account → Account) : (s.modAccount c f).reportNo = s.reportNo := rfl
@[simp] theorem State.modAccount_qpairs (s : State) (c : BitVec 10) (f : Account → Account) : (s.modAccount c f).qpairs = s.qpairs := rfl
@[simp] theorem State.modAccount_work (s : State) (c : BitVec 10) (f : Account → Account) : (s.modAccount c f).work = s.work := rfl
@[simp] theorem State.modAccount_reductions (s : State) (c : BitVec 10) (f : Account → Account) : (s.modAccount c f).reductions = s.reductions := rfl
@[simp] theorem State.modAccount_mailbox (s : State) (c : BitVec 10) (f : Account → Account) : (s.modAccount c f).mailbox = s.mailbox := rfl
@[simp] theorem State.modAccount_mailSeq (s : State) (c : BitVec 10) (f : Account → Account) : (s.modAccount c f).mailSeq = s.mailSeq := rfl
@[simp] theorem State.modAccount_loadSeq (s : State) (c : BitVec 10) (f : Account → Account) : (s.modAccount c f).loadSeq = s.loadSeq := rfl
@[simp] theorem State.modAccount_relSeq (s : State) (c : BitVec 10) (f : Account → Account) : (s.modAccount c f).relSeq = s.relSeq := rfl
@[simp] theorem State.modAccount_workSeq (s : State) (c : BitVec 10) (f : Account → Account) : (s.modAccount c f).workSeq = s.workSeq := rfl
@[simp] theorem State.modAccount_arms (s : State) (c : BitVec 10) (f : Account → Account) : (s.modAccount c f).arms = s.arms := rfl
@[simp] theorem State.modAccount_launchTable (s : State) (c : BitVec 10) (f : Account → Account) : (s.modAccount c f).launchTable = s.launchTable := rfl
@[simp] theorem State.modAccount_parts (s : State) (c : BitVec 10) (f : Account → Account) : (s.modAccount c f).parts = s.parts := rfl
@[simp] theorem State.modAccount_passes (s : State) (c : BitVec 10) (f : Account → Account) : (s.modAccount c f).passes = s.passes := rfl
@[simp] theorem State.modAccount_tasksets (s : State) (c : BitVec 10) (f : Account → Account) : (s.modAccount c f).tasksets = s.tasksets := rfl
@[simp] theorem State.modAccount_nextTs (s : State) (c : BitVec 10) (f : Account → Account) : (s.modAccount c f).nextTs = s.nextTs := rfl
@[simp] theorem State.modAccount_tileLaunches (s : State) (c : BitVec 10) (f : Account → Account) : (s.modAccount c f).tileLaunches = s.tileLaunches := rfl
@[simp] theorem State.modAccount_queues (s : State) (c : BitVec 10) (f : Account → Account) : (s.modAccount c f).queues = s.queues := rfl
@[simp] theorem State.modAccount_requests (s : State) (c : BitVec 10) (f : Account → Account) : (s.modAccount c f).requests = s.requests := rfl
@[simp] theorem State.modAccount_reqNo (s : State) (c : BitVec 10) (f : Account → Account) : (s.modAccount c f).reqNo = s.reqNo := rfl
@[simp] theorem State.modAccount_revoked (s : State) (c : BitVec 10) (f : Account → Account) : (s.modAccount c f).revoked = s.revoked := rfl
@[simp] theorem State.modAccount_cfg (s : State) (c : BitVec 10) (f : Account → Account) : (s.modAccount c f).cfg = s.cfg := rfl
@[simp] theorem State.modAccount_fw (s : State) (c : BitVec 10) (f : Account → Account) : (s.modAccount c f).fw = s.fw := rfl
@[simp] theorem State.modAccount_certChain (s : State) (c : BitVec 10) (f : Account → Account) : (s.modAccount c f).certChain = s.certChain := rfl
@[simp] theorem State.modAccount_attestKey (s : State) (c : BitVec 10) (f : Account → Account) : (s.modAccount c f).attestKey = s.attestKey := rfl
@[simp] theorem State.modAccount_powerHold (s : State) (c : BitVec 10) (f : Account → Account) : (s.modAccount c f).powerHold = s.powerHold := rfl
@[simp] theorem State.modAccount_currentHold (s : State) (c : BitVec 10) (f : Account → Account) : (s.modAccount c f).currentHold = s.currentHold := rfl
@[simp] theorem State.modAccount_thermalHold (s : State) (c : BitVec 10) (f : Account → Account) : (s.modAccount c f).thermalHold = s.thermalHold := rfl
@[simp] theorem State.modAccount_off (s : State) (c : BitVec 10) (f : Account → Account) : (s.modAccount c f).off = s.off := rfl
@[simp] theorem State.modAccount_spdmOnly (s : State) (c : BitVec 10) (f : Account → Account) : (s.modAccount c f).spdmOnly = s.spdmOnly := rfl
@[simp] theorem State.modAccount_scrubLine (s : State) (c : BitVec 10) (f : Account → Account) : (s.modAccount c f).scrubLine = s.scrubLine := rfl
@[simp] theorem State.modAccount_refreshed (s : State) (c : BitVec 10) (f : Account → Account) : (s.modAccount c f).refreshed = s.refreshed := rfl
@[simp] theorem State.modAccount_activated (s : State) (c : BitVec 10) (f : Account → Account) : (s.modAccount c f).activated = s.activated := rfl
@[simp] theorem State.modAccount_wiped (s : State) (c : BitVec 10) (f : Account → Account) : (s.modAccount c f).wiped = s.wiped := rfl
@[simp] theorem State.modAccount_sent (s : State) (c : BitVec 10) (f : Account → Account) : (s.modAccount c f).sent = s.sent := rfl
@[simp] theorem State.modAccount_agent (s : State) (c : BitVec 10) (f : Account → Account) (m : Nat) : (s.modAccount c f).agent m = s.agent m := rfl
@[simp] theorem State.modAccount_pitch (s : State) (c : BitVec 10) (f : Account → Account) (m : Nat) : (s.modAccount c f).pitch m = s.pitch m := rfl

/-! ## setPitch -/

@[simp] theorem State.setPitch_cur (s : State) (k : Nat) (p : Pitch) : (s.setPitch k p).cur = s.cur := rfl
@[simp] theorem State.setPitch_sched (s : State) (k : Nat) (p : Pitch) : (s.setPitch k p).sched = s.sched := rfl
@[simp] theorem State.setPitch_freeCtr (s : State) (k : Nat) (p : Pitch) : (s.setPitch k p).freeCtr = s.freeCtr := rfl
@[simp] theorem State.setPitch_agents (s : State) (k : Nat) (p : Pitch) : (s.setPitch k p).agents = s.agents := rfl
@[simp] theorem State.setPitch_mem (s : State) (k : Nat) (p : Pitch) : (s.setPitch k p).mem = s.mem := rfl
@[simp] theorem State.setPitch_wcStatus (s : State) (k : Nat) (p : Pitch) : (s.setPitch k p).wcStatus = s.wcStatus := rfl
@[simp] theorem State.setPitch_hostLines (s : State) (k : Nat) (p : Pitch) : (s.setPitch k p).hostLines = s.hostLines := rfl
@[simp] theorem State.setPitch_poison (s : State) (k : Nat) (p : Pitch) : (s.setPitch k p).poison = s.poison := rfl
@[simp] theorem State.setPitch_quarantined (s : State) (k : Nat) (p : Pitch) : (s.setPitch k p).quarantined = s.quarantined := rfl
@[simp] theorem State.setPitch_transit (s : State) (k : Nat) (p : Pitch) : (s.setPitch k p).transit = s.transit := rfl
@[simp] theorem State.setPitch_arrivals (s : State) (k : Nat) (p : Pitch) : (s.setPitch k p).arrivals = s.arrivals := rfl
@[simp] theorem State.setPitch_running (s : State) (k : Nat) (p : Pitch) : (s.setPitch k p).running = s.running := rfl
@[simp] theorem State.setPitch_now (s : State) (k : Nat) (p : Pitch) : (s.setPitch k p).now = s.now := rfl
@[simp] theorem State.setPitch_rates (s : State) (k : Nat) (p : Pitch) : (s.setPitch k p).rates = s.rates := rfl
@[simp] theorem State.setPitch_accounts (s : State) (k : Nat) (p : Pitch) : (s.setPitch k p).accounts = s.accounts := rfl
@[simp] theorem State.setPitch_commits (s : State) (k : Nat) (p : Pitch) : (s.setPitch k p).commits = s.commits := rfl
@[simp] theorem State.setPitch_pages (s : State) (k : Nat) (p : Pitch) : (s.setPitch k p).pages = s.pages := rfl
@[simp] theorem State.setPitch_hostPages (s : State) (k : Nat) (p : Pitch) : (s.setPitch k p).hostPages = s.hostPages := rfl
@[simp] theorem State.setPitch_reportNo (s : State) (k : Nat) (p : Pitch) : (s.setPitch k p).reportNo = s.reportNo := rfl
@[simp] theorem State.setPitch_qpairs (s : State) (k : Nat) (p : Pitch) : (s.setPitch k p).qpairs = s.qpairs := rfl
@[simp] theorem State.setPitch_work (s : State) (k : Nat) (p : Pitch) : (s.setPitch k p).work = s.work := rfl
@[simp] theorem State.setPitch_reductions (s : State) (k : Nat) (p : Pitch) : (s.setPitch k p).reductions = s.reductions := rfl
@[simp] theorem State.setPitch_mailbox (s : State) (k : Nat) (p : Pitch) : (s.setPitch k p).mailbox = s.mailbox := rfl
@[simp] theorem State.setPitch_mailSeq (s : State) (k : Nat) (p : Pitch) : (s.setPitch k p).mailSeq = s.mailSeq := rfl
@[simp] theorem State.setPitch_loadSeq (s : State) (k : Nat) (p : Pitch) : (s.setPitch k p).loadSeq = s.loadSeq := rfl
@[simp] theorem State.setPitch_relSeq (s : State) (k : Nat) (p : Pitch) : (s.setPitch k p).relSeq = s.relSeq := rfl
@[simp] theorem State.setPitch_workSeq (s : State) (k : Nat) (p : Pitch) : (s.setPitch k p).workSeq = s.workSeq := rfl
@[simp] theorem State.setPitch_arms (s : State) (k : Nat) (p : Pitch) : (s.setPitch k p).arms = s.arms := rfl
@[simp] theorem State.setPitch_launchTable (s : State) (k : Nat) (p : Pitch) : (s.setPitch k p).launchTable = s.launchTable := rfl
@[simp] theorem State.setPitch_parts (s : State) (k : Nat) (p : Pitch) : (s.setPitch k p).parts = s.parts := rfl
@[simp] theorem State.setPitch_passes (s : State) (k : Nat) (p : Pitch) : (s.setPitch k p).passes = s.passes := rfl
@[simp] theorem State.setPitch_tasksets (s : State) (k : Nat) (p : Pitch) : (s.setPitch k p).tasksets = s.tasksets := rfl
@[simp] theorem State.setPitch_nextTs (s : State) (k : Nat) (p : Pitch) : (s.setPitch k p).nextTs = s.nextTs := rfl
@[simp] theorem State.setPitch_tileLaunches (s : State) (k : Nat) (p : Pitch) : (s.setPitch k p).tileLaunches = s.tileLaunches := rfl
@[simp] theorem State.setPitch_queues (s : State) (k : Nat) (p : Pitch) : (s.setPitch k p).queues = s.queues := rfl
@[simp] theorem State.setPitch_requests (s : State) (k : Nat) (p : Pitch) : (s.setPitch k p).requests = s.requests := rfl
@[simp] theorem State.setPitch_reqNo (s : State) (k : Nat) (p : Pitch) : (s.setPitch k p).reqNo = s.reqNo := rfl
@[simp] theorem State.setPitch_revoked (s : State) (k : Nat) (p : Pitch) : (s.setPitch k p).revoked = s.revoked := rfl
@[simp] theorem State.setPitch_cfg (s : State) (k : Nat) (p : Pitch) : (s.setPitch k p).cfg = s.cfg := rfl
@[simp] theorem State.setPitch_fw (s : State) (k : Nat) (p : Pitch) : (s.setPitch k p).fw = s.fw := rfl
@[simp] theorem State.setPitch_certChain (s : State) (k : Nat) (p : Pitch) : (s.setPitch k p).certChain = s.certChain := rfl
@[simp] theorem State.setPitch_attestKey (s : State) (k : Nat) (p : Pitch) : (s.setPitch k p).attestKey = s.attestKey := rfl
@[simp] theorem State.setPitch_powerHold (s : State) (k : Nat) (p : Pitch) : (s.setPitch k p).powerHold = s.powerHold := rfl
@[simp] theorem State.setPitch_currentHold (s : State) (k : Nat) (p : Pitch) : (s.setPitch k p).currentHold = s.currentHold := rfl
@[simp] theorem State.setPitch_thermalHold (s : State) (k : Nat) (p : Pitch) : (s.setPitch k p).thermalHold = s.thermalHold := rfl
@[simp] theorem State.setPitch_off (s : State) (k : Nat) (p : Pitch) : (s.setPitch k p).off = s.off := rfl
@[simp] theorem State.setPitch_spdmOnly (s : State) (k : Nat) (p : Pitch) : (s.setPitch k p).spdmOnly = s.spdmOnly := rfl
@[simp] theorem State.setPitch_scrubLine (s : State) (k : Nat) (p : Pitch) : (s.setPitch k p).scrubLine = s.scrubLine := rfl
@[simp] theorem State.setPitch_refreshed (s : State) (k : Nat) (p : Pitch) : (s.setPitch k p).refreshed = s.refreshed := rfl
@[simp] theorem State.setPitch_activated (s : State) (k : Nat) (p : Pitch) : (s.setPitch k p).activated = s.activated := rfl
@[simp] theorem State.setPitch_wiped (s : State) (k : Nat) (p : Pitch) : (s.setPitch k p).wiped = s.wiped := rfl
@[simp] theorem State.setPitch_sent (s : State) (k : Nat) (p : Pitch) : (s.setPitch k p).sent = s.sent := rfl
@[simp] theorem State.setPitch_agent (s : State) (k : Nat) (p : Pitch) (m : Nat) : (s.setPitch k p).agent m = s.agent m := rfl
@[simp] theorem State.setPitch_account (s : State) (k : Nat) (p : Pitch) (x : BitVec 10) : (s.setPitch k p).account x = s.account x := rfl

/-! ## modPitch -/

@[simp] theorem State.modPitch_cur (s : State) (k : Nat) (f : Pitch → Pitch) : (s.modPitch k f).cur = s.cur := rfl
@[simp] theorem State.modPitch_sched (s : State) (k : Nat) (f : Pitch → Pitch) : (s.modPitch k f).sched = s.sched := rfl
@[simp] theorem State.modPitch_freeCtr (s : State) (k : Nat) (f : Pitch → Pitch) : (s.modPitch k f).freeCtr = s.freeCtr := rfl
@[simp] theorem State.modPitch_agents (s : State) (k : Nat) (f : Pitch → Pitch) : (s.modPitch k f).agents = s.agents := rfl
@[simp] theorem State.modPitch_mem (s : State) (k : Nat) (f : Pitch → Pitch) : (s.modPitch k f).mem = s.mem := rfl
@[simp] theorem State.modPitch_wcStatus (s : State) (k : Nat) (f : Pitch → Pitch) : (s.modPitch k f).wcStatus = s.wcStatus := rfl
@[simp] theorem State.modPitch_hostLines (s : State) (k : Nat) (f : Pitch → Pitch) : (s.modPitch k f).hostLines = s.hostLines := rfl
@[simp] theorem State.modPitch_poison (s : State) (k : Nat) (f : Pitch → Pitch) : (s.modPitch k f).poison = s.poison := rfl
@[simp] theorem State.modPitch_quarantined (s : State) (k : Nat) (f : Pitch → Pitch) : (s.modPitch k f).quarantined = s.quarantined := rfl
@[simp] theorem State.modPitch_transit (s : State) (k : Nat) (f : Pitch → Pitch) : (s.modPitch k f).transit = s.transit := rfl
@[simp] theorem State.modPitch_arrivals (s : State) (k : Nat) (f : Pitch → Pitch) : (s.modPitch k f).arrivals = s.arrivals := rfl
@[simp] theorem State.modPitch_running (s : State) (k : Nat) (f : Pitch → Pitch) : (s.modPitch k f).running = s.running := rfl
@[simp] theorem State.modPitch_now (s : State) (k : Nat) (f : Pitch → Pitch) : (s.modPitch k f).now = s.now := rfl
@[simp] theorem State.modPitch_rates (s : State) (k : Nat) (f : Pitch → Pitch) : (s.modPitch k f).rates = s.rates := rfl
@[simp] theorem State.modPitch_accounts (s : State) (k : Nat) (f : Pitch → Pitch) : (s.modPitch k f).accounts = s.accounts := rfl
@[simp] theorem State.modPitch_commits (s : State) (k : Nat) (f : Pitch → Pitch) : (s.modPitch k f).commits = s.commits := rfl
@[simp] theorem State.modPitch_pages (s : State) (k : Nat) (f : Pitch → Pitch) : (s.modPitch k f).pages = s.pages := rfl
@[simp] theorem State.modPitch_hostPages (s : State) (k : Nat) (f : Pitch → Pitch) : (s.modPitch k f).hostPages = s.hostPages := rfl
@[simp] theorem State.modPitch_reportNo (s : State) (k : Nat) (f : Pitch → Pitch) : (s.modPitch k f).reportNo = s.reportNo := rfl
@[simp] theorem State.modPitch_qpairs (s : State) (k : Nat) (f : Pitch → Pitch) : (s.modPitch k f).qpairs = s.qpairs := rfl
@[simp] theorem State.modPitch_work (s : State) (k : Nat) (f : Pitch → Pitch) : (s.modPitch k f).work = s.work := rfl
@[simp] theorem State.modPitch_reductions (s : State) (k : Nat) (f : Pitch → Pitch) : (s.modPitch k f).reductions = s.reductions := rfl
@[simp] theorem State.modPitch_mailbox (s : State) (k : Nat) (f : Pitch → Pitch) : (s.modPitch k f).mailbox = s.mailbox := rfl
@[simp] theorem State.modPitch_mailSeq (s : State) (k : Nat) (f : Pitch → Pitch) : (s.modPitch k f).mailSeq = s.mailSeq := rfl
@[simp] theorem State.modPitch_loadSeq (s : State) (k : Nat) (f : Pitch → Pitch) : (s.modPitch k f).loadSeq = s.loadSeq := rfl
@[simp] theorem State.modPitch_relSeq (s : State) (k : Nat) (f : Pitch → Pitch) : (s.modPitch k f).relSeq = s.relSeq := rfl
@[simp] theorem State.modPitch_workSeq (s : State) (k : Nat) (f : Pitch → Pitch) : (s.modPitch k f).workSeq = s.workSeq := rfl
@[simp] theorem State.modPitch_arms (s : State) (k : Nat) (f : Pitch → Pitch) : (s.modPitch k f).arms = s.arms := rfl
@[simp] theorem State.modPitch_launchTable (s : State) (k : Nat) (f : Pitch → Pitch) : (s.modPitch k f).launchTable = s.launchTable := rfl
@[simp] theorem State.modPitch_parts (s : State) (k : Nat) (f : Pitch → Pitch) : (s.modPitch k f).parts = s.parts := rfl
@[simp] theorem State.modPitch_passes (s : State) (k : Nat) (f : Pitch → Pitch) : (s.modPitch k f).passes = s.passes := rfl
@[simp] theorem State.modPitch_tasksets (s : State) (k : Nat) (f : Pitch → Pitch) : (s.modPitch k f).tasksets = s.tasksets := rfl
@[simp] theorem State.modPitch_nextTs (s : State) (k : Nat) (f : Pitch → Pitch) : (s.modPitch k f).nextTs = s.nextTs := rfl
@[simp] theorem State.modPitch_tileLaunches (s : State) (k : Nat) (f : Pitch → Pitch) : (s.modPitch k f).tileLaunches = s.tileLaunches := rfl
@[simp] theorem State.modPitch_queues (s : State) (k : Nat) (f : Pitch → Pitch) : (s.modPitch k f).queues = s.queues := rfl
@[simp] theorem State.modPitch_requests (s : State) (k : Nat) (f : Pitch → Pitch) : (s.modPitch k f).requests = s.requests := rfl
@[simp] theorem State.modPitch_reqNo (s : State) (k : Nat) (f : Pitch → Pitch) : (s.modPitch k f).reqNo = s.reqNo := rfl
@[simp] theorem State.modPitch_revoked (s : State) (k : Nat) (f : Pitch → Pitch) : (s.modPitch k f).revoked = s.revoked := rfl
@[simp] theorem State.modPitch_cfg (s : State) (k : Nat) (f : Pitch → Pitch) : (s.modPitch k f).cfg = s.cfg := rfl
@[simp] theorem State.modPitch_fw (s : State) (k : Nat) (f : Pitch → Pitch) : (s.modPitch k f).fw = s.fw := rfl
@[simp] theorem State.modPitch_certChain (s : State) (k : Nat) (f : Pitch → Pitch) : (s.modPitch k f).certChain = s.certChain := rfl
@[simp] theorem State.modPitch_attestKey (s : State) (k : Nat) (f : Pitch → Pitch) : (s.modPitch k f).attestKey = s.attestKey := rfl
@[simp] theorem State.modPitch_powerHold (s : State) (k : Nat) (f : Pitch → Pitch) : (s.modPitch k f).powerHold = s.powerHold := rfl
@[simp] theorem State.modPitch_currentHold (s : State) (k : Nat) (f : Pitch → Pitch) : (s.modPitch k f).currentHold = s.currentHold := rfl
@[simp] theorem State.modPitch_thermalHold (s : State) (k : Nat) (f : Pitch → Pitch) : (s.modPitch k f).thermalHold = s.thermalHold := rfl
@[simp] theorem State.modPitch_off (s : State) (k : Nat) (f : Pitch → Pitch) : (s.modPitch k f).off = s.off := rfl
@[simp] theorem State.modPitch_spdmOnly (s : State) (k : Nat) (f : Pitch → Pitch) : (s.modPitch k f).spdmOnly = s.spdmOnly := rfl
@[simp] theorem State.modPitch_scrubLine (s : State) (k : Nat) (f : Pitch → Pitch) : (s.modPitch k f).scrubLine = s.scrubLine := rfl
@[simp] theorem State.modPitch_refreshed (s : State) (k : Nat) (f : Pitch → Pitch) : (s.modPitch k f).refreshed = s.refreshed := rfl
@[simp] theorem State.modPitch_activated (s : State) (k : Nat) (f : Pitch → Pitch) : (s.modPitch k f).activated = s.activated := rfl
@[simp] theorem State.modPitch_wiped (s : State) (k : Nat) (f : Pitch → Pitch) : (s.modPitch k f).wiped = s.wiped := rfl
@[simp] theorem State.modPitch_sent (s : State) (k : Nat) (f : Pitch → Pitch) : (s.modPitch k f).sent = s.sent := rfl
@[simp] theorem State.modPitch_agent (s : State) (k : Nat) (f : Pitch → Pitch) (m : Nat) : (s.modPitch k f).agent m = s.agent m := rfl
@[simp] theorem State.modPitch_account (s : State) (k : Nat) (f : Pitch → Pitch) (x : BitVec 10) : (s.modPitch k f).account x = s.account x := rfl

/-! ## setQrec -/

@[simp] theorem State.setQrec_cur (s : State) (q : BitVec 6) (r : QRec) : (s.setQrec q r).cur = s.cur := rfl
@[simp] theorem State.setQrec_sched (s : State) (q : BitVec 6) (r : QRec) : (s.setQrec q r).sched = s.sched := rfl
@[simp] theorem State.setQrec_freeCtr (s : State) (q : BitVec 6) (r : QRec) : (s.setQrec q r).freeCtr = s.freeCtr := rfl
@[simp] theorem State.setQrec_agents (s : State) (q : BitVec 6) (r : QRec) : (s.setQrec q r).agents = s.agents := rfl
@[simp] theorem State.setQrec_mem (s : State) (q : BitVec 6) (r : QRec) : (s.setQrec q r).mem = s.mem := rfl
@[simp] theorem State.setQrec_wcStatus (s : State) (q : BitVec 6) (r : QRec) : (s.setQrec q r).wcStatus = s.wcStatus := rfl
@[simp] theorem State.setQrec_hostLines (s : State) (q : BitVec 6) (r : QRec) : (s.setQrec q r).hostLines = s.hostLines := rfl
@[simp] theorem State.setQrec_poison (s : State) (q : BitVec 6) (r : QRec) : (s.setQrec q r).poison = s.poison := rfl
@[simp] theorem State.setQrec_quarantined (s : State) (q : BitVec 6) (r : QRec) : (s.setQrec q r).quarantined = s.quarantined := rfl
@[simp] theorem State.setQrec_transit (s : State) (q : BitVec 6) (r : QRec) : (s.setQrec q r).transit = s.transit := rfl
@[simp] theorem State.setQrec_arrivals (s : State) (q : BitVec 6) (r : QRec) : (s.setQrec q r).arrivals = s.arrivals := rfl
@[simp] theorem State.setQrec_running (s : State) (q : BitVec 6) (r : QRec) : (s.setQrec q r).running = s.running := rfl
@[simp] theorem State.setQrec_now (s : State) (q : BitVec 6) (r : QRec) : (s.setQrec q r).now = s.now := rfl
@[simp] theorem State.setQrec_rates (s : State) (q : BitVec 6) (r : QRec) : (s.setQrec q r).rates = s.rates := rfl
@[simp] theorem State.setQrec_accounts (s : State) (q : BitVec 6) (r : QRec) : (s.setQrec q r).accounts = s.accounts := rfl
@[simp] theorem State.setQrec_pitches (s : State) (q : BitVec 6) (r : QRec) : (s.setQrec q r).pitches = s.pitches := rfl
@[simp] theorem State.setQrec_commits (s : State) (q : BitVec 6) (r : QRec) : (s.setQrec q r).commits = s.commits := rfl
@[simp] theorem State.setQrec_pages (s : State) (q : BitVec 6) (r : QRec) : (s.setQrec q r).pages = s.pages := rfl
@[simp] theorem State.setQrec_hostPages (s : State) (q : BitVec 6) (r : QRec) : (s.setQrec q r).hostPages = s.hostPages := rfl
@[simp] theorem State.setQrec_reportNo (s : State) (q : BitVec 6) (r : QRec) : (s.setQrec q r).reportNo = s.reportNo := rfl
@[simp] theorem State.setQrec_qpairs (s : State) (q : BitVec 6) (r : QRec) : (s.setQrec q r).qpairs = s.qpairs := rfl
@[simp] theorem State.setQrec_work (s : State) (q : BitVec 6) (r : QRec) : (s.setQrec q r).work = s.work := rfl
@[simp] theorem State.setQrec_reductions (s : State) (q : BitVec 6) (r : QRec) : (s.setQrec q r).reductions = s.reductions := rfl
@[simp] theorem State.setQrec_mailbox (s : State) (q : BitVec 6) (r : QRec) : (s.setQrec q r).mailbox = s.mailbox := rfl
@[simp] theorem State.setQrec_mailSeq (s : State) (q : BitVec 6) (r : QRec) : (s.setQrec q r).mailSeq = s.mailSeq := rfl
@[simp] theorem State.setQrec_loadSeq (s : State) (q : BitVec 6) (r : QRec) : (s.setQrec q r).loadSeq = s.loadSeq := rfl
@[simp] theorem State.setQrec_relSeq (s : State) (q : BitVec 6) (r : QRec) : (s.setQrec q r).relSeq = s.relSeq := rfl
@[simp] theorem State.setQrec_workSeq (s : State) (q : BitVec 6) (r : QRec) : (s.setQrec q r).workSeq = s.workSeq := rfl
@[simp] theorem State.setQrec_arms (s : State) (q : BitVec 6) (r : QRec) : (s.setQrec q r).arms = s.arms := rfl
@[simp] theorem State.setQrec_launchTable (s : State) (q : BitVec 6) (r : QRec) : (s.setQrec q r).launchTable = s.launchTable := rfl
@[simp] theorem State.setQrec_parts (s : State) (q : BitVec 6) (r : QRec) : (s.setQrec q r).parts = s.parts := rfl
@[simp] theorem State.setQrec_passes (s : State) (q : BitVec 6) (r : QRec) : (s.setQrec q r).passes = s.passes := rfl
@[simp] theorem State.setQrec_tasksets (s : State) (q : BitVec 6) (r : QRec) : (s.setQrec q r).tasksets = s.tasksets := rfl
@[simp] theorem State.setQrec_nextTs (s : State) (q : BitVec 6) (r : QRec) : (s.setQrec q r).nextTs = s.nextTs := rfl
@[simp] theorem State.setQrec_tileLaunches (s : State) (q : BitVec 6) (r : QRec) : (s.setQrec q r).tileLaunches = s.tileLaunches := rfl
@[simp] theorem State.setQrec_requests (s : State) (q : BitVec 6) (r : QRec) : (s.setQrec q r).requests = s.requests := rfl
@[simp] theorem State.setQrec_reqNo (s : State) (q : BitVec 6) (r : QRec) : (s.setQrec q r).reqNo = s.reqNo := rfl
@[simp] theorem State.setQrec_revoked (s : State) (q : BitVec 6) (r : QRec) : (s.setQrec q r).revoked = s.revoked := rfl
@[simp] theorem State.setQrec_cfg (s : State) (q : BitVec 6) (r : QRec) : (s.setQrec q r).cfg = s.cfg := rfl
@[simp] theorem State.setQrec_fw (s : State) (q : BitVec 6) (r : QRec) : (s.setQrec q r).fw = s.fw := rfl
@[simp] theorem State.setQrec_certChain (s : State) (q : BitVec 6) (r : QRec) : (s.setQrec q r).certChain = s.certChain := rfl
@[simp] theorem State.setQrec_attestKey (s : State) (q : BitVec 6) (r : QRec) : (s.setQrec q r).attestKey = s.attestKey := rfl
@[simp] theorem State.setQrec_powerHold (s : State) (q : BitVec 6) (r : QRec) : (s.setQrec q r).powerHold = s.powerHold := rfl
@[simp] theorem State.setQrec_currentHold (s : State) (q : BitVec 6) (r : QRec) : (s.setQrec q r).currentHold = s.currentHold := rfl
@[simp] theorem State.setQrec_thermalHold (s : State) (q : BitVec 6) (r : QRec) : (s.setQrec q r).thermalHold = s.thermalHold := rfl
@[simp] theorem State.setQrec_off (s : State) (q : BitVec 6) (r : QRec) : (s.setQrec q r).off = s.off := rfl
@[simp] theorem State.setQrec_spdmOnly (s : State) (q : BitVec 6) (r : QRec) : (s.setQrec q r).spdmOnly = s.spdmOnly := rfl
@[simp] theorem State.setQrec_scrubLine (s : State) (q : BitVec 6) (r : QRec) : (s.setQrec q r).scrubLine = s.scrubLine := rfl
@[simp] theorem State.setQrec_refreshed (s : State) (q : BitVec 6) (r : QRec) : (s.setQrec q r).refreshed = s.refreshed := rfl
@[simp] theorem State.setQrec_activated (s : State) (q : BitVec 6) (r : QRec) : (s.setQrec q r).activated = s.activated := rfl
@[simp] theorem State.setQrec_wiped (s : State) (q : BitVec 6) (r : QRec) : (s.setQrec q r).wiped = s.wiped := rfl
@[simp] theorem State.setQrec_sent (s : State) (q : BitVec 6) (r : QRec) : (s.setQrec q r).sent = s.sent := rfl
@[simp] theorem State.setQrec_agent (s : State) (q : BitVec 6) (r : QRec) (m : Nat) : (s.setQrec q r).agent m = s.agent m := rfl
@[simp] theorem State.setQrec_account (s : State) (q : BitVec 6) (r : QRec) (x : BitVec 10) : (s.setQrec q r).account x = s.account x := rfl
@[simp] theorem State.setQrec_pitch (s : State) (q : BitVec 6) (r : QRec) (m : Nat) : (s.setQrec q r).pitch m = s.pitch m := rfl

/-! ## dropReq -/

@[simp] theorem State.dropReq_cur (s : State) (r : Req) : (s.dropReq r).cur = s.cur := rfl
@[simp] theorem State.dropReq_sched (s : State) (r : Req) : (s.dropReq r).sched = s.sched := rfl
@[simp] theorem State.dropReq_freeCtr (s : State) (r : Req) : (s.dropReq r).freeCtr = s.freeCtr := rfl
@[simp] theorem State.dropReq_agents (s : State) (r : Req) : (s.dropReq r).agents = s.agents := rfl
@[simp] theorem State.dropReq_mem (s : State) (r : Req) : (s.dropReq r).mem = s.mem := rfl
@[simp] theorem State.dropReq_wcStatus (s : State) (r : Req) : (s.dropReq r).wcStatus = s.wcStatus := rfl
@[simp] theorem State.dropReq_hostLines (s : State) (r : Req) : (s.dropReq r).hostLines = s.hostLines := rfl
@[simp] theorem State.dropReq_poison (s : State) (r : Req) : (s.dropReq r).poison = s.poison := rfl
@[simp] theorem State.dropReq_quarantined (s : State) (r : Req) : (s.dropReq r).quarantined = s.quarantined := rfl
@[simp] theorem State.dropReq_transit (s : State) (r : Req) : (s.dropReq r).transit = s.transit := rfl
@[simp] theorem State.dropReq_arrivals (s : State) (r : Req) : (s.dropReq r).arrivals = s.arrivals := rfl
@[simp] theorem State.dropReq_running (s : State) (r : Req) : (s.dropReq r).running = s.running := rfl
@[simp] theorem State.dropReq_now (s : State) (r : Req) : (s.dropReq r).now = s.now := rfl
@[simp] theorem State.dropReq_rates (s : State) (r : Req) : (s.dropReq r).rates = s.rates := rfl
@[simp] theorem State.dropReq_accounts (s : State) (r : Req) : (s.dropReq r).accounts = s.accounts := rfl
@[simp] theorem State.dropReq_pitches (s : State) (r : Req) : (s.dropReq r).pitches = s.pitches := rfl
@[simp] theorem State.dropReq_commits (s : State) (r : Req) : (s.dropReq r).commits = s.commits := rfl
@[simp] theorem State.dropReq_pages (s : State) (r : Req) : (s.dropReq r).pages = s.pages := rfl
@[simp] theorem State.dropReq_hostPages (s : State) (r : Req) : (s.dropReq r).hostPages = s.hostPages := rfl
@[simp] theorem State.dropReq_reportNo (s : State) (r : Req) : (s.dropReq r).reportNo = s.reportNo := rfl
@[simp] theorem State.dropReq_qpairs (s : State) (r : Req) : (s.dropReq r).qpairs = s.qpairs := rfl
@[simp] theorem State.dropReq_work (s : State) (r : Req) : (s.dropReq r).work = s.work := rfl
@[simp] theorem State.dropReq_reductions (s : State) (r : Req) : (s.dropReq r).reductions = s.reductions := rfl
@[simp] theorem State.dropReq_mailbox (s : State) (r : Req) : (s.dropReq r).mailbox = s.mailbox := rfl
@[simp] theorem State.dropReq_mailSeq (s : State) (r : Req) : (s.dropReq r).mailSeq = s.mailSeq := rfl
@[simp] theorem State.dropReq_loadSeq (s : State) (r : Req) : (s.dropReq r).loadSeq = s.loadSeq := rfl
@[simp] theorem State.dropReq_relSeq (s : State) (r : Req) : (s.dropReq r).relSeq = s.relSeq := rfl
@[simp] theorem State.dropReq_workSeq (s : State) (r : Req) : (s.dropReq r).workSeq = s.workSeq := rfl
@[simp] theorem State.dropReq_arms (s : State) (r : Req) : (s.dropReq r).arms = s.arms := rfl
@[simp] theorem State.dropReq_launchTable (s : State) (r : Req) : (s.dropReq r).launchTable = s.launchTable := rfl
@[simp] theorem State.dropReq_parts (s : State) (r : Req) : (s.dropReq r).parts = s.parts := rfl
@[simp] theorem State.dropReq_passes (s : State) (r : Req) : (s.dropReq r).passes = s.passes := rfl
@[simp] theorem State.dropReq_tasksets (s : State) (r : Req) : (s.dropReq r).tasksets = s.tasksets := rfl
@[simp] theorem State.dropReq_nextTs (s : State) (r : Req) : (s.dropReq r).nextTs = s.nextTs := rfl
@[simp] theorem State.dropReq_tileLaunches (s : State) (r : Req) : (s.dropReq r).tileLaunches = s.tileLaunches := rfl
@[simp] theorem State.dropReq_queues (s : State) (r : Req) : (s.dropReq r).queues = s.queues := rfl
@[simp] theorem State.dropReq_reqNo (s : State) (r : Req) : (s.dropReq r).reqNo = s.reqNo := rfl
@[simp] theorem State.dropReq_revoked (s : State) (r : Req) : (s.dropReq r).revoked = s.revoked := rfl
@[simp] theorem State.dropReq_cfg (s : State) (r : Req) : (s.dropReq r).cfg = s.cfg := rfl
@[simp] theorem State.dropReq_fw (s : State) (r : Req) : (s.dropReq r).fw = s.fw := rfl
@[simp] theorem State.dropReq_certChain (s : State) (r : Req) : (s.dropReq r).certChain = s.certChain := rfl
@[simp] theorem State.dropReq_attestKey (s : State) (r : Req) : (s.dropReq r).attestKey = s.attestKey := rfl
@[simp] theorem State.dropReq_powerHold (s : State) (r : Req) : (s.dropReq r).powerHold = s.powerHold := rfl
@[simp] theorem State.dropReq_currentHold (s : State) (r : Req) : (s.dropReq r).currentHold = s.currentHold := rfl
@[simp] theorem State.dropReq_thermalHold (s : State) (r : Req) : (s.dropReq r).thermalHold = s.thermalHold := rfl
@[simp] theorem State.dropReq_off (s : State) (r : Req) : (s.dropReq r).off = s.off := rfl
@[simp] theorem State.dropReq_spdmOnly (s : State) (r : Req) : (s.dropReq r).spdmOnly = s.spdmOnly := rfl
@[simp] theorem State.dropReq_scrubLine (s : State) (r : Req) : (s.dropReq r).scrubLine = s.scrubLine := rfl
@[simp] theorem State.dropReq_refreshed (s : State) (r : Req) : (s.dropReq r).refreshed = s.refreshed := rfl
@[simp] theorem State.dropReq_activated (s : State) (r : Req) : (s.dropReq r).activated = s.activated := rfl
@[simp] theorem State.dropReq_wiped (s : State) (r : Req) : (s.dropReq r).wiped = s.wiped := rfl
@[simp] theorem State.dropReq_sent (s : State) (r : Req) : (s.dropReq r).sent = s.sent := rfl
@[simp] theorem State.dropReq_agent (s : State) (r : Req) (m : Nat) : (s.dropReq r).agent m = s.agent m := rfl
@[simp] theorem State.dropReq_account (s : State) (r : Req) (x : BitVec 10) : (s.dropReq r).account x = s.account x := rfl
@[simp] theorem State.dropReq_pitch (s : State) (r : Req) (m : Nat) : (s.dropReq r).pitch m = s.pitch m := rfl

/-! ## modTask -/

@[simp] theorem State.modTask_cur (s : State) (ts j : Nat) (f : LoomTask → LoomTask) : (s.modTask ts j f).cur = s.cur := rfl
@[simp] theorem State.modTask_sched (s : State) (ts j : Nat) (f : LoomTask → LoomTask) : (s.modTask ts j f).sched = s.sched := rfl
@[simp] theorem State.modTask_freeCtr (s : State) (ts j : Nat) (f : LoomTask → LoomTask) : (s.modTask ts j f).freeCtr = s.freeCtr := rfl
@[simp] theorem State.modTask_agents (s : State) (ts j : Nat) (f : LoomTask → LoomTask) : (s.modTask ts j f).agents = s.agents := rfl
@[simp] theorem State.modTask_mem (s : State) (ts j : Nat) (f : LoomTask → LoomTask) : (s.modTask ts j f).mem = s.mem := rfl
@[simp] theorem State.modTask_wcStatus (s : State) (ts j : Nat) (f : LoomTask → LoomTask) : (s.modTask ts j f).wcStatus = s.wcStatus := rfl
@[simp] theorem State.modTask_hostLines (s : State) (ts j : Nat) (f : LoomTask → LoomTask) : (s.modTask ts j f).hostLines = s.hostLines := rfl
@[simp] theorem State.modTask_poison (s : State) (ts j : Nat) (f : LoomTask → LoomTask) : (s.modTask ts j f).poison = s.poison := rfl
@[simp] theorem State.modTask_quarantined (s : State) (ts j : Nat) (f : LoomTask → LoomTask) : (s.modTask ts j f).quarantined = s.quarantined := rfl
@[simp] theorem State.modTask_transit (s : State) (ts j : Nat) (f : LoomTask → LoomTask) : (s.modTask ts j f).transit = s.transit := rfl
@[simp] theorem State.modTask_arrivals (s : State) (ts j : Nat) (f : LoomTask → LoomTask) : (s.modTask ts j f).arrivals = s.arrivals := rfl
@[simp] theorem State.modTask_running (s : State) (ts j : Nat) (f : LoomTask → LoomTask) : (s.modTask ts j f).running = s.running := rfl
@[simp] theorem State.modTask_now (s : State) (ts j : Nat) (f : LoomTask → LoomTask) : (s.modTask ts j f).now = s.now := rfl
@[simp] theorem State.modTask_rates (s : State) (ts j : Nat) (f : LoomTask → LoomTask) : (s.modTask ts j f).rates = s.rates := rfl
@[simp] theorem State.modTask_accounts (s : State) (ts j : Nat) (f : LoomTask → LoomTask) : (s.modTask ts j f).accounts = s.accounts := rfl
@[simp] theorem State.modTask_pitches (s : State) (ts j : Nat) (f : LoomTask → LoomTask) : (s.modTask ts j f).pitches = s.pitches := rfl
@[simp] theorem State.modTask_commits (s : State) (ts j : Nat) (f : LoomTask → LoomTask) : (s.modTask ts j f).commits = s.commits := rfl
@[simp] theorem State.modTask_pages (s : State) (ts j : Nat) (f : LoomTask → LoomTask) : (s.modTask ts j f).pages = s.pages := rfl
@[simp] theorem State.modTask_hostPages (s : State) (ts j : Nat) (f : LoomTask → LoomTask) : (s.modTask ts j f).hostPages = s.hostPages := rfl
@[simp] theorem State.modTask_reportNo (s : State) (ts j : Nat) (f : LoomTask → LoomTask) : (s.modTask ts j f).reportNo = s.reportNo := rfl
@[simp] theorem State.modTask_qpairs (s : State) (ts j : Nat) (f : LoomTask → LoomTask) : (s.modTask ts j f).qpairs = s.qpairs := rfl
@[simp] theorem State.modTask_work (s : State) (ts j : Nat) (f : LoomTask → LoomTask) : (s.modTask ts j f).work = s.work := rfl
@[simp] theorem State.modTask_reductions (s : State) (ts j : Nat) (f : LoomTask → LoomTask) : (s.modTask ts j f).reductions = s.reductions := rfl
@[simp] theorem State.modTask_mailbox (s : State) (ts j : Nat) (f : LoomTask → LoomTask) : (s.modTask ts j f).mailbox = s.mailbox := rfl
@[simp] theorem State.modTask_mailSeq (s : State) (ts j : Nat) (f : LoomTask → LoomTask) : (s.modTask ts j f).mailSeq = s.mailSeq := rfl
@[simp] theorem State.modTask_loadSeq (s : State) (ts j : Nat) (f : LoomTask → LoomTask) : (s.modTask ts j f).loadSeq = s.loadSeq := rfl
@[simp] theorem State.modTask_relSeq (s : State) (ts j : Nat) (f : LoomTask → LoomTask) : (s.modTask ts j f).relSeq = s.relSeq := rfl
@[simp] theorem State.modTask_workSeq (s : State) (ts j : Nat) (f : LoomTask → LoomTask) : (s.modTask ts j f).workSeq = s.workSeq := rfl
@[simp] theorem State.modTask_arms (s : State) (ts j : Nat) (f : LoomTask → LoomTask) : (s.modTask ts j f).arms = s.arms := rfl
@[simp] theorem State.modTask_launchTable (s : State) (ts j : Nat) (f : LoomTask → LoomTask) : (s.modTask ts j f).launchTable = s.launchTable := rfl
@[simp] theorem State.modTask_parts (s : State) (ts j : Nat) (f : LoomTask → LoomTask) : (s.modTask ts j f).parts = s.parts := rfl
@[simp] theorem State.modTask_passes (s : State) (ts j : Nat) (f : LoomTask → LoomTask) : (s.modTask ts j f).passes = s.passes := rfl
@[simp] theorem State.modTask_nextTs (s : State) (ts j : Nat) (f : LoomTask → LoomTask) : (s.modTask ts j f).nextTs = s.nextTs := rfl
@[simp] theorem State.modTask_tileLaunches (s : State) (ts j : Nat) (f : LoomTask → LoomTask) : (s.modTask ts j f).tileLaunches = s.tileLaunches := rfl
@[simp] theorem State.modTask_queues (s : State) (ts j : Nat) (f : LoomTask → LoomTask) : (s.modTask ts j f).queues = s.queues := rfl
@[simp] theorem State.modTask_requests (s : State) (ts j : Nat) (f : LoomTask → LoomTask) : (s.modTask ts j f).requests = s.requests := rfl
@[simp] theorem State.modTask_reqNo (s : State) (ts j : Nat) (f : LoomTask → LoomTask) : (s.modTask ts j f).reqNo = s.reqNo := rfl
@[simp] theorem State.modTask_revoked (s : State) (ts j : Nat) (f : LoomTask → LoomTask) : (s.modTask ts j f).revoked = s.revoked := rfl
@[simp] theorem State.modTask_cfg (s : State) (ts j : Nat) (f : LoomTask → LoomTask) : (s.modTask ts j f).cfg = s.cfg := rfl
@[simp] theorem State.modTask_fw (s : State) (ts j : Nat) (f : LoomTask → LoomTask) : (s.modTask ts j f).fw = s.fw := rfl
@[simp] theorem State.modTask_certChain (s : State) (ts j : Nat) (f : LoomTask → LoomTask) : (s.modTask ts j f).certChain = s.certChain := rfl
@[simp] theorem State.modTask_attestKey (s : State) (ts j : Nat) (f : LoomTask → LoomTask) : (s.modTask ts j f).attestKey = s.attestKey := rfl
@[simp] theorem State.modTask_powerHold (s : State) (ts j : Nat) (f : LoomTask → LoomTask) : (s.modTask ts j f).powerHold = s.powerHold := rfl
@[simp] theorem State.modTask_currentHold (s : State) (ts j : Nat) (f : LoomTask → LoomTask) : (s.modTask ts j f).currentHold = s.currentHold := rfl
@[simp] theorem State.modTask_thermalHold (s : State) (ts j : Nat) (f : LoomTask → LoomTask) : (s.modTask ts j f).thermalHold = s.thermalHold := rfl
@[simp] theorem State.modTask_off (s : State) (ts j : Nat) (f : LoomTask → LoomTask) : (s.modTask ts j f).off = s.off := rfl
@[simp] theorem State.modTask_spdmOnly (s : State) (ts j : Nat) (f : LoomTask → LoomTask) : (s.modTask ts j f).spdmOnly = s.spdmOnly := rfl
@[simp] theorem State.modTask_scrubLine (s : State) (ts j : Nat) (f : LoomTask → LoomTask) : (s.modTask ts j f).scrubLine = s.scrubLine := rfl
@[simp] theorem State.modTask_refreshed (s : State) (ts j : Nat) (f : LoomTask → LoomTask) : (s.modTask ts j f).refreshed = s.refreshed := rfl
@[simp] theorem State.modTask_activated (s : State) (ts j : Nat) (f : LoomTask → LoomTask) : (s.modTask ts j f).activated = s.activated := rfl
@[simp] theorem State.modTask_wiped (s : State) (ts j : Nat) (f : LoomTask → LoomTask) : (s.modTask ts j f).wiped = s.wiped := rfl
@[simp] theorem State.modTask_sent (s : State) (ts j : Nat) (f : LoomTask → LoomTask) : (s.modTask ts j f).sent = s.sent := rfl
@[simp] theorem State.modTask_agent (s : State) (ts j : Nat) (f : LoomTask → LoomTask) (m : Nat) : (s.modTask ts j f).agent m = s.agent m := rfl
@[simp] theorem State.modTask_account (s : State) (ts j : Nat) (f : LoomTask → LoomTask) (x : BitVec 10) : (s.modTask ts j f).account x = s.account x := rfl
@[simp] theorem State.modTask_pitch (s : State) (ts j : Nat) (f : LoomTask → LoomTask) (m : Nat) : (s.modTask ts j f).pitch m = s.pitch m := rfl

/-! ## modSet -/

@[simp] theorem State.modSet_cur (s : State) (ts : Nat) (f : TaskSet → TaskSet) : (s.modSet ts f).cur = s.cur := rfl
@[simp] theorem State.modSet_sched (s : State) (ts : Nat) (f : TaskSet → TaskSet) : (s.modSet ts f).sched = s.sched := rfl
@[simp] theorem State.modSet_freeCtr (s : State) (ts : Nat) (f : TaskSet → TaskSet) : (s.modSet ts f).freeCtr = s.freeCtr := rfl
@[simp] theorem State.modSet_agents (s : State) (ts : Nat) (f : TaskSet → TaskSet) : (s.modSet ts f).agents = s.agents := rfl
@[simp] theorem State.modSet_mem (s : State) (ts : Nat) (f : TaskSet → TaskSet) : (s.modSet ts f).mem = s.mem := rfl
@[simp] theorem State.modSet_wcStatus (s : State) (ts : Nat) (f : TaskSet → TaskSet) : (s.modSet ts f).wcStatus = s.wcStatus := rfl
@[simp] theorem State.modSet_hostLines (s : State) (ts : Nat) (f : TaskSet → TaskSet) : (s.modSet ts f).hostLines = s.hostLines := rfl
@[simp] theorem State.modSet_poison (s : State) (ts : Nat) (f : TaskSet → TaskSet) : (s.modSet ts f).poison = s.poison := rfl
@[simp] theorem State.modSet_quarantined (s : State) (ts : Nat) (f : TaskSet → TaskSet) : (s.modSet ts f).quarantined = s.quarantined := rfl
@[simp] theorem State.modSet_transit (s : State) (ts : Nat) (f : TaskSet → TaskSet) : (s.modSet ts f).transit = s.transit := rfl
@[simp] theorem State.modSet_arrivals (s : State) (ts : Nat) (f : TaskSet → TaskSet) : (s.modSet ts f).arrivals = s.arrivals := rfl
@[simp] theorem State.modSet_running (s : State) (ts : Nat) (f : TaskSet → TaskSet) : (s.modSet ts f).running = s.running := rfl
@[simp] theorem State.modSet_now (s : State) (ts : Nat) (f : TaskSet → TaskSet) : (s.modSet ts f).now = s.now := rfl
@[simp] theorem State.modSet_rates (s : State) (ts : Nat) (f : TaskSet → TaskSet) : (s.modSet ts f).rates = s.rates := rfl
@[simp] theorem State.modSet_accounts (s : State) (ts : Nat) (f : TaskSet → TaskSet) : (s.modSet ts f).accounts = s.accounts := rfl
@[simp] theorem State.modSet_pitches (s : State) (ts : Nat) (f : TaskSet → TaskSet) : (s.modSet ts f).pitches = s.pitches := rfl
@[simp] theorem State.modSet_commits (s : State) (ts : Nat) (f : TaskSet → TaskSet) : (s.modSet ts f).commits = s.commits := rfl
@[simp] theorem State.modSet_pages (s : State) (ts : Nat) (f : TaskSet → TaskSet) : (s.modSet ts f).pages = s.pages := rfl
@[simp] theorem State.modSet_hostPages (s : State) (ts : Nat) (f : TaskSet → TaskSet) : (s.modSet ts f).hostPages = s.hostPages := rfl
@[simp] theorem State.modSet_reportNo (s : State) (ts : Nat) (f : TaskSet → TaskSet) : (s.modSet ts f).reportNo = s.reportNo := rfl
@[simp] theorem State.modSet_qpairs (s : State) (ts : Nat) (f : TaskSet → TaskSet) : (s.modSet ts f).qpairs = s.qpairs := rfl
@[simp] theorem State.modSet_work (s : State) (ts : Nat) (f : TaskSet → TaskSet) : (s.modSet ts f).work = s.work := rfl
@[simp] theorem State.modSet_reductions (s : State) (ts : Nat) (f : TaskSet → TaskSet) : (s.modSet ts f).reductions = s.reductions := rfl
@[simp] theorem State.modSet_mailbox (s : State) (ts : Nat) (f : TaskSet → TaskSet) : (s.modSet ts f).mailbox = s.mailbox := rfl
@[simp] theorem State.modSet_mailSeq (s : State) (ts : Nat) (f : TaskSet → TaskSet) : (s.modSet ts f).mailSeq = s.mailSeq := rfl
@[simp] theorem State.modSet_loadSeq (s : State) (ts : Nat) (f : TaskSet → TaskSet) : (s.modSet ts f).loadSeq = s.loadSeq := rfl
@[simp] theorem State.modSet_relSeq (s : State) (ts : Nat) (f : TaskSet → TaskSet) : (s.modSet ts f).relSeq = s.relSeq := rfl
@[simp] theorem State.modSet_workSeq (s : State) (ts : Nat) (f : TaskSet → TaskSet) : (s.modSet ts f).workSeq = s.workSeq := rfl
@[simp] theorem State.modSet_arms (s : State) (ts : Nat) (f : TaskSet → TaskSet) : (s.modSet ts f).arms = s.arms := rfl
@[simp] theorem State.modSet_launchTable (s : State) (ts : Nat) (f : TaskSet → TaskSet) : (s.modSet ts f).launchTable = s.launchTable := rfl
@[simp] theorem State.modSet_parts (s : State) (ts : Nat) (f : TaskSet → TaskSet) : (s.modSet ts f).parts = s.parts := rfl
@[simp] theorem State.modSet_passes (s : State) (ts : Nat) (f : TaskSet → TaskSet) : (s.modSet ts f).passes = s.passes := rfl
@[simp] theorem State.modSet_nextTs (s : State) (ts : Nat) (f : TaskSet → TaskSet) : (s.modSet ts f).nextTs = s.nextTs := rfl
@[simp] theorem State.modSet_tileLaunches (s : State) (ts : Nat) (f : TaskSet → TaskSet) : (s.modSet ts f).tileLaunches = s.tileLaunches := rfl
@[simp] theorem State.modSet_queues (s : State) (ts : Nat) (f : TaskSet → TaskSet) : (s.modSet ts f).queues = s.queues := rfl
@[simp] theorem State.modSet_requests (s : State) (ts : Nat) (f : TaskSet → TaskSet) : (s.modSet ts f).requests = s.requests := rfl
@[simp] theorem State.modSet_reqNo (s : State) (ts : Nat) (f : TaskSet → TaskSet) : (s.modSet ts f).reqNo = s.reqNo := rfl
@[simp] theorem State.modSet_revoked (s : State) (ts : Nat) (f : TaskSet → TaskSet) : (s.modSet ts f).revoked = s.revoked := rfl
@[simp] theorem State.modSet_cfg (s : State) (ts : Nat) (f : TaskSet → TaskSet) : (s.modSet ts f).cfg = s.cfg := rfl
@[simp] theorem State.modSet_fw (s : State) (ts : Nat) (f : TaskSet → TaskSet) : (s.modSet ts f).fw = s.fw := rfl
@[simp] theorem State.modSet_certChain (s : State) (ts : Nat) (f : TaskSet → TaskSet) : (s.modSet ts f).certChain = s.certChain := rfl
@[simp] theorem State.modSet_attestKey (s : State) (ts : Nat) (f : TaskSet → TaskSet) : (s.modSet ts f).attestKey = s.attestKey := rfl
@[simp] theorem State.modSet_powerHold (s : State) (ts : Nat) (f : TaskSet → TaskSet) : (s.modSet ts f).powerHold = s.powerHold := rfl
@[simp] theorem State.modSet_currentHold (s : State) (ts : Nat) (f : TaskSet → TaskSet) : (s.modSet ts f).currentHold = s.currentHold := rfl
@[simp] theorem State.modSet_thermalHold (s : State) (ts : Nat) (f : TaskSet → TaskSet) : (s.modSet ts f).thermalHold = s.thermalHold := rfl
@[simp] theorem State.modSet_off (s : State) (ts : Nat) (f : TaskSet → TaskSet) : (s.modSet ts f).off = s.off := rfl
@[simp] theorem State.modSet_spdmOnly (s : State) (ts : Nat) (f : TaskSet → TaskSet) : (s.modSet ts f).spdmOnly = s.spdmOnly := rfl
@[simp] theorem State.modSet_scrubLine (s : State) (ts : Nat) (f : TaskSet → TaskSet) : (s.modSet ts f).scrubLine = s.scrubLine := rfl
@[simp] theorem State.modSet_refreshed (s : State) (ts : Nat) (f : TaskSet → TaskSet) : (s.modSet ts f).refreshed = s.refreshed := rfl
@[simp] theorem State.modSet_activated (s : State) (ts : Nat) (f : TaskSet → TaskSet) : (s.modSet ts f).activated = s.activated := rfl
@[simp] theorem State.modSet_wiped (s : State) (ts : Nat) (f : TaskSet → TaskSet) : (s.modSet ts f).wiped = s.wiped := rfl
@[simp] theorem State.modSet_sent (s : State) (ts : Nat) (f : TaskSet → TaskSet) : (s.modSet ts f).sent = s.sent := rfl
@[simp] theorem State.modSet_agent (s : State) (ts : Nat) (f : TaskSet → TaskSet) (m : Nat) : (s.modSet ts f).agent m = s.agent m := rfl
@[simp] theorem State.modSet_account (s : State) (ts : Nat) (f : TaskSet → TaskSet) (x : BitVec 10) : (s.modSet ts f).account x = s.account x := rfl
@[simp] theorem State.modSet_pitch (s : State) (ts : Nat) (f : TaskSet → TaskSet) (m : Nat) : (s.modSet ts f).pitch m = s.pitch m := rfl

/-! ## forget -/

@[simp] theorem State.forget_cur (s : State) (ts : Nat) : (s.forget ts).cur = s.cur := rfl
@[simp] theorem State.forget_sched (s : State) (ts : Nat) : (s.forget ts).sched = s.sched := rfl
@[simp] theorem State.forget_freeCtr (s : State) (ts : Nat) : (s.forget ts).freeCtr = s.freeCtr := rfl
@[simp] theorem State.forget_agents (s : State) (ts : Nat) : (s.forget ts).agents = s.agents := rfl
@[simp] theorem State.forget_mem (s : State) (ts : Nat) : (s.forget ts).mem = s.mem := rfl
@[simp] theorem State.forget_wcStatus (s : State) (ts : Nat) : (s.forget ts).wcStatus = s.wcStatus := rfl
@[simp] theorem State.forget_hostLines (s : State) (ts : Nat) : (s.forget ts).hostLines = s.hostLines := rfl
@[simp] theorem State.forget_poison (s : State) (ts : Nat) : (s.forget ts).poison = s.poison := rfl
@[simp] theorem State.forget_quarantined (s : State) (ts : Nat) : (s.forget ts).quarantined = s.quarantined := rfl
@[simp] theorem State.forget_transit (s : State) (ts : Nat) : (s.forget ts).transit = s.transit := rfl
@[simp] theorem State.forget_arrivals (s : State) (ts : Nat) : (s.forget ts).arrivals = s.arrivals := rfl
@[simp] theorem State.forget_running (s : State) (ts : Nat) : (s.forget ts).running = s.running := rfl
@[simp] theorem State.forget_now (s : State) (ts : Nat) : (s.forget ts).now = s.now := rfl
@[simp] theorem State.forget_rates (s : State) (ts : Nat) : (s.forget ts).rates = s.rates := rfl
@[simp] theorem State.forget_accounts (s : State) (ts : Nat) : (s.forget ts).accounts = s.accounts := rfl
@[simp] theorem State.forget_pitches (s : State) (ts : Nat) : (s.forget ts).pitches = s.pitches := rfl
@[simp] theorem State.forget_commits (s : State) (ts : Nat) : (s.forget ts).commits = s.commits := rfl
@[simp] theorem State.forget_pages (s : State) (ts : Nat) : (s.forget ts).pages = s.pages := rfl
@[simp] theorem State.forget_hostPages (s : State) (ts : Nat) : (s.forget ts).hostPages = s.hostPages := rfl
@[simp] theorem State.forget_reportNo (s : State) (ts : Nat) : (s.forget ts).reportNo = s.reportNo := rfl
@[simp] theorem State.forget_qpairs (s : State) (ts : Nat) : (s.forget ts).qpairs = s.qpairs := rfl
@[simp] theorem State.forget_work (s : State) (ts : Nat) : (s.forget ts).work = s.work := rfl
@[simp] theorem State.forget_reductions (s : State) (ts : Nat) : (s.forget ts).reductions = s.reductions := rfl
@[simp] theorem State.forget_mailbox (s : State) (ts : Nat) : (s.forget ts).mailbox = s.mailbox := rfl
@[simp] theorem State.forget_mailSeq (s : State) (ts : Nat) : (s.forget ts).mailSeq = s.mailSeq := rfl
@[simp] theorem State.forget_loadSeq (s : State) (ts : Nat) : (s.forget ts).loadSeq = s.loadSeq := rfl
@[simp] theorem State.forget_relSeq (s : State) (ts : Nat) : (s.forget ts).relSeq = s.relSeq := rfl
@[simp] theorem State.forget_workSeq (s : State) (ts : Nat) : (s.forget ts).workSeq = s.workSeq := rfl
@[simp] theorem State.forget_arms (s : State) (ts : Nat) : (s.forget ts).arms = s.arms := rfl
@[simp] theorem State.forget_launchTable (s : State) (ts : Nat) : (s.forget ts).launchTable = s.launchTable := rfl
@[simp] theorem State.forget_parts (s : State) (ts : Nat) : (s.forget ts).parts = s.parts := rfl
@[simp] theorem State.forget_passes (s : State) (ts : Nat) : (s.forget ts).passes = s.passes := rfl
@[simp] theorem State.forget_nextTs (s : State) (ts : Nat) : (s.forget ts).nextTs = s.nextTs := rfl
@[simp] theorem State.forget_tileLaunches (s : State) (ts : Nat) : (s.forget ts).tileLaunches = s.tileLaunches := rfl
@[simp] theorem State.forget_queues (s : State) (ts : Nat) : (s.forget ts).queues = s.queues := rfl
@[simp] theorem State.forget_requests (s : State) (ts : Nat) : (s.forget ts).requests = s.requests := rfl
@[simp] theorem State.forget_reqNo (s : State) (ts : Nat) : (s.forget ts).reqNo = s.reqNo := rfl
@[simp] theorem State.forget_revoked (s : State) (ts : Nat) : (s.forget ts).revoked = s.revoked := rfl
@[simp] theorem State.forget_cfg (s : State) (ts : Nat) : (s.forget ts).cfg = s.cfg := rfl
@[simp] theorem State.forget_fw (s : State) (ts : Nat) : (s.forget ts).fw = s.fw := rfl
@[simp] theorem State.forget_certChain (s : State) (ts : Nat) : (s.forget ts).certChain = s.certChain := rfl
@[simp] theorem State.forget_attestKey (s : State) (ts : Nat) : (s.forget ts).attestKey = s.attestKey := rfl
@[simp] theorem State.forget_powerHold (s : State) (ts : Nat) : (s.forget ts).powerHold = s.powerHold := rfl
@[simp] theorem State.forget_currentHold (s : State) (ts : Nat) : (s.forget ts).currentHold = s.currentHold := rfl
@[simp] theorem State.forget_thermalHold (s : State) (ts : Nat) : (s.forget ts).thermalHold = s.thermalHold := rfl
@[simp] theorem State.forget_off (s : State) (ts : Nat) : (s.forget ts).off = s.off := rfl
@[simp] theorem State.forget_spdmOnly (s : State) (ts : Nat) : (s.forget ts).spdmOnly = s.spdmOnly := rfl
@[simp] theorem State.forget_scrubLine (s : State) (ts : Nat) : (s.forget ts).scrubLine = s.scrubLine := rfl
@[simp] theorem State.forget_refreshed (s : State) (ts : Nat) : (s.forget ts).refreshed = s.refreshed := rfl
@[simp] theorem State.forget_activated (s : State) (ts : Nat) : (s.forget ts).activated = s.activated := rfl
@[simp] theorem State.forget_wiped (s : State) (ts : Nat) : (s.forget ts).wiped = s.wiped := rfl
@[simp] theorem State.forget_sent (s : State) (ts : Nat) : (s.forget ts).sent = s.sent := rfl
@[simp] theorem State.forget_agent (s : State) (ts : Nat) (m : Nat) : (s.forget ts).agent m = s.agent m := rfl
@[simp] theorem State.forget_account (s : State) (ts : Nat) (x : BitVec 10) : (s.forget ts).account x = s.account x := rfl
@[simp] theorem State.forget_pitch (s : State) (ts : Nat) (m : Nat) : (s.forget ts).pitch m = s.pitch m := rfl

/-! ## Reads after writes -/

@[simp] theorem State.agent_setAgent (s : State) (n : Nat) (a : Agent) : (s.setAgent n a).agent n = a := by
  simp [State.agent, State.setAgent]

theorem State.agent_setAgent_ne (s : State) (n m : Nat) (a : Agent) (h : m ≠ n) : (s.setAgent n a).agent m = s.agent m := by
  simp [State.agent, State.setAgent, Tab.get_set_ne _ _ _ _ _ h]

theorem State.setAgent_setAgent (s : State) (n : Nat) (a b : Agent) : (s.setAgent n a).setAgent n b = s.setAgent n b := by
  simp [State.setAgent, Tab.set_set]

@[simp] theorem State.pitch_setPitch (s : State) (k : Nat) (p : Pitch) : (s.setPitch k p).pitch k = p := by
  simp [State.pitch, State.setPitch]

theorem State.pitch_setPitch_ne (s : State) (k j : Nat) (p : Pitch) (h : j ≠ k) : (s.setPitch k p).pitch j = s.pitch j := by
  simp [State.pitch, State.setPitch, Tab.get_set_ne _ _ _ _ _ h]

@[simp] theorem State.pitch_modPitch (s : State) (k : Nat) (f : Pitch → Pitch) : (s.modPitch k f).pitch k = f (s.pitch k) := by
  simp [State.modPitch]

@[simp] theorem State.account_modAccount (s : State) (c : BitVec 10) (f : Account → Account) :
    (s.modAccount c f).account c = f (s.account c) := by
  simp [State.account, State.modAccount, Tab.modify]

theorem State.account_modAccount_ne (s : State) (c x : BitVec 10) (f : Account → Account) (h : x ≠ c) :
    (s.modAccount c f).account x = s.account x := by
  have hn : x.toNat ≠ c.toNat := fun e => h (BitVec.eq_of_toNat_eq e)
  simp [State.account, State.modAccount, Tab.modify, Tab.get_set_ne _ _ _ _ _ hn]

/-! ## Agents -/

@[simp] theorem Agent.fly_r (g : Agent) (c lat : Nat) (x : Res) : (g.fly c lat x).r = g.r := rfl
@[simp] theorem Agent.fly_dup (g : Agent) (c lat : Nat) (x : Res) : (g.fly c lat x).dup = g.dup := rfl
@[simp] theorem Agent.fly_dupLight (g : Agent) (c lat : Nat) (x : Res) : (g.fly c lat x).dupLight = g.dupLight := rfl
@[simp] theorem Agent.fly_plane0 (g : Agent) (c lat : Nat) (x : Res) : (g.fly c lat x).plane0 = g.plane0 := rfl
@[simp] theorem Agent.fly_plane1 (g : Agent) (c lat : Nat) (x : Res) : (g.fly c lat x).plane1 = g.plane1 := rfl
@[simp] theorem Agent.fly_resv (g : Agent) (c lat : Nat) (x : Res) : (g.fly c lat x).resv = g.resv := rfl
@[simp] theorem Agent.fly_owed (g : Agent) (c lat : Nat) (x : Res) : (g.fly c lat x).owed = g.owed := rfl
@[simp] theorem Agent.fly_arrived (g : Agent) (c lat : Nat) (x : Res) : (g.fly c lat x).arrived = g.arrived := rfl
@[simp] theorem Agent.fly_shadow (g : Agent) (c lat : Nat) (x : Res) : (g.fly c lat x).shadow = g.shadow := rfl
@[simp] theorem Agent.fly_super (g : Agent) (c lat : Nat) (x : Res) : (g.fly c lat x).super = g.super := rfl
@[simp] theorem Agent.fly_mode (g : Agent) (c lat : Nat) (x : Res) : (g.fly c lat x).mode = g.mode := rfl
@[simp] theorem Agent.fly_resume (g : Agent) (c lat : Nat) (x : Res) : (g.fly c lat x).resume = g.resume := rfl
@[simp] theorem Agent.fly_cause (g : Agent) (c lat : Nat) (x : Res) : (g.fly c lat x).cause = g.cause := rfl
@[simp] theorem Agent.fly_ckpc (g : Agent) (c lat : Nat) (x : Res) : (g.fly c lat x).ckpc = g.ckpc := rfl
@[simp] theorem Agent.fly_faddr (g : Agent) (c lat : Nat) (x : Res) : (g.fly c lat x).faddr = g.faddr := rfl
@[simp] theorem Agent.fly_allow (g : Agent) (c lat : Nat) (x : Res) : (g.fly c lat x).allow = g.allow := rfl
@[simp] theorem Agent.fly_ratec (g : Agent) (c lat : Nat) (x : Res) : (g.fly c lat x).ratec = g.ratec := rfl
@[simp] theorem Agent.fly_svec (g : Agent) (c lat : Nat) (x : Res) : (g.fly c lat x).svec = g.svec := rfl
@[simp] theorem Agent.fly_skew (g : Agent) (c lat : Nat) (x : Res) : (g.fly c lat x).skew = g.skew := rfl
@[simp] theorem Agent.fly_even (g : Agent) (c lat : Nat) (x : Res) : (g.fly c lat x).even = g.even := rfl
@[simp] theorem Agent.fly_lightWait (g : Agent) (c lat : Nat) (x : Res) : (g.fly c lat x).lightWait = g.lightWait := rfl
@[simp] theorem Agent.fly_evsel (g : Agent) (c lat : Nat) (x : Res) : (g.fly c lat x).evsel = g.evsel := rfl
@[simp] theorem Agent.fly_evcnt (g : Agent) (c lat : Nat) (x : Res) : (g.fly c lat x).evcnt = g.evcnt := rfl
@[simp] theorem Agent.fly_levsel (g : Agent) (c lat : Nat) (x : Res) : (g.fly c lat x).levsel = g.levsel := rfl
@[simp] theorem Agent.fly_levcnt (g : Agent) (c lat : Nat) (x : Res) : (g.fly c lat x).levcnt = g.levcnt := rfl
@[simp] theorem Agent.fly_cycle (g : Agent) (c lat : Nat) (x : Res) : (g.fly c lat x).cycle = g.cycle := rfl
@[simp] theorem Agent.fly_bundles (g : Agent) (c lat : Nat) (x : Res) : (g.fly c lat x).bundles = g.bundles := rfl
@[simp] theorem Agent.fly_hbundles (g : Agent) (c lat : Nat) (x : Res) : (g.fly c lat x).hbundles = g.hbundles := rfl
@[simp] theorem Agent.fly_stores (g : Agent) (c lat : Nat) (x : Res) : (g.fly c lat x).stores = g.stores := rfl
@[simp] theorem Agent.fly_cmds (g : Agent) (c lat : Nat) (x : Res) : (g.fly c lat x).cmds = g.cmds := rfl
@[simp] theorem Agent.fly_counted (g : Agent) (c lat : Nat) (x : Res) : (g.fly c lat x).counted = g.counted := rfl
@[simp] theorem Agent.fly_journal (g : Agent) (c lat : Nat) (x : Res) : (g.fly c lat x).journal = g.journal := rfl
@[simp] theorem Agent.fly_touched (g : Agent) (c lat : Nat) (x : Res) : (g.fly c lat x).touched = g.touched := rfl
@[simp] theorem Agent.fly_journalBad (g : Agent) (c lat : Nat) (x : Res) : (g.fly c lat x).journalBad = g.journalBad := rfl
@[simp] theorem Agent.fly_shadowBad (g : Agent) (c lat : Nat) (x : Res) : (g.fly c lat x).shadowBad = g.shadowBad := rfl
@[simp] theorem Agent.fly_icyc (g : Agent) (c lat : Nat) (x : Res) : (g.fly c lat x).icyc = g.icyc := rfl
@[simp] theorem Agent.fly_nsq (g : Agent) (c lat : Nat) (x : Res) : (g.fly c lat x).nsq = g.nsq := rfl
@[simp] theorem Agent.fly_planeLoads (g : Agent) (c lat : Nat) (x : Res) : (g.fly c lat x).planeLoads = g.planeLoads := rfl
@[simp] theorem Agent.fly_blocks (g : Agent) (c lat : Nat) (x : Res) : (g.fly c lat x).blocks = g.blocks := rfl
@[simp] theorem Agent.fly_wb (g : Agent) (c lat : Nat) (x : Res) : (g.fly c lat x).wb = g.wb := rfl
@[simp] theorem Agent.fly_flq (g : Agent) (c lat : Nat) (x : Res) : (g.fly c lat x).flq = g.flq := rfl
@[simp] theorem Agent.fly_fsq (g : Agent) (c lat : Nat) (x : Res) : (g.fly c lat x).fsq = g.fsq := rfl
@[simp] theorem Agent.fly_ecb (g : Agent) (c lat : Nat) (x : Res) : (g.fly c lat x).ecb = g.ecb := rfl
@[simp] theorem Agent.fly_ctxs (g : Agent) (c lat : Nat) (x : Res) : (g.fly c lat x).ctxs = g.ctxs := rfl
@[simp] theorem Agent.fly_holders (g : Agent) (c lat : Nat) (x : Res) : (g.fly c lat x).holders = g.holders := rfl
@[simp] theorem Agent.fly_wait (g : Agent) (c lat : Nat) (x : Res) : (g.fly c lat x).wait = g.wait := rfl
@[simp] theorem Agent.fly_mdrain (g : Agent) (c lat : Nat) (x : Res) : (g.fly c lat x).mdrain = g.mdrain := rfl
@[simp] theorem Agent.fly_stall (g : Agent) (c lat : Nat) (x : Res) : (g.fly c lat x).stall = g.stall := rfl
@[simp] theorem Agent.fly_board (g : Agent) (c lat : Nat) (x : Res) : (g.fly c lat x).board = g.board := rfl
@[simp] theorem Agent.fly_stop (g : Agent) (c lat : Nat) (x : Res) : (g.fly c lat x).stop = g.stop := rfl
@[simp] theorem Agent.fly_task (g : Agent) (c lat : Nat) (x : Res) : (g.fly c lat x).task = g.task := rfl
@[simp] theorem Agent.fly_farFault (g : Agent) (c lat : Nat) (x : Res) : (g.fly c lat x).farFault = g.farFault := rfl
@[simp] theorem Agent.fly_evSince (g : Agent) (c lat : Nat) (x : Res) : (g.fly c lat x).evSince = g.evSince := rfl
@[simp] theorem Agent.fly_woken (g : Agent) (c lat : Nat) (x : Res) : (g.fly c lat x).woken = g.woken := rfl

@[simp] theorem Agent.reserve_r (g : Agent) (q : BitVec 4) : (g.reserve q).r = g.r := rfl
@[simp] theorem Agent.reserve_dup (g : Agent) (q : BitVec 4) : (g.reserve q).dup = g.dup := rfl
@[simp] theorem Agent.reserve_dupLight (g : Agent) (q : BitVec 4) : (g.reserve q).dupLight = g.dupLight := rfl
@[simp] theorem Agent.reserve_plane0 (g : Agent) (q : BitVec 4) : (g.reserve q).plane0 = g.plane0 := rfl
@[simp] theorem Agent.reserve_plane1 (g : Agent) (q : BitVec 4) : (g.reserve q).plane1 = g.plane1 := rfl
@[simp] theorem Agent.reserve_owed (g : Agent) (q : BitVec 4) : (g.reserve q).owed = g.owed := rfl
@[simp] theorem Agent.reserve_arrived (g : Agent) (q : BitVec 4) : (g.reserve q).arrived = g.arrived := rfl
@[simp] theorem Agent.reserve_shadow (g : Agent) (q : BitVec 4) : (g.reserve q).shadow = g.shadow := rfl
@[simp] theorem Agent.reserve_super (g : Agent) (q : BitVec 4) : (g.reserve q).super = g.super := rfl
@[simp] theorem Agent.reserve_mode (g : Agent) (q : BitVec 4) : (g.reserve q).mode = g.mode := rfl
@[simp] theorem Agent.reserve_resume (g : Agent) (q : BitVec 4) : (g.reserve q).resume = g.resume := rfl
@[simp] theorem Agent.reserve_cause (g : Agent) (q : BitVec 4) : (g.reserve q).cause = g.cause := rfl
@[simp] theorem Agent.reserve_ckpc (g : Agent) (q : BitVec 4) : (g.reserve q).ckpc = g.ckpc := rfl
@[simp] theorem Agent.reserve_faddr (g : Agent) (q : BitVec 4) : (g.reserve q).faddr = g.faddr := rfl
@[simp] theorem Agent.reserve_allow (g : Agent) (q : BitVec 4) : (g.reserve q).allow = g.allow := rfl
@[simp] theorem Agent.reserve_ratec (g : Agent) (q : BitVec 4) : (g.reserve q).ratec = g.ratec := rfl
@[simp] theorem Agent.reserve_svec (g : Agent) (q : BitVec 4) : (g.reserve q).svec = g.svec := rfl
@[simp] theorem Agent.reserve_skew (g : Agent) (q : BitVec 4) : (g.reserve q).skew = g.skew := rfl
@[simp] theorem Agent.reserve_even (g : Agent) (q : BitVec 4) : (g.reserve q).even = g.even := rfl
@[simp] theorem Agent.reserve_lightWait (g : Agent) (q : BitVec 4) : (g.reserve q).lightWait = g.lightWait := rfl
@[simp] theorem Agent.reserve_evsel (g : Agent) (q : BitVec 4) : (g.reserve q).evsel = g.evsel := rfl
@[simp] theorem Agent.reserve_evcnt (g : Agent) (q : BitVec 4) : (g.reserve q).evcnt = g.evcnt := rfl
@[simp] theorem Agent.reserve_levsel (g : Agent) (q : BitVec 4) : (g.reserve q).levsel = g.levsel := rfl
@[simp] theorem Agent.reserve_levcnt (g : Agent) (q : BitVec 4) : (g.reserve q).levcnt = g.levcnt := rfl
@[simp] theorem Agent.reserve_cycle (g : Agent) (q : BitVec 4) : (g.reserve q).cycle = g.cycle := rfl
@[simp] theorem Agent.reserve_bundles (g : Agent) (q : BitVec 4) : (g.reserve q).bundles = g.bundles := rfl
@[simp] theorem Agent.reserve_hbundles (g : Agent) (q : BitVec 4) : (g.reserve q).hbundles = g.hbundles := rfl
@[simp] theorem Agent.reserve_stores (g : Agent) (q : BitVec 4) : (g.reserve q).stores = g.stores := rfl
@[simp] theorem Agent.reserve_cmds (g : Agent) (q : BitVec 4) : (g.reserve q).cmds = g.cmds := rfl
@[simp] theorem Agent.reserve_counted (g : Agent) (q : BitVec 4) : (g.reserve q).counted = g.counted := rfl
@[simp] theorem Agent.reserve_journal (g : Agent) (q : BitVec 4) : (g.reserve q).journal = g.journal := rfl
@[simp] theorem Agent.reserve_touched (g : Agent) (q : BitVec 4) : (g.reserve q).touched = g.touched := rfl
@[simp] theorem Agent.reserve_journalBad (g : Agent) (q : BitVec 4) : (g.reserve q).journalBad = g.journalBad := rfl
@[simp] theorem Agent.reserve_shadowBad (g : Agent) (q : BitVec 4) : (g.reserve q).shadowBad = g.shadowBad := rfl
@[simp] theorem Agent.reserve_icyc (g : Agent) (q : BitVec 4) : (g.reserve q).icyc = g.icyc := rfl
@[simp] theorem Agent.reserve_flight (g : Agent) (q : BitVec 4) : (g.reserve q).flight = g.flight := rfl
@[simp] theorem Agent.reserve_nsq (g : Agent) (q : BitVec 4) : (g.reserve q).nsq = g.nsq := rfl
@[simp] theorem Agent.reserve_planeLoads (g : Agent) (q : BitVec 4) : (g.reserve q).planeLoads = g.planeLoads := rfl
@[simp] theorem Agent.reserve_blocks (g : Agent) (q : BitVec 4) : (g.reserve q).blocks = g.blocks := rfl
@[simp] theorem Agent.reserve_wb (g : Agent) (q : BitVec 4) : (g.reserve q).wb = g.wb := rfl
@[simp] theorem Agent.reserve_flq (g : Agent) (q : BitVec 4) : (g.reserve q).flq = g.flq := rfl
@[simp] theorem Agent.reserve_fsq (g : Agent) (q : BitVec 4) : (g.reserve q).fsq = g.fsq := rfl
@[simp] theorem Agent.reserve_ecb (g : Agent) (q : BitVec 4) : (g.reserve q).ecb = g.ecb := rfl
@[simp] theorem Agent.reserve_ctxs (g : Agent) (q : BitVec 4) : (g.reserve q).ctxs = g.ctxs := rfl
@[simp] theorem Agent.reserve_holders (g : Agent) (q : BitVec 4) : (g.reserve q).holders = g.holders := rfl
@[simp] theorem Agent.reserve_wait (g : Agent) (q : BitVec 4) : (g.reserve q).wait = g.wait := rfl
@[simp] theorem Agent.reserve_mdrain (g : Agent) (q : BitVec 4) : (g.reserve q).mdrain = g.mdrain := rfl
@[simp] theorem Agent.reserve_stall (g : Agent) (q : BitVec 4) : (g.reserve q).stall = g.stall := rfl
@[simp] theorem Agent.reserve_board (g : Agent) (q : BitVec 4) : (g.reserve q).board = g.board := rfl
@[simp] theorem Agent.reserve_stop (g : Agent) (q : BitVec 4) : (g.reserve q).stop = g.stop := rfl
@[simp] theorem Agent.reserve_task (g : Agent) (q : BitVec 4) : (g.reserve q).task = g.task := rfl
@[simp] theorem Agent.reserve_farFault (g : Agent) (q : BitVec 4) : (g.reserve q).farFault = g.farFault := rfl
@[simp] theorem Agent.reserve_evSince (g : Agent) (q : BitVec 4) : (g.reserve q).evSince = g.evSince := rfl
@[simp] theorem Agent.reserve_woken (g : Agent) (q : BitVec 4) : (g.reserve q).woken = g.woken := rfl

@[simp] theorem Agent.event_r (g : Agent) (e k : Nat) : (g.event e k).r = g.r := rfl
@[simp] theorem Agent.event_dup (g : Agent) (e k : Nat) : (g.event e k).dup = g.dup := rfl
@[simp] theorem Agent.event_dupLight (g : Agent) (e k : Nat) : (g.event e k).dupLight = g.dupLight := rfl
@[simp] theorem Agent.event_plane0 (g : Agent) (e k : Nat) : (g.event e k).plane0 = g.plane0 := rfl
@[simp] theorem Agent.event_plane1 (g : Agent) (e k : Nat) : (g.event e k).plane1 = g.plane1 := rfl
@[simp] theorem Agent.event_resv (g : Agent) (e k : Nat) : (g.event e k).resv = g.resv := rfl
@[simp] theorem Agent.event_owed (g : Agent) (e k : Nat) : (g.event e k).owed = g.owed := rfl
@[simp] theorem Agent.event_arrived (g : Agent) (e k : Nat) : (g.event e k).arrived = g.arrived := rfl
@[simp] theorem Agent.event_shadow (g : Agent) (e k : Nat) : (g.event e k).shadow = g.shadow := rfl
@[simp] theorem Agent.event_super (g : Agent) (e k : Nat) : (g.event e k).super = g.super := rfl
@[simp] theorem Agent.event_mode (g : Agent) (e k : Nat) : (g.event e k).mode = g.mode := rfl
@[simp] theorem Agent.event_resume (g : Agent) (e k : Nat) : (g.event e k).resume = g.resume := rfl
@[simp] theorem Agent.event_cause (g : Agent) (e k : Nat) : (g.event e k).cause = g.cause := rfl
@[simp] theorem Agent.event_ckpc (g : Agent) (e k : Nat) : (g.event e k).ckpc = g.ckpc := rfl
@[simp] theorem Agent.event_faddr (g : Agent) (e k : Nat) : (g.event e k).faddr = g.faddr := rfl
@[simp] theorem Agent.event_allow (g : Agent) (e k : Nat) : (g.event e k).allow = g.allow := rfl
@[simp] theorem Agent.event_ratec (g : Agent) (e k : Nat) : (g.event e k).ratec = g.ratec := rfl
@[simp] theorem Agent.event_svec (g : Agent) (e k : Nat) : (g.event e k).svec = g.svec := rfl
@[simp] theorem Agent.event_skew (g : Agent) (e k : Nat) : (g.event e k).skew = g.skew := rfl
@[simp] theorem Agent.event_even (g : Agent) (e k : Nat) : (g.event e k).even = g.even := rfl
@[simp] theorem Agent.event_lightWait (g : Agent) (e k : Nat) : (g.event e k).lightWait = g.lightWait := rfl
@[simp] theorem Agent.event_evsel (g : Agent) (e k : Nat) : (g.event e k).evsel = g.evsel := rfl
@[simp] theorem Agent.event_levsel (g : Agent) (e k : Nat) : (g.event e k).levsel = g.levsel := rfl
@[simp] theorem Agent.event_cycle (g : Agent) (e k : Nat) : (g.event e k).cycle = g.cycle := rfl
@[simp] theorem Agent.event_bundles (g : Agent) (e k : Nat) : (g.event e k).bundles = g.bundles := rfl
@[simp] theorem Agent.event_hbundles (g : Agent) (e k : Nat) : (g.event e k).hbundles = g.hbundles := rfl
@[simp] theorem Agent.event_stores (g : Agent) (e k : Nat) : (g.event e k).stores = g.stores := rfl
@[simp] theorem Agent.event_cmds (g : Agent) (e k : Nat) : (g.event e k).cmds = g.cmds := rfl
@[simp] theorem Agent.event_counted (g : Agent) (e k : Nat) : (g.event e k).counted = g.counted := rfl
@[simp] theorem Agent.event_journal (g : Agent) (e k : Nat) : (g.event e k).journal = g.journal := rfl
@[simp] theorem Agent.event_touched (g : Agent) (e k : Nat) : (g.event e k).touched = g.touched := rfl
@[simp] theorem Agent.event_journalBad (g : Agent) (e k : Nat) : (g.event e k).journalBad = g.journalBad := rfl
@[simp] theorem Agent.event_shadowBad (g : Agent) (e k : Nat) : (g.event e k).shadowBad = g.shadowBad := rfl
@[simp] theorem Agent.event_icyc (g : Agent) (e k : Nat) : (g.event e k).icyc = g.icyc := rfl
@[simp] theorem Agent.event_flight (g : Agent) (e k : Nat) : (g.event e k).flight = g.flight := rfl
@[simp] theorem Agent.event_nsq (g : Agent) (e k : Nat) : (g.event e k).nsq = g.nsq := rfl
@[simp] theorem Agent.event_planeLoads (g : Agent) (e k : Nat) : (g.event e k).planeLoads = g.planeLoads := rfl
@[simp] theorem Agent.event_blocks (g : Agent) (e k : Nat) : (g.event e k).blocks = g.blocks := rfl
@[simp] theorem Agent.event_wb (g : Agent) (e k : Nat) : (g.event e k).wb = g.wb := rfl
@[simp] theorem Agent.event_flq (g : Agent) (e k : Nat) : (g.event e k).flq = g.flq := rfl
@[simp] theorem Agent.event_fsq (g : Agent) (e k : Nat) : (g.event e k).fsq = g.fsq := rfl
@[simp] theorem Agent.event_ecb (g : Agent) (e k : Nat) : (g.event e k).ecb = g.ecb := rfl
@[simp] theorem Agent.event_ctxs (g : Agent) (e k : Nat) : (g.event e k).ctxs = g.ctxs := rfl
@[simp] theorem Agent.event_holders (g : Agent) (e k : Nat) : (g.event e k).holders = g.holders := rfl
@[simp] theorem Agent.event_wait (g : Agent) (e k : Nat) : (g.event e k).wait = g.wait := rfl
@[simp] theorem Agent.event_mdrain (g : Agent) (e k : Nat) : (g.event e k).mdrain = g.mdrain := rfl
@[simp] theorem Agent.event_stall (g : Agent) (e k : Nat) : (g.event e k).stall = g.stall := rfl
@[simp] theorem Agent.event_board (g : Agent) (e k : Nat) : (g.event e k).board = g.board := rfl
@[simp] theorem Agent.event_stop (g : Agent) (e k : Nat) : (g.event e k).stop = g.stop := rfl
@[simp] theorem Agent.event_task (g : Agent) (e k : Nat) : (g.event e k).task = g.task := rfl
@[simp] theorem Agent.event_farFault (g : Agent) (e k : Nat) : (g.event e k).farFault = g.farFault := rfl
@[simp] theorem Agent.event_evSince (g : Agent) (e k : Nat) : (g.event e k).evSince = g.evSince := rfl
@[simp] theorem Agent.event_woken (g : Agent) (e k : Nat) : (g.event e k).woken = g.woken := rfl

@[simp] theorem Agent.retire_r (g : Agent) (k m : Nat) : (g.retire k m).r = g.r := rfl
@[simp] theorem Agent.retire_dup (g : Agent) (k m : Nat) : (g.retire k m).dup = g.dup := rfl
@[simp] theorem Agent.retire_dupLight (g : Agent) (k m : Nat) : (g.retire k m).dupLight = g.dupLight := rfl
@[simp] theorem Agent.retire_plane0 (g : Agent) (k m : Nat) : (g.retire k m).plane0 = g.plane0 := rfl
@[simp] theorem Agent.retire_plane1 (g : Agent) (k m : Nat) : (g.retire k m).plane1 = g.plane1 := rfl
@[simp] theorem Agent.retire_resv (g : Agent) (k m : Nat) : (g.retire k m).resv = g.resv := rfl
@[simp] theorem Agent.retire_owed (g : Agent) (k m : Nat) : (g.retire k m).owed = g.owed := rfl
@[simp] theorem Agent.retire_arrived (g : Agent) (k m : Nat) : (g.retire k m).arrived = g.arrived := rfl
@[simp] theorem Agent.retire_shadow (g : Agent) (k m : Nat) : (g.retire k m).shadow = g.shadow := rfl
@[simp] theorem Agent.retire_super (g : Agent) (k m : Nat) : (g.retire k m).super = g.super := rfl
@[simp] theorem Agent.retire_mode (g : Agent) (k m : Nat) : (g.retire k m).mode = g.mode := rfl
@[simp] theorem Agent.retire_resume (g : Agent) (k m : Nat) : (g.retire k m).resume = g.resume := rfl
@[simp] theorem Agent.retire_cause (g : Agent) (k m : Nat) : (g.retire k m).cause = g.cause := rfl
@[simp] theorem Agent.retire_ckpc (g : Agent) (k m : Nat) : (g.retire k m).ckpc = g.ckpc := rfl
@[simp] theorem Agent.retire_faddr (g : Agent) (k m : Nat) : (g.retire k m).faddr = g.faddr := rfl
@[simp] theorem Agent.retire_allow (g : Agent) (k m : Nat) : (g.retire k m).allow = g.allow := rfl
@[simp] theorem Agent.retire_ratec (g : Agent) (k m : Nat) : (g.retire k m).ratec = g.ratec := rfl
@[simp] theorem Agent.retire_svec (g : Agent) (k m : Nat) : (g.retire k m).svec = g.svec := rfl
@[simp] theorem Agent.retire_skew (g : Agent) (k m : Nat) : (g.retire k m).skew = g.skew := rfl
@[simp] theorem Agent.retire_even (g : Agent) (k m : Nat) : (g.retire k m).even = g.even := rfl
@[simp] theorem Agent.retire_lightWait (g : Agent) (k m : Nat) : (g.retire k m).lightWait = g.lightWait := rfl
@[simp] theorem Agent.retire_evsel (g : Agent) (k m : Nat) : (g.retire k m).evsel = g.evsel := rfl
@[simp] theorem Agent.retire_levsel (g : Agent) (k m : Nat) : (g.retire k m).levsel = g.levsel := rfl
@[simp] theorem Agent.retire_counted (g : Agent) (k m : Nat) : (g.retire k m).counted = g.counted := rfl
@[simp] theorem Agent.retire_journal (g : Agent) (k m : Nat) : (g.retire k m).journal = g.journal := rfl
@[simp] theorem Agent.retire_touched (g : Agent) (k m : Nat) : (g.retire k m).touched = g.touched := rfl
@[simp] theorem Agent.retire_journalBad (g : Agent) (k m : Nat) : (g.retire k m).journalBad = g.journalBad := rfl
@[simp] theorem Agent.retire_shadowBad (g : Agent) (k m : Nat) : (g.retire k m).shadowBad = g.shadowBad := rfl
@[simp] theorem Agent.retire_flight (g : Agent) (k m : Nat) : (g.retire k m).flight = g.flight := rfl
@[simp] theorem Agent.retire_nsq (g : Agent) (k m : Nat) : (g.retire k m).nsq = g.nsq := rfl
@[simp] theorem Agent.retire_planeLoads (g : Agent) (k m : Nat) : (g.retire k m).planeLoads = g.planeLoads := rfl
@[simp] theorem Agent.retire_blocks (g : Agent) (k m : Nat) : (g.retire k m).blocks = g.blocks := rfl
@[simp] theorem Agent.retire_wb (g : Agent) (k m : Nat) : (g.retire k m).wb = g.wb := rfl
@[simp] theorem Agent.retire_flq (g : Agent) (k m : Nat) : (g.retire k m).flq = g.flq := rfl
@[simp] theorem Agent.retire_fsq (g : Agent) (k m : Nat) : (g.retire k m).fsq = g.fsq := rfl
@[simp] theorem Agent.retire_ecb (g : Agent) (k m : Nat) : (g.retire k m).ecb = g.ecb := rfl
@[simp] theorem Agent.retire_ctxs (g : Agent) (k m : Nat) : (g.retire k m).ctxs = g.ctxs := rfl
@[simp] theorem Agent.retire_holders (g : Agent) (k m : Nat) : (g.retire k m).holders = g.holders := rfl
@[simp] theorem Agent.retire_wait (g : Agent) (k m : Nat) : (g.retire k m).wait = g.wait := rfl
@[simp] theorem Agent.retire_mdrain (g : Agent) (k m : Nat) : (g.retire k m).mdrain = g.mdrain := rfl
@[simp] theorem Agent.retire_stall (g : Agent) (k m : Nat) : (g.retire k m).stall = g.stall := rfl
@[simp] theorem Agent.retire_board (g : Agent) (k m : Nat) : (g.retire k m).board = g.board := rfl
@[simp] theorem Agent.retire_task (g : Agent) (k m : Nat) : (g.retire k m).task = g.task := rfl
@[simp] theorem Agent.retire_farFault (g : Agent) (k m : Nat) : (g.retire k m).farFault = g.farFault := rfl
@[simp] theorem Agent.retire_evSince (g : Agent) (k m : Nat) : (g.retire k m).evSince = g.evSince := rfl

/-! ## A bundle that runs -/

@[simp] theorem State.issued_cur (s : State) (n k m : Nat) (f : Agent → Agent) : (s.issued n k m f).cur = s.cur := by
  simp only [State.issued, State.bundleCycle]; split <;> rfl
@[simp] theorem State.issued_sched (s : State) (n k m : Nat) (f : Agent → Agent) : (s.issued n k m f).sched = s.sched := by
  simp only [State.issued, State.bundleCycle]; split <;> rfl
@[simp] theorem State.issued_mem (s : State) (n k m : Nat) (f : Agent → Agent) : (s.issued n k m f).mem = s.mem := by
  simp only [State.issued, State.bundleCycle]; split <;> rfl
@[simp] theorem State.issued_wcStatus (s : State) (n k m : Nat) (f : Agent → Agent) : (s.issued n k m f).wcStatus = s.wcStatus := by
  simp only [State.issued, State.bundleCycle]; split <;> rfl
@[simp] theorem State.issued_hostLines (s : State) (n k m : Nat) (f : Agent → Agent) : (s.issued n k m f).hostLines = s.hostLines := by
  simp only [State.issued, State.bundleCycle]; split <;> rfl
@[simp] theorem State.issued_poison (s : State) (n k m : Nat) (f : Agent → Agent) : (s.issued n k m f).poison = s.poison := by
  simp only [State.issued, State.bundleCycle]; split <;> rfl
@[simp] theorem State.issued_quarantined (s : State) (n k m : Nat) (f : Agent → Agent) : (s.issued n k m f).quarantined = s.quarantined := by
  simp only [State.issued, State.bundleCycle]; split <;> rfl
@[simp] theorem State.issued_transit (s : State) (n k m : Nat) (f : Agent → Agent) : (s.issued n k m f).transit = s.transit := by
  simp only [State.issued, State.bundleCycle]; split <;> rfl
@[simp] theorem State.issued_arrivals (s : State) (n k m : Nat) (f : Agent → Agent) : (s.issued n k m f).arrivals = s.arrivals := by
  simp only [State.issued, State.bundleCycle]; split <;> rfl
@[simp] theorem State.issued_running (s : State) (n k m : Nat) (f : Agent → Agent) : (s.issued n k m f).running = s.running := by
  simp only [State.issued, State.bundleCycle]; split <;> rfl
@[simp] theorem State.issued_now (s : State) (n k m : Nat) (f : Agent → Agent) : (s.issued n k m f).now = s.now := by
  simp only [State.issued, State.bundleCycle]; split <;> rfl
@[simp] theorem State.issued_rates (s : State) (n k m : Nat) (f : Agent → Agent) : (s.issued n k m f).rates = s.rates := by
  simp only [State.issued, State.bundleCycle]; split <;> rfl
@[simp] theorem State.issued_pitches (s : State) (n k m : Nat) (f : Agent → Agent) : (s.issued n k m f).pitches = s.pitches := by
  simp only [State.issued, State.bundleCycle]; split <;> rfl
@[simp] theorem State.issued_commits (s : State) (n k m : Nat) (f : Agent → Agent) : (s.issued n k m f).commits = s.commits := by
  simp only [State.issued, State.bundleCycle]; split <;> rfl
@[simp] theorem State.issued_pages (s : State) (n k m : Nat) (f : Agent → Agent) : (s.issued n k m f).pages = s.pages := by
  simp only [State.issued, State.bundleCycle]; split <;> rfl
@[simp] theorem State.issued_hostPages (s : State) (n k m : Nat) (f : Agent → Agent) : (s.issued n k m f).hostPages = s.hostPages := by
  simp only [State.issued, State.bundleCycle]; split <;> rfl
@[simp] theorem State.issued_reportNo (s : State) (n k m : Nat) (f : Agent → Agent) : (s.issued n k m f).reportNo = s.reportNo := by
  simp only [State.issued, State.bundleCycle]; split <;> rfl
@[simp] theorem State.issued_qpairs (s : State) (n k m : Nat) (f : Agent → Agent) : (s.issued n k m f).qpairs = s.qpairs := by
  simp only [State.issued, State.bundleCycle]; split <;> rfl
@[simp] theorem State.issued_work (s : State) (n k m : Nat) (f : Agent → Agent) : (s.issued n k m f).work = s.work := by
  simp only [State.issued, State.bundleCycle]; split <;> rfl
@[simp] theorem State.issued_reductions (s : State) (n k m : Nat) (f : Agent → Agent) : (s.issued n k m f).reductions = s.reductions := by
  simp only [State.issued, State.bundleCycle]; split <;> rfl
@[simp] theorem State.issued_mailbox (s : State) (n k m : Nat) (f : Agent → Agent) : (s.issued n k m f).mailbox = s.mailbox := by
  simp only [State.issued, State.bundleCycle]; split <;> rfl
@[simp] theorem State.issued_mailSeq (s : State) (n k m : Nat) (f : Agent → Agent) : (s.issued n k m f).mailSeq = s.mailSeq := by
  simp only [State.issued, State.bundleCycle]; split <;> rfl
@[simp] theorem State.issued_loadSeq (s : State) (n k m : Nat) (f : Agent → Agent) : (s.issued n k m f).loadSeq = s.loadSeq := by
  simp only [State.issued, State.bundleCycle]; split <;> rfl
@[simp] theorem State.issued_relSeq (s : State) (n k m : Nat) (f : Agent → Agent) : (s.issued n k m f).relSeq = s.relSeq := by
  simp only [State.issued, State.bundleCycle]; split <;> rfl
@[simp] theorem State.issued_workSeq (s : State) (n k m : Nat) (f : Agent → Agent) : (s.issued n k m f).workSeq = s.workSeq := by
  simp only [State.issued, State.bundleCycle]; split <;> rfl
@[simp] theorem State.issued_arms (s : State) (n k m : Nat) (f : Agent → Agent) : (s.issued n k m f).arms = s.arms := by
  simp only [State.issued, State.bundleCycle]; split <;> rfl
@[simp] theorem State.issued_launchTable (s : State) (n k m : Nat) (f : Agent → Agent) : (s.issued n k m f).launchTable = s.launchTable := by
  simp only [State.issued, State.bundleCycle]; split <;> rfl
@[simp] theorem State.issued_parts (s : State) (n k m : Nat) (f : Agent → Agent) : (s.issued n k m f).parts = s.parts := by
  simp only [State.issued, State.bundleCycle]; split <;> rfl
@[simp] theorem State.issued_passes (s : State) (n k m : Nat) (f : Agent → Agent) : (s.issued n k m f).passes = s.passes := by
  simp only [State.issued, State.bundleCycle]; split <;> rfl
@[simp] theorem State.issued_tasksets (s : State) (n k m : Nat) (f : Agent → Agent) : (s.issued n k m f).tasksets = s.tasksets := by
  simp only [State.issued, State.bundleCycle]; split <;> rfl
@[simp] theorem State.issued_nextTs (s : State) (n k m : Nat) (f : Agent → Agent) : (s.issued n k m f).nextTs = s.nextTs := by
  simp only [State.issued, State.bundleCycle]; split <;> rfl
@[simp] theorem State.issued_tileLaunches (s : State) (n k m : Nat) (f : Agent → Agent) : (s.issued n k m f).tileLaunches = s.tileLaunches := by
  simp only [State.issued, State.bundleCycle]; split <;> rfl
@[simp] theorem State.issued_queues (s : State) (n k m : Nat) (f : Agent → Agent) : (s.issued n k m f).queues = s.queues := by
  simp only [State.issued, State.bundleCycle]; split <;> rfl
@[simp] theorem State.issued_requests (s : State) (n k m : Nat) (f : Agent → Agent) : (s.issued n k m f).requests = s.requests := by
  simp only [State.issued, State.bundleCycle]; split <;> rfl
@[simp] theorem State.issued_reqNo (s : State) (n k m : Nat) (f : Agent → Agent) : (s.issued n k m f).reqNo = s.reqNo := by
  simp only [State.issued, State.bundleCycle]; split <;> rfl
@[simp] theorem State.issued_revoked (s : State) (n k m : Nat) (f : Agent → Agent) : (s.issued n k m f).revoked = s.revoked := by
  simp only [State.issued, State.bundleCycle]; split <;> rfl
@[simp] theorem State.issued_cfg (s : State) (n k m : Nat) (f : Agent → Agent) : (s.issued n k m f).cfg = s.cfg := by
  simp only [State.issued, State.bundleCycle]; split <;> rfl
@[simp] theorem State.issued_fw (s : State) (n k m : Nat) (f : Agent → Agent) : (s.issued n k m f).fw = s.fw := by
  simp only [State.issued, State.bundleCycle]; split <;> rfl
@[simp] theorem State.issued_certChain (s : State) (n k m : Nat) (f : Agent → Agent) : (s.issued n k m f).certChain = s.certChain := by
  simp only [State.issued, State.bundleCycle]; split <;> rfl
@[simp] theorem State.issued_attestKey (s : State) (n k m : Nat) (f : Agent → Agent) : (s.issued n k m f).attestKey = s.attestKey := by
  simp only [State.issued, State.bundleCycle]; split <;> rfl
@[simp] theorem State.issued_powerHold (s : State) (n k m : Nat) (f : Agent → Agent) : (s.issued n k m f).powerHold = s.powerHold := by
  simp only [State.issued, State.bundleCycle]; split <;> rfl
@[simp] theorem State.issued_currentHold (s : State) (n k m : Nat) (f : Agent → Agent) : (s.issued n k m f).currentHold = s.currentHold := by
  simp only [State.issued, State.bundleCycle]; split <;> rfl
@[simp] theorem State.issued_thermalHold (s : State) (n k m : Nat) (f : Agent → Agent) : (s.issued n k m f).thermalHold = s.thermalHold := by
  simp only [State.issued, State.bundleCycle]; split <;> rfl
@[simp] theorem State.issued_off (s : State) (n k m : Nat) (f : Agent → Agent) : (s.issued n k m f).off = s.off := by
  simp only [State.issued, State.bundleCycle]; split <;> rfl
@[simp] theorem State.issued_spdmOnly (s : State) (n k m : Nat) (f : Agent → Agent) : (s.issued n k m f).spdmOnly = s.spdmOnly := by
  simp only [State.issued, State.bundleCycle]; split <;> rfl
@[simp] theorem State.issued_scrubLine (s : State) (n k m : Nat) (f : Agent → Agent) : (s.issued n k m f).scrubLine = s.scrubLine := by
  simp only [State.issued, State.bundleCycle]; split <;> rfl
@[simp] theorem State.issued_refreshed (s : State) (n k m : Nat) (f : Agent → Agent) : (s.issued n k m f).refreshed = s.refreshed := by
  simp only [State.issued, State.bundleCycle]; split <;> rfl
@[simp] theorem State.issued_activated (s : State) (n k m : Nat) (f : Agent → Agent) : (s.issued n k m f).activated = s.activated := by
  simp only [State.issued, State.bundleCycle]; split <;> rfl
@[simp] theorem State.issued_wiped (s : State) (n k m : Nat) (f : Agent → Agent) : (s.issued n k m f).wiped = s.wiped := by
  simp only [State.issued, State.bundleCycle]; split <;> rfl
@[simp] theorem State.issued_sent (s : State) (n k m : Nat) (f : Agent → Agent) : (s.issued n k m f).sent = s.sent := by
  simp only [State.issued, State.bundleCycle]; split <;> rfl
@[simp] theorem State.issued_freeCtr (s : State) (n k m : Nat) (f : Agent → Agent) :
    (s.issued n k m f).freeCtr = s.freeCtr + 1 := by
  simp only [State.issued, State.bundleCycle]; split <;> rfl

/-- The agent that issues. -/
@[simp] theorem State.issued_agent (s : State) (n k m : Nat) (f : Agent → Agent) :
    (s.issued n k m f).agent n = (f (s.agent n)).retire k m := by
  have h (t : State) (x : Nat) : ({ t with freeCtr := x } : State).agent n = t.agent n := rfl
  simp only [State.issued, State.bundleCycle, h]
  split <;> simp

/-- Every other agent stands as before. -/
theorem State.issued_agent_ne (s : State) (n k m j : Nat) (f : Agent → Agent) (hj : j ≠ n) :
    (s.issued n k m f).agent j = s.agent j := by
  have h (t : State) (x : Nat) : ({ t with freeCtr := x } : State).agent j = t.agent j := rfl
  simp only [State.issued, State.bundleCycle, h]
  split <;> simp [State.agent_setAgent_ne _ _ _ _ hj]

end Sys2Proof.Machine
end

