-- ==== Sys2Proof/Laws/Issue.lean ====
section
/-!
SUPPORT. What the issue of one word alone does: everything it can do when it runs, and the traps of its checks.
-/

namespace Sys2Proof.Machine

/-- A word that the iteration qualifier does not select has no effect beyond its bundle's. -/
def idleEffect (a : Agent) : Agent := a.seqStep

/-- The effect of a selected word on its agent. -/
def Word.effect (w : Word) (s : State) (n : Nat) (a : Agent) : Agent :=
  let a := w.act s n a
  let a := a.popAll [w]
  let a := w.pushes.foldl Agent.reserve a
  let a := if w.slot = 0 then w.flow s n a else a.seqStep
  match w.arm with
  | some k => { a with r := { a.r with repn := k, repw := 0 } }
  | none => a

theorem ready_repeated {s : State} {n : Nat} (h : s.ready n) : repeated (s.agent n) = [] := by
  unfold repeated
  split
  · next hc => exact absurd (h.2.1 hc.2.2) hc.1
  · rfl

theorem withRepeat_nil (ws : List Word) : withRepeat [] ws = ws := by
  induction ws with
  | nil => rfl
  | cons w ws ih => unfold withRepeat; split <;> simp [ih]

/-- Without a repetition in force, the words of a rank are the bundle's. -/
theorem ready_words {s : State} {n : Nat} (h : s.ready n) (ws : List Word) : allWords s n ws = ws := by
  rw [allWords, ready_repeated h, withRepeat_nil]

theorem ready_overrun {s : State} {n : Nat} (h : s.ready n) (ws : List Word) : overrun (s.agent n) ws = none := by
  unfold overrun
  obtain ⟨-, -, hb, hh⟩ := h
  cases hm : (s.agent n).mode <;> simp_all
  all_goals (rw [if_neg (by omega), if_neg (by omega)])

theorem ready_members {s : State} {n : Nat} (h : s.ready n) : s.members n = [n] := h.1

/-- Without a repetition in force or armed, the repeat prefix stays as it is. -/
theorem stepRepeat_eq {a : Agent} (h : a.mode = .task → a.r.repn = 0) (m : Option W32) : a.stepRepeat m = a := by
  unfold Agent.stepRepeat
  by_cases hm : a.mode = .task <;> simp [hm, h]

/-- The counters after a bundle. -/
theorem countBundle_eq (a : Agent) (ws : List Word) :
    a.countBundle ws = a.retire (ws.map (·.cmd)).sum (ws.map (·.sto)).sum := by
  simp only [Agent.countBundle, Agent.retire, Agent.event]
  rfl

/-! ## What the loop step can change -/

/-- `b` differs from `a` in the PC, the address registers, the loop levels and the results in flight alone. -/
def LoopOnly (a b : Agent) : Prop :=
  ∃ pc ra levels flight shadow super, b = { a with
    r := { a.r with pc := pc, a := ra, levels := levels }, flight := flight
    shadow := { a.shadow with a := shadow }, super := { a.super with a := super } }

theorem LoopOnly.refl (a : Agent) : LoopOnly a a := ⟨_, _, _, _, _, _, rfl⟩

theorem LoopOnly.trans {a b c : Agent} (h : LoopOnly a b) (k : LoopOnly b c) : LoopOnly a c := by
  obtain ⟨p, q, r, s, t, u, rfl⟩ := h
  obtain ⟨p', q', r', s', t', u', rfl⟩ := k
  exact ⟨p', q', r', s', t', u', rfl⟩

theorem LoopOnly.pc (a : Agent) (x : W64) : LoopOnly a { a with r := { a.r with pc := x } } := ⟨_, _, _, _, _, _, rfl⟩

theorem LoopOnly.setLevel (a : Agent) (l : Nat) (x : Level) : LoopOnly a (a.setLevel l x) := ⟨_, _, _, _, _, _, rfl⟩

theorem LoopOnly.putA (a : Agent) (d : BitVec 4) (x : W64) : LoopOnly a (a.putA d x) := by
  unfold Agent.putA
  split
  · split <;> exact ⟨_, _, _, _, _, _, rfl⟩
  · exact ⟨_, _, _, _, _, _, rfl⟩

theorem LoopOnly.foldl {β : Type} (f : Agent → β → Agent) (h : ∀ a x, LoopOnly a (f a x)) (xs : List β) (a : Agent) :
    LoopOnly a (xs.foldl f a) := by
  induction xs generalizing a with
  | nil => exact .refl a
  | cons x xs ih => exact (h a x).trans (ih _)

theorem LoopOnly.addStrides (a : Agent) (v : Level) : LoopOnly a (a.addStrides v) := by
  refine LoopOnly.foldl _ (fun a k => ?_) _ a
  split
  · exact .putA _ _ _
  · exact .refl _

theorem LoopOnly.rewind (a : Agent) (v : Level) : LoopOnly a (a.rewind v) := by
  refine LoopOnly.foldl _ (fun a k => ?_) _ a
  split
  · exact .putA _ _ _
  · exact .refl _

theorem LoopOnly.cascade (b : W64) (f : Nat) (a : Agent) (next : W64) : LoopOnly a (Agent.cascade b f a next) := by
  induction f generalizing a with
  | zero => exact .pc _ _
  | succ f ih =>
    unfold Agent.cascade
    split
    · exact .pc _ _
    · dsimp only
      split
      · split
        · exact ((LoopOnly.setLevel _ _ _).trans (.addStrides _ _)).trans (.pc _ _)
        · exact ((LoopOnly.rewind _ _).trans (.setLevel _ _ _)).trans (ih _)
      · exact .pc _ _

theorem LoopOnly.exitTo (l f : Nat) (a : Agent) : LoopOnly a (Agent.exitTo l f a) := by
  induction f generalizing a with
  | zero => exact .refl _
  | succ f ih =>
    unfold Agent.exitTo
    split
    · exact .refl _
    · split
      · exact .refl _
      · exact ((LoopOnly.rewind _ _).trans (.setLevel _ _ _)).trans (ih _)

theorem LoopOnly.landA (a : Agent) : LoopOnly a a.landA := by
  have h : LoopOnly a (a.flight.foldl (fun a f => match f.res with | .a d v => a.putA d v | _ => a) a) := by
    refine LoopOnly.foldl _ (fun a f => ?_) _ a
    split
    · exact .putA _ _ _
    · exact .refl _
  exact h.trans ⟨_, _, _, _, _, _, rfl⟩

/-- The fall-through with its loop step. -/
theorem LoopOnly.seqStep (a : Agent) : LoopOnly a a.seqStep := by
  unfold Agent.seqStep
  dsimp only
  split
  · exact .pc _ _
  · split
    · exact .pc _ _
    · split
      · exact (LoopOnly.landA a).trans (.cascade _ _ _ _)
      · exact .pc _ _

/-! ## Queues -/

theorem pop_mode (a : Agent) (q : BitVec 4) : (a.pop q).mode = a.mode ∧ (a.pop q).r.repn = a.r.repn := ⟨rfl, rfl⟩

theorem foldl_pop_keeps (qs : List (BitVec 4)) (a : Agent) :
    (qs.foldl Agent.pop a).mode = a.mode ∧ (qs.foldl Agent.pop a).r.repn = a.r.repn := by
  induction qs generalizing a with
  | nil => exact ⟨rfl, rfl⟩
  | cons q qs ih => exact ⟨(ih _).1.trans (pop_mode a q).1, (ih _).2.trans (pop_mode a q).2⟩

theorem foldl_reserve_keeps (qs : List (BitVec 4)) (a : Agent) :
    (qs.foldl Agent.reserve a).mode = a.mode ∧ (qs.foldl Agent.reserve a).r = a.r := by
  induction qs generalizing a with
  | nil => exact ⟨rfl, rfl⟩
  | cons q qs ih => exact ⟨(ih _).1, (ih _).2⟩

theorem queue_pop (a : Agent) (q r : BitVec 4) : (a.pop q).queue r = if r = q then (a.queue q).tail else a.queue r := by
  unfold Agent.pop Agent.setQueue Agent.queue
  by_cases h : r = q
  · subst h; simp
  · have hn : r.toNat ≠ q.toNat := fun e => h (BitVec.eq_of_toNat_eq e)
    simp [h, Tab.get_set_ne _ _ _ _ _ hn]

/-- Operands that can be taken are all there. -/
theorem supplies_empty {a : Agent} {ops : List QOp} (h : a.supplies ops) : a.emptyOp ops = none := by
  induction ops generalizing a with
  | nil => rfl
  | cons o t ih => simp only [Agent.emptyOp, if_neg h.1]; exact ih h.2

/-- Every pop finds an entry. -/
theorem supplies_count {a : Agent} {ops : List QOp} (h : a.supplies ops) (q : BitVec 4) :
    ((ops.filter (fun o => !o.peek)).map (·.q)).count q ≤ (a.queue q).length := by
  induction ops generalizing a with
  | nil => simp
  | cons o t ih =>
    obtain ⟨h1, h2⟩ := h
    have hi := ih h2
    cases hp : o.peek
    · rw [hp] at hi
      simp only [List.filter_cons, hp, Bool.not_false, if_true, List.map_cons, List.count_cons]
      simp only [Bool.false_eq_true, if_false, queue_pop] at hi
      by_cases e : q = o.q
      · subst e
        have hl := List.length_pos_iff.2 h1
        simp only [if_true, List.length_tail] at hi
        simp only [beq_self_eq_true, if_true]
        omega
      · rw [if_neg e] at hi
        have e' : (o.q == q) = false := by simpa using fun x => e x.symm
        simpa [e'] using hi
    · rw [hp] at hi
      simpa [List.filter_cons, hp] using hi

/-! ## The bundle of one word -/

/-- The conditions under which a selected word runs. -/
structure Word.Runs (w : Word) (s : State) (n : Nat) : Prop where
  prof : w.prof { ctl := isCtl n, mode := (s.agent n).mode } = true
  priv : w.priv s n = false
  perm : w.perm s n = false
  free : ∀ t, w.hold = .tile t → (s.agent n).busy t = false
  planes : w.hold ≠ .planes
  chk : w.chk s n = none
  cmds : w.cmd = 0 ∨ (s.agent n).cmds + w.cmd ≤ 32
  stores : w.sto = 0 ∨ (s.agent n).stores + w.sto ≤ 256
  late : w.late = none
  ops : (s.agent n).supplies w.ops
  room : ∀ q ∈ w.pushes, ((((s.agent n).taken w.ops).queue q).length + (s.agent n).reserved q + w.pushes.count q ≤ 8)

/-- A word's own act and flow keep the repeat prefix, and its flow keeps it too. -/
structure Word.Plain (w : Word) (s : State) (n : Nat) : Prop where
  act : (w.act s n (s.agent n)).mode = (s.agent n).mode ∧ (w.act s n (s.agent n)).r.repn = (s.agent n).r.repn
  flow : ∀ a, w.slot = 0 → (w.flow s n a).mode = a.mode ∧ (w.flow s n a).r.repn = a.r.repn

theorem effect_one {s : State} {n : Nat} (h : s.ready n) (w : Word) (hp : w.Plain s n) :
    Agent.effect s n [w] = (w.effect s n (s.agent n)).retire w.cmd w.sto := by
  have hq := foldl_pop_keeps ([w].flatMap Word.pops) (w.act s n (s.agent n))
  have hv := foldl_reserve_keeps w.pushes ((w.act s n (s.agent n)).popAll [w])
  have key : ∀ c : Agent, c.mode = (s.agent n).mode → c.r.repn = (s.agent n).r.repn →
      (c.repeatAfter [w]).countBundle [w] =
        (match w.arm with | some k => { c with r := { c.r with repn := k, repw := 0 } } | none => c : Agent).retire w.cmd w.sto := by
    intro c hm hr
    rw [countBundle_eq]
    unfold Agent.repeatAfter
    rw [stepRepeat_eq (by rw [hm, hr]; exact h.2.1)]
    cases ha : w.arm <;> simp [ha]
  have hm0 : (w.pushes.foldl Agent.reserve ((w.act s n (s.agent n)).popAll [w])).mode = (s.agent n).mode := by
    rw [hv.1]; exact hq.1.trans hp.act.1
  have hr0 : (w.pushes.foldl Agent.reserve ((w.act s n (s.agent n)).popAll [w])).r.repn = (s.agent n).r.repn := by
    rw [hv.2]; exact hq.2.trans hp.act.2
  unfold Agent.effect Word.effect
  by_cases hs : w.slot = 0
  · simp only [List.foldl_cons, List.foldl_nil, List.flatMap_cons, List.flatMap_nil, List.append_nil, List.find?_cons, hs, beq_self_eq_true, if_true]
    exact key _ ((hp.flow _ hs).1.trans hm0) ((hp.flow _ hs).2.trans hr0)
  · have hl := LoopOnly.seqStep (w.pushes.foldl Agent.reserve ((w.act s n (s.agent n)).popAll [w]))
    obtain ⟨p, q, r, t, u, v, hl⟩ := hl
    have hb : (w.slot == 0) = false := by simp [hs]
    simp only [List.foldl_cons, List.foldl_nil, List.flatMap_cons, List.flatMap_nil, List.append_nil, List.find?_cons, List.find?_nil, hb, if_neg hs]
    refine key _ ?_ ?_
    · rw [hl]; exact hm0
    · rw [hl]; exact hr0

theorem early_one {s : State} {n : Nat} (h : s.ready n) (w : Word)
    (hp : w.prof { ctl := isCtl n, mode := (s.agent n).mode } = true)
    (hs : (s.agent n).selects w.iq = true → w.priv s n = false ∧ w.perm s n = false) :
    earlyTrap s n [w] = none := by
  have hr := ready_repeated h
  have ho := ready_overrun h
  unfold earlyTrap selected
  simp only [ready_words h, hr]
  by_cases hq : (s.agent n).selects w.iq = true
  · simp [firstSlot, conflictSlot, hp, hq, hs hq, ho]
  · simp [firstSlot, conflictSlot, hp, hq, ho]

theorem selected_one {s : State} {n : Nat} (h : s.ready n) (w : Word) :
    selected s n [w] = if (s.agent n).selects w.iq then [w] else [] := by
  unfold selected
  rw [ready_words h]
  by_cases hq : (s.agent n).selects w.iq = true <;> simp [hq]

theorem issue_one {s : State} {n : Nat} (h : s.ready n) (w : Word)
    (hp : w.prof { ctl := isCtl n, mode := (s.agent n).mode } = true)
    (hs : (s.agent n).selects w.iq = true → w.priv s n = false ∧ w.perm s n = false)
    (hh : heldTile s n [w] = none) (hl : holdsPlanes s n [w] = false)
    (hc : checkTrap s n (selected s n [w]) = none) :
    s.issue n [w] = s.issueDone n [n] [w] := by
  have he : firstEarly s [n] [w] = none := by simp [firstEarly, early_one h w hp hs]
  unfold State.issue State.issueReady
  simp [ready_members h, he, ranksAhead, hh, hl, firstCheck, hc, diverges]

theorem checks_one {s : State} {n : Nat} (w : Word) (hr : w.Runs s n) : checkTrap s n [w] = none := by
  have h1 : execTrap s n (s.agent n).cmds (s.agent n).stores [w] = none := by
    have hc := hr.cmds
    have ht := hr.stores
    unfold execTrap
    rw [hr.chk]
    dsimp only
    rw [if_neg (by omega)]
    rfl
  have h2 : popTrap (s.agent n) [] [w] = none := by
    have he : (s.agent n).emptyOp w.ops = none := supplies_empty hr.ops
    have hs : w.pops.find? (fun q => decide (((s.agent n).queue q).length < ([] ++ w.pops).count q)) = none := by
      rw [List.find?_eq_none]
      intro q hq
      have := supplies_count hr.ops q
      rw [decide_eq_true_eq, List.nil_append]
      exact Nat.not_lt.2 this
    unfold popTrap
    simp only [he, hs, Option.none_or]
    rfl
  have h3 : pushTrap ((s.agent n).popAll [w]) [] [w] = none := by
    have hs : w.pushes.find? (fun q => decide (8 < (((s.agent n).popAll [w]).queue q).length + ((s.agent n).popAll [w]).reserved q +
        ([] ++ w.pushes).count q)) = none := by
      rw [List.find?_eq_none]
      intro q hq
      have := hr.room q hq
      have hv : ((s.agent n).popAll [w]).reserved q = (s.agent n).reserved q := by
        have : ∀ (l : List (BitVec 4)) (a : Agent), (l.foldl Agent.pop a).reserved q = a.reserved q := by
          intro l
          induction l with
          | nil => intro a; rfl
          | cons x l ih => intro a; exact (ih _).trans rfl
        exact this _ _
      rw [hv]
      have hq' : (s.agent n).popAll [w] = (s.agent n).taken w.ops := by
        simp [Agent.popAll, Agent.taken, Word.pops]
      rw [hq']
      simpa using this
    unfold pushTrap
    simp only [hs]
    rfl
  unfold checkTrap
  simp [h1, h2, h3, lateTrap, hr.late]

/-- A selected word whose conditions hold runs: the state after it is the state after the bundle, with what follows the bundle. -/
theorem issueAlone_runs {s : State} {n : Nat} (hn : s.cur.toNat = n) (h : s.ready n) (w : Word)
    (hq : (s.agent n).selects w.iq = true) (hr : w.Runs s n) (hp : w.Plain s n) :
    issueAlone w s = .next (w.post (s.issued n w.cmd w.sto (w.effect s n)) n) := by
  subst hn
  have hsel := selected_one h w
  rw [if_pos hq] at hsel
  have hh : heldTile s s.cur.toNat [w] = none := by
    unfold heldTile
    rw [hsel]
    have := hr.free
    cases hw : w.hold <;> simp_all
  have hl : holdsPlanes s s.cur.toNat [w] = false := by
    unfold holdsPlanes
    rw [hsel]
    simpa using hr.planes
  unfold issueAlone
  rw [issue_one h w hr.prof (fun _ => ⟨hr.priv, hr.perm⟩) hh hl (by rw [hsel]; exact checks_one w hr)]
  unfold State.issueDone
  rw [hsel]
  have ha : allWords s s.cur.toNat [w] = [w] := ready_words h _
  have he : Agent.effect s s.cur.toNat ([w].filter (fun x => (s.agent s.cur.toNat).selects x.iq)) =
      (w.effect s s.cur.toNat (s.agent s.cur.toNat)).retire w.cmd w.sto := by
    rw [← effect_one h w hp]
    simp [hq]
  simp only [List.foldl_cons, List.foldl_nil, State.effect, ha, he]
  rfl

/-- A word that its qualifier does not select leaves its bundle without effect. -/
theorem issueAlone_skips {s : State} {n : Nat} (hn : s.cur.toNat = n) (h : s.ready n) (w : Word)
    (hq : (s.agent n).selects w.iq = false) (hp : w.prof { ctl := isCtl n, mode := (s.agent n).mode } = true) :
    issueAlone w s = .next (s.issued n 0 0 Agent.seqStep) := by
  subst hn
  have hsel := selected_one h w
  rw [hq] at hsel
  have hsel : selected s s.cur.toNat [w] = [] := by simpa using hsel
  have hh : heldTile s s.cur.toNat [w] = none := by simp [heldTile, hsel]
  have hl : holdsPlanes s s.cur.toNat [w] = false := by simp [holdsPlanes, hsel]
  unfold issueAlone
  rw [issue_one h w hp (fun c => by rw [hq] at c; cases c) hh hl (by rw [hsel]; rfl)]
  unfold State.issueDone
  rw [hsel]
  have ha : allWords s s.cur.toNat [w] = [w] := ready_words h _
  have he : Agent.effect s s.cur.toNat ([w].filter (fun x => (s.agent s.cur.toNat).selects x.iq)) =
      ((s.agent s.cur.toNat).seqStep).retire 0 0 := by
    have hf : [w].filter (fun x => (s.agent s.cur.toNat).selects x.iq) = [] := by simp [hq]
    obtain ⟨p, q, r, t, u, v, hl⟩ := LoopOnly.seqStep (s.agent s.cur.toNat)
    rw [hf]
    unfold Agent.effect
    simp only [List.foldl_nil, List.flatMap_nil, List.find?_nil]
    unfold Agent.popAll
    simp only [List.foldl_nil, List.flatMap_nil]
    rw [countBundle_eq]
    unfold Agent.repeatAfter
    rw [stepRepeat_eq]
    · rfl
    · rw [hl]; exact h.2.1
  simp only [List.foldl_cons, List.foldl_nil, State.effect, ha, he]
  rfl

end Sys2Proof.Machine
end

