-- ==== Sys2Proof/Laws/Alone.lean ====
section
/-!
SUPPORT. A word that is issued alone and traps, the word of an instruction, and what a step makes of the words of a bundle.
-/

namespace Sys2Proof.Machine

/-! ## Traps of a word alone -/

theorem issueAlone_early {s : State} {n : Nat} (hn : s.cur.toNat = n) (hm : s.members n = [n]) (w : Word) (t : Trap)
    (h : earlyTrap s n [w] = some t) : issueAlone w s = .next (s.takeTrap n t false) := by
  subst hn
  have he : firstEarly s [s.cur.toNat] [w] = some (s.cur.toNat, t) := by simp [firstEarly, h]
  unfold issueAlone State.issue State.issueReady
  simp [hm, he, ranksAhead, firstCheck]

theorem issueAlone_checked {s : State} {n : Nat} (hn : s.cur.toNat = n) (h : s.ready n) (w : Word) (t : Trap)
    (hp : w.prof { ctl := isCtl n, mode := (s.agent n).mode } = true) (hq : (s.agent n).selects w.iq = true)
    (hs : w.priv s n = false ∧ w.perm s n = false) (hh : w.hold = .none)
    (hc : checkTrap s n [w] = some t) : issueAlone w s = .next (s.takeTrap n t false) := by
  subst hn
  have hsel := selected_one h w
  rw [if_pos hq] at hsel
  have h1 : heldTile s s.cur.toNat [w] = none := by unfold heldTile; rw [hsel]; simp [hh]
  have h2 : holdsPlanes s s.cur.toNat [w] = false := by unfold holdsPlanes; rw [hsel]; simp [hh]
  have he : firstEarly s [s.cur.toNat] [w] = none := by simp [firstEarly, early_one h w hp (fun _ => hs)]
  unfold issueAlone State.issue State.issueReady
  simp [ready_members h, he, ranksAhead, h1, h2, firstCheck, hsel, hc]

/-! ## Profiles (01 R37) -/

theorem prof0 (p : Prof) : profBase 0 p = true := by
  unfold profBase; cases p.mode <;> simp

theorem prof1 (p : Prof) : profBase 1 p = true := by
  unfold profBase; cases p.mode <;> simp

theorem prof7 (p : Prof) : profBase 7 p = decide (p.mode ≠ .super) := by
  unfold profBase; cases p.mode <;> simp

theorem prof3456 (p : Prof) (k) (h : k = 3 ∨ k = 4 ∨ k = 5 ∨ k = 6) : profBase k p = (decide (p.mode = .task) && !p.ctl) := by
  unfold profBase; rcases h with h|h|h|h <;> subst h <;> cases p.mode <;> simp

/-! ## The word of an instruction -/

theorem vecWord_slot (iq lat vd md ops lanes val) : (vecWord iq lat vd md ops lanes val).slot = 5 := by unfold vecWord; split <;> rfl

theorem slot_word (i : Instr) (w : Word) (k : Nat) (hk : i.slot = some k) (h : wordOf i = some w) : w.slot = k := by
  cases i <;> cases h <;> cases hk <;> first | rfl | exact vecWord_slot ..

theorem exec_word (i : Instr) (w : Word) (s : State) (h : wordOf i = some w) : exec i s = issueAlone w s := by
  cases i <;> cases h <;> rfl

theorem word_some (i : Instr) (k : Nat) (h : i.slot = some k) : ∃ w, wordOf i = some w := by
  cases i <;> first | exact ⟨_, rfl⟩ | cases h

/-! ## The words of a bundle -/

theorem turn_issue {s : State} (hs : s.alive) (h : s.sched = []) (hc : s.canIssue s.cur.toNat = true) :
    let n := (s.members s.cur.toNat).headD s.cur.toNat
    s.fetchFault n (s.agent n).r.pc.toNat = none → step s = .next (s.issueWords n (s.bundleAt n (s.agent n).r.pc.toNat)) := by
  intro n hf
  unfold step
  rw [h]
  simp only [hs.1, hs.2, Bool.false_eq_true, if_false]
  unfold State.turn
  rw [if_pos hc]
  unfold State.issueNext
  simp only [show (s.members s.cur.toNat).headD s.cur.toNat = n from rfl, hf]

theorem good_words (b : BitVec 256) (f : Nat → Option Word) (ks : List Nat)
    (h : ∀ k ∈ ks, (slotWord b k = 0 ∧ f k = none) ∨ ∃ i w, slotWord b k ≠ 0 ∧ decodeSlot k (slotWord b k) = .ok i ∧ wordOf i = some w ∧
          f k = some { w with slot := k }) (j : Nat) : badSlot j (ks.map (bundleWord b)) = none ∧ goodWords (ks.map (bundleWord b)) = ks.filterMap f := by
  induction ks generalizing j with
  | nil => exact ⟨rfl, rfl⟩
  | cons k ks ih =>
    obtain ⟨h1, h2⟩ := ih (fun k hk => h k (List.mem_cons_of_mem _ hk)) (j + 1)
    have : bundleWord b k = .ok (f k) := by
      rcases h k (List.mem_cons_self) with ⟨h0, hf⟩ | ⟨i, w, h0, hd, hw, hf⟩
      · simp only [bundleWord, h0, if_pos, hf]
      · simp only [bundleWord, h0, hd, hw, hf, if_false, Option.map_some]
    constructor
    · simp only [List.map_cons, this, badSlot, h1]
    · simp only [goodWords] at h2 ⊢
      simp only [List.map_cons, this, List.filterMap_cons, h2]

theorem bad_some (b : BitVec 256) (ks : List Nat) (j k : Nat) (hk : k ∈ ks) (h0 : slotWord b k ≠ 0) (hd : ∀ i, decodeSlot k (slotWord b k) ≠ .ok i) :
    ∃ m, badSlot j (ks.map (bundleWord b)) = some m ∧ m < j + ks.length := by
  induction ks generalizing j with
  | nil => cases hk
  | cons x ks ih =>
    by_cases hx : x = k
    · subst hx
      have : ∃ e, bundleWord b x = .error e := by
        simp only [bundleWord, h0, if_false]
        cases h : decodeSlot x (slotWord b x) with
        | error e => exact ⟨e, rfl⟩
        | ok i => exact absurd h (hd i)
      obtain ⟨e, he⟩ := this
      exact ⟨j, by simp only [List.map_cons, he, badSlot], by simp⟩
    · have hm : k ∈ ks := by
        cases hk with
        | head => exact absurd rfl hx
        | tail _ h => exact h
      obtain ⟨m, h1, h2⟩ := ih (j + 1) hm
      cases hb : bundleWord b x with
      | error e => exact ⟨j, by simp only [List.map_cons, hb, badSlot], by simp⟩
      | ok i => exact ⟨m, by simp only [List.map_cons, hb, badSlot, h1], by simp only [List.length_cons]; omega⟩

end Sys2Proof.Machine
end

