-- ==== Sys2Proof/Laws/Bits.lean ====
section
/-!
SUPPORT. Fields of a word and appended fields as numbers, and when the decoder accepts the word of an instruction.
-/

namespace Sys2Proof

theorem toNat_append_add {v w : Nat} (x : BitVec v) (y : BitVec w) : (x ++ y).toNat = x.toNat * 2 ^ w + y.toNat := by
  rw [BitVec.toNat_append, Nat.shiftLeft_eq, Nat.mul_comm, Nat.two_pow_add_eq_or_of_lt y.isLt]

theorem fld_toNat (w : BitVec 32) (lo n : Nat) : (fld w lo n).toNat = w.toNat / 2 ^ lo % 2 ^ n := by
  simp [fld, BitVec.extractLsb'_toNat, Nat.shiftRight_eq_div_pow]

theorem fld_eq {w : BitVec 32} {lo n : Nat} (x : BitVec n) (h : w.toNat / 2 ^ lo % 2 ^ n = x.toNat) : fld w lo n = x :=
  BitVec.eq_of_toNat_eq (by rw [fld_toNat, h])

theorem row_ok (i : Instr) (k : Nat) (h1 : encode i ≠ 0) (h2 : fld (encode i) 30 2 ≠ 3) (h3 : rowOf k (encode i) = some i) (h4 : i.wf = true) :
    decodeSlot k (encode i) = .ok i := by
  unfold decodeSlot
  simp only [if_neg h1, if_neg h2, h3, h4, ne_eq, not_true_eq_false, if_false, if_true]

end Sys2Proof
end

