-- ==== Sys2Proof/Laws/Forms.lean ====
section
/-!
SUPPORT. How a word does what its row says: from the parts of the word to the completion of its instruction, once for every shape of word.
-/


namespace Sys2Proof.Spec

set_option linter.unusedSimpArgs false

open Sys2Proof Sys2Proof.Machine

theorem issued_congr (s : State) (n k m : Nat) (f g : Agent → Agent) (h : f (s.agent n) = g (s.agent n)) :
    s.issued n k m f = s.issued n k m g := by
  unfold State.issued; rw [h]

theorem form_says (F : Form) (i : Instr) (s : State) (w : Word)
    (hexec : exec i s = issueAlone w s) (hiq : w.iq = F.iq)
    (hprof : F.held → w.prof { ctl := isCtl s.cur.toNat, mode := (s.agent s.cur.toNat).mode } = true)
    (hruns : F.held → F.can (s.agent s.cur.toNat) → w.Runs s s.cur.toNat)
    (hplain : w.Plain s s.cur.toNat)
    (heff : w.effect s s.cur.toNat (s.agent s.cur.toNat) =
      F.flow (s.agent s.cur.toNat) (F.push.foldl Agent.reserve ((F.act (s.agent s.cur.toNat)).taken F.ops)))
    (hpost : w.post = fun s _ => s) (hcmd : w.cmd = F.cmds) (hsto : w.sto = F.stores) : F.Says i s := by
  intro hr hh hc
  rw [hexec]
  by_cases hq : (s.agent s.cur.toNat).selects F.iq = true
  · rw [issueAlone_runs rfl hr w (by rw [hiq]; exact hq) (hruns hh (hc hq)) hplain, hpost]
    dsimp only
    rw [hcmd, hsto, if_pos hq, if_pos hq]
    congr 1
    apply issued_congr
    rw [heff]
    unfold Form.run
    rw [if_pos hq]
  · have hq' : (s.agent s.cur.toNat).selects F.iq = false := by simpa using hq
    rw [issueAlone_skips rfl hr w (by rw [hiq]; exact hq') (hprof hh), if_neg hq, if_neg hq]
    congr 1
    apply issued_congr
    unfold Form.run
    rw [if_neg hq]

theorem runs_unchecked (w : Word) (s : State) (n : Nat) (F : Form) (hc : F.can (s.agent n))
    (prof : w.prof { ctl := isCtl n, mode := (s.agent n).mode } = true)
    (priv : w.priv s n = false) (perm : w.perm s n = false) (hold : w.hold = .none)
    (chk : w.chk s n = none) (late : w.late = none) (cmd : w.cmd = F.cmds) (sto : w.sto = F.stores) (ops : w.ops = F.ops)
    (push : w.pushes = F.push) (nd : F.push.Nodup) : w.Runs s n := by
  obtain ⟨-, h1, h2, h3, h4⟩ := hc
  refine ⟨prof, priv, perm, ?_, ?_, chk, ?_, ?_, late, ?_, ?_⟩
  · intro t h; rw [hold] at h; cases h
  · rw [hold]; exact fun h => by cases h
  · rw [cmd]; exact h3
  · rw [sto]; exact h4
  · rw [ops]; exact h1
  · intro q hq
    rw [push] at hq ⊢
    rw [ops]
    have := h2 q hq
    unfold Agent.room at this
    rw [List.count_eq_one_of_mem nd hq]
    omega

theorem runs_of_can (w : Word) (s : State) (n : Nat) (F : Form) (hc : F.can (s.agent n))
    (prof : w.prof { ctl := isCtl n, mode := (s.agent n).mode } = true)
    (priv : w.priv s n = false) (perm : w.perm s n = false) (free : ∀ t, w.hold = .tile t → (s.agent n).busy t = false)
    (planes : w.hold ≠ .planes)
    (chk : w.chk s n = none) (late : w.late = none) (cmd : w.cmd = F.cmds) (sto : w.sto = F.stores) (ops : w.ops = F.ops)
    (push : w.pushes = F.push) (nd : F.push.Nodup) : w.Runs s n := by
  obtain ⟨-, h1, h2, h3, h4⟩ := hc
  refine ⟨prof, priv, perm, free, planes, chk, ?_, ?_, late, ?_, ?_⟩
  · rw [cmd]; exact h3
  · rw [sto]; exact h4
  · rw [ops]; exact h1
  · intro q hq
    rw [push] at hq ⊢
    rw [ops]
    have := h2 q hq
    unfold Agent.room at this
    rw [List.count_eq_one_of_mem nd hq]
    omega

theorem profCore {a : Agent} {n k : Nat} (_ : k = 3 ∨ k = 4 ∨ k = 5 ∨ k = 6) (h : onCore a n) : profBase k { ctl := isCtl n, mode := a.mode } = true := by
  obtain ⟨h1, h2⟩ := h
  unfold profBase isCtl; rw [h2]; simp; omega

theorem profUser {a : Agent} {n : Nat} (h : a.mode ≠ .super) : profBase 7 { ctl := isCtl n, mode := a.mode } = true := by
  unfold profBase; cases hm : a.mode <;> simp_all

theorem profCoreUser {a : Agent} {n : Nat} (h : coreOnly7 a n) : coreOnly { ctl := isCtl n, mode := a.mode } = true := by
  unfold coreOnly; rw [profUser h.1]; have := h.2; simp [isCtl]; omega

theorem and63_toNat (y : W64) : (y &&& 63#64).toNat = y.toNat % 64 := by
  rw [BitVec.toNat_and]
  exact Nat.and_two_pow_sub_one_eq_mod y.toNat 6

theorem and31_toNat (y : W32) : (y &&& 31#32).toNat = y.toNat % 32 := by
  rw [BitVec.toNat_and]
  exact Nat.and_two_pow_sub_one_eq_mod y.toNat 5

theorem writesS_says (i : Instr) (s : State) (iq : BitVec 2) (lat : Nat) (d : BitVec 5) (v : Agent → W64) (u : Agent → W64)
    (h : exec i s = issueAlone (sWord iq d lat u) s) (huv : ∀ a, u a = v a) : (writesS iq lat d v).Says i s := by
  refine form_says _ i s (sWord iq d lat u) h rfl (fun _ => prof1 _)
    (fun _ hc => runs_unchecked _ s _ _ hc (prof1 _) rfl rfl rfl rfl rfl rfl rfl rfl rfl (by simp [writesS]))
    ⟨⟨rfl, rfl⟩, fun a h => by simp [sWord, Word.base] at h⟩ ?_ rfl rfl rfl
  simp [Word.effect, sWord, Word.base, writesS, huv, Agent.popAll, Agent.taken, Word.pops]

theorem writesA_says (i : Instr) (s : State) (iq : BitVec 2) (d : BitVec 4) (v : Agent → W64)
    (h : exec i s = issueAlone (aWord iq d v) s) : (writesA iq d v).Says i s := by
  refine form_says _ i s (aWord iq d v) h rfl (fun _ => prof1 _)
    (fun _ hc => runs_unchecked _ s _ _ hc (prof1 _) rfl rfl rfl rfl rfl rfl rfl rfl rfl (by simp [writesA]))
    ⟨⟨rfl, rfl⟩, fun a h => by simp [aWord, Word.base] at h⟩ ?_ rfl rfl rfl
  simp [Word.effect, aWord, Word.base, writesA, Agent.popAll, Agent.taken, Word.pops]

theorem seqStep_keeps (a : Agent) : a.seqStep.mode = a.mode ∧ a.seqStep.r.repn = a.r.repn := by
  obtain ⟨_, _, _, _, _, _, h⟩ := LoopOnly.seqStep a
  rw [h]; exact ⟨rfl, rfl⟩

theorem bumps_keep (ar pi k pre) (a : Agent) : (bumps ar pi k pre a).mode = a.mode ∧ (bumps ar pi k pre a).r = a.r := by
  unfold bumps; split <;> exact ⟨rfl, rfl⟩

theorem postInc_eq (ar pi k s n a) : postInc ar pi k s n a = bumps ar pi k (s.agent n) a := rfl

theorem drawRsr_keep (a : Agent) : a.drawRsr.mode = a.mode ∧ a.drawRsr.r.repn = a.r.repn := by
  unfold Agent.drawRsr; split <;> exact ⟨rfl, rfl⟩

theorem swapShape_keeps (a : Agent) (sl h) : (a.swapShape sl h).mode = a.mode ∧ (a.swapShape sl h).r.repn = a.r.repn := ⟨rfl, rfl⟩

theorem exchanged_keeps (sw hs) (a : Agent) : (exchanged sw hs a).mode = a.mode ∧ (exchanged sw hs a).r.repn = a.r.repn := by
  unfold exchanged; split
  · induction hs generalizing a with
    | nil => exact ⟨rfl, rfl⟩
    | cons x xs ih => exact ⟨(ih _).1, (ih _).2⟩
  · exact ⟨rfl, rfl⟩

theorem addrRefuses_none (va : W64) (al len : Nat) : addrRefuses va al len = none ↔ (va.toNat % al = 0 ∧ windowRefuses va len = none) := by
  unfold addrRefuses
  by_cases h : va.toNat % al = 0 <;> simp [h]

theorem vec_says (i : Instr) (s : State) (iq lat vd md ops) (mask : Agent → Vec) (val : State → Nat → Agent → Vec) (after : Agent → Agent)
    (m x : Vec) (w : Word) (hi : exec i s = issueAlone w s)
    (hw : w = { vecWord iq lat vd md ops mask val with act := fun s n b => after ((vecWord iq lat vd md ops mask val).act s n b) })
    (ha : ∀ a, (after a).mode = a.mode ∧ (after a).r.repn = a.r.repn)
    (hm : mask (s.agent s.cur.toNat) = m) (hx : val s s.cur.toNat (s.agent s.cur.toNat) = x) :
    (vec (s.agent s.cur.toNat) s.cur.toNat iq lat vd md ops m x after).Says i s := by
  subst hw hm hx
  by_cases hmd : md = 1
  · subst hmd
    refine form_says _ i s _ hi (by simp [vecWord, vec, Word.base]) (fun hh => by simpa [vecWord, Word.base] using profCore (k := 5) (by simp) hh)
      (fun hh hc => runs_unchecked _ s _ _ hc (by simpa [vecWord, Word.base] using profCore (k := 5) (by simp) hh) (by simp [vecWord, Word.base]) (by simp [vecWord, Word.base]) (by simp [vecWord, Word.base]) (by simp [vecWord, Word.base]) (by simp [vecWord, Word.base]) (by simp [vecWord, vec, Word.base]) (by simp [vecWord, vec, Word.base]) (by simp [vecWord, vec, Word.base]) (by simp [vecWord, vec, Word.base, low4]) (by simp [vec]))
      ⟨?_, fun a h => by simp [vecWord, Word.base] at h⟩ ?_ (by simp [vecWord, Word.base]) (by simp [vecWord, vec, Word.base]) (by simp [vecWord, vec, Word.base])
    · simp [vecWord]; exact ⟨(ha _).1, (ha _).2⟩
    · simp [Word.effect, vecWord, Word.base, vec, Agent.popAll, Agent.taken, Word.pops, low4]
  · have hmd : ¬ md = 1#2 := hmd
    refine form_says _ i s _ hi (by simp [vecWord, vec, Word.base, hmd]) (fun hh => by simpa [vecWord, Word.base, hmd] using profCore (k := 5) (by simp) hh)
      (fun hh hc => runs_unchecked _ s _ _ hc (by simpa [vecWord, Word.base, hmd] using profCore (k := 5) (by simp) hh) (by simp [vecWord, Word.base, hmd]) (by simp [vecWord, Word.base, hmd]) (by simp [vecWord, Word.base, hmd]) (by simp [vecWord, Word.base, hmd]) (by simp [vecWord, Word.base, hmd]) (by simp [vecWord, vec, Word.base, hmd]) (by simp [vecWord, vec, Word.base, hmd]) (by simp [vecWord, vec, Word.base, hmd]) (by simp [vecWord, vec, Word.base, low4, hmd]) (by simp [vec, hmd]))
      ⟨?_, fun a h => by simp [vecWord, Word.base, hmd] at h⟩ ?_ (by simp [vecWord, Word.base, hmd]) (by simp [vecWord, vec, Word.base, hmd]) (by simp [vecWord, vec, Word.base, hmd])
    · simp [vecWord, hmd]; exact ⟨(ha _).1, (ha _).2⟩
    · simp [Word.effect, vecWord, Word.base, vec, Agent.popAll, Agent.taken, Word.pops, low4, hmd]

theorem vector_says (F : Form) (i : Instr) (s : State) (w : Word) (hi : exec i s = issueAlone w s)
    (hb : w = { Word.base 5 F.iq with ops := F.ops, writes := w.writes, act := w.act })
    (hF : F = { iq := F.iq, held := onCore (s.agent s.cur.toNat) s.cur.toNat, ops := F.ops, act := F.act })
    (ha : w.act s s.cur.toNat (s.agent s.cur.toNat) = F.act (s.agent s.cur.toNat))
    (hk : (F.act (s.agent s.cur.toNat)).mode = (s.agent s.cur.toNat).mode ∧ (F.act (s.agent s.cur.toNat)).r.repn = (s.agent s.cur.toNat).r.repn) : F.Says i s := by
  rw [hF] at *
  refine form_says _ i s w hi (by rw [hb]; rfl) (fun hh => by rw [hb]; exact profCore (k := 5) (by simp) hh)
      (fun hh hc => runs_unchecked _ s _ _ hc (by rw [hb]; exact profCore (k := 5) (by simp) hh) (by rw [hb]; rfl) (by rw [hb]; rfl) (by rw [hb]; rfl) (by rw [hb]; rfl) (by rw [hb]; rfl) (by rw [hb]; rfl) (by rw [hb]; rfl) (by rw [hb]) (by rw [hb]; rfl) (by simp))
      ⟨by rw [ha]; exact hk, fun a h => by rw [hb] at h; simp [Word.base] at h⟩ ?_ (by rw [hb]; rfl) (by rw [hb]; rfl) (by rw [hb]; rfl)
  unfold Word.effect
  rw [ha, hb]
  simp [Word.base, Agent.popAll, Agent.taken, Word.pops]

end Sys2Proof.Spec
end

