-- ==== Sys2Proof/Laws/Store.lean ====
section
/-!
SUPPORT. Bytes, numbers and memory: a read gives what was written, a write changes nothing else, and every operation on memory keeps its
canonical form.
-/

namespace Sys2Proof.Machine

/-! ## Numbers and their bytes (00 R6) -/

@[simp] theorem bytesOfNat_length (k x : Nat) : (bytesOfNat k x).length = k := by
  induction k generalizing x with
  | zero => rfl
  | succ k ih => simp [bytesOfNat, ih]

@[simp] theorem le_length (k x : Nat) : (le k x).length = k := bytesOfNat_length k x

@[simp] theorem bytesOf_length {w : Nat} (x : BitVec w) (k : Nat) : (bytesOf x k).length = k := bytesOfNat_length k _

/-- A number back from its bytes. -/
@[simp] theorem natOfBytes_bytesOfNat (k x : Nat) : natOfBytes (bytesOfNat k x) = x % 256 ^ k := by
  induction k generalizing x with
  | zero => simp [bytesOfNat, natOfBytes, Nat.mod_one]
  | succ k ih =>
    have h : x % 256 ^ (k + 1) = x % 256 + 256 * (x / 256 % 256 ^ k) := by rw [Nat.pow_succ', Nat.mod_mul]
    rw [h, bytesOfNat, natOfBytes, ih, BitVec.toNat_ofNat]

theorem natOfBytes_le (k x : Nat) : natOfBytes (le k x) = x % 256 ^ k := natOfBytes_bytesOfNat k x

/-- A field in front of a list. -/
theorem numAt_here (k x : Nat) (bs : List Byte) : numAt (le k x ++ bs) 0 k = x % 256 ^ k := by
  unfold numAt
  rw [List.drop_zero, List.take_left' (by simp), natOfBytes_le]

/-- A field behind the first part of a list. -/
theorem numAt_skip (k : Nat) (as bs : List Byte) (o : Nat) (h : as.length ≤ o) : numAt (as ++ bs) o k = numAt bs (o - as.length) k := by
  unfold numAt
  rw [List.drop_append, List.drop_eq_nil_of_le h, List.nil_append]

/-! ## Memory -/

/-- A byte inside a write. -/
theorem read_write_in (m : Memory) (a : Nat) (bs : List Byte) (j : Nat) (h : j < bs.length) : (m.write a bs).read (a + j) = bs[j] :=
  Tab.get_setRange_in _ _ _ _ _ h

/-- A byte outside a write. -/
theorem read_write_out (m : Memory) (a : Nat) (bs : List Byte) (x : Nat) (h : x < a ∨ a + bs.length ≤ x) :
    (m.write a bs).read x = m.read x :=
  Tab.get_setRange_out _ _ _ _ _ h

/-- The bytes of a part of a write. -/
theorem bytes_write (m : Memory) (a : Nat) (bs : List Byte) (o k : Nat) (h : o + k ≤ bs.length) :
    (m.write a bs).bytes (a + o) k = (bs.drop o).take k := by
  induction k generalizing o with
  | zero => simp [Memory.bytes]
  | succ k ih =>
    have ho : o < bs.length := by omega
    rw [List.drop_eq_getElem_cons ho, List.take_succ_cons, Memory.bytes, read_write_in _ _ _ _ ho, Nat.add_assoc, ih (o + 1) (by omega)]

/-- A number in a part of a write. -/
theorem num_write (m : Memory) (a : Nat) (bs : List Byte) (o k : Nat) (h : o + k ≤ bs.length) : (m.write a bs).num (a + o) k = numAt bs o k := by
  unfold Memory.num numAt
  rw [bytes_write _ _ _ _ _ h]

/-- A write keeps the canonical form. -/
theorem write_wf {m : Memory} (h : m.wf = true) (a : Nat) (bs : List Byte) : (m.write a bs).wf = true := Tab.setRange_wf _ _ _ _ h

/-- So does a selection. -/
theorem filter_wf {m : Memory} (h : m.wf = true) (p : Nat × Byte → Bool) : Memory.wf (m.filter p) = true := Tab.filter_wf _ _ _ h

/-! ## A plain write -/

/-- A write touches memory, poison and cell status, and what it does as an access: the host's lines and the activated rows. -/
theorem put_only (s : State) (a : Nat) (bs : List Byte) :
    let t := s.put a bs
    t = { s with mem := t.mem, poison := t.poison, wcStatus := t.wcStatus, hostLines := t.hostLines, activated := t.activated } := rfl

/-- An access by itself touches the host's lines and the activated rows alone. -/
theorem touch_only (s : State) (a k : Nat) :
    s.touch a k = { s with hostLines := (s.touch a k).hostLines, activated := (s.touch a k).activated } := rfl

theorem touch_trans {s t u : State} (h : t = { s with hostLines := t.hostLines, activated := t.activated })
    (k : u = { t with hostLines := u.hostLines, activated := u.activated }) :
    u = { s with hostLines := u.hostLines, activated := u.activated } := k.trans (by rw [h])

theorem touches_only (s : State) (ps : List (Nat × Nat)) (f : Nat × Nat → Nat) :
    let t := ps.foldl (fun t p => t.touch (f p) p.2) s
    t = { s with hostLines := t.hostLines, activated := t.activated } := by
  induction ps generalizing s with
  | nil => rfl
  | cons p ps ih => exact touch_trans (touch_only s (f p) p.2) (ih (s.touch (f p) p.2))

theorem touchVa_only (s : State) (n : Nat) (q : Option (BitVec 20)) (va len : Nat) :
    let t := s.touchVa n q va len
    t = { s with hostLines := t.hostLines, activated := t.activated } := touches_only s _ _

/-- So does the reading of a record (13 R286). -/
theorem touchRecord_only (s : State) (n : Nat) (h : BitVec 512) :
    let t := s.touchRecord n h
    t = { s with hostLines := t.hostLines, activated := t.activated } := by
  dsimp only
  unfold State.touchRecord
  generalize recordParts h = l
  induction l generalizing s with
  | nil => rfl
  | cons x l ih => exact touch_trans (touchVa_only s n none x.1.toNat x.2) (ih _)

@[simp] theorem touch_mem (s : State) (a k : Nat) : (s.touch a k).mem = s.mem := rfl
@[simp] theorem touch_quarantined (s : State) (a k : Nat) : (s.touch a k).quarantined = s.quarantined := rfl

theorem put_trans {s t u : State}
    (h : t = { s with mem := t.mem, poison := t.poison, wcStatus := t.wcStatus, hostLines := t.hostLines, activated := t.activated })
    (k : u = { t with mem := u.mem, poison := u.poison, wcStatus := u.wcStatus, hostLines := u.hostLines, activated := u.activated }) :
    u = { s with mem := u.mem, poison := u.poison, wcStatus := u.wcStatus, hostLines := u.hostLines, activated := u.activated } :=
  k.trans (by rw [h])

/-- With no quarantine the bytes stand in memory. -/
theorem put_mem (s : State) (a : Nat) (bs : List Byte) (h : s.quarantined = []) : (s.put a bs).mem = s.mem.write a bs := by
  unfold State.put clearWide clearPoison State.store
  simp [h]

@[simp] theorem liveBytes_length (s : State) (a : Nat) (bs : List Byte) : (liveBytes s a bs).length = bs.length := by
  induction bs generalizing a with
  | nil => rfl
  | cons b bs ih => simp [liveBytes, ih]

/-- A byte outside a write stays. -/
theorem put_out (s : State) (a : Nat) (bs : List Byte) (x : Nat) (h : x < a ∨ a + bs.length ≤ x) :
    (s.put a bs).mem.read x = s.mem.read x := by
  unfold State.put clearWide clearPoison State.store
  simp only
  split
  · exact read_write_out _ _ _ _ h
  · exact read_write_out _ _ _ _ (by simpa using h)

theorem put_wf {s : State} (h : s.Inv) (a : Nat) (bs : List Byte) : (s.put a bs).Inv := write_wf h _ _

theorem store_wf {s : State} (h : s.Inv) (a : Nat) (bs : List Byte) : (s.store a bs).Inv := write_wf h _ _

/-- A page-wise write likewise. -/
theorem vaPut_only (s : State) (n : Nat) (q : Option (BitVec 20)) (va : Nat) (bs : List Byte) :
    let t := s.vaPut n q va bs
    t = { s with mem := t.mem, poison := t.poison, wcStatus := t.wcStatus, hostLines := t.hostLines, activated := t.activated } := by
  unfold State.vaPut
  split
  · exact put_only s _ _
  · exact put_trans (put_only s _ _) (put_only _ _ _)

theorem vaPut_wf {s : State} (h : s.Inv) (n : Nat) (q : Option (BitVec 20)) (va : Nat) (bs : List Byte) : (s.vaPut n q va bs).Inv := by
  unfold State.vaPut
  split
  · exact put_wf h _ _
  · exact put_wf (put_wf h _ _) _ _

theorem puts_only (s : State) (ps : List (Nat × Nat)) (f : Nat × Nat → Nat) (g : Nat × Nat → List Byte) :
    let t := ps.foldl (fun t p => t.put (f p) (g p)) s
    t = { s with mem := t.mem, poison := t.poison, wcStatus := t.wcStatus, hostLines := t.hostLines, activated := t.activated } := by
  induction ps generalizing s with
  | nil => rfl
  | cons p ps ih => exact put_trans (put_only s (f p) (g p)) (ih (s.put (f p) (g p)))

theorem vaStore_only (s : State) (n : Nat) (q : Option (BitVec 20)) (va : Nat) (bs : List Byte) :
    let t := s.vaStore n q va bs
    t = { s with mem := t.mem, poison := t.poison, wcStatus := t.wcStatus, hostLines := t.hostLines, activated := t.activated } :=
  puts_only s _ _ _

theorem vaStore_wf {s : State} (h : s.Inv) (n : Nat) (q : Option (BitVec 20)) (va : Nat) (bs : List Byte) : (s.vaStore n q va bs).Inv := by
  unfold State.vaStore
  generalize pagePieces va bs.length = ps
  have : ∀ (ps : List (Nat × Nat)) (t : State), t.Inv →
      (ps.foldl (fun t p => t.put (s.storage n q p.1) ((bs.drop (p.1 - va)).take p.2)) t).Inv := by
    intro ps
    induction ps with
    | nil => exact fun _ ht => ht
    | cons p ps ih => exact fun t ht => ih _ (put_wf ht _ _)
  exact this ps s h

/-- A pitch's bytes become zero. -/
theorem clearStore_wf {s : State} (h : s.Inv) (t u b l : Nat) : (s.clearStore t u b l).Inv := by
  unfold State.clearStore State.Inv
  simp only
  split
  · exact filter_wf h _
  · split <;> exact filter_wf h _

end Sys2Proof.Machine
end

