-- ==== Sys2Proof/Laws/Keeps.lean ====
section
/-!
SUPPORT. Which operations leave memory alone, and that the others keep its canonical form: one lemma per operation, so that a proof
about memory cites it and unfolds nothing. `<operation>_mem`: memory stays; `<operation>_wf`: its canonical form stays.
-/

namespace Sys2Proof.Machine

/-! ## Folds, and what an answer carries -/

theorem foldl_mem {α : Type} (f : State → α → State) (hf : ∀ t x, (f t x).mem = t.mem) (l : List α) (s : State) :
    (l.foldl f s).mem = s.mem := by
  induction l generalizing s with
  | nil => rfl
  | cons x l ih => rw [List.foldl_cons, ih, hf]

theorem foldl_wf {α : Type} (f : State → α → State) (hf : ∀ t x, t.mem.wf = true → (f t x).mem.wf = true) (l : List α) (s : State)
    (h : s.mem.wf = true) : (l.foldl f s).mem.wf = true := by
  induction l generalizing s with
  | nil => exact h
  | cons x l ih => exact ih _ (hf _ _ h)

/-- The state that the service of a request leaves. -/
def Served.state : Served → State
  | .wait t => t
  | .done t _ _ => t
  | .later t => t

/-- The state that a reply of Genay leaves. -/
def Reply.stateOr (s : State) : Reply → State
  | .wait => s
  | .answer t _ => t

@[simp] theorem Served.state_wait (t : State) : (Served.wait t).state = t := rfl
@[simp] theorem Served.state_done (t : State) (c : Byte) (v : W64) : (Served.done t c v).state = t := rfl
@[simp] theorem Served.state_later (t : State) : (Served.later t).state = t := rfl
@[simp] theorem Reply.stateOr_wait (s : State) : Reply.stateOr s .wait = s := rfl
@[simp] theorem Reply.stateOr_answer (s t : State) (v : W64) : Reply.stateOr s (.answer t v) = t := rfl

/-- An intermediate state under a name of its own, of which no more is known than its memory: what computed it is not unfolded again. -/
theorem named_mem {s : State} (x : State) (h : x.mem = s.mem) : ∃ u, x = u ∧ u.mem = s.mem := ⟨x, rfl, h⟩

theorem named_wf (x : State) (h : x.mem.wf = true) : ∃ u, x = u ∧ u.mem.wf = true := ⟨x, rfl, h⟩

/-! ## The operations -/

@[simp] theorem State.touchVa_mem (s : State) (n : Nat) (q : Option (BitVec 20)) (va len : Nat) : (s.touchVa n q va len).mem = s.mem := by
  rw [touchVa_only]

@[simp] theorem State.touchFor_mem (s : State) (w : Who) (va : W64) (len : Nat) : (s.touchFor w va len).mem = s.mem := State.touchVa_mem _ _ _ _ _

@[simp] theorem State.touchRecord_mem (s : State) (n : Nat) (h : BitVec 512) : (s.touchRecord n h).mem = s.mem :=
  foldl_mem _ (fun _ _ => State.touchVa_mem _ _ _ _ _) _ _

@[simp] theorem State.touchDep_mem (s : State) (n : Nat) (w : Who) (h : BitVec 512) : (s.touchDep n w h).mem = s.mem := by
  unfold State.touchDep
  split <;> simp

@[simp] theorem State.touchAll_mem (s : State) (n : Nat) (q : Option (BitVec 20)) (es : List Elem) : (s.touchAll n q es).mem = s.mem :=
  foldl_mem _ (fun _ _ => State.touchVa_mem _ _ _ _ _) _ _

@[simp] theorem State.touchReads_mem (s : State) (n : Nat) (w : Who) (xs : List (Spot × Nat)) : (s.touchReads n w xs).mem = s.mem :=
  State.touchAll_mem _ _ _ _

@[simp] theorem State.advancePass_mem (s : State) (t : TaskSet) (x : LoomTask) : (s.advancePass t x).mem = s.mem := by
  unfold State.advancePass
  split <;> rfl

@[simp] theorem State.settlePass_mem (s : State) (ts j : Nat) : (s.settlePass ts j).mem = s.mem := by
  unfold State.settlePass
  dsimp only
  repeat' split
  all_goals simp

@[simp] theorem State.settleSet_mem (s : State) (ts : Nat) (t : TaskSet) : (s.settleSet ts t).mem = s.mem :=
  foldl_mem _ (fun _ _ => State.settlePass_mem _ _ _) _ _

@[simp] theorem State.writeTable_mem (s : State) (node : BitVec 16) (e : Option LaunchEntry) : (s.writeTable node e).mem = s.mem := by
  unfold State.writeTable
  split <;> rfl

@[simp] theorem State.followLead_mem (s : State) (ms : List Nat) : (s.followLead ms).mem = s.mem := by
  unfold State.followLead
  refine foldl_mem _ (fun t m => ?_) _ _
  rfl

@[simp] theorem State.dropLoads_mem (s : State) (n : Nat) : (s.dropLoads n).mem = s.mem := rfl

@[simp] theorem State.gather_mem (s : State) (t : Arrival) : (s.gather t).mem = s.mem := by
  unfold State.gather
  dsimp only
  repeat' split
  all_goals simp

@[simp] theorem State.posted_mem (s : State) (qp : BitVec 10) (f : Nat → Nat) : (s.posted qp f).mem = s.mem := rfl

@[simp] theorem State.joinPass_mem (s : State) (part : Nat) (acct : Nat) : (s.joinPass part acct).mem = s.mem := by
  unfold State.joinPass
  dsimp only
  repeat' split
  all_goals simp

@[simp] theorem State.farFail_mem (s : State) (n : Nat) (w : Who) (c : Byte) (va : W64) : (s.farFail n w c va).mem = s.mem := by
  unfold State.farFail
  dsimp only
  repeat' split
  all_goals simp

@[simp] theorem State.movedIn_mem (s : State) (acct : BitVec 10) (tier : Option Nat) (k : Nat) : (s.movedIn acct tier k).mem = s.mem := by
  unfold State.movedIn
  split <;> rfl

theorem State.store_wf (s : State) (a : Nat) (bs : List Byte) (h : s.mem.wf = true) : (s.store a bs).mem.wf = true := Machine.store_wf h a bs

@[simp] theorem clearWide_mem (s : State) (a : Nat) (k : Nat) : (clearWide s a k).mem = s.mem := rfl

@[simp] theorem clearPoison_mem (s : State) (a : Nat) (k : Nat) : (clearPoison s a k).mem = s.mem := rfl

theorem State.put_wf (s : State) (a : Nat) (bs : List Byte) (h : s.mem.wf = true) : (s.put a bs).mem.wf = true := by
  unfold State.put
  simp [State.store_wf, h]

theorem State.vaStore_wf (s : State) (n : Nat) (q : Option (BitVec 20)) (va : Nat) (bs : List Byte)
    (h : s.mem.wf = true) : (s.vaStore n q va bs).mem.wf = true := by
  unfold State.vaStore
  repeat' first
    | with_reducible assumption
    | with_reducible apply State.put_wf
    | with_reducible apply foldl_wf
    | intro _

theorem State.storeElems_wf (n : Nat) (w : Who) (bs : List Byte) (es : List Elem) (s : State) (h : s.mem.wf = true) :
    (State.storeElems n w bs es s).mem.wf = true := by
  induction es generalizing s with
  | nil => exact h
  | cons e es ih =>
    unfold State.storeElems
    split
    · exact ih _ h
    · split
      · rw [State.farFail_mem]; exact h
      · exact ih _ (by rw [State.movedIn_mem]; exact State.vaStore_wf _ _ _ _ _ h)

@[simp] theorem State.servePartition_mem (r : Req) (s : State) : (State.servePartition r s).state.mem = s.mem := by
  unfold State.servePartition
  dsimp only
  repeat' split
  all_goals simp

@[simp] theorem State.book_mem (s : State) (ts : Nat) (x : Nat) : (s.book ts x).mem = s.mem := rfl

@[simp] theorem State.makeReady_mem (s : State) (ts : Nat) : (s.makeReady ts).mem = s.mem := by
  unfold State.makeReady
  split <;> simp

@[simp] theorem State.spdm_mem (s : State) (q : BitVec 6) (k : Byte) : (s.spdm q k).mem = s.mem := by
  unfold State.spdm
  split <;> rfl

@[simp] theorem State.qpRecordWrite_mem (s : State) (qp : BitVec 10) (x : BitVec 512) : (s.qpRecordWrite qp x).mem = s.mem := by
  unfold State.qpRecordWrite
  dsimp only
  repeat' split
  all_goals simp

@[simp] theorem State.keepCode_mem (s : State) (t : Transit) : (s.keepCode t).mem = s.mem := by
  unfold State.keepCode
  split <;> rfl

@[simp] theorem State.revertPoison_mem (s : State) (n : Nat) (a : Agent) : (s.revertPoison n a).mem = s.mem := rfl

@[simp] theorem State.dropMail_mem (s : State) (acct : BitVec 10) (l : Nat) : (s.dropMail acct l).mem = s.mem := by
  unfold State.dropMail
  split <;> rfl

@[simp] theorem State.modPages_mem (s : State) (first : Nat) (count : Nat) (f : Nat → Page → Page) :
    (s.modPages first count f).mem = s.mem := rfl

@[simp] theorem State.hop_mem (s : State) (k : Nat) : (s.hop k).mem = s.mem := by
  unfold State.hop
  repeat' split
  all_goals rfl

theorem State.putRow_wf (s : State) (n : Nat) (k : Nat) (x : Vec) (h : s.mem.wf = true) : (s.putRow n k x).mem.wf = true := by
  unfold State.putRow
  simp [State.put_wf, h]

@[simp] theorem State.csrPut_mem (s : State) (n : Nat) (c : BitVec 12) (v : W64) : (s.csrPut n c v).mem = s.mem := by
  unfold State.csrPut
  cases h : s.partOf n <;> simp only [apply_ite State.mem, State.setAgent_mem, ite_self]

theorem State.land_wf (s : State) (n : Nat) (x : Res) (h : s.mem.wf = true) : (s.land n x).mem.wf = true := by
  unfold State.land
  split <;> simp [State.putRow_wf, h]

theorem State.drainFlights_wf (s : State) (n k : Nat) (h : s.mem.wf = true) : (s.drainFlights n k).mem.wf = true := by
  induction k generalizing s with
  | zero => exact h
  | succ k ih =>
    unfold State.drainFlights
    split
    · exact h
    · exact ih _ (State.land_wf _ _ _ h)

@[simp] theorem State.deliver_mem (s : State) (n : Nat) (w : Who) (q : BitVec 4) (x : Vec) (pitches : List Nat) (trap : Option
    (Byte × W64)) : (s.deliver n w q x pitches trap).mem = s.mem := rfl

theorem State.fwReset_wf (s : State) (h : s.mem.wf = true) : s.fwReset.mem.wf = true := filter_wf h _

@[simp] theorem State.patrolScrub_mem (s : State) (line : Nat) : (s.patrolScrub line).mem = s.mem := by
  unfold State.patrolScrub
  split <;> rfl

@[simp] theorem mergeSaved_mem (s : State) (a : Nat) (b : Byte) : (mergeSaved s a b).mem = s.mem := by
  unfold mergeSaved
  repeat' split
  all_goals rfl

@[simp] theorem mergeBytes_mem (s : State) (a : Nat) (bs : List Byte) : (mergeBytes s a bs).mem = s.mem := by
  induction bs generalizing s a with
  | nil => rfl
  | cons b bs ih => rw [mergeBytes, ih, mergeSaved_mem]

@[simp] theorem State.acknowledge_mem (s : State) (work : Option Nat) (node : BitVec 16) (cc : Byte) :
    (s.acknowledge work node cc).mem = s.mem := by
  unfold State.acknowledge
  split <;> rfl

@[simp] theorem State.serveStage_mem (q : BitVec 6) (r : Req) (s : State) : (State.serveStage q r s).state.mem = s.mem := by
  unfold State.serveStage
  dsimp only
  repeat' split
  all_goals simp

@[simp] theorem State.dropReads_mem (s : State) (n : Nat) (w : Who) (wb : List Cmd) : (s.dropReads n w wb).mem = s.mem := rfl

theorem State.revertRows_wf (s : State) (n : Nat) (t : Tab (Option Vec)) (h : s.mem.wf = true) : (s.revertRows n t).mem.wf = true := by
  unfold State.revertRows
  repeat' first
    | with_reducible assumption
    | with_reducible apply State.store_wf
    | with_reducible apply foldl_wf
    | split
    | intro _

theorem State.drain_wf (s : State) (n : Nat) (h : s.mem.wf = true) : (s.drain n).mem.wf = true := by
  unfold State.drain
  simp [State.drainFlights_wf, h]

@[simp] theorem State.sendElement_mem (s : State) (r : Running) (i : Nat) (m : Micro) (p : Spot × Nat) (rest : List (Nat × Micro)) :
    (s.sendElement r i m p rest).mem = s.mem := by
  unfold State.sendElement
  dsimp only
  repeat' split
  all_goals rfl

@[simp] theorem State.fileRequest_mem (s : State) (n : Nat) (d : BitVec 5) (cyc : Nat) (req : BitVec 512) :
    (s.fileRequest n d cyc req).mem = s.mem := by
  unfold State.fileRequest
  dsimp only
  repeat' split
  all_goals simp

@[simp] theorem State.fetched_mem (s : State) (n : Nat) (w : Who) (q : Option (BitVec 4)) (x : Vec) : (s.fetched n w q x).mem = s.mem := by
  unfold State.fetched
  split <;> rfl

theorem State.applyWork_wf (s : State) (n : Nat) (e : BitVec 512) (data : List Byte)
    (h : s.mem.wf = true) : (s.applyWork n e data).mem.wf = true := by
  unfold State.applyWork
  split <;> simp [State.vaStore_wf, h]

theorem State.putArmWord_wf (s : State) (va : Nat) (k : Nat) (x : Nat) (h : s.mem.wf = true) : (s.putArmWord va k x).mem.wf = true := by
  unfold State.putArmWord
  simp [State.put_wf, h]

theorem State.takeRequests_wf (s : State) (w : Work) (h : s.mem.wf = true) : (s.takeRequests w).1.mem.wf = true := by
  unfold State.takeRequests
  simp [State.vaStore_wf, h]

@[simp] theorem State.fabricBytes_mem (s : State) (acct : BitVec 10) (k : Nat) : (s.fabricBytes acct k).mem = s.mem := rfl

theorem State.handWork_wf (s : State) (w : Work) (h : s.mem.wf = true) : (s.handWork w).1.mem.wf = true := by
  unfold State.handWork
  dsimp only
  repeat' split
  all_goals simp [State.takeRequests_wf, h]

theorem State.hand_wf (s : State) (k : Nat) (h : s.mem.wf = true) : (s.hand k).mem.wf = true := by
  unfold State.hand
  split <;> simp [State.handWork_wf, h]

@[simp] theorem State.armEvent_mem (s : State) (va : Nat) (b : Nat) : (s.armEvent va b).mem = s.mem := by
  unfold State.armEvent
  repeat' split
  all_goals rfl

theorem State.fire_wf (s : State) (va : Nat) (h : s.mem.wf = true) : (s.fire va).mem.wf = true := by
  unfold State.fire
  repeat' first
    | with_reducible assumption
    | with_reducible apply State.putArmWord_wf
    | with_reducible apply State.hand_wf
    | with_reducible apply foldl_wf
    | simp only [State.armEvent_mem]
    | split

theorem State.credit_wf (s : State) (va : Nat) (k : Nat) (h : s.mem.wf = true) : (s.credit va k).mem.wf = true := by
  unfold State.credit
  simp [State.fire_wf, State.putArmWord_wf, h]

theorem State.creditAs_wf (s : State) (n : Nat) (w : Who) (va : W64) (k : Nat)
    (h : s.mem.wf = true) : (s.creditAs n w va k).mem.wf = true := by
  unfold State.creditAs
  repeat' split
  all_goals simp [State.credit_wf, h]

theorem State.performWork_wf (s : State) (n : Nat) (q : QPair) (e : BitVec 512) (data : List Byte) (work : Option Nat)
    (node : BitVec 16) (h : s.mem.wf = true) : (s.performWork n q e data work node).mem.wf = true := by
  unfold State.performWork
  simp [State.applyWork_wf, State.creditAs_wf, h]

theorem State.drainHeld_wf (n : Nat) (e : BitVec 512) (k : Nat) (r : Reduction) (s : State) (h : s.mem.wf = true) :
    (State.drainHeld n e k r s).1.mem.wf = true := by
  induction k generalizing r s with
  | zero => exact h
  | succ k ih =>
    unfold State.drainHeld
    split
    · exact h
    · refine ih _ _ ?_
      split
      · rw [State.acknowledge_mem]; exact h
      · exact State.performWork_wf _ _ _ _ _ _ _ h

@[simp] theorem State.inheritStop_mem (s : State) (n : Nat) (m : Nat) (w : Who) : (s.inheritStop n m w).mem = s.mem := by
  unfold State.inheritStop
  split <;> rfl

@[simp] theorem State.loadAgent_mem (s : State) (n : Nat) (base : Nat) (levels : List Nat) (task : Task) :
    (s.loadAgent n base levels task).mem = s.mem := rfl

@[simp] theorem State.launchAgent_mem (s : State) (m : Nat) (t : Task) (r : Regs) : (s.launchAgent m t r).mem = s.mem := rfl

@[simp] theorem State.recall_mem (s : State) (a : Nat) (k : Nat) : (s.recall a k).mem = s.mem := rfl

theorem State.contribute_wf (s : State) (n : Nat) (e : BitVec 512) (c : Contrib)
    (h : s.mem.wf = true) : (s.contribute n e c).mem.wf = true := by
  unfold State.contribute
  dsimp only
  repeat' split
  all_goals simp [State.drainHeld_wf, h]

@[simp] theorem fails_mem (s : State) (cc : Byte) : (Reply.stateOr s (fails s cc)).mem = s.mem := rfl

@[simp] theorem State.servePage_mem (f : Req → Nat → Page → Page) (fits : Req → Nat → Bool) (r : Req) (s : State) :
    (State.servePage f fits r s).state.mem = s.mem := by
  unfold State.servePage
  dsimp only
  repeat' split
  all_goals simp

@[simp] theorem State.cancelSlot_mem (s : State) (d : Nat) (k : Nat) : (s.cancelSlot d k).mem = s.mem := rfl

@[simp] theorem State.countHeld_mem (s : State) (ts : Nat) : (s.countHeld ts).mem = s.mem := rfl

@[simp] theorem State.takeLoom_mem (s : State) (ts j : Nat) : (s.takeLoom ts j).mem = s.mem := rfl

@[simp] theorem State.notifyRead_mem (s : State) (o : BitVec 18) : (s.notifyRead o).mem = s.mem := rfl

@[simp] theorem State.bundleCycle_mem (s : State) (n : Nat) : (s.bundleCycle n).mem = s.mem := by
  unfold State.bundleCycle
  split <;> rfl

@[simp] theorem State.setRunning_mem (s : State) (r : Running) (x : Running) : (s.setRunning r x).mem = s.mem := rfl

theorem State.clearStore_wf (s : State) (tier unit base len : Nat) (h : s.mem.wf = true) :
    (s.clearStore tier unit base len).mem.wf = true := Machine.clearStore_wf h _ _ _ _

theorem State.rerentAll_wf (s : State) (w : Who) (gs : List Rerent) (h : s.mem.wf = true) : (s.rerentAll w gs).1.mem.wf = true := by
  induction gs generalizing s with
  | nil => exact h
  | cons g gs ih =>
    unfold State.rerentAll
    split
    · exact ih _ h
    · dsimp only
      split
      · exact h
      · split
        · exact h
        · exact ih _ (by rw [State.book_mem, State.modAccount_mem, State.setPitch_mem]; exact State.clearStore_wf _ _ _ _ _ h)

@[simp] theorem State.signal_mem (s : State) (q : BitVec 6) : (s.signal q).mem = s.mem := rfl

theorem State.postDone_wf (s : State) (q : BitVec 6) (tag : W64) (status : Byte) (result : W64)
    (h : s.mem.wf = true) : (s.postDone q tag status result).mem.wf = true := by
  unfold State.postDone
  dsimp only
  repeat' split
  all_goals simp [State.put_wf, h]

theorem State.flush_wf (q : BitVec 6) (k : Nat) (s : State) (h : s.mem.wf = true) : (State.flush q k s).mem.wf = true := by
  induction k generalizing s with
  | zero => exact h
  | succ k ih =>
    unfold State.flush
    split
    · split
      · exact ih _ (State.postDone_wf _ _ _ _ _ h)
      · exact h
    · exact h

@[simp] theorem State.servePatch_mem (q : BitVec 6) (r : Req) (s : State) : (State.servePatch q r s).state.mem = s.mem := by
  obtain ⟨u, e, hu⟩ := named_mem (s.touchFor (s.issuer q) r.a0 64) (State.touchFor_mem _ _ _ _)
  unfold State.servePatch
  rw [e]
  dsimp only
  obtain ⟨v, e, hv⟩ := named_mem (u.touchFor (u.issuer q) r.a0 (numAt (s.vaBytes 0 (s.issuer q).pasid r.a0.toNat 64) 8 4))
    ((State.touchFor_mem _ _ _ _).trans hu)
  rw [e]
  clear e
  repeat' split
  all_goals simp [hu, hv]

@[simp] theorem State.serveQueue_mem (q : BitVec 6) (r : Req) (s : State) : (State.serveQueue q r s).state.mem = s.mem := by
  obtain ⟨u, e, hu⟩ := named_mem (s.touchFor (s.issuer q) r.a1 64) (State.touchFor_mem _ _ _ _)
  unfold State.serveQueue
  rw [e]
  dsimp only
  repeat' split
  all_goals simp [hu]

theorem State.revertNear_wf (s : State) (n : Nat) (j : Tab (Option (BitVec 512)))
    (h : s.mem.wf = true) : (s.revertNear n j).mem.wf = true := by
  unfold State.revertNear
  repeat' first
    | with_reducible assumption
    | with_reducible apply State.store_wf
    | with_reducible apply foldl_wf
    | split
    | intro _

@[simp] theorem State.markEnded_mem (s : State) (w : Who) (code : Byte) (cause : W64) : (s.markEnded w code cause).mem = s.mem := by
  unfold State.markEnded
  repeat' split
  all_goals simp

@[simp] theorem State.serveShare_mem (r : Req) (s : State) : (State.serveShare r s).state.mem = s.mem := by
  unfold State.serveShare
  dsimp only
  repeat' split
  all_goals simp

@[simp] theorem State.rentClockTick_mem (s : State) : (s.rentClockTick).mem = s.mem := by
  unfold State.rentClockTick
  split <;> rfl

@[simp] theorem State.serveCredit_mem (r : Req) (s : State) : (State.serveCredit r s).state.mem = s.mem := rfl

@[simp] theorem State.wake_mem (s : State) (n : Nat) : (s.wake n).mem = s.mem := rfl

@[simp] theorem State.notifyInvalid_mem (s : State) (q : BitVec 6) (off : BitVec 12) (size : Nat) :
    (s.notifyInvalid q off size).mem = s.mem := by
  unfold State.notifyInvalid
  dsimp only
  repeat' split
  all_goals simp

@[simp] theorem State.loomCount_mem (s : State) (l : Nat) (src : Nat) : (s.loomCount l src).mem = s.mem := rfl

@[simp] theorem State.enter_mem (s : State) (n : Nat) (owner : Who) (seq : Nat) (l : Load) : (s.enter n owner seq l).mem = s.mem := rfl

@[simp] theorem State.unholdOf_mem (s : State) (k : Nat) (h : Nat) : (s.unholdOf k h).mem = s.mem := rfl

@[simp] theorem State.serveAccount_mem (r : Req) (s : State) : (State.serveAccount r s).state.mem = s.mem := by
  unfold State.serveAccount
  split <;> rfl

@[simp] theorem State.atsInvalidation_mem (s : State) (pasid : BitVec 20) (addr : W64) (len : W64) (answer : AtsAnswer)
    (readOnly : Bool) : (s.atsInvalidation pasid addr len answer readOnly).mem = s.mem := by
  unfold State.atsInvalidation
  dsimp only
  repeat' split
  all_goals simp

@[simp] theorem State.beginStop_mem (s : State) (ms : List Nat) : (s.beginStop ms).mem = s.mem :=
  foldl_mem _ (fun _ _ => State.setAgent_mem _ _ _) _ _

@[simp] theorem State.departLoad_mem (s : State) (n : Nat) : (s.departLoad n).mem = s.mem := by
  unfold State.departLoad
  dsimp only
  repeat' split
  all_goals simp

theorem State.kept_wf (s : State) (h : s.mem.wf = true) : s.kept.mem.wf = true := filter_wf h _

@[simp] theorem State.atomicEvent_mem (s : State) (h : Point) : (s.atomicEvent h).mem = s.mem := by
  unfold State.atomicEvent
  split <;> rfl

@[simp] theorem State.taskStart_mem (s : State) (ts j : Nat) : (s.taskStart ts j).mem = s.mem := by
  unfold State.taskStart
  split
  · rfl
  · split
    · rfl
    · split
      · rfl
      · dsimp only
        split
        · exact State.markEnded_mem _ _ _ _
        · rw [State.modTask_mem, foldl_mem _ (fun _ _ => State.launchAgent_mem _ _ _ _), State.touchRecord_mem]

@[simp] theorem State.rowGroupRefresh_mem (s : State) (group : Nat) (celsius : Nat) : (s.rowGroupRefresh group celsius).mem = s.mem := by
  unfold State.rowGroupRefresh
  dsimp only
  repeat' split
  all_goals simp

@[simp] theorem State.serveStatus_mem (r : Req) (s : State) : (State.serveStatus r s).state.mem = s.mem := rfl

theorem State.userReturn_wf (s : State) (n : Nat) (h : s.mem.wf = true) : (s.userReturn n).mem.wf = true := by
  unfold State.userReturn
  repeat' first
    | with_reducible assumption
    | with_reducible apply State.drain_wf
    | with_reducible apply foldl_wf
    | simp only [State.setAgent_mem]
    | intro _

@[simp] theorem State.effect_mem (s0 : State) (ws : List Word) (s : State) (n : Nat) : (State.effect s0 ws s n).mem = s.mem := rfl

@[simp] theorem State.modWith_mem (s : State) (ts : Nat) (f : LoomTask → LoomTask) : (s.modWith ts f).mem = s.mem :=
  foldl_mem _ (fun s k => State.modSet_mem s k _) _ _

@[simp] theorem cleanSaved_mem (s : State) (a : Nat) (k : Nat) : (cleanSaved s a k).mem = s.mem := by
  unfold cleanSaved
  split <;> rfl

@[simp] theorem State.beginSlice_mem (s : State) (ts : Nat) (j : Nat) (part : Nat) (x : LoomTask) :
    (s.beginSlice ts j part x).mem = s.mem := by
  unfold State.beginSlice
  repeat' split
  all_goals rfl

@[simp] theorem State.replyQuery_mem (s : State) (n : Nat) (r : RentReq) : (Reply.stateOr s (s.replyQuery n r)).mem = s.mem := by
  unfold State.replyQuery
  dsimp only
  repeat' split
  all_goals simp

@[simp] theorem State.latchEvent_mem (s : State) (b : Nat) : (s.latchEvent b).mem = s.mem := rfl

theorem State.landNear_wf (s : State) (n : Nat) (x : NearStore) (h : s.mem.wf = true) : (s.landNear n x).mem.wf = true := by
  unfold State.landNear
  simp [State.put_wf, h]

@[simp] theorem State.waitOver_mem (s : State) (n : Nat) : (s.waitOver n).mem = s.mem := rfl

@[simp] theorem State.unfetch_mem (s : State) (q : BitVec 6) (r : Req) : (s.unfetch q r).mem = s.mem := rfl

@[simp] theorem State.withdraw_mem (s : State) (p : Pitch) : (s.withdraw p).mem = s.mem := by
  unfold State.withdraw
  dsimp only
  split <;> rfl

@[simp] theorem State.resetAgent_mem (sets : List Nat) (s : State) (m : Nat) : (State.resetAgent sets s m).mem = s.mem := by
  unfold State.resetAgent
  dsimp only
  repeat' split
  all_goals simp

@[simp] theorem State.holdFor_mem (s : State) (acct : BitVec 10) (x : Nat) : (s.holdFor acct x).mem = s.mem := rfl

@[simp] theorem State.chargePitch_mem (s : State) (k : Nat) (x : Nat) : (s.chargePitch k x).mem = s.mem := rfl

@[simp] theorem State.forgetPages_mem (s : State) (p : Pitch) : (s.forgetPages p).mem = s.mem := by
  unfold State.forgetPages
  repeat' split
  all_goals first | exact State.withdraw_mem _ _ | rfl

@[simp] theorem State.releaseCmd_mem (n : Nat) (s : State) (h : Held) : (State.releaseCmd n s h).mem = s.mem := by
  unfold State.releaseCmd
  split <;> rfl

@[simp] theorem State.stopAt_mem (s : State) (r : Running) (i : Nat) (h : Halt) : (s.stopAt r i h).mem = s.mem := rfl

@[simp] theorem State.snapshotAgent_mem (light : Bool) (pc : W64) (s : State) (n : Nat) :
    (State.snapshotAgent light pc s n).mem = s.mem := by
  unfold State.snapshotAgent
  dsimp only
  rw [foldl_mem _ (fun t x => State.releaseCmd_mem n t x), State.setAgent_mem]

@[simp] theorem State.leaveEcb_mem (s : State) (n : Nat) (k : Nat) : (s.leaveEcb n k).mem = s.mem := rfl

theorem State.scrubDone_wf (s : State) (k : Nat) (h : s.mem.wf = true) : (s.scrubDone k).mem.wf = true := by
  unfold State.scrubDone
  dsimp only
  repeat' split
  all_goals simp [State.clearStore_wf, h]

@[simp] theorem State.landPlane_mem (s : State) (n : Nat) (x : PlaneLoad) : (s.landPlane n x).mem = s.mem := rfl

/-- A word whose last part keeps the canonical form of memory. -/
def Word.Keeps (w : Word) : Prop := ∀ t n, t.mem.wf = true → (w.post t n).mem.wf = true

/-- A word with the repetition in force is the bundle's or the repetition's. -/
theorem mem_withRepeat (rs ws : List Word) (w : Word) (h : w ∈ withRepeat rs ws) : w ∈ ws ∨ w ∈ rs := by
  induction ws with
  | nil => exact .inr h
  | cons v ws ih =>
    unfold withRepeat at h
    split at h
    · rcases List.mem_cons.1 h with h | h
      · exact .inl (h ▸ List.mem_cons_self)
      · exact (ih h).imp_left (List.mem_cons_of_mem _)
    · exact (List.mem_append.1 h).symm

theorem State.issueDone_wf (s : State) (n : Nat) (ms : List Nat) (ws : List Word) (hw : ∀ w ∈ ws, w.Keeps) (h : s.mem.wf = true) :
    (s.issueDone n ms ws).mem.wf = true := by
  have hs : ∀ w ∈ selected s n ws, w.Keeps := by
    intro w hm
    rcases mem_withRepeat _ _ _ (List.mem_of_mem_filter hm) with hm | hm
    · exact hw w hm
    · unfold repeated at hm
      split at hm
      · simp only [List.mem_singleton] at hm
        subst hm
        exact fun _ _ ht => ht
      · cases hm
  unfold State.issueDone
  dsimp only
  generalize selected s n ws = xs at hs
  have ht : ({ ms.foldl (fun t m => (State.effect s (allWords s m ws) t m).bundleCycle m) s with
      freeCtr := (ms.foldl (fun t m => (State.effect s (allWords s m ws) t m).bundleCycle m) s).freeCtr + 1 } : State).mem.wf = true := by
    dsimp only
    rw [foldl_mem _ (fun _ _ => by rw [State.bundleCycle_mem, State.effect_mem])]
    exact h
  revert ht
  generalize ({ ms.foldl (fun t m => (State.effect s (allWords s m ws) t m).bundleCycle m) s with
      freeCtr := (ms.foldl (fun t m => (State.effect s (allWords s m ws) t m).bundleCycle m) s).freeCtr + 1 } : State) = t
  intro ht
  induction xs generalizing t with
  | nil => exact ht
  | cons w xs ih => exact ih (fun v hv => hs v (.tail _ hv)) _ (hs w (.head _) _ _ ht)

@[simp] theorem State.withhold_mem (s : State) (n : Nat) (r : RentOp) : (s.withhold n r).mem = s.mem := rfl

theorem State.flushAll_wf (s : State) (q : BitVec 6) (h : s.mem.wf = true) : (s.flushAll q).mem.wf = true := by
  unfold State.flushAll
  simp [State.flush_wf, h]

theorem State.replyRent_wf (s : State) (n : Nat) (r : RentReq) (base : Nat)
    (h : s.mem.wf = true) : (Reply.stateOr s (s.replyRent n r base)).mem.wf = true := by
  unfold State.replyRent
  dsimp only
  repeat' split
  all_goals simp [State.clearStore_wf, h]

@[simp] theorem State.fileLaunch_mem (s : State) (n : Nat) (d : BitVec 5) (cyc : Nat)
    (h : BitVec 512) : (s.fileLaunch n d cyc h).mem = s.mem := by
  unfold State.fileLaunch
  dsimp only
  repeat' split
  all_goals simp

theorem State.noteStopped_wf (s : State) (n : Nat) (w : Who) (c : Nat) (num : W64) (status : Byte) (h : s.mem.wf = true) :
    (s.noteStopped n w c num status).mem.wf = true := by
  unfold State.noteStopped
  split
  · split
    · extract_lets at0 q
      split
      · exact State.put_wf _ _ _ h
      · exact h
    · exact h
  · exact h

@[simp] theorem State.notifyPrio_mem (s : State) (q : BitVec 6) (v : W64) : (s.notifyPrio q v).mem = s.mem := by
  unfold State.notifyPrio
  dsimp only
  repeat' split
  all_goals simp

theorem State.packageReset_wf (s : State) (h : s.mem.wf = true) : (s.packageReset).mem.wf = true := by
  unfold State.packageReset
  dsimp only
  split <;> simp [State.kept_wf, h]

@[simp] theorem State.chargeOverstay_mem (s : State) (k : Nat) : (s.chargeOverstay k).mem = s.mem := by
  unfold State.chargeOverstay
  dsimp only
  simp

@[simp] theorem State.performWcRead_mem (s : State) (n : Nat) (w : Who) (p : Point) (va : W64) (q : BitVec 4) (ks : List Nat) (a : Nat) :
    (s.performWcRead n w p va q ks a).mem = s.mem := by
  unfold State.performWcRead
  split
  · rw [State.deliver_mem]
  · split
    · rw [State.deliver_mem]
    · rw [State.deliver_mem, State.atomicEvent_mem, State.movedIn_mem]

@[simp] theorem State.fillMailbox_mem (s : State) (n : Nat) (w : Who) (d : Nat) (k : Nat) (req : BitVec 512) :
    (s.fillMailbox n w d k req).mem = s.mem := rfl

@[simp] theorem State.serveResume_mem (r : Req) (s : State) : (State.serveResume r s).state.mem = s.mem := by
  unfold State.serveResume
  dsimp only
  repeat' split
  all_goals simp

@[simp] theorem State.corrected_mem (s : State) (a : Nat) : (s.corrected a).mem = s.mem := by
  unfold State.corrected
  repeat' split
  all_goals rfl

@[simp] theorem State.afterTag_mem (s : State) (r : Running) (i : Nat) (elem : W64) (entry : W64) (e : Nat) (write : Bool) (g : TagResult) :
    (s.afterTag r i elem entry e write g).mem = s.mem := by
  unfold State.afterTag
  repeat' split
  all_goals rfl

@[simp] theorem State.departStore_mem (s : State) (n : Nat) : (s.departStore n).mem = s.mem := by
  unfold State.departStore
  dsimp only
  split
  · rfl
  · split
    · split
      · rfl
      · rfl
    · split
      · split
        · rw [State.enter_mem, State.setAgent_mem]
        · rfl
      · rfl
    · split
      · rfl
      · split
        · rw [foldl_mem _ (fun t l => State.enter_mem t _ _ _ l), State.setAgent_mem]
        · rw [State.enter_mem, State.setAgent_mem]

@[simp] theorem State.endSet_mem (s : State) (ts : Nat) (code : Byte) : (s.endSet ts code).mem = s.mem := by
  unfold State.endSet
  split <;> simp

@[simp] theorem State.revoke_mem (s : State) (p : BitVec 20) : (s.revoke p).mem = s.mem := by
  unfold State.revoke
  dsimp only
  rw [foldl_mem _ (fun _ _ => State.endSet_mem _ _ _)]

@[simp] theorem State.movedAll_mem (s : State) (n : Nat) (w : Who) (xs : List (Spot × Nat)) : (s.movedAll n w xs).mem = s.mem :=
  foldl_mem (fun (s : State) (x : Spot × Nat) => s.movedIn w.account (s.spotTier n x.1) x.2) (fun _ _ => State.movedIn_mem _ _ _ _) _ _

@[simp] theorem State.poisonLine_mem (s : State) (l : Nat) : (s.poisonLine l).mem = s.mem := by
  unfold State.poisonLine
  split <;> rfl

@[simp] theorem State.raise_mem (s : State) (ks : List Nat) : (s.raise ks).mem = s.mem := foldl_mem _ (fun _ _ => State.modPitch_mem _ _ _) _ _

theorem State.eventStopped_wf (s : State) (b : Nat) (acct : BitVec 10) (ctx : BitVec 16)
    (h : s.mem.wf = true) : (s.eventStopped b acct ctx).mem.wf = true := by
  unfold State.eventStopped
  split <;> simp [State.put_wf, h]

@[simp] theorem State.leaveHome_mem (s : State) (k : Nat) (t : Transit) : (s.leaveHome k t).mem = s.mem := by
  unfold State.leaveHome
  split <;> simp

theorem State.vaPut_wf (s : State) (n : Nat) (q : Option (BitVec 20)) (va : Nat) (bs : List Byte)
    (h : s.mem.wf = true) : (s.vaPut n q va bs).mem.wf = true := by
  unfold State.vaPut
  split <;> simp [State.put_wf, h]

@[simp] theorem State.replyVacate_mem (s : State) (n : Nat) (r : RentReq) : (Reply.stateOr s (s.replyVacate n r)).mem = s.mem := by
  unfold State.replyVacate
  dsimp only
  repeat' split
  all_goals simp

theorem State.nearPerform_wf (s : State) (n : Nat) (h : s.mem.wf = true) : (s.nearPerform n).mem.wf = true := by
  unfold State.nearPerform
  dsimp only
  repeat' split
  all_goals simp [State.landNear_wf, h]

@[simp] theorem State.cancelRent_mem (s : State) (r : RentOp) : (s.cancelRent r).mem = s.mem := by
  unfold State.cancelRent
  split <;> simp

theorem State.expireArm_wf (s : State) (va : Nat) (h : s.mem.wf = true) : (s.expireArm va).mem.wf = true := by
  unfold State.expireArm
  simp [State.put_wf, h]

@[simp] theorem State.scrubStart_mem (s : State) (k : Nat) : (s.scrubStart k).mem = s.mem := by
  unfold State.scrubStart
  dsimp only
  repeat' split
  all_goals simp

@[simp] theorem State.planeLoadLand_mem (s : State) (n : Nat) : (s.planeLoadLand n).mem = s.mem := by
  unfold State.planeLoadLand
  dsimp only
  repeat' split
  all_goals simp

@[simp] theorem State.landPlanes_mem (s : State) (n : Nat) : (s.landPlanes n).mem = s.mem :=
  foldl_mem _ (fun t x => State.landPlane_mem t n x) _ _

theorem enginePut_wf (s : State) (a : Nat) (bs : List Byte) (h : s.mem.wf = true) : (enginePut s a bs).mem.wf = true := by
  unfold enginePut
  simp [State.put_wf, h]

@[simp] theorem State.msixTimer_mem (s : State) (q : BitVec 6) : (s.msixTimer q).mem = s.mem := by
  unfold State.msixTimer
  dsimp only
  repeat' split
  all_goals simp

@[simp] theorem State.release_mem (s : State) (n : Nat) : (s.release n).mem = s.mem := by
  unfold State.release
  repeat' split
  all_goals rfl

theorem State.deliverEvent_wf (s : State) (b : Nat) (acct : BitVec 10) (ctx : BitVec 16)
    (h : s.mem.wf = true) : (s.deliverEvent b acct ctx).mem.wf = true := by
  unfold State.deliverEvent
  repeat' split
  all_goals simp [State.eventStopped_wf, h]

@[simp] theorem State.replySublet_mem (s : State) (n : Nat) (r : RentReq) : (Reply.stateOr s (s.replySublet n r)).mem = s.mem := by
  unfold State.replySublet
  dsimp only
  repeat' split
  all_goals simp

@[simp] theorem State.upset_mem (s : State) (x : EccSite) (fatal : Bool) : (s.upset x fatal).mem = s.mem := by
  unfold State.upset
  dsimp only
  repeat' split
  all_goals simp

theorem State.performHost_wf (s : State) (addr : W64) (len : Nat) (data : Option (List Byte)) (cached : Bool)
    (h : s.mem.wf = true) : (s.performHost addr len data cached).mem.wf = true := by
  unfold State.performHost
  dsimp only
  repeat' split
  all_goals simp [State.vaStore_wf, h]

@[simp] theorem State.begin_mem (s : State) (n : Nat) (h : Held) (op : EngOp) : (s.begin n h op).mem = s.mem := by
  unfold State.begin
  split <;> simp

@[simp] theorem State.vacateNow_mem (s : State) (k : Nat) : (s.vacateNow k).mem = s.mem := by
  unfold State.vacateNow
  dsimp only
  repeat' split
  all_goals simp

@[simp] theorem State.performRead_mem (s : State) (n : Nat) (w : Who) (x : FarLoad) : (s.performRead n w x).mem = s.mem := by
  unfold State.performRead
  dsimp only
  rw [State.gather_mem]
  exact foldl_mem (fun (s : State) (e : Elem) => s.movedIn w.account (s.tierAt n e.addr.toNat) e.len) (fun _ _ => State.movedIn_mem _ _ _ _) _ _

theorem State.saveAgent_wf (s : State) (n : Nat) (base : Nat) (reason : Nat)
    (h : s.mem.wf = true) : (s.saveAgent n base reason).mem.wf = true := by
  unfold State.saveAgent
  repeat' first
    | with_reducible assumption
    | with_reducible apply State.vaStore_wf
    | with_reducible apply foldl_wf
    | split
    | intro _

@[simp] theorem State.replyExtend_mem (s : State) (n : Nat) (r : RentReq) : (Reply.stateOr s (s.replyExtend n r)).mem = s.mem := by
  unfold State.replyExtend
  dsimp only
  repeat' split
  all_goals rfl

theorem State.spotPut_wf (s : State) (n : Nat) (q : Option (BitVec 20)) (p : Spot) (bs : List Byte)
    (h : s.mem.wf = true) : (s.spotPut n q p bs).mem.wf = true := by
  unfold State.spotPut
  split <;> simp [enginePut_wf, State.vaStore_wf, h]

@[simp] theorem State.overstayTick_mem (s : State) (k : Nat) : (s.overstayTick k).mem = s.mem := by
  unfold State.overstayTick
  dsimp only
  repeat' split
  all_goals simp

theorem State.sumRow_wf (s : State) (n k : Nat) (x : Vec) (h : s.mem.wf = true) : (s.sumRow n k x).mem.wf = true := by
  unfold State.sumRow
  exact State.putRow_wf s n k x h

theorem State.addBlock_wf (s : State) (n : Nat) (b : Block) (h : s.mem.wf = true) : (s.addBlock n b).mem.wf = true := by
  unfold State.addBlock
  refine foldl_wf _ (fun t x ht => ?_) _ _ h
  dsimp only
  split
  · exact State.putRow_wf _ _ _ _ ht
  · exact State.sumRow_wf _ _ _ _ ht

theorem State.serveReport_wf (q : BitVec 6) (r : Req) (s : State) (h : s.mem.wf = true) :
    (State.serveReport q r s).state.mem.wf = true := by
  unfold State.serveReport
  split
  · exact h
  · rw [Served.state_done]
    exact State.vaStore_wf _ _ _ _ _ h

@[simp] theorem raiseLast_mem (s : State) (n : Nat) : (raiseLast s n).mem = s.mem := by
  refine foldl_mem _ (fun t c => ?_) _ _
  split
  · exact State.raise_mem _ _
  · rfl

theorem State.fetchRing_wf (s : State) (q : BitVec 6) (h : s.mem.wf = true) : (s.fetchRing q).mem.wf = true := by
  unfold State.fetchRing
  simp [State.flushAll_wf, h]

theorem State.writeDone_wf (s : State) (n : Nat) (w : Who) (va : W64) (cc : Byte)
    (h : s.mem.wf = true) : (s.writeDone n w va cc).mem.wf = true := by
  unfold State.writeDone
  repeat' split
  all_goals simp [State.vaPut_wf, h]

theorem State.notifyTail_wf (s : State) (q : BitVec 6) (v : W64) (h : s.mem.wf = true) : (s.notifyTail q v).mem.wf = true := by
  unfold State.notifyTail
  dsimp only
  repeat' split
  all_goals simp [State.fetchRing_wf, h]

@[simp] theorem State.dependenceMet_mem (s : State) (ts : Nat) : (s.dependenceMet ts).mem = s.mem := by
  unfold State.dependenceMet
  split
  · rfl
  · split
    · rfl
    · next t _ _ =>
      dsimp only
      obtain ⟨u, e, hu⟩ := named_mem (s.touchDep nobody (whoOf t.hdr t.pasid ts 0) t.hdr) (State.touchDep_mem _ _ _ _)
      rw [e]
      split <;> simp [hu]

theorem State.fetchAll_wf (s : State) (h : s.mem.wf = true) : s.fetchAll.mem.wf = true := by
  unfold State.fetchAll
  generalize List.range 64 = ks
  refine foldl_wf _ (fun t k ht => ?_) _ _ h
  dsimp only
  split
  · exact State.fetchRing_wf _ _ ht
  · exact ht

theorem State.resultLanding_wf (s : State) (n : Nat) (h : s.mem.wf = true) : (s.resultLanding n).mem.wf = true := by
  unfold State.resultLanding
  dsimp only
  repeat' split
  all_goals simp [State.land_wf, h]

theorem State.addTile_wf (s : State) (n : Nat) (t : BitVec 4) (h : s.mem.wf = true) : (s.addTile n t).mem.wf = true := by
  unfold State.addTile
  repeat' first
    | with_reducible assumption
    | with_reducible apply State.addBlock_wf
    | with_reducible apply foldl_wf
    | simp only [State.setAgent_mem]
    | intro _

theorem State.settleUpdate_wf (s : State) (h : s.mem.wf = true) : (s.settleUpdate).mem.wf = true := by
  unfold State.settleUpdate
  repeat' split
  all_goals simp [State.fetchAll_wf, h]

theorem State.serve1_wf (s : State) (q : BitVec 6) (r : Req) (run : Req → State → Served)
    (hrun : ∀ t : State, t.mem.wf = true → (run r t).state.mem.wf = true) (h : s.mem.wf = true) : (s.serve1 q r run).mem.wf = true := by
  have hr := hrun s h
  unfold State.serve1
  split
  · exact State.flushAll_wf _ _ (State.postDone_wf _ _ _ _ _ h)
  · split <;> rename_i heq <;> rw [heq] at hr
    · exact hr
    · exact State.flushAll_wf _ _ (State.postDone_wf _ _ _ _ _ hr)
    · exact State.flushAll_wf _ _ hr

theorem State.postEvent_wf (s : State) (code : W64) (h : s.mem.wf = true) : (s.postEvent code).mem.wf = true := by
  unfold State.postEvent
  generalize List.range 64 = ks
  refine foldl_wf _ (fun t k ht => ?_) _ _ h
  dsimp only
  split
  · exact State.postDone_wf _ _ _ _ _ ht
  · exact ht

theorem State.partialSumAdd_wf (s : State) (n : Nat) (h : s.mem.wf = true) : (s.partialSumAdd n).mem.wf = true := by
  unfold State.partialSumAdd
  dsimp only
  repeat' split
  all_goals simp [State.addBlock_wf, h]

theorem State.enterHost_wf (s : State) (addr : W64) (len : Nat) (data : Option (List Byte)) (cached : Bool)
    (h : s.mem.wf = true) : (s.enterHost addr len data cached).mem.wf = true := by
  unfold State.enterHost
  dsimp only
  repeat' split
  all_goals simp [State.performHost_wf, h]

@[simp] theorem State.afterRead_mem (s : State) (r : Running) (i : Nat) (m : Micro) (bs : List Byte) :
    (s.afterRead r i m bs).mem = s.mem := by
  unfold State.afterRead
  dsimp only
  repeat' split
  all_goals simp

@[simp] theorem State.poisonStop_mem (s : State) (r : Running) (i : Nat) (m : Micro) (a : W64) : (s.poisonStop r i m a).mem = s.mem := by
  unfold State.poisonStop
  split <;> simp

@[simp] theorem State.makeElement_mem (s : State) (r : Running) (j i : Nat) (m : Micro) : (s.makeElement r j i m).mem = s.mem := by
  unfold State.makeElement
  dsimp only
  split
  · rfl
  · rfl
  · rfl
  · exact State.afterRead_mem _ _ _ _ _
  · split
    · rfl
    · split
      · rfl
      · exact State.sendElement_mem _ _ _ _ _ _

@[simp] theorem State.departElement_mem (s : State) (n : Nat) (c : BitVec 3) (j : Nat) : (s.departElement n c j).mem = s.mem := by
  unfold State.departElement
  repeat' split
  all_goals first | exact State.makeElement_mem _ _ _ _ _ | rfl

@[simp] theorem State.cancelAll_mem (s : State) (wb : List Cmd) : (s.cancelAll wb).mem = s.mem := by
  refine foldl_mem _ (fun t c => ?_) _ _
  split
  · exact State.cancelRent_mem _ _
  · exact State.cancelSlot_mem _ _ _
  · rfl

@[simp] theorem State.vacate_mem (s : State) (k : Nat) : (s.vacate k).mem = s.mem := by
  unfold State.vacate
  dsimp only
  repeat' split
  all_goals simp

@[simp] theorem raiseRead_mem (s : State) (n : Nat) : (raiseRead s n).mem = s.mem := by
  refine foldl_mem _ (fun t m => ?_) _ _
  split
  · exact State.raise_mem _ _
  · rfl

theorem State.restore_wf (s : State) (n : Nat) (h : s.mem.wf = true) : (s.restore n).mem.wf = true := by
  unfold State.restore
  simp [State.revertRows_wf, State.revertNear_wf, h]

theorem State.mdrainEnd_wf (s : State) (n : Nat) (h : s.mem.wf = true) : (s.mdrainEnd n).mem.wf = true := by
  unfold State.mdrainEnd
  split <;> simp [State.addTile_wf, h]

theorem State.quarantine_wf (s : State) (unit : BitVec 8) (pc : BitVec 16) (h : s.mem.wf = true) : (s.quarantine unit pc).mem.wf = true := by
  unfold State.quarantine
  split
  · exact h
  · exact State.postEvent_wf _ _ h

theorem State.performAtomic_wf (s : State) (n : Nat) (w : Who) (p : Point) (op : AtOp) (wide : Bool) (va v v2 : W64)
    (q : Option (BitVec 4)) (h : s.mem.wf = true) : (s.performAtomic n w p op wide va v v2 q).mem.wf = true := by
  unfold State.performAtomic
  extract_lets k
  split
  · rw [State.fetched_mem]; exact h
  · split
    · rw [State.farFail_mem, State.fetched_mem]; exact h
    · rw [State.fetched_mem, State.atomicEvent_mem, State.movedIn_mem]
      exact State.vaStore_wf _ _ _ _ _ h

@[simp] theorem State.darncStart_mem (s : State) (n : Nat) (c : BitVec 3) : (s.darncStart n c).mem = s.mem := by
  unfold State.darncStart
  dsimp only
  repeat' split
  all_goals simp

theorem State.serveDesc_wf (q : BitVec 6) (r : Req) (s : State) (h : s.mem.wf = true) :
    (State.serveDesc q r s).state.mem.wf = true := by
  unfold State.serveDesc
  split
  · exact h
  · split
    · rw [Served.state_done]
      exact State.vaStore_wf _ _ _ _ _ h
    · exact h

theorem State.replyOf_wf (s : State) (n : Nat) (r : RentReq) (base : Nat)
    (h : s.mem.wf = true) : (Reply.stateOr s (s.replyOf n r base)).mem.wf = true := by
  unfold State.replyOf
  split <;> simp [State.replyRent_wf, h]

theorem State.serveSaveio_wf (q : BitVec 6) (wr : Bool) (r : Req) (s : State)
    (h : s.mem.wf = true) : (State.serveSaveio q wr r s).state.mem.wf = true := by
  unfold State.serveSaveio
  dsimp only
  repeat' split
  all_goals simp [State.vaStore_wf, h]

@[simp] theorem State.endVacate_mem (n : Nat) (ts : Nat) (s : State) (k : Nat) : (State.endVacate n ts s k).mem = s.mem := by
  unfold State.endVacate
  split <;> simp

theorem State.performWcAdd_wf (s : State) (n : Nat) (w : Who) (p : Point) (va : W64) (fmt : Byte) (x : W32)
    (h : s.mem.wf = true) : (s.performWcAdd n w p va fmt x).mem.wf = true := by
  unfold State.performWcAdd
  split
  · exact h
  · split
    · rw [State.farFail_mem]; exact h
    · rw [State.atomicEvent_mem]
      dsimp only
      rw [State.movedIn_mem]
      exact State.vaStore_wf _ _ _ _ _ h

theorem State.settleLeaving_wf (s : State) (q : BitVec 6) (h : s.mem.wf = true) : (s.settleLeaving q).mem.wf = true := by
  unfold State.settleLeaving
  dsimp only
  repeat' split
  all_goals simp [State.settleUpdate_wf, h]

theorem State.hostAccess_wf (s : State) (addr : W64) (len : Nat) (data : Option (List Byte)) (cached : Bool)
    (h : s.mem.wf = true) : (s.hostAccess addr len data cached).mem.wf = true := by
  unfold State.hostAccess
  repeat' first
    | with_reducible assumption
    | with_reducible apply State.vaStore_wf
    | with_reducible apply State.enterHost_wf
    | with_reducible apply foldl_wf
    | dsimp only
    | split
    | intro _

theorem State.tileLaunchStart_wf (s : State) (n : Nat) (h : s.mem.wf = true) : (s.tileLaunchStart n).mem.wf = true := by
  unfold State.tileLaunchStart
  split
  · exact h
  · next y _ =>
    dsimp only
    obtain ⟨u, e, hu⟩ := named_wf (State.touchDep { s with tileLaunches := s.tileLaunches.erase y } n (whoOf y.2.2.hdr y.2.1.pasid (s.nextTs + 1) 0) y.2.2.hdr)
      ((State.touchDep_mem _ _ _ _).symm ▸ h)
    rw [e]
    split
    · exact State.writeDone_wf _ _ _ _ _ hu
    · split
      · exact State.writeDone_wf _ _ _ _ _ hu
      · obtain ⟨v, e, hv⟩ := named_wf (u.touchRecord (tileTarget n y.2.2.hdr) y.2.2.hdr) ((State.touchRecord_mem _ _ _).symm ▸ hu)
        rw [e]
        split <;> simp [hv]

theorem State.performElement_wf (s : State) (t : Transit) (c : BitVec 3) (i : Nat) (m : Micro)
    (h : s.mem.wf = true) : (s.performElement t c i m).mem.wf = true := by
  unfold State.performElement
  dsimp only
  repeat' split
  all_goals simp [State.spotPut_wf, h]

theorem State.updateTimeout_wf (s : State) (h : s.mem.wf = true) : s.updateTimeout.mem.wf = true := by
  unfold State.updateTimeout
  split
  · exact h
  · split
    · dsimp only
      split
      · exact State.fetchAll_wf _ (State.postDone_wf _ _ _ _ _ h)
      · exact State.fetchAll_wf _ h
    · exact h

theorem State.report_wf (s : State) (t : TaskSet) (ts : Nat) (h : s.mem.wf = true) : (s.report t ts).mem.wf = true := by
  unfold State.report
  repeat' split
  all_goals simp [State.postDone_wf, State.writeDone_wf, h]

@[simp] theorem State.vacateCore_mem (s : State) (n : Nat) (w : Who) : (s.vacateCore n w).mem = s.mem :=
  foldl_mem _ (State.endVacate_mem n w.ts) _ _

@[simp] theorem State.enterLaunch_mem (s : State) (src : Source) (h : BitVec 512) (part : BitVec 5) (cls : BitVec 2) (pasid : Option
    (BitVec 20)) (cap : Option W64) : (s.enterLaunch src h part cls pasid cap).mem = s.mem := by
  unfold State.enterLaunch
  simp

theorem State.abandon_wf (s : State) (n : Nat) (h : s.mem.wf = true) : (s.abandon n).mem.wf = true := by
  unfold State.abandon
  repeat' first
    | with_reducible assumption
    | with_reducible apply State.restore_wf
    | with_reducible apply foldl_wf
    | simp only [State.setAgent_mem]
    | intro _

theorem State.scoreboardStallEnd_wf (s : State) (n : Nat) (h : s.mem.wf = true) : (s.scoreboardStallEnd n).mem.wf = true := by
  unfold State.scoreboardStallEnd
  split <;> simp [State.addTile_wf, h]

theorem State.saveTask_wf (s : State) (ms : List Nat) (w : Who) (t : TaskSet) (x : LoomTask) (node : Bool)
    (h : s.mem.wf = true) : (s.saveTask ms w t x node).mem.wf = true := by
  unfold State.saveTask
  repeat' first
    | with_reducible assumption
    | with_reducible apply State.saveAgent_wf
    | with_reducible apply foldl_wf
    | simp only [State.settlePass_mem, State.vacate_mem, State.setAgent_mem]
    | intro _

theorem State.endDrain_wf (s : State) (t : TaskSet) (ts : Nat) (h : s.mem.wf = true) : (s.endDrain t ts).mem.wf = true := by
  unfold State.endDrain
  split <;> simp [State.report_wf, State.settleLeaving_wf, h]

theorem State.serveReq_wf (s : State) (q : BitVec 6) (pick : Req → Bool) (run : Req → State → Served)
    (hrun : ∀ r (t : State), t.mem.wf = true → (run r t).state.mem.wf = true) (h : s.mem.wf = true) :
    (s.serveReq q pick run).mem.wf = true := by
  have hf := State.flushAll_wf s q h
  unfold State.serveReq
  split
  · exact h
  · dsimp only
    split
    · exact hf
    · split
      · exact State.serve1_wf _ _ _ _ (hrun _) hf
      · exact hf

theorem State.discard_wf (s : State) (n : Nat) (h : s.mem.wf = true) : (s.discard n).mem.wf = true := by
  unfold State.discard
  simp [State.restore_wf, h]

@[simp] theorem State.endAgent_mem (s : State) (n : Nat) (code : Byte) : (s.endAgent n code).mem = s.mem := by
  unfold State.endAgent
  dsimp only
  repeat' split
  all_goals simp

@[simp] theorem State.loseTask_mem (s : State) (w : Who) (x : LoomTask) : (s.loseTask w x).mem = s.mem := by
  unfold State.loseTask
  rw [foldl_mem _ (fun _ _ => State.vacateCore_mem _ _ _), State.markEnded_mem, State.takeLoom_mem]

theorem State.endWait_wf (s : State) (n : Nat) (f : State → State) (hf : s.mem.wf = true → (f s).mem.wf = true)
    (h : s.mem.wf = true) : (s.endWait n f).mem.wf = true := by
  unfold State.endWait
  split
  · exact State.abandon_wf _ _ h
  · split
    · exact hf h
    · exact h

theorem State.serveLaunch_wf (q : BitVec 6) (r : Req) (s : State)
    (h : s.mem.wf = true) : (State.serveLaunch q r s).state.mem.wf = true := by
  unfold State.serveLaunch
  dsimp only
  repeat' split
  all_goals simp [State.writeDone_wf, h]

theorem State.drainForceStop_wf (s : State) (n : Nat) (h : s.mem.wf = true) : (s.drainForceStop n).mem.wf = true := by
  unfold State.drainForceStop
  repeat' first
    | with_reducible assumption
    | with_reducible apply State.restore_wf
    | with_reducible apply foldl_wf
    | simp only [State.endAgent_mem]
    | split
    | intro _

theorem State.stopDone_wf (s : State) (n : Nat) (ms : List Nat) (h : s.mem.wf = true) : (s.stopDone n ms).mem.wf = true := by
  unfold State.stopDone
  repeat' first
    | with_reducible assumption
    | with_reducible apply State.saveTask_wf
    | with_reducible apply foldl_wf
    | simp only [State.endAgent_mem]
    | split
    | intro _

theorem State.launchRow_wf (s : State) (q : BitVec 6) (h : s.mem.wf = true) : (s.launchRow q).mem.wf = true := by
  have hf := State.flushAll_wf s q h
  unfold State.launchRow
  split
  · exact h
  · dsimp only
    split
    · exact hf
    · exact State.serve1_wf _ _ _ _ (fun t ht => State.serveLaunch_wf q _ t ht) hf

theorem State.askStop_wf (s : State) (ms : List Nat) (f : StopReq → StopReq) (h : s.mem.wf = true) : (s.askStop ms f).mem.wf = true := by
  unfold State.askStop
  repeat' first
    | with_reducible assumption
    | with_reducible apply State.abandon_wf
    | with_reducible apply foldl_wf
    | simp only [State.setAgent_mem]
    | split
    | intro _

theorem State.serveStop_wf (r : Req) (s : State) (h : s.mem.wf = true) : (State.serveStop r s).state.mem.wf = true := by
  unfold State.serveStop
  split <;> simp [State.askStop_wf, h]

theorem State.fabricLaunch_wf (s : State) (node : BitVec 16) (x : BitVec 512) (image len : W64) (h : s.mem.wf = true) :
    (s.fabricLaunch node x image len).mem.wf = true := by
  obtain ⟨u, e, hu⟩ := named_wf (s.touchVa 0 none image.toNat len.toNat) ((State.touchVa_mem _ _ _ _ _).symm ▸ h)
  unfold State.fabricLaunch
  simp only [e]
  split
  · exact State.writeDone_wf _ _ _ _ _ h
  · repeat' first
      | exact State.writeDone_wf _ _ _ _ _ hu
      | split
    rw [State.enterLaunch_mem]; exact hu

theorem State.haltTask_wf (s : State) (n : Nat) (h : s.mem.wf = true) : (s.haltTask n).mem.wf = true := by
  unfold State.haltTask
  repeat' first
    | with_reducible assumption
    | with_reducible apply State.discard_wf
    | with_reducible apply foldl_wf
    | simp only [State.endAgent_mem]
    | intro _

theorem State.wfeWake_wf (s : State) (n : Nat) (h : s.mem.wf = true) : (s.wfeWake n).mem.wf = true := by
  unfold State.wfeWake
  repeat' first
    | with_reducible assumption
    | with_reducible apply State.endWait_wf
    | simp only [State.setAgent_mem]
    | split
    | intro _

@[simp] theorem State.readAgent_mem (x : LoomTask) (s : State) (m : Nat) : (State.readAgent x s m).mem = s.mem := by
  unfold State.readAgent
  rw [State.touchVa_mem, State.loadAgent_mem]

@[simp] theorem State.readTask_mem (s : State) (x : LoomTask) : (s.readTask x).mem = s.mem := by
  obtain ⟨u, e, hu⟩ := named_mem _ (foldl_mem (State.readAgent x) (State.readAgent_mem x) x.agents s)
  unfold State.readTask
  rw [e]
  dsimp only
  split <;> simp [hu]

theorem State.resumeOne_wf (s : State) (y : Nat × Nat × LoomTask) (h : s.mem.wf = true) : (s.resumeOne y).mem.wf = true := by
  unfold State.resumeOne
  dsimp only
  split
  · rw [State.loseTask_mem]
    exact State.rerentAll_wf _ _ _ h
  · rw [State.takeLoom_mem, State.modTask_mem, State.readTask_mem]
    exact State.rerentAll_wf _ _ _ h

theorem State.sleepcEnd_wf (s : State) (n : Nat) (h : s.mem.wf = true) : (s.sleepcEnd n).mem.wf = true := by
  unfold State.sleepcEnd
  split <;> simp [State.endWait_wf, h]

theorem State.pageRow_wf (s : State) (q : BitVec 6) (op : W64) (run : Req → State → Served)
    (hrun : ∀ r (t : State), t.mem.wf = true → (run r t).state.mem.wf = true) (h : s.mem.wf = true) :
    (s.pageRow q op run).mem.wf = true := State.serveReq_wf _ _ _ _ hrun h

theorem State.post_wf (s : State) (n : Nat) (w : Who) (e : BitVec 512) (qp : BitVec 10)
    (h : s.mem.wf = true) : (s.post n w e qp).mem.wf = true := by
  obtain ⟨u, he, hu⟩ := named_wf (if trigOf e = 0 then s else s.touchVa n w.pasid (trigOf e).toNat 16) (by
    split
    · exact h
    · rw [State.touchVa_mem]; exact h)
  obtain ⟨v, hv, hw⟩ := named_wf (if workOp e = 3 then u else u.posted qp (· + 1)) (by split <;> exact hu)
  unfold State.post
  generalize s.postStatus n w e qp = cc
  rw [he]
  dsimp only
  rw [hv]
  split
  · exact State.writeDone_wf _ _ _ _ _ hu
  · split
    · exact State.hand_wf _ _ hw
    · exact hw

theorem State.serveOp_wf (s : State) (q : BitVec 6) (op : Byte) (run : Req → State → Served)
    (hrun : ∀ r (t : State), t.mem.wf = true → (run r t).state.mem.wf = true) (h : s.mem.wf = true) :
    (s.serveOp q op run).mem.wf = true := State.serveReq_wf _ _ _ _ hrun h

theorem State.startOther_wf (s : State) (n : Nat) (x : Held) (h : s.mem.wf = true) : (s.startOther n x).mem.wf = true := by
  unfold State.startOther
  split
  · exact State.post_wf _ _ _ _ _ h
  · rw [State.enter_mem]; exact h
  · exact h
  · exact h

theorem State.waittEnd_wf (s : State) (n : Nat) (h : s.mem.wf = true) : (s.waittEnd n).mem.wf = true := by
  unfold State.waittEnd
  repeat' first
    | with_reducible assumption
    | with_reducible apply State.endWait_wf
    | simp only [State.wake_mem]
    | split
    | intro _

theorem State.sliceExpiry_wf (s : State) (ts : Nat) (j : Nat) (h : s.mem.wf = true) : (s.sliceExpiry ts j).mem.wf = true := by
  unfold State.sliceExpiry
  repeat' split
  all_goals simp [State.askStop_wf, h]

theorem State.qwaitEnd_wf (s : State) (n : Nat) (h : s.mem.wf = true) : (s.qwaitEnd n).mem.wf = true := by
  unfold State.qwaitEnd
  repeat' first
    | with_reducible assumption
    | with_reducible apply State.endWait_wf
    | simp only [State.waitOver_mem]
    | split
    | intro _

theorem State.armStep_wf (s : State) (va : Nat) (x : W64) (w : Who) (h : s.mem.wf = true) : (s.armStep va x w).mem.wf = true := by
  unfold State.armStep
  repeat' first
    | with_reducible assumption
    | with_reducible apply State.putArmWord_wf
    | with_reducible apply State.fire_wf
    | split

theorem State.taskPlacement_wf (s : State) (part : Nat) (h : s.mem.wf = true) : (s.taskPlacement part).mem.wf = true := by
  unfold State.taskPlacement
  repeat' first
    | with_reducible assumption
    | with_reducible apply State.resumeOne_wf
    | with_reducible apply foldl_wf
    | simp only [State.beginSlice_mem, State.takeLoom_mem, State.modTask_mem]
    | split

theorem State.beginDrain_wf (s : State) (ts : Nat) (t : TaskSet) (h : s.mem.wf = true) : (s.beginDrain ts t).mem.wf = true := by
  unfold State.beginDrain
  simp [State.askStop_wf, h]

theorem State.start_wf (s : State) (n : Nat) (c : BitVec 3) (h : s.mem.wf = true) : (s.start n c).mem.wf = true := by
  unfold State.start
  dsimp only
  split
  · split
    · split
      · exact State.startOther_wf _ _ _ (by rw [State.leaveEcb_mem]; exact h)
      · exact h
    · exact h
  · split
    · split
      · rw [State.begin_mem, State.leaveEcb_mem]; exact h
      · exact h
    · exact h

theorem State.watchdogExpiry_wf (s : State) (ts : Nat) (h : s.mem.wf = true) : (s.watchdogExpiry ts).mem.wf = true := by
  unfold State.watchdogExpiry
  repeat' split
  all_goals simp [State.beginDrain_wf, State.askStop_wf, h]

theorem State.doubleTrap_wf (s : State) (n : Nat) (h : s.mem.wf = true) : (s.doubleTrap n).mem.wf = true := by
  unfold State.doubleTrap
  simp [State.haltTask_wf, h]

theorem State.performEntry_wf (s : State) (t : Transit) (h : s.mem.wf = true) : (s.performEntry t).mem.wf = true := by
  unfold State.performEntry
  dsimp only
  split
  · rw [State.performRead_mem]; exact h
  · split
    · exact State.storeElems_wf _ _ _ _ _ h
    · exact State.performAtomic_wf _ _ _ _ _ _ _ _ _ _ h
    · exact State.performWcAdd_wf _ _ _ _ _ _ _ h
    · rw [State.performWcRead_mem]; exact h
    · rw [State.fillMailbox_mem]; exact h
    · split
      · exact State.armStep_wf _ _ _ _ h
      · exact h
    · exact State.deliverEvent_wf _ _ _ _ h
    · exact h
  · exact h

theorem State.discardSet_wf (s : State) (ts : Nat) (h : s.mem.wf = true) : (s.discardSet ts).mem.wf = true := by
  unfold State.discardSet
  repeat' split
  all_goals simp [State.beginDrain_wf, h]

theorem State.superReturn_wf (s : State) (n : Nat) (h : s.mem.wf = true) : (s.superReturn n).mem.wf = true := by
  unfold State.superReturn
  repeat' first
    | with_reducible assumption
    | with_reducible apply State.drain_wf
    | with_reducible apply State.haltTask_wf
    | with_reducible apply State.doubleTrap_wf
    | with_reducible apply foldl_wf
    | simp only [State.setAgent_mem]
    | split
    | intro _

theorem State.performAt_wf (s : State) (k : Nat) (h : s.mem.wf = true) : (s.performAt k).mem.wf = true := by
  unfold State.performAt
  repeat' split
  all_goals simp [State.performElement_wf, State.performHost_wf, State.performEntry_wf, h]

theorem State.deliverSuper_wf (s : State) (n : Nat) (ms : List Nat) (h : s.mem.wf = true) : (s.deliverSuper n ms).mem.wf = true := by
  unfold State.deliverSuper
  repeat' first
    | with_reducible assumption
    | with_reducible apply State.doubleTrap_wf
    | with_reducible apply foldl_wf
    | simp only [State.setAgent_mem]
    | split
    | intro _

theorem State.tdisp_wf (s : State) (q : BitVec 6) (st : BitVec 2) (h : s.mem.wf = true) : (s.tdisp q st).mem.wf = true := by
  unfold State.tdisp
  repeat' first
    | with_reducible assumption
    | with_reducible apply State.settleLeaving_wf
    | with_reducible apply State.discardSet_wf
    | with_reducible apply foldl_wf
    | simp only [State.setQrec_mem]
    | split

theorem State.completeWork_wf (s : State) (w : Work) (cc : Byte) (h : s.mem.wf = true) : (s.completeWork w cc).mem.wf = true := by
  unfold State.completeWork
  dsimp only
  repeat' split
  all_goals simp [State.creditAs_wf, State.writeDone_wf, h]

theorem State.finishReturn_wf (s : State) (n : Nat) (h : s.mem.wf = true) : (s.finishReturn n).mem.wf = true := by
  unfold State.finishReturn
  repeat' split
  all_goals simp [State.userReturn_wf, State.superReturn_wf, h]

theorem State.takeReply_wf (s : State) (n : Nat) (r : RentReq) (v : W64) (h : s.mem.wf = true) : (s.takeReply n r v).mem.wf = true := by
  unfold State.takeReply
  simp [State.finishReturn_wf, h]

theorem State.takeTrap_wf (s : State) (n : Nat) (t : Trap) (entry : Bool) (h : s.mem.wf = true) : (s.takeTrap n t entry).mem.wf = true := by
  unfold State.takeTrap
  repeat' first
    | with_reducible assumption
    | with_reducible apply State.doubleTrap_wf
    | with_reducible apply State.restore_wf
    | with_reducible apply State.deliverSuper_wf
    | with_reducible apply foldl_wf
    | simp only [State.setAgent_mem]
    | split
    | intro _

theorem State.receive_wf (s : State) (n : Nat) (rqp : BitVec 10) (e : BitVec 512) (data : List Byte) (work : Option Nat)
    (node : BitVec 16) (h : s.mem.wf = true) : (s.receive n rqp e data work node).mem.wf = true := by
  unfold State.receive
  dsimp only
  repeat' split
  all_goals simp [State.contribute_wf, State.performWork_wf, h]

theorem State.beginReturn_wf (w : Wait) (s : State) (n : Nat) (h : s.mem.wf = true) : (State.beginReturn w s n).mem.wf = true := by
  unfold State.beginReturn
  repeat' first
    | with_reducible assumption
    | with_reducible apply State.finishReturn_wf
    | with_reducible apply foldl_wf
    | simp only [State.setAgent_mem]
    | intro _

theorem State.releaseWaiter_wf (p : Pitch) (s : State) (m : Nat) (h : s.mem.wf = true) : (State.releaseWaiter p s m).mem.wf = true := by
  unfold State.releaseWaiter
  dsimp only
  repeat' split
  all_goals simp [State.takeTrap_wf, h]

theorem State.workEntryComplete_wf (s : State) (qp : BitVec 10) (cc : Byte)
    (h : s.mem.wf = true) : (s.workEntryComplete qp cc).mem.wf = true := by
  unfold State.workEntryComplete
  repeat' split
  all_goals simp [State.completeWork_wf, h]

theorem State.issueReady_wf (s : State) (n : Nat) (ms : List Nat) (ws : List Word) (hw : ∀ w ∈ ws, w.Keeps) (h : s.mem.wf = true) :
    (s.issueReady n ms ws).mem.wf = true := by
  unfold State.issueReady
  dsimp only
  split
  · exact State.takeTrap_wf _ _ _ _ h
  · split
    · exact State.takeTrap_wf _ _ _ _ h
    · exact State.issueDone_wf _ _ _ _ hw h

theorem State.linkFailure_wf (s : State) (qp : BitVec 10) (h : s.mem.wf = true) : (s.linkFailure qp).mem.wf = true := by
  unfold State.linkFailure
  repeat' split
  all_goals simp [State.completeWork_wf, h]

theorem State.genayReply_wf (s : State) (n base : Nat) (h : s.mem.wf = true) : (s.genayReply n base).mem.wf = true := by
  unfold State.genayReply
  split
  · next r _ =>
    have hr := State.replyOf_wf s n r base h
    split <;> rename_i heq <;> rw [heq] at hr
    · exact State.takeReply_wf _ _ _ _ hr
    · exact h
  · exact h

theorem State.releaseWaiters_wf (s : State) (p : Pitch) (h : s.mem.wf = true) : (s.releaseWaiters p).mem.wf = true := by
  unfold State.releaseWaiters
  repeat' first
    | with_reducible assumption
    | with_reducible apply State.releaseWaiter_wf
    | with_reducible apply State.expireArm_wf
    | with_reducible apply foldl_wf

theorem State.fabricReceive_wf (s : State) (src : ReceiveFrom) (h : s.mem.wf = true) : (s.fabricReceive src).mem.wf = true := by
  unfold State.fabricReceive
  repeat' split
  all_goals simp [State.receive_wf, h]

theorem State.lapse_wf (s : State) (k : Nat) (h : s.mem.wf = true) : (s.lapse k).mem.wf = true := by
  unfold State.lapse
  dsimp only
  repeat' split
  all_goals simp [State.releaseWaiters_wf, h]

theorem State.trap0_wf (s : State) (n : Nat) (c : Byte) (f : W64) (h : s.mem.wf = true) : (s.trap0 n c f).mem.wf = true := by
  unfold State.trap0
  simp [State.takeTrap_wf, h]

theorem State.readEntry_wf (s : State) (n : Nat) (va : W64) (f : State → BitVec 512 → State)
    (hf : ∀ t e, t.mem.wf = true → (f t e).mem.wf = true) (h : s.mem.wf = true) : (s.readEntry n va f).mem.wf = true := by
  unfold State.readEntry
  extract_lets q
  obtain ⟨u, e, hu⟩ := named_wf (s.touchVa n q va.toNat 64) ((State.touchVa_mem _ _ _ _ _).symm ▸ h)
  have ht : ∀ p : Option Nat, (p.elim (f u (s.entryAt n q va)) (fun p =>
      s.takeTrap n { cause := 0x11, slot := 7, imm := 0, faddr := BitVec.ofNat 64 p } false)).mem.wf = true := by
    intro p
    cases p
    · exact hf _ _ hu
    · exact State.takeTrap_wf _ _ _ _ h
  rw [e]
  exact ht _

theorem State.deliverFrec_wf (s : State) (n : Nat) (c : Nat) (t : W64) (h : s.mem.wf = true) : (s.deliverFrec n c t).mem.wf = true := by
  unfold State.deliverFrec
  dsimp only
  repeat' split
  all_goals simp [State.trap0_wf, h]

theorem State.serveNote_wf (s : State) (n : Nat) (ms : List Nat) (h : s.mem.wf = true) : (s.serveNote n ms).mem.wf = true := by
  unfold State.serveNote
  repeat' first
    | with_reducible assumption
    | with_reducible apply State.takeTrap_wf
    | with_reducible apply foldl_wf
    | simp only [State.setAgent_mem]
    | split
    | intro _

theorem State.pitchExpiry_wf (s : State) (k : Nat) (h : s.mem.wf = true) : (s.pitchExpiry k).mem.wf = true := by
  unfold State.pitchExpiry
  split
  · split
    · exact State.lapse_wf _ _ h
    · rw [State.chargeOverstay_mem, State.modPitch_mem]; exact h
  · exact h

theorem State.settleIdle_wf (s : State) (k : Nat) (h : s.mem.wf = true) : (s.settleIdle k).mem.wf = true := by
  unfold State.settleIdle
  dsimp only
  repeat' split
  all_goals simp [State.lapse_wf, State.releaseWaiters_wf, h]

theorem State.idlePitch_wf (s : State) (k : Nat) (h : s.mem.wf = true) : (s.idlePitch k).mem.wf = true := by
  unfold State.idlePitch
  split
  · exact h
  · exact State.settleIdle_wf _ _ (by rw [State.setPitch_mem, State.overstayTick_mem]; exact State.pitchExpiry_wf _ _ h)

theorem State.serve_wf (s : State) (n : Nat) (ms : List Nat) (h : s.mem.wf = true) : (s.serve n ms).mem.wf = true := by
  unfold State.serve
  dsimp only
  repeat' split
  all_goals simp [State.serveNote_wf, h]

theorem State.issue_wf (s : State) (n : Nat) (ws : List Word) (hw : ∀ w ∈ ws, w.Keeps) (h : s.mem.wf = true) :
    (s.issue n ws).mem.wf = true := by
  unfold State.issue
  dsimp only
  split
  · refine foldl_wf _ (fun t m ht => ?_) _ _ h
    split <;> exact ht
  · refine State.issueReady_wf _ _ _ _ hw ?_
    split
    · rw [foldl_mem _ State.landPlanes_mem]; exact h
    · exact h

theorem State.entryRead_wf (s : State) (n : Nat) (h : s.mem.wf = true) : (s.entryRead n).mem.wf = true := by
  unfold State.entryRead
  split
  · exact State.readEntry_wf _ _ _ _ (fun _ _ ht => ht) h
  · exact State.readEntry_wf _ _ _ _ (fun _ _ ht => by rw [State.fileRequest_mem]; exact ht) h
  · exact State.readEntry_wf _ _ _ _ (fun _ _ ht => by rw [State.fileLaunch_mem]; exact ht) h
  · exact h

theorem State.rentScrubWait_wf (s : State) (n : Nat) (base : Nat) (h : s.mem.wf = true) : (s.rentScrubWait n base).mem.wf = true := by
  unfold State.rentScrubWait
  repeat' split
  all_goals simp [State.genayReply_wf, h]

theorem State.drainPitch_wf (s : State) (k : Nat) (h : s.mem.wf = true) : (s.drainPitch k).mem.wf = true := by
  unfold State.drainPitch
  dsimp only
  repeat' split
  all_goals simp [State.releaseWaiters_wf, h]

theorem State.takeFar_wf (s : State) (n : Nat) (f : Byte × W64) (h : s.mem.wf = true) : (s.takeFar n f).mem.wf = true := by
  unfold State.takeFar
  simp [State.trap0_wf, h]

theorem State.applyRent_wf (s : State) (r : RentOp) (h : s.mem.wf = true) : (s.applyRent r).mem.wf = true := by
  unfold State.applyRent
  dsimp only
  repeat' split
  all_goals simp [State.pitchExpiry_wf, h]

theorem State.twaitEnd_wf (s : State) (n : Nat) (h : s.mem.wf = true) : (s.twaitEnd n).mem.wf = true := by
  unfold State.twaitEnd
  repeat' first
    | with_reducible assumption
    | with_reducible apply State.endWait_wf
    | with_reducible apply State.takeFar_wf
    | with_reducible apply State.deliverFrec_wf
    | split
    | intro _

theorem State.fall_wf (s : State) (k : Nat) (h : s.mem.wf = true) : (s.fall k).mem.wf = true := by
  unfold State.fall
  dsimp only
  have hu : ((s.pitchExpiry k).overstayTick k).mem.wf = true := by rw [State.overstayTick_mem]; exact State.pitchExpiry_wf _ _ h
  split
  · exact State.settleIdle_wf _ _ hu
  · exact hu

theorem State.rentCommit_wf (s : State) (n : Nat) (h : s.mem.wf = true) : (s.rentCommit n).mem.wf = true := by
  unfold State.rentCommit
  repeat' split
  all_goals simp [State.applyRent_wf, h]

theorem State.finishDrain_wf (s : State) (t : TaskSet) (ts : Nat) (h : s.mem.wf = true) : (s.finishDrain t ts).mem.wf = true := by
  unfold State.finishDrain
  repeat' first
    | with_reducible assumption
    | with_reducible apply State.drainPitch_wf
    | with_reducible apply foldl_wf
    | simp only [State.endSet_mem, State.resetAgent_mem, State.dropMail_mem, State.forget_mem, State.modSet_mem]
    | intro _

theorem State.poll_wf (n : Nat) (e : W64) (t : W64) (s : State) (h : s.mem.wf = true) : (State.poll n e t s).mem.wf = true := by
  unfold State.poll
  obtain ⟨u, e, hu⟩ := named_wf (s.touchVa n (s.agent n).who.pasid e.toNat 8) ((State.touchVa_mem _ _ _ _ _).symm ▸ h)
  rw [e]
  dsimp only
  repeat' split
  all_goals simp [State.trap0_wf, h, hu]

theorem State.ckptDone_wf (s : State) (n : Nat) (ms : List Nat) (light final : Bool) (pc : W64) (h : s.mem.wf = true) :
    (s.ckptDone n ms light final pc).mem.wf = true := by
  unfold State.ckptDone
  split
  · exact State.abandon_wf _ _ h
  · split
    · exact State.takeFar_wf _ _ _ h
    · have hs : (ms.foldl (State.snapshotAgent light pc) s).mem.wf = true := by
        rw [foldl_mem _ (State.snapshotAgent_mem light pc)]; exact h
      dsimp only
      split
      · rw [foldl_mem _ (fun t m => State.endAgent_mem t m _)]; exact hs
      · exact State.serve_wf _ _ _ hs

theorem State.taskSetCompletion_wf (s : State) (ts : Nat) (h : s.mem.wf = true) : (s.taskSetCompletion ts).mem.wf = true := by
  unfold State.taskSetCompletion
  repeat' split
  all_goals simp [State.endDrain_wf, State.finishDrain_wf, State.report_wf, h]

theorem State.vacateDevice_wf (s : State) (h : s.mem.wf = true) : (s.vacateDevice).mem.wf = true := by
  unfold State.vacateDevice
  repeat' first
    | with_reducible assumption
    | with_reducible apply State.idlePitch_wf
    | with_reducible apply foldl_wf
    | simp only [State.vacate_mem]
    | intro _

theorem State.twaitaPoll_wf (s : State) (n : Nat) (h : s.mem.wf = true) : (s.twaitaPoll n).mem.wf = true := by
  unfold State.twaitaPoll
  split <;> simp [State.endWait_wf, State.poll_wf, h]

theorem State.fallAll_wf (s : State) (ks : List Nat) (h : s.mem.wf = true) : (s.fallAll ks).mem.wf = true := by
  unfold State.fallAll
  repeat' first
    | with_reducible assumption
    | with_reducible apply State.fall_wf
    | with_reducible apply foldl_wf

theorem State.checkpointComplete_wf (s : State) (n : Nat) (h : s.mem.wf = true) : (s.checkpointComplete n).mem.wf = true := by
  unfold State.checkpointComplete
  dsimp only
  cases (s.agent n).wait with
  | ckpt light final pc =>
    dsimp only
    split
    · exact State.ckptDone_wf _ _ _ _ _ _ h
    · exact h
  | stop =>
    dsimp only
    split
    · exact State.stopDone_wf _ _ _ h
    · exact h
  | _ => exact h

theorem State.arrive_wf (s : State) (k : Nat) (h : s.mem.wf = true) : (s.arrive k).mem.wf = true := by
  unfold State.arrive
  dsimp only
  repeat' split
  all_goals simp [State.fallAll_wf, State.takeTrap_wf, h]

theorem State.finishUpdate_wf (s : State) (q : BitVec 6) (r : Req) (h : s.mem.wf = true) : (s.finishUpdate q r).mem.wf = true := by
  refine State.fetchAll_wf _ (State.postEvent_wf _ _ (State.fwReset_wf _ (State.postDone_wf _ _ _ _ _ (State.vacateDevice_wf _ ?_))))
  rw [State.dropReq_mem]
  exact h

theorem State.complete_wf (s : State) (n : Nat) (c : BitVec 3) (h : s.mem.wf = true) : (s.complete n c).mem.wf = true := by
  unfold State.complete
  split
  · exact h
  · split
    · extract_lets t a slot x u v l ev
      have hu : u.mem.wf = true := by
        rw [State.setAgent_mem]; exact State.fallAll_wf _ _ h
      have hv : v.mem.wf = true := by
        unfold v
        split
        · rw [State.setAgent_mem]; exact hu
        · exact State.noteStopped_wf _ _ _ _ _ _ hu
      rw [State.setAgent_mem]; exact hv
    · exact h

theorem State.serveUpdate_wf (q : BitVec 6) (r : Req) (s : State) (h : s.mem.wf = true) :
    (State.serveUpdate q r s).state.mem.wf = true := by
  unfold State.serveUpdate
  split
  · exact h
  · split
    · split
      · split
        · exact h
        · rw [Served.state_wait]; exact State.finishUpdate_wf _ _ _ h
      · exact h
    · rw [Served.state_wait, State.unfetch_mem]
      exact h

/-! ## The words of a bundle -/

theorem vecWord_keeps (iq : BitVec 2) (lat : Nat) (vd : BitVec 5) (md : BitVec 2) (ops : List QOp) (mask : Agent → Vec)
    (val : State → Nat → Agent → Vec) : (vecWord iq lat vd md ops mask val).Keeps := by
  unfold vecWord
  split <;> exact fun _ _ h => h

theorem wordOf_keeps (i : Instr) (w : Word) (h : wordOf i = some w) : w.Keeps := by
  intro t n ht
  cases i <;> simp only [wordOf, Option.some.injEq, reduceCtorEq] at h <;> subst h <;>
    first
    | exact ht
    | exact vecWord_keeps _ _ _ _ _ _ _ t n ht
    | exact (congrArg Memory.wf (raiseLast_mem t n)).trans ht
    | exact (congrArg Memory.wf (raiseRead_mem t n)).trans ht
    | exact State.beginReturn_wf _ _ _ ht
    | exact State.haltTask_wf _ _ ht

theorem goodWords_keeps (b : BitVec 256) (w : Word) (h : w ∈ goodWords (bundleWords b)) : w.Keeps := by
  obtain ⟨x, hx, hw⟩ := List.mem_filterMap.1 h
  obtain ⟨k, -, rfl⟩ := List.mem_map.1 hx
  split at hw
  · next e =>
    subst hw
    unfold bundleWord at e
    split at e
    · cases e
    · split at e
      · cases e
      · next i _ =>
        obtain ⟨v, hv, rfl⟩ := Option.map_eq_some_iff.1 (Except.ok.inj e)
        exact wordOf_keeps i v hv
  · cases hw

theorem State.issueWords_wf (s : State) (n : Nat) (b : BitVec 256) (h : s.mem.wf = true) : (s.issueWords n b).mem.wf = true := by
  unfold State.issueWords
  dsimp only
  split
  · exact State.takeTrap_wf _ _ _ _ h
  · refine State.issue_wf _ _ _ (fun w hw => ?_) h
    split at hw
    · rw [List.mem_singleton.1 hw]; exact fun _ _ ht => ht
    · exact goodWords_keeps b w hw

theorem State.issueNext_wf (s : State) (n : Nat) (h : s.mem.wf = true) : (s.issueNext n).mem.wf = true := by
  unfold State.issueNext
  dsimp only
  split
  · exact State.takeTrap_wf _ _ _ _ h
  · exact State.issueWords_wf _ _ _ h

/-- The first move that changes the state is one of those given. -/
theorem State.firstChange_mem (s t : State) (fs : List Move) (h : s.firstChange fs = some t) : ∃ f ∈ fs, t = f.run s := by
  induction fs with
  | nil => cases h
  | cons f fs ih =>
    unfold State.firstChange at h
    split at h
    · obtain ⟨g, hg, e⟩ := ih h
      exact ⟨g, .tail _ hg, e⟩
    · cases h
      exact ⟨f, .head _, rfl⟩

end Sys2Proof.Machine
end

