-- ==== Sys2Proof/Laws/Land.lean ====
section
/-!
SUPPORT. What the landing of one result, and the landing of all of them, can change.
-/

namespace Sys2Proof.Machine

/-- What holds of both branches holds of the choice. -/
theorem ite_keeps {α : Type} (P : α → Prop) (c : Prop) [Decidable c] {x y : α} (hx : P x) (hy : P y) : P (if c then x else y) := by
  split
  · exact hx
  · exact hy

/-- What an agent keeps while results land: everything but registers, banks, counters and the accumulator's touched rows. -/
def Agent.Landed (a b : Agent) : Prop :=
  ∃ r sh su sv sk lw ev es ec ls lc tc sb rs, b = { a with
    r := r, shadow := sh, super := su, svec := sv, skew := sk, lightWait := lw, even := ev, evsel := es, evcnt := ec, levsel := ls, levcnt := lc
    touched := tc, shadowBad := sb, resv := rs }

theorem Agent.Landed.refl (a : Agent) : a.Landed a := ⟨_, _, _, _, _, _, _, _, _, _, _, _, _, _, rfl⟩

theorem Agent.Landed.trans {a b c : Agent} (h : a.Landed b) (k : b.Landed c) : a.Landed c := by
  obtain ⟨_, _, _, _, _, _, _, _, _, _, _, _, _, _, rfl⟩ := h
  obtain ⟨_, _, _, _, _, _, _, _, _, _, _, _, _, _, rfl⟩ := k
  exact ⟨_, _, _, _, _, _, _, _, _, _, _, _, _, _, rfl⟩

/-- What a CSR write can be: of its agent, with or without a step of the free counter, of a partition, of the rates, or nothing. -/
theorem csrPut_cases (P : State → Prop) (s : State) (n : Nat) (c : BitVec 12) (v : W64)
    (h1 : ∀ b : Agent, (s.agent n).Landed b → P (s.setAgent n b))
    (h5 : ∀ b : Agent, (s.agent n).Landed b → P { s.setAgent n b with freeCtr := s.freeCtr + 1 }) (h2 : ∀ ps, P { s with parts := ps }) (h3 : ∀ rs, P { s with rates := rs })
    (h4 : P s) : P (s.csrPut n c v) := by
  unfold State.csrPut
  extract_lets a k up
  have hu : ∀ r, P (up r) := fun r => h1 _ ⟨_, _, _, _, _, _, _, _, _, _, _, _, _, _, rfl⟩
  have hp : P (match s.partOf n with
    | some p => { s with parts := Tab.modify Partition.reset s.parts p (fun x => { x with slice := v }) }
    | none => s) := by
    split
    · exact h2 _
    · exact h4
  repeat' apply ite_keeps P
  all_goals first
    | exact hu _
    | exact hp
    | exact h3 _
    | exact h4
    | exact h1 _ ⟨_, _, _, _, _, _, _, _, _, _, _, _, _, _, rfl⟩
    | exact h5 _ ⟨_, _, _, _, _, _, _, _, _, _, _, _, _, _, rfl⟩

/-- A CSR write touches its agent, the free counter, a partition or the rates. -/
theorem csrPut_only (s : State) (n : Nat) (c : BitVec 12) (v : W64) :
    let t := s.csrPut n c v
    t = { s with agents := t.agents, freeCtr := t.freeCtr, parts := t.parts, rates := t.rates } :=
  csrPut_cases (fun t => t = { s with agents := t.agents, freeCtr := t.freeCtr, parts := t.parts, rates := t.rates }) s n c v
    (fun _ _ => rfl) (fun _ _ => rfl) (fun _ => rfl) (fun _ => rfl) rfl

/-- A landing touches its agent, memory, the free counter, a partition or the rates. -/
theorem land_is (s : State) (n : Nat) (x : Res) : ∃ as fc m po wc ps rs hl ac,
    s.land n x = { s with
      agents := as, freeCtr := fc, mem := m, poison := po, wcStatus := wc, parts := ps, rates := rs
      hostLines := hl, activated := ac } := by
  unfold State.land
  cases x
  case csr c v =>
    dsimp only
    refine csrPut_cases (fun t => ∃ as fc m po wc ps rs hl ac, t =
        { s with agents := as, freeCtr := fc, mem := m, poison := po, wcStatus := wc, parts := ps, rates := rs, hostLines := hl, activated := ac }) s n c v (fun _ _ => ⟨_, _, _, _, _, _, _, _, _, rfl⟩) (fun _ _ => ⟨_, _, _, _, _, _, _, _, _, rfl⟩) (fun _ => ⟨_, _, _, _, _, _, _, _, _, rfl⟩)
      (fun _ => ⟨_, _, _, _, _, _, _, _, _, rfl⟩) ⟨_, _, _, _, _, _, _, _, _, rfl⟩
  case row => unfold State.putRow; dsimp only; rw [put_only]; exact ⟨_, _, _, _, _, _, _, _, _, rfl⟩
  all_goals exact ⟨_, _, _, _, _, _, _, _, _, rfl⟩

theorem land_only (s : State) (n : Nat) (x : Res) :
    let t := s.land n x
    t = { s with
      agents := t.agents, freeCtr := t.freeCtr, mem := t.mem, poison := t.poison, wcStatus := t.wcStatus, parts := t.parts, rates := t.rates
      hostLines := t.hostLines, activated := t.activated } := by
  obtain ⟨_, _, _, _, _, _, _, _, _, h⟩ := land_is s n x
  rw [h]

theorem csrPut_agent (s : State) (n : Nat) (c : BitVec 12) (v : W64) : (s.agent n).Landed ((s.csrPut n c v).agent n) :=
  csrPut_cases (fun t => (s.agent n).Landed (t.agent n)) s n c v (fun b h => by rw [State.agent_setAgent]; exact h)
    (fun b h => by show (s.agent n).Landed ((s.setAgent n b).agent n); rw [State.agent_setAgent]; exact h)
    (fun _ => Agent.Landed.refl _) (fun _ => Agent.Landed.refl _) (Agent.Landed.refl _)

theorem csrPut_agent_ne (s : State) (n m : Nat) (c : BitVec 12) (v : W64) (h : m ≠ n) : (s.csrPut n c v).agent m = s.agent m :=
  csrPut_cases (fun t => t.agent m = s.agent m) s n c v (fun _ _ => State.agent_setAgent_ne _ _ _ _ h)
    (fun _ _ => State.agent_setAgent_ne s n m _ h) (fun _ => rfl) (fun _ => rfl) rfl

theorem putS_landed (a : Agent) (d : BitVec 5) (v : W64) : a.Landed (a.putS d v) := by
  unfold Agent.putS
  split
  · exact Agent.Landed.refl _
  · split
    · split <;> exact ⟨_, _, _, _, _, _, _, _, _, _, _, _, _, _, rfl⟩
    · exact ⟨_, _, _, _, _, _, _, _, _, _, _, _, _, _, rfl⟩

theorem putA_landed (a : Agent) (d : BitVec 4) (v : W64) : a.Landed (a.putA d v) := by
  unfold Agent.putA
  repeat' split
  all_goals exact ⟨_, _, _, _, _, _, _, _, _, _, _, _, _, _, rfl⟩

theorem putShape_landed (a : Agent) (k h : BitVec 2) (f : BitVec 9) (v : W64) : a.Landed (a.putShape k h f v) := by
  unfold Agent.putShape
  exact ⟨_, _, _, _, _, _, _, _, _, _, _, _, _, _, rfl⟩

theorem landEntry_landed (a : Agent) (q : BitVec 4) (v : Vec) : a.Landed (a.landEntry q v) := by
  unfold Agent.landEntry
  exact ⟨_, _, _, _, _, _, _, _, _, _, _, _, _, _, rfl⟩

theorem land_agent (s : State) (n : Nat) (x : Res) : (s.agent n).Landed ((s.land n x).agent n) := by
  unfold State.land
  cases x <;> dsimp only <;> try rw [State.agent_setAgent]
  · exact putS_landed _ _ _
  · exact putA_landed _ _ _
  · exact ⟨_, _, _, _, _, _, _, _, _, _, _, _, _, _, rfl⟩
  · exact ⟨_, _, _, _, _, _, _, _, _, _, _, _, _, _, rfl⟩
  · exact ⟨_, _, _, _, _, _, _, _, _, _, _, _, _, _, rfl⟩
  · exact ⟨_, _, _, _, _, _, _, _, _, _, _, _, _, _, rfl⟩
  · exact csrPut_agent _ _ _ _
  · exact putShape_landed _ _ _ _ _
  · exact ⟨_, _, _, _, _, _, _, _, _, _, _, _, _, _, rfl⟩
  · exact landEntry_landed _ _ _
  · unfold State.putRow
    dsimp only
    rw [put_only]
    change (s.agent n).Landed ((s.setAgent n _).agent n)
    rw [State.agent_setAgent]
    split <;> exact ⟨_, _, _, _, _, _, _, _, _, _, _, _, _, _, rfl⟩

theorem land_agent_ne (s : State) (n m : Nat) (x : Res) (h : m ≠ n) : (s.land n x).agent m = s.agent m := by
  unfold State.land
  cases x <;> dsimp only <;> try exact State.agent_setAgent_ne _ _ _ _ h
  exact csrPut_agent_ne _ _ _ _ _ h

/-- Memory changes only as a row lands. -/
theorem land_mem (s : State) (n : Nat) (x : Res) (h : ∀ t r v, x ≠ .row t r v) : (s.land n x).mem = s.mem := by
  unfold State.land
  cases x <;> try rfl
  · dsimp only
    rw [csrPut_only]
  · exact absurd rfl (h _ _ _)

/-- Everything that an agent has in flight lands. -/
theorem drainFlights_spec (s : State) (n k : Nat) :
    let t := s.drainFlights n k
    t = { s with
      agents := t.agents, freeCtr := t.freeCtr, mem := t.mem, poison := t.poison, wcStatus := t.wcStatus, parts := t.parts, rates := t.rates
      hostLines := t.hostLines, activated := t.activated } ∧
      (∃ fs, ({ s.agent n with flight := fs } : Agent).Landed (t.agent n)) ∧ ∀ m, m ≠ n → t.agent m = s.agent m := by
  dsimp only
  induction k generalizing s with
  | zero => exact ⟨rfl, ⟨_, Agent.Landed.refl _⟩, fun _ _ => rfl⟩
  | succ k ih =>
    unfold State.drainFlights
    split
    · exact ⟨rfl, ⟨_, Agent.Landed.refl _⟩, fun _ _ => rfl⟩
    · next f hf =>
      obtain ⟨h1, ⟨fs, h2⟩, h3⟩ := ih ((s.setAgent n { s.agent n with flight := (s.agent n).flight.erase f }).land n f.res)
      dsimp only
      refine ⟨?_, ?_, ?_⟩
      · rw [h1, land_only]
        rfl
      · have h4 := land_agent (s.setAgent n { s.agent n with flight := (s.agent n).flight.erase f }) n f.res
        rw [State.agent_setAgent] at h4
        refine ⟨fs, Agent.Landed.trans ?_ h2⟩
        obtain ⟨_, _, _, _, _, _, _, _, _, _, _, _, _, _, h5⟩ := h4
        rw [h5]
        exact ⟨_, _, _, _, _, _, _, _, _, _, _, _, _, _, rfl⟩
      · intro m hm
        rw [h3 m hm, land_agent_ne _ _ _ _ hm, State.agent_setAgent_ne _ _ _ _ hm]

theorem drain_spec (s : State) (n : Nat) :
    let t := s.drain n
    t = { s with
      agents := t.agents, freeCtr := t.freeCtr, mem := t.mem, poison := t.poison, wcStatus := t.wcStatus, parts := t.parts, rates := t.rates
      hostLines := t.hostLines, activated := t.activated } ∧
      (∃ fs, ({ s.agent n with flight := fs } : Agent).Landed (t.agent n)) ∧ ∀ m, m ≠ n → t.agent m = s.agent m :=
  drainFlights_spec s n _

end Sys2Proof.Machine
end

