-- ==== Sys2Proof/Laws/Loop.lean ====
section
/-!
SUPPORT. The iteration step of 02 R55: what strides, rewinds and the cascade leave in registers and levels.
-/

namespace Sys2Proof.Machine

theorem getA_putA (a : Agent) (d r : BitVec 4) (x : W64) (h : a.mode = .task) : (a.putA d x).getA r = if r = d then x else a.getA r := by
  unfold Agent.putA Agent.getA Agent.bank
  by_cases hd : 12 ≤ d.toNat <;> by_cases hr : 12 ≤ r.toNat <;> by_cases e : r = d <;> simp [hd, hr, e, h] <;>
    (rw [Tab.get_set_ne]; intro h2; exact e (BitVec.eq_of_toNat_eq h2))

theorem putA_mode (a : Agent) (d : BitVec 4) (x : W64) : (a.putA d x).mode = a.mode := by
  obtain ⟨_, _, _, _, _, _, h⟩ := LoopOnly.putA a d x
  rw [h]

theorem putA_level (a : Agent) (d : BitVec 4) (x : W64) (j : Nat) : (a.putA d x).level j = a.level j := by
  unfold Agent.putA
  repeat' split
  all_goals rfl

/-- A sweep over address registers below `k`, each written once from the sweep's own table `g`. -/
theorem sweep_spec (p : Nat → Bool) (g : Agent → Nat → W64) (hg : ∀ (a b : Agent) k, a.getA (BitVec.ofNat 4 k) = b.getA (BitVec.ofNat 4 k) → g a k = g b k)
    (a : Agent) (h : a.mode = .task) (k : Nat) (hk : k ≤ 16) :
    let b := (List.range k).foldl (fun a j => if p j then a.putA (BitVec.ofNat 4 j) (g a j) else a) a
    b.mode = .task ∧ b.r.pc = a.r.pc ∧ (∀ j, b.level j = a.level j) ∧
      ∀ r : BitVec 4, b.getA r = if r.toNat < k ∧ p r.toNat then g a r.toNat else a.getA r := by
  induction k with
  | zero => exact ⟨h, rfl, fun _ => rfl, fun r => by simp⟩
  | succ k ih =>
    obtain ⟨h1, h2, h3, h4⟩ := ih (by omega)
    rw [List.range_succ, List.foldl_append]
    generalize (List.range k).foldl (fun a j => if p j then a.putA (BitVec.ofNat 4 j) (g a j) else a) a = b at *
    simp only [List.foldl_cons, List.foldl_nil]
    by_cases hp : p k = true
    · rw [if_pos hp]
      refine ⟨by rw [putA_mode]; exact h1, ?_, fun j => by rw [putA_level]; exact h3 j, fun r => ?_⟩
      · rw [← h2]; unfold Agent.putA; repeat' split
        all_goals rfl
      · rw [getA_putA _ _ _ _ h1]
        by_cases e : r = BitVec.ofNat 4 k
        · have hr : r.toNat = k := by rw [e, BitVec.toNat_ofNat]; omega
          rw [if_pos e, if_pos ⟨by omega, by rw [hr]; exact hp⟩, hr]
          refine hg _ _ _ ?_
          rw [h4, if_neg (by rw [BitVec.toNat_ofNat]; omega)]
        · have hr : r.toNat ≠ k := by
            intro hr; apply e; apply BitVec.eq_of_toNat_eq; rw [BitVec.toNat_ofNat]; omega
          rw [if_neg e, h4]
          by_cases hc : r.toNat < k ∧ p r.toNat = true
          · rw [if_pos hc, if_pos ⟨by omega, hc.2⟩]
          · rw [if_neg hc, if_neg (fun hh => hc ⟨by omega, hh.2⟩)]
    · rw [if_neg hp]
      refine ⟨h1, h2, h3, fun r => ?_⟩
      rw [h4]
      by_cases hc : r.toNat < k ∧ p r.toNat = true
      · rw [if_pos hc, if_pos ⟨by omega, hc.2⟩]
      · rw [if_neg hc, if_neg]
        rintro ⟨hh, hp2⟩
        by_cases e : r.toNat = k
        · rw [e] at hp2; exact hp hp2
        · exact hc ⟨by omega, hp2⟩

/-- Strides added: the flagged registers advance (02 R55). -/
theorem addStrides_spec (a : Agent) (v : Level) (h : a.mode = .task) :
    (a.addStrides v).mode = .task ∧ (a.addStrides v).r.pc = a.r.pc ∧ (∀ j, (a.addStrides v).level j = a.level j) ∧
      ∀ r : BitVec 4, (a.addStrides v).getA r = match Tab.get none v.stride r.toNat with
        | some x => a.getA r + x
        | none => a.getA r := by
  have e : a.addStrides v = (List.range 16).foldl (fun a j => if (Tab.get none v.stride j).isSome then a.putA (BitVec.ofNat 4 j)
      (a.getA (BitVec.ofNat 4 j) + (Tab.get none v.stride j).getD 0) else a) a := by
    unfold Agent.addStrides
    congr 1
    funext a k
    cases Tab.get none v.stride k <;> rfl
  obtain ⟨h1, h2, h3, h4⟩ := sweep_spec (fun j => (Tab.get none v.stride j).isSome)
    (fun a j => a.getA (BitVec.ofNat 4 j) + (Tab.get none v.stride j).getD 0) (fun _ _ _ h => by rw [h]) a h 16 (Nat.le_refl _)
  rw [e]
  refine ⟨h1, h2, h3, fun r => ?_⟩
  rw [h4]
  have hr := r.isLt
  cases hs : Tab.get none v.stride r.toNat <;> simp
  intro hh
  omega

/-- Entry values restored (02 R55). -/
theorem rewind_spec (a : Agent) (v : Level) (h : a.mode = .task) :
    (a.rewind v).mode = .task ∧ (a.rewind v).r.pc = a.r.pc ∧ (∀ j, (a.rewind v).level j = a.level j) ∧
      ∀ r : BitVec 4, (a.rewind v).getA r = match Tab.get none v.stride r.toNat with
        | some _ => Tab.get 0 v.entry r.toNat
        | none => a.getA r := by
  have e : a.rewind v = (List.range 16).foldl (fun a j => if (Tab.get none v.stride j).isSome then a.putA (BitVec.ofNat 4 j)
      (Tab.get 0 v.entry j) else a) a := by
    unfold Agent.rewind
    congr 1
    funext a k
    cases Tab.get none v.stride k <;> rfl
  obtain ⟨h1, h2, h3, h4⟩ := sweep_spec (fun j => (Tab.get none v.stride j).isSome) (fun _ j => Tab.get 0 v.entry j) (fun _ _ _ _ => rfl) a h 16
    (Nat.le_refl _)
  rw [e]
  refine ⟨h1, h2, h3, fun r => ?_⟩
  rw [h4]
  have hr := r.isLt
  cases hs : Tab.get none v.stride r.toNat <;> simp
  intro hh
  omega

/-! ## Levels after an update -/

/-- The innermost active level is the lowest active one. -/
theorem innermost_spec {a : Agent} {l : Nat} : a.innermost = some l ↔ l < 6 ∧ (a.level l).act = true ∧ ∀ j < l, (a.level j).act = false := by
  unfold Agent.innermost
  rw [List.find?_range_eq_some]
  simp [and_left_comm]

theorem retire_getA (a : Agent) (k m : Nat) (r : BitVec 4) : (a.retire k m).getA r = a.getA r := by
  unfold Agent.getA Agent.bank Agent.retire; rfl

theorem setLevel_getA (a : Agent) (l : Nat) (x : Level) (r : BitVec 4) : (a.setLevel l x).getA r = a.getA r := rfl

/-- Reading a level after a write of one. -/
@[simp] theorem setLevel_level (a : Agent) (l j : Nat) (x : Level) : (a.setLevel l x).level j = if j = l then x else a.level j := by
  unfold Agent.setLevel Agent.level
  by_cases h : j = l
  · subst h; simp
  · simp [h, Tab.get_set_ne]

theorem foldl_skip {α β : Type} (f : α → β → α) (l : List β) (h : ∀ b, ∀ x ∈ l, f b x = b) (a : α) : l.foldl f a = a := by
  induction l with
  | nil => rfl
  | cons x l ih => rw [List.foldl_cons, h a x List.mem_cons_self]; exact ih fun b y hy => h b y (List.mem_cons_of_mem _ hy)

theorem landA_id (a : Agent) (h : ∀ f ∈ a.flight, ∀ d x, f.res ≠ .a d x) : a.landA = a := by
  have key (b : Agent) (f : Flight) (hf : f ∈ a.flight) : (match f.res with | .a d v => b.putA d v | _ => b) = b := by
    have := h f hf
    cases hr : f.res <;> simp_all
  have keep (f : Flight) (hf : f ∈ a.flight) : (match f.res with | .a _ _ => false | _ => true) = true := by
    have := h f hf
    cases hr : f.res <;> simp_all
  have whole (x : Agent) (hx : x = a) :
      ({ x with flight := x.flight.filter (fun f => match f.res with | .a _ _ => false | _ => true) } : Agent) = a := by
    subst hx
    rw [List.filter_eq_self.2 keep]
  exact whole _ (foldl_skip _ _ key a)

theorem withPc_getA (a : Agent) (p : W64) (r : BitVec 4) : ({ a with r := { a.r with pc := p } } : Agent).getA r = a.getA r := rfl

theorem withPc_level (a : Agent) (p : W64) (r : Nat) : ({ a with r := { a.r with pc := p } } : Agent).level r = a.level r := rfl

end Sys2Proof.Machine
end

