-- ==== Sys2Proof/Laws/Trap.lean ====
section
/-!
SUPPORT. What a restore, the end of a task and the taking of an exception leave: the agent, its registers, memory, the other agents.
-/

namespace Sys2Proof.Machine

/-- An event changes the counters alone. -/
theorem event_is (a : Agent) (k j : Nat) : ∃ ev, a.event k j = { a with evcnt := ev } := ⟨_, rfl⟩

/-! ## The parts of a restore -/

theorem revertNear_only (s : State) (n : Nat) (j : Tab (Option (BitVec 512))) :
    s.revertNear n j = { s with mem := (s.revertNear n j).mem } := by
  unfold State.revertNear
  induction j generalizing s with
  | nil => rfl
  | cons x xs ih =>
    rw [List.foldl_cons, ih]
    rcases x with ⟨k, _ | v⟩ <;> rfl

theorem revertPoison_only (s : State) (n : Nat) (a : Agent) : s.revertPoison n a = { s with poison := (s.revertPoison n a).poison } := by
  unfold State.revertPoison
  rfl

theorem revertRows_only (s : State) (n : Nat) (j : Tab (Option Vec)) : s.revertRows n j = { s with mem := (s.revertRows n j).mem } := by
  unfold State.revertRows
  induction j generalizing s with
  | nil => rfl
  | cons x xs ih =>
    rw [List.foldl_cons, ih]
    rcases x with ⟨k, _ | v⟩ <;> rfl

/-- What a pitch leaves behind touches the host's copies and the notes of dependences alone. -/
theorem withdraw_only (s : State) (p : Pitch) :
    let t := s.withdraw p
    t = { s with hostLines := t.hostLines, tasksets := t.tasksets, tileLaunches := t.tileLaunches } := by
  dsimp only
  unfold State.withdraw
  split <;> rfl

/-- A pitch that goes touches the pages, the host's copies and the notes of dependences alone. -/
theorem forgetPages_only (s : State) (p : Pitch) :
    let t := s.forgetPages p
    t = { s with pages := t.pages, hostLines := t.hostLines, tasksets := t.tasksets, tileLaunches := t.tileLaunches } := by
  dsimp only
  unfold State.forgetPages
  repeat' split
  · rw [withdraw_only]
  · rw [withdraw_only]
  · rfl

theorem cancelRent_only (s : State) (r : RentOp) :
    let t := s.cancelRent r
    t = { s with
      accounts := t.accounts, pitches := t.pitches, pages := t.pages, hostLines := t.hostLines, tasksets := t.tasksets, tileLaunches := t.tileLaunches } := by
  cases r <;> dsimp only [State.cancelRent] <;> (try rw [forgetPages_only]) <;> rfl

/-- A cancelled withhold buffer touches accounts, pitches, what goes with a pitch, and mailbox reservations alone. -/
theorem cancelAll_only (s : State) (wb : List Cmd) :
    let t := s.cancelAll wb
    t = { s with
      accounts := t.accounts, pitches := t.pitches, pages := t.pages, hostLines := t.hostLines, tasksets := t.tasksets, tileLaunches := t.tileLaunches
      mailbox := t.mailbox } := by
  dsimp only
  unfold State.cancelAll
  induction wb generalizing s with
  | nil => rfl
  | cons c cs ih =>
    rw [List.foldl_cons, ih]
    cases c <;> first | rfl | (dsimp only; rw [cancelRent_only])

/-- The bytes that a restore brings back: memory and its poison change, nothing else. -/
theorem revert_only (s : State) (n : Nat) (a : Agent) :
    let t := ((s.revertNear n a.journal).revertRows n a.touched).revertPoison n a
    t = { s with mem := t.mem, poison := t.poison } := by
  dsimp only
  rw [revertPoison_only, revertRows_only, revertNear_only]

/-- What a restore cancels and drops. -/
theorem cancel_only (s : State) (n : Nat) (w : Who) (wb : List Cmd) :
    let t := ((s.cancelAll wb).dropLoads n).dropReads n w wb
    t = { s with
      accounts := t.accounts, pitches := t.pitches, pages := t.pages, hostLines := t.hostLines, tasksets := t.tasksets, tileLaunches := t.tileLaunches
      mailbox := t.mailbox, transit := t.transit, arrivals := t.arrivals } := by
  dsimp only
  unfold State.dropReads State.dropLoads
  rw [cancelAll_only]

/-- The state that a restore leaves, but for the planes of its agent. -/
theorem restore_is (s : State) (n : Nat) : ∃ t : State, ∃ p0 f0 p1 f1 ev,
    t = { s with
      mem := ((s.revertNear n (s.agent n).journal).revertRows n (s.agent n).touched).mem, poison := t.poison
      accounts := t.accounts, pitches := t.pitches, pages := t.pages, hostLines := t.hostLines, tasksets := t.tasksets, tileLaunches := t.tileLaunches
      mailbox := t.mailbox, transit := t.transit, arrivals := t.arrivals } ∧
    s.restore n = t.setAgent n { (s.agent n).clearInterval with
      r := { (s.agent n).savedRegs with pfault0 := f0, pfault1 := f1 }, plane0 := p0, plane1 := p1, evcnt := ev } := by
  unfold State.restore
  refine ⟨_, _, _, _, _, _, ?_, rfl⟩
  rw [cancel_only, revert_only]
  rfl

/-- The state around the agent while it is restored. -/
theorem restore_around (s : State) (n : Nat) :
    let t := s.restore n
    t = { s with
      agents := t.agents, mem := t.mem, poison := t.poison, accounts := t.accounts, pitches := t.pitches, pages := t.pages
      hostLines := t.hostLines, tasksets := t.tasksets, tileLaunches := t.tileLaunches, mailbox := t.mailbox, transit := t.transit, arrivals := t.arrivals } := by
  obtain ⟨t, _, _, _, _, _, ht, h⟩ := restore_is s n
  rw [h, ht]
  rfl

/-- Memory after a restore: the journalled lines, then the touched rows. -/
theorem restore_mem (s : State) (n : Nat) :
    (s.restore n).mem = ((s.revertNear n (s.agent n).journal).revertRows n (s.agent n).touched).mem := by
  obtain ⟨t, _, _, _, _, _, ht, h⟩ := restore_is s n
  rw [h, State.setAgent_mem, ht]

theorem restore_agent_ne (s : State) (n m : Nat) (h : m ≠ n) : (s.restore n).agent m = s.agent m := by
  obtain ⟨t, _, _, _, _, _, ht, hr⟩ := restore_is s n
  rw [hr, State.agent_setAgent_ne _ _ _ _ h, ht]
  rfl

/-- The agent after its restore (12 R261). -/
theorem restore_agent (s : State) (n : Nat) : ∃ p0 f0 p1 f1 ev,
    (s.restore n).agent n = { (s.agent n).clearInterval with
      r := { (s.agent n).savedRegs with pfault0 := f0, pfault1 := f1 }, plane0 := p0, plane1 := p1, evcnt := ev } := by
  obtain ⟨t, _, _, _, _, _, -, hr⟩ := restore_is s n
  exact ⟨_, _, _, _, _, by rw [hr, State.agent_setAgent]⟩

/-! ## The entries -/

/-- The agent at the first bundle of its fault handler (12 R265). -/
theorem enterFault_is (vec : W64) (a : Agent) : ∃ ev, a.enterFault vec = { a with
    mode := .userFault
    hbundles := 0
    shadow := { a.shadow with
      s := Tab.set 0 (Tab.set 0 (Tab.set 0 (Tab.set 0 a.shadow.s 24 a.cause) 25 a.faddr) 26 a.ckpc) 31 a.r.pc }
    resume := a.r.pc
    r := { a.r with pc := vec }
    evcnt := ev } := ⟨_, rfl⟩

/-- The words that an entry leaves in a bank. -/
theorem entry_bank (b : Tab W64) (c f p r : W64) (d : Nat) :
    Tab.get 0 (Tab.set 0 (Tab.set 0 (Tab.set 0 (Tab.set 0 b 24 c) 25 f) 26 p) 31 r) d =
      if d = 31 then r else if d = 26 then p else if d = 25 then f else if d = 24 then c else Tab.get 0 b d := by
  by_cases h31 : d = 31
  · subst h31; simp
  by_cases h26 : d = 26
  · subst h26; simp [Tab.get_set_ne]
  by_cases h25 : d = 25
  · subst h25; simp [Tab.get_set_ne]
  by_cases h24 : d = 24
  · subst h24; simp [Tab.get_set_ne]
  simp [Tab.get_set_ne, h31, h26, h25, h24]

/-- A register of a handler's bank, s24 to s31. -/
theorem getS_bank (a : Agent) (d : BitVec 5) (h0 : d ≠ 0) (h24 : 24 ≤ d.toNat) : a.getS d = Tab.get 0 a.bank.s d.toNat := by
  unfold Agent.getS
  rw [if_neg h0, if_pos h24]

/-! ## The end of a task -/

theorem vacate_only (s : State) (k : Nat) :
    let t := s.vacate k
    t = { s with
      accounts := t.accounts, pitches := t.pitches, pages := t.pages, hostLines := t.hostLines, tasksets := t.tasksets, tileLaunches := t.tileLaunches } := by
  dsimp only
  unfold State.vacate State.vacateNow
  dsimp only
  split
  · rfl
  · split
    · rw [forgetPages_only]; rfl
    · rw [forgetPages_only]; rfl
    · rfl

/-- The pitches that a task vacates at its end: accounts, pitches, what goes with a pitch, and Genay's commits change, nothing else. -/
theorem vacateCore_only (s : State) (n : Nat) (w : Who) :
    let t := s.vacateCore n w
    t = { s with
      accounts := t.accounts, pitches := t.pitches, pages := t.pages, hostLines := t.hostLines, tasksets := t.tasksets, tileLaunches := t.tileLaunches
      commits := t.commits } := by
  dsimp only
  unfold State.vacateCore
  generalize s.corePitches n w = ks
  induction ks generalizing s with
  | nil => rfl
  | cons k ks ih =>
    rw [List.foldl_cons, ih]
    unfold State.endVacate
    split
    · rfl
    · rw [vacate_only]

theorem advancePass_only (s : State) (t : TaskSet) (x : LoomTask) : s.advancePass t x = { s with passes := (s.advancePass t x).passes } := by
  unfold State.advancePass
  split <;> rfl

theorem settlePass_only (s : State) (ts j : Nat) :
    let t := s.settlePass ts j
    t = { s with passes := t.passes, tasksets := t.tasksets } := by
  dsimp only
  unfold State.settlePass
  dsimp only
  split
  · rfl
  · split
    · rfl
    · split
      · rw [advancePass_only]
      · rfl

theorem markEnded_only (s : State) (w : Who) (code : Byte) (cause : W64) :
    let t := s.markEnded w code cause
    t = { s with passes := t.passes, tasksets := t.tasksets } := by
  dsimp only
  unfold State.markEnded
  split
  · rfl
  · split
    · rfl
    · split
      · rfl
      · dsimp only
        rw [settlePass_only]

@[simp] theorem vacateCore_agent (s : State) (n : Nat) (w : Who) (m : Nat) : (s.vacateCore n w).agent m = s.agent m := by
  rw [vacateCore_only]
  rfl

@[simp] theorem vacateCore_mem (s : State) (n : Nat) (w : Who) : (s.vacateCore n w).mem = s.mem := by rw [vacateCore_only]

@[simp] theorem markEnded_agent (s : State) (w : Who) (code : Byte) (cause : W64) (m : Nat) :
    (s.markEnded w code cause).agent m = s.agent m := by
  rw [markEnded_only]
  rfl

@[simp] theorem markEnded_mem (s : State) (w : Who) (code : Byte) (cause : W64) : (s.markEnded w code cause).mem = s.mem := by
  rw [markEnded_only]

/-- The agent after the end of its task: free, in the user view, with nothing to wait for (04 R111). -/
theorem endAgent_agent (s : State) (n : Nat) (code : Byte) :
    (s.endAgent n code).agent n = if (s.agent n).task = none then s.agent n else
      { s.agent n with task := none, mode := .task, wait := .none, stop := StopReq.none } := by
  unfold State.endAgent
  dsimp only
  split
  · next h => simp [h]
  · next h =>
    simp [h]

theorem endAgent_agent_ne (s : State) (n m : Nat) (code : Byte) (h : m ≠ n) : (s.endAgent n code).agent m = s.agent m := by
  unfold State.endAgent
  dsimp only
  split
  · rfl
  · simp [State.agent_setAgent_ne _ _ _ _ h]

theorem endAgent_mem (s : State) (n : Nat) (code : Byte) : (s.endAgent n code).mem = s.mem := by
  unfold State.endAgent
  dsimp only
  split
  · rfl
  · simp

/-- HALT and a double trap of an agent that belongs to no gang (02 R74, 12 R268): the interval is discarded and the task is over. -/
theorem haltTask_agent (s : State) (n : Nat) (h : s.members n = [n]) : ∃ p0 p1 ev,
    (s.haltTask n).agent n =
      let b : Agent := { (s.agent n).clearInterval with r := (s.agent n).r, plane0 := p0, plane1 := p1, evcnt := ev }
      if b.task = none then b else { b with task := none, mode := .task, wait := .none, stop := StopReq.none } := by
  obtain ⟨p0, f0, p1, f1, ev, hr⟩ := restore_agent s n
  refine ⟨p0, p1, ev, ?_⟩
  unfold State.haltTask
  simp only [h, List.foldl_cons, List.foldl_nil, endAgent_agent]
  unfold State.discard
  simp only [State.agent_setAgent, hr]

/-! ## Who is of a gang after a trap -/

theorem causeRank_solo {s : State} {n : Nat} (h : s.members n = [n]) : s.causeRank n = 0 := by simp [State.causeRank, h]

theorem members_restore (s : State) (n m : Nat) : (s.restore n).members m = s.members m := by
  unfold State.members
  by_cases h : m = n
  · subst h
    obtain ⟨_, _, _, _, _, h⟩ := restore_agent s m
    rw [h]; rfl
  · rw [restore_agent_ne _ _ _ h]

theorem members_setAgent (s : State) (n m : Nat) (a : Agent) (h : a.task = (s.agent n).task) : (s.setAgent n a).members m = s.members m := by
  unfold State.members
  by_cases e : m = n
  · subst e; rw [State.agent_setAgent, h]
  · rw [State.agent_setAgent_ne _ _ _ _ e]

theorem haltTask_task {s : State} {n : Nat} (h : s.members n = [n]) : ((s.haltTask n).agent n).task = none := by
  obtain ⟨_, _, _, h⟩ := haltTask_agent s n h
  rw [h]
  dsimp only
  split <;> simp_all

end Sys2Proof.Machine
end

