-- ==== Sys2Proof/Laws/Requests.lean ====
section
/-!
SUPPORT. How a queue interface serves a request, what a completion, a launch, a readiness and a stop request change.
-/


namespace Sys2Proof.Spec

set_option linter.unusedSimpArgs false

open Sys2Proof Sys2Proof.Machine

theorem foldl_modify_get {α : Type} [DecidableEq α] (d : α) (g : Nat → α → α) (a : Nat) (n : Nat) (t : Tab α) (f : Nat) :
    Tab.get d ((List.range n).foldl (fun t i => Tab.modify d t (a + i) (g i)) t) f =
      if a ≤ f ∧ f < a + n then g (f - a) (Tab.get d t f) else Tab.get d t f := by
  induction n with
  | zero => rw [if_neg (by omega)]; rfl
  | succ n ih =>
    rw [List.range_succ, List.foldl_append, List.foldl_cons, List.foldl_nil]
    unfold Tab.modify at *
    by_cases h : f = a + n
    · subst h
      rw [Tab.get_set, ih, if_neg (by omega), if_pos (by omega)]
      congr 1; omega
    · rw [Tab.get_set_ne _ _ _ _ _ h, ih]
      by_cases h2 : a ≤ f ∧ f < a + n
      · rw [if_pos h2, if_pos (by omega)]
      · rw [if_neg h2, if_neg (by omega)]

theorem get_mem {α : Type} (d : α) (t : Tab α) (k : Nat) (h : Tab.get d t k ≠ d) : (k, Tab.get d t k) ∈ t := by
  induction t with
  | nil => exact absurd rfl h
  | cons x t ih =>
    obtain ⟨j, v⟩ := x
    unfold Tab.get at h ⊢
    by_cases e : j = k
    · subst e; simp
    · rw [if_neg e] at h ⊢; exact List.mem_cons_of_mem _ (ih h)

theorem mem_get {α : Type} (d : α) (t : Tab α) (hn : (t.map (·.1)).Nodup) (k : Nat) (v : α) (h : (k, v) ∈ t) : Tab.get d t k = v := by
  induction t with
  | nil => simp at h
  | cons x t ih =>
    obtain ⟨j, w⟩ := x
    rw [List.map_cons, List.nodup_cons] at hn
    unfold Tab.get
    rcases List.mem_cons.1 h with h | h
    · cases h; simp
    · have : j ≠ k := by rintro rfl; exact hn.1 (List.mem_map.2 ⟨_, h, rfl⟩)
      rw [if_neg this]; exact ih hn.2 h

theorem numAt_end (k x : Nat) : numAt (le k x) 0 k = x % 256 ^ k := by
  have := numAt_here k x []; rwa [List.append_nil] at this

theorem flatMap_length_eq {α : Type} (l : List α) (f : α → List Byte) (n : Nat) (h : ∀ x ∈ l, (f x).length = n) : (l.flatMap f).length = n * l.length := by
  induction l with
  | nil => simp
  | cons a l ih => rw [List.flatMap_cons, List.length_append, h a (by simp), ih (fun x hx => h x (by simp [hx])), List.length_cons]; ring

theorem subBytes_length (p : Pitch) (k : Nat) : (p.subBytes k).length = 16 := by
  unfold Pitch.subBytes; split <;> simp

theorem head_none {s : State} {q : BitVec 6} (h : ∀ x ∈ s.requests, x.q ≠ q) : s.headReq q = none := by
  unfold State.headReq
  rw [List.find?_eq_none]
  intro x hx
  simpa using h x hx

theorem flush_none {s : State} {q : BitVec 6} (h : ∀ x ∈ s.requests, x.q ≠ q) (f : Nat) : State.flush q f s = s := by
  cases f with
  | zero => rfl
  | succ f => unfold State.flush; rw [head_none h]

theorem flushAll_none {s : State} {q : BitVec 6} (h : ∀ x ∈ s.requests, x.q ≠ q) : s.flushAll q = s := flush_none h _

theorem head_some {s : State} {q : BitVec 6} {r : Req} {rest : List Req} (h : s.requests = r :: rest) (hq : r.q = q) : s.headReq q = some r := by
  unfold State.headReq
  rw [h]; simp [hq]

theorem flushAll_good {s : State} {q : BitVec 6} {r : Req} {rest : List Req} (h : s.requests = r :: rest) (hq : r.q = q) (hm : r.malformed = false) :
    s.flushAll q = s := by
  unfold State.flushAll
  rw [h, List.length_cons]
  unfold State.flush
  rw [head_some h hq]; simp [hm]

@[simp] theorem put_requests (s : State) (a : Nat) (bs : List Byte) : (s.put a bs).requests = s.requests := by rw [put_only]

@[simp] theorem postDone_requests (s : State) (q tag st v) : (s.postDone q tag st v).requests = s.requests := by
  unfold State.postDone
  simp only []
  split
  · rfl
  · split <;> simp [State.setQrec, State.signal]

theorem serve_done {s : State} {q : BitVec 6} {r : Req} {op : Byte} (h : posed s q r op) (pick : Req → Bool) (hp : pick r = true)
    (run : Req → State → Served) (t : State) (st : Byte) (v : W64) (hr : run r s = .done t st v) (ht : t.requests = s.requests) :
    s.serveReq q pick run = answer t r st v := by
  obtain ⟨⟨rest, h0, h1⟩, hq, ho, hm, hp1, hp2, hp3, hlv⟩ := h
  unfold State.serveReq
  simp only [hlv, Option.isSome_none, Bool.false_eq_true, if_false, flushAll_good h0 hq hm, head_some h0 hq, hp, if_true]
  unfold State.serve1 State.reqStatus
  rw [hq]
  have h3 : ¬ (r.pasid ≠ (s.qrec q).pasid ∨ s.revoked.contains r.pasid = true) := by rw [hp2]; simp [hp1]
  have h4 : ¬ (0x10 ≤ r.opcode.toNat ∧ (!(s.qrec q).priv) = true) := by
    rw [ho]; rintro ⟨a, b⟩; rw [hp3 a] at b; simp at b
  simp only [if_neg h3, if_neg h4, hr]
  rw [flushAll_none]
  · unfold answer; rw [hq]
  · intro x hx
    rw [postDone_requests] at hx
    simp [State.dropReq, ht, h0] at hx
    exact h1 x hx

theorem op_done {s : State} {q : BitVec 6} {r : Req} {op : Byte} (h : posed s q r op)
    (run : Req → State → Served) (t : State) (st : Byte) (v : W64) (hr : run r s = .done t st v) (ht : t.requests = s.requests) :
    s.serveOp q op run = answer t r st v := by
  exact serve_done h _ (by simp [h.2.2.1]) run t st v hr ht

theorem serve_wait {s : State} {q : BitVec 6} {r : Req} {op : Byte} (h : posed s q r op) (pick : Req → Bool) (hp : pick r = true)
    (run : Req → State → Served) (t : State) (hr : run r s = .wait t) :
    s.serveReq q pick run = t := by
  obtain ⟨⟨rest, h0, h1⟩, hq, ho, hm, hp1, hp2, hp3, hlv⟩ := h
  unfold State.serveReq
  simp only [hlv, Option.isSome_none, Bool.false_eq_true, if_false, flushAll_good h0 hq hm, head_some h0 hq, hp, if_true]
  unfold State.serve1 State.reqStatus
  rw [hq]
  have h3 : ¬ (r.pasid ≠ (s.qrec q).pasid ∨ s.revoked.contains r.pasid = true) := by rw [hp2]; simp [hp1]
  have h4 : ¬ (0x10 ≤ r.opcode.toNat ∧ (!(s.qrec q).priv) = true) := by
    rw [ho]; rintro ⟨a, b⟩; rw [hp3 a] at b; simp at b
  simp only [if_neg h3, if_neg h4, hr]

theorem serve1_later {s : State} {q : BitVec 6} {r : Req} {op : Byte} (h : posed s q r op)
    (run : Req → State → Served) (t : State) (hr : run r s = .later t) (ht : t.requests = s.requests) :
    s.serve1 q r run = t.dropReq r := by
  obtain ⟨⟨rest, h0, h1⟩, hq, ho, hm, hp1, hp2, hp3, hlv⟩ := h
  unfold State.serve1 State.reqStatus
  rw [hq]
  have h3 : ¬ (r.pasid ≠ (s.qrec q).pasid ∨ s.revoked.contains r.pasid = true) := by rw [hp2]; simp [hp1]
  have h4 : ¬ (0x10 ≤ r.opcode.toNat ∧ (!(s.qrec q).priv) = true) := by
    rw [ho]; rintro ⟨a, b⟩; rw [hp3 a] at b; simp at b
  simp only [if_neg h3, if_neg h4, hr]
  rw [flushAll_none]
  intro x hx
  simp [State.dropReq, ht, h0] at hx
  exact h1 x hx

theorem serve1_done {s : State} {q : BitVec 6} {r : Req} {op : Byte} (h : posed s q r op)
    (run : Req → State → Served) (t : State) (st v) (hr : run r s = .done t st v) (ht : t.requests = s.requests) :
    s.serve1 q r run = answer t r st v := by
  have := serve_done h (fun _ => true) rfl run t st v hr ht
  obtain ⟨⟨rest, h0, h1⟩, hq, ho, hm, hp1, hp2, hp3, hlv⟩ := h
  unfold State.serveReq at this
  simp only [hlv, Option.isSome_none, Bool.false_eq_true, if_false, flushAll_good h0 hq hm, head_some h0 hq, if_true] at this
  exact this

theorem completion_length (r : QRec) (tag : W64) (st : Byte) (v : W64) : (completionBytes r tag st v).length = 32 := by
  simp [completionBytes]

@[simp] theorem qrec_setQrec (s : State) (q : BitVec 6) (r : QRec) : (s.setQrec q r).qrec q = r := by
  unfold State.setQrec State.qrec; simp

theorem signal_qrec (s : State) (q : BitVec 6) : (s.signal q).qrec q = { s.qrec q with unsignalled := 0 } := by
  show Tab.get _ (Tab.set _ _ _ _) _ = _
  rw [Tab.get_set]

theorem postDone_eq (s : State) (q : BitVec 6) (tag : W64) (st : Byte) (v : W64) (h : (s.qrec q).state = true) :
    s.postDone q tag st v =
      let r := s.qrec q
      let u := (s.put (hostAddr (r.cqbase.toNat + 32 * r.cqtail.toNat)) (completionBytes r tag st v)).setQrec q (r.posted s.now.toNat)
      if r.rvalid && decide (r.count.toNat ≤ r.unsignalled + 1) then u.signal q else u := by
  unfold State.postDone
  simp only [h, Bool.not_true, Bool.false_eq_true, if_false]
  rw [qrec_setQrec]
  have : (s.put (hostAddr ((s.qrec q).cqbase.toNat + 32 * (s.qrec q).cqtail.toNat)) (completionBytes (s.qrec q) tag st v)).now = s.now := rfl
  rw [this]
  cases hr : (s.qrec q).rvalid
  · simp
  · simp [QRec.posted, hr]

theorem modSet_get (s : State) (ts k : Nat) (f : TaskSet → TaskSet) :
    Tab.get none (s.modSet ts f).tasksets k = if k = ts then (Tab.get none s.tasksets ts).map f else Tab.get none s.tasksets k := by
  unfold State.modSet Tab.modify
  by_cases h : k = ts
  · subst h; simp
  · simp [h, Tab.get_set_ne]

theorem fold_modSet (f : TaskSet → TaskSet) (ks : List Nat) (hk : ks.Nodup) (s : State) (k : Nat) :
    Tab.get none (ks.foldl (fun s k => s.modSet k f) s).tasksets k =
      if k ∈ ks then (Tab.get none s.tasksets k).map f else Tab.get none s.tasksets k := by
  induction ks generalizing s with
  | nil => simp
  | cons a ks ih =>
    rw [List.foldl_cons, ih (List.nodup_cons.1 hk).2, modSet_get]
    by_cases h : k = a
    · subst h
      have := (List.nodup_cons.1 hk).1
      simp [this]
    · simp [h]

theorem fold_modSet_only (f : TaskSet → TaskSet) (ks : List Nat) (s : State) :
    ks.foldl (fun s k => s.modSet k f) s = { s with tasksets := (ks.foldl (fun s k => s.modSet k f) s).tasksets } := by
  induction ks generalizing s with
  | nil => rfl
  | cons a ks ih => rw [List.foldl_cons]; exact (ih (s.modSet a f)).trans rfl

/-- What a set's tasks advance as they leave their looms changes its entry and the passes. -/
theorem settleSet_only (s : State) (ts : Nat) (t : TaskSet) :
    s.settleSet ts t = { s with tasksets := (s.settleSet ts t).tasksets, passes := (s.settleSet ts t).passes } := by
  unfold State.settleSet
  generalize List.range t.tasks.length = l
  induction l generalizing s with
  | nil => rfl
  | cons j l ih => rw [List.foldl_cons, ih, settlePass_only]

/-- The end of a set that does not run changes its entry and the passes of its placed tasks. -/
theorem endSet_only (s : State) (ts : Nat) (c : Byte) :
    s.endSet ts c = { s with tasksets := (s.endSet ts c).tasksets, passes := (s.endSet ts c).passes } := by
  unfold State.endSet
  split
  · rfl
  · rw [settleSet_only]; rfl

theorem fold_endSet_only (c : Byte) (ks : List Nat) (s : State) : let t := ks.foldl (fun s k => s.endSet k c) s
    t = { s with tasksets := t.tasksets, passes := t.passes } := by
  induction ks generalizing s with
  | nil => rfl
  | cons a ks ih =>
    intro t
    exact (ih (s.endSet a c)).trans
      (congrArg (fun v : State => { v with tasksets := t.tasksets, passes := t.passes }) (endSet_only s a c))

theorem revoke_requests (s : State) (p : BitVec 20) : (s.revoke p).requests = s.requests := by
  unfold State.revoke
  simp only
  rw [fold_endSet_only]

theorem makeReady_spec (s : State) (ts : Nat) (t : TaskSet) (h : Tab.get none s.tasksets ts = some t) :
    ∃ ps, s.makeReady ts = { s with passes := ps, tasksets := Tab.set none s.tasksets ts (some { t with ready := true }) } := by
  unfold State.makeReady
  rw [h]
  simp only
  unfold State.joinPass
  simp only
  split
  · exact ⟨_, rfl⟩
  · split
    · exact ⟨_, rfl⟩
    · exact ⟨_, rfl⟩

theorem enterLaunch_spec (s : State) (src : Source) (h : BitVec 512) (part : BitVec 5) (cls : BitVec 2) (pasid cap) (hd : hdrDep h = 0)
    (hj : 0 < (s.readRecord nobody h).dies) :
    let r := s.readRecord nobody h
    let t := s.touchRecord nobody h
    ∃ ps, s.enterLaunch src h part cls pasid cap =
      { t with nextTs := s.nextTs + 1, passes := ps, tasksets := Tab.set none s.tasksets (s.nextTs + 1)
                 (some { taskSetOf src r part cls r.rentwin pasid cap (s.nextTs + 1) with ready := true }) } := by
  intro r t
  change 0 < r.dies at hj
  have et : t = { s with hostLines := t.hostLines, activated := t.activated } := touchRecord_only s nobody h
  unfold State.enterLaunch
  dsimp only
  change ∃ ps, State.dependenceMet { t with
    nextTs := s.nextTs + 1
    tasksets := Tab.set none t.tasksets (s.nextTs + 1) (some { taskSetOf src r part cls r.rentwin pasid cap (s.nextTs + 1) with ready := false }) }
      (s.nextTs + 1) = _
  have er : r.hdr = h := rfl
  clear_value t r
  have e1 : t.tasksets = s.tasksets := by rw [et]
  rw [e1]
  have hw : (taskSetOf src r part cls r.rentwin pasid cap (s.nextTs + 1)).tasks.all (fun x => decide (x.stat = .ended)) = false := by
    unfold taskSetOf
    obtain ⟨k, hk⟩ := Nat.exists_eq_succ_of_ne_zero (Nat.pos_iff_ne_zero.1 hj)
    rw [hk, List.range_succ_eq_map]
    rfl
  generalize hu : taskSetOf src r part cls r.rentwin pasid cap (s.nextTs + 1) = u at hw ⊢
  have hh : hdrDep u.hdr = 0 := by rw [← hu, ← hd, ← er]; rfl
  have hn : u.dep = none := by rw [← hu]; rfl
  unfold State.dependenceMet
  simp only [Tab.get_set]
  rw [if_neg (by simp [hw])]
  obtain ⟨ps, e⟩ := makeReady_spec { t with
    nextTs := s.nextTs + 1
    tasksets := Tab.set none s.tasksets (s.nextTs + 1) (some { u with ready := false }) }
    (s.nextTs + 1) _ (Tab.get_set _ _ _ _)
  refine ⟨ps, ?_⟩
  unfold State.touchDep State.depState
  simp only [hh, hn, if_true]
  simp only [hn] at e
  rw [e]
  simp only [Tab.set_set]

theorem modTask_get (s : State) (ts j k : Nat) (f : LoomTask → LoomTask) :
    Tab.get none (s.modTask ts j f).tasksets k =
      if k = ts then (Tab.get none s.tasksets ts).map (fun t => { t with tasks := t.tasks.mapIdx (fun i x => if i = j then f x else x) }) else Tab.get none s.tasksets k := by
  unfold State.modTask Tab.modify
  by_cases h : k = ts
  · subst h; simp
  · simp [h, Tab.get_set_ne]

theorem setAgent_agent_ite (s : State) (n m : Nat) (a : Agent) : (s.setAgent n a).agent m = if m = n then a else s.agent m := by
  unfold State.setAgent State.agent
  by_cases h : m = n
  · subst h; simp
  · simp [h, Tab.get_set_ne]

theorem askStop_spec (s : State) (ms : List Nat) (f : StopReq → StopReq) (hf : ∀ x, f (f x) = f x) (hw : ∀ m, (s.agent m).inWait = false) :
    (∀ m, (s.askStop ms f).agent m = if m ∈ ms then asked (s.agent m) f else s.agent m) ∧
    s.askStop ms f = { s with agents := (s.askStop ms f).agents } := by
  have one : ∀ (l : List Nat) (t : State), let u := l.foldl (fun s m => s.setAgent m { s.agent m with stop := f (s.agent m).stop }) t
      (∀ m, u.agent m = if m ∈ l then { t.agent m with stop := f (t.agent m).stop } else t.agent m) ∧ u = { t with agents := u.agents } := by
    intro l
    induction l with
    | nil => intro t; exact ⟨fun m => by simp, rfl⟩
    | cons a l ih =>
      intro t
      rw [List.foldl_cons]
      obtain ⟨i1, i2⟩ := ih (t.setAgent a { t.agent a with stop := f (t.agent a).stop })
      refine ⟨fun m => ?_, ?_⟩
      · rw [i1, setAgent_agent_ite]
        by_cases h : m = a
        · subst h; simp [hf]
        · simp [h]
      · exact i2.trans rfl
  have two : ∀ (l : List Nat) (t : State), (∀ m, (t.agent m).inWait = false) →
      l.foldl (fun s m => if (s.agent m).inWait && (s.agent m).abandons then s.abandon m else s) t = t := by
    intro l
    induction l with
    | nil => exact fun _ _ => rfl
    | cons a l ih => intro t h; rw [List.foldl_cons, if_neg (by rw [h]; simp)]; exact ih t h
  unfold State.askStop
  simp only
  generalize hl : ms.filter (fun m => (s.agent m).task.isSome) = live
  obtain ⟨i1, i2⟩ := one live s
  have hw' : ∀ m, ((live.foldl (fun s m => s.setAgent m { s.agent m with stop := f (s.agent m).stop }) s).agent m).inWait = false := by
    intro m; rw [i1]; split
    · exact hw m
    · exact hw m
  rw [two _ _ hw']
  refine ⟨fun m => ?_, i2⟩
  rw [i1]
  subst hl
  unfold asked
  by_cases h1 : m ∈ ms
  · by_cases h2 : (s.agent m).task.isSome = true
    · simp [h1, h2]
    · simp [h1, h2]
  · simp [h1]

theorem insertPatch_spec (e : BitVec 12 × BitVec 96) (ps : List (BitVec 12 × BitVec 96)) (h : List.Pairwise (fun x y => x.1.toNat < y.1.toNat) ps) :
    List.Pairwise (fun x y => x.1.toNat < y.1.toNat) (insertPatch e ps) ∧ ∀ x, x ∈ insertPatch e ps ↔ x = e ∨ (x ∈ ps ∧ x.1 ≠ e.1) := by
  induction ps with
  | nil => simp [insertPatch]
  | cons p ps ih =>
    rw [List.pairwise_cons] at h
    obtain ⟨i1, i2⟩ := ih h.2
    unfold insertPatch
    have ne (x : BitVec 12 × BitVec 96) (hx : x ∈ ps) : x.1 ≠ p.1 := by
      intro e; have := h.1 x hx; rw [e] at this; omega
    split
    · rename_i h1
      refine ⟨List.pairwise_cons.2 ⟨fun x hx => by rw [h1]; exact h.1 x hx, h.2⟩, fun x => ?_⟩
      constructor
      · intro hx; rcases List.mem_cons.1 hx with rfl | hx
        · exact Or.inl rfl
        · right; exact ⟨List.mem_cons_of_mem _ hx, by rw [h1]; exact ne x hx⟩
      · rintro (rfl | ⟨hx, hn⟩)
        · simp
        · rcases List.mem_cons.1 hx with rfl | hx
          · exact absurd h1.symm hn
          · simp [hx]
    · rename_i h1
      split
      · rename_i h2
        have h2' : e.1.toNat < p.1.toNat := h2
        refine ⟨List.pairwise_cons.2 ⟨fun x hx => ?_, List.pairwise_cons.2 h⟩, fun x => ?_⟩
        · rcases List.mem_cons.1 hx with rfl | hx
          · exact h2'
          · have := h.1 x hx; omega
        · constructor
          · intro hx; rcases List.mem_cons.1 hx with rfl | hx
            · exact Or.inl rfl
            · right; refine ⟨hx, ?_⟩
              rcases List.mem_cons.1 hx with rfl | hx
              · exact fun e => h1 e.symm
              · intro e2; have := h.1 x hx; rw [e2] at this; omega
          · rintro (rfl | ⟨hx, hn⟩)
            · simp
            · exact List.mem_cons_of_mem _ hx
      · rename_i h2
        have h2' : ¬ e.1.toNat < p.1.toNat := h2
        have h3 : e.1.toNat ≠ p.1.toNat := fun e => h1 (BitVec.eq_of_toNat_eq e)
        refine ⟨List.pairwise_cons.2 ⟨fun x hx => ?_, i1⟩, fun x => ?_⟩
        · rcases (i2 x).1 hx with rfl | ⟨hx, _⟩
          · omega
          · exact h.1 x hx
        · rw [List.mem_cons, i2, List.mem_cons]
          constructor
          · rintro (rfl | rfl | ⟨hx, hn⟩)
            · right; exact ⟨Or.inl rfl, fun e => h1 e.symm⟩
            · exact Or.inl rfl
            · exact Or.inr ⟨Or.inr hx, hn⟩
          · rintro (rfl | ⟨rfl | hx, hn⟩)
            · exact Or.inr (Or.inl rfl)
            · exact Or.inl rfl
            · exact Or.inr (Or.inr ⟨hx, hn⟩)

end Sys2Proof.Spec
end

