-- ==== Sys2Proof/Tests/Slice0.lean ====
section
/-!
SUPPORT. Tests: ill-formed instructions that WellFormed refuses, words written out from the spec's encodings, single steps whose results
the spec gives, and for each statement states and operands that meet its hypotheses.
-/

namespace Sys2Proof.Tests

set_option Elab.async false

open Sys2Proof Sys2Proof.Machine Sys2Proof.Spec

/-! ## States of the tests -/

/-- A leased pitch of account 0 and context 0 with SYNC, paid for until tick 1000. -/
def lease (tier : BitVec 3) (unit base len : Nat) : Pitch :=
  { Pitch.free with tier := tier, state := .leased, att := 1, base := base, length := len, paid := 1000, rate := 1, unit := unit }

/-- Agent `n` in the state `a` has the turn; core 0 holds its own stores, a loom store of loom 0 and a range of HBM are leased. -/
def rig (n : Nat) (a : Agent) : State :=
  State.setAgent { State.reset with
    cur := BitVec.ofNat 9 n
    pitches := [(0, lease 0 0 0 0xC0000), (1, lease 1 0 0 0x200000), (2, lease 2 0 0 0x600000), (3, lease 3 0 0 0x10000),
      (4, lease 4 0 0x10000 0x10000)] } n a

/-- A core's agent at reset with one entry in q0 and one in q12. -/
def fed : Agent := { Agent.reset with r := { Regs.reset with q := [(0, [7]), (12, [7])] } }

/-- An agent with one scalar register written. -/
def scalar (d : BitVec 5) (v : W64) : Agent := { Agent.reset with r := { Regs.reset with s := [(d.toNat, v)] } }

/-- An agent with one address register written. -/
def pointer (d : BitVec 4) (v : W64) : Agent := { Agent.reset with r := { Regs.reset with a := [(d.toNat, v)] } }

/-- The hypotheses of a statement about a word: the word has this row, the agent is ready and may hold it, and it selects the word under
its conditions. -/
def Runs (o : Option Form) (s : State) : Prop :=
  ∃ F, o = some F ∧ s.ready s.cur.toNat ∧ F.held ∧ (s.agent s.cur.toNat).selects F.iq = true ∧ F.can (s.agent s.cur.toNat)

/-- Queue operands that can be taken, as a check. -/
def supply (a : Agent) : List QOp → Bool
  | [] => true
  | o :: t => !(a.queue o.q).isEmpty && supply (if o.peek then a else a.pop o.q) t

theorem supply_ok (a : Agent) (ops : List QOp) (h : supply a ops = true) : a.supplies ops := by
  induction ops generalizing a with
  | nil => trivial
  | cons o t ih =>
    simp only [supply, Bool.and_eq_true, Bool.not_eq_true', List.isEmpty_eq_false_iff] at h
    exact ⟨h.1, ih _ h.2⟩

/-- A word runs where each condition of its row can be checked. -/
theorem runs_of {o : Option Form} {F : Form} {s : State} (hf : o = some F) (hr : s.ready s.cur.toNat) (hh : F.held) (hk : F.ok)
    (hc : let a := s.agent s.cur.toNat
      (a.selects F.iq && supply a F.ops && F.push.all (fun q => decide (((a.taken F.ops).queue q).length + a.reserved q < 8)) &&
        decide (F.cmds = 0 ∨ a.cmds + F.cmds ≤ 32) && decide (F.stores = 0 ∨ a.stores + F.stores ≤ 256)) = true) : Runs o s := by
  simp only [Bool.and_eq_true, decide_eq_true_eq, List.all_eq_true] at hc
  exact ⟨F, hf, hr, hh, hc.1.1.1.1, hk, supply_ok _ _ hc.1.1.1.2, hc.1.1.2, hc.1.2, hc.2⟩

/-- An agent of no gang, with no repetition and room in its interval, is ready. -/
theorem ready_of {s : State} {n : Nat} (h : (decide (s.members n = [n]) && decide ((s.agent n).r.repn = 0) &&
    decide ((s.agent n).bundles < 4096) && decide ((s.agent n).hbundles < 256)) = true) : s.ready n := by
  simp only [Bool.and_eq_true, decide_eq_true_eq] at h
  exact ⟨h.1.1.1, fun _ => h.1.1.2, fun _ => h.1.2, fun _ => h.2⟩

/-! ## Ill-formed instructions, one for each limit of 01 R20–R35 and 03 R83 -/

theorem test_wf_qualifier : (Instr.br 3 0).wf = false ∧ (Instr.add 3 1 2 3).wf = false ∧ (Instr.nld 3 0 0 0 0).wf = false ∧
    (Instr.vrsum 3 0 0 0 0 0).wf = false ∧ (Instr.mrep 3 1).wf = false ∧ (Instr.allowq 3 0).wf = false := by decide

theorem test_wf_condition : (Instr.bc 0 6 1 0).wf = false ∧ (Instr.bc 0 5 1 0).wf = true := by decide

theorem test_wf_level : (Instr.loop 0 6 1 1).wf = false ∧ (Instr.loopi 0 6 1 1).wf = false ∧ (Instr.loops 0 7 0 1).wf = false ∧
    (Instr.lbreak 0 6).wf = false ∧ (Instr.lstride 0 7 0 0).wf = false ∧ (Instr.lidx 0 1 6).wf = false := by decide

theorem test_wf_loop_length : (Instr.loop 0 0 1 0).wf = false ∧ (Instr.loopi 0 0 1 0).wf = false ∧ (Instr.loops 0 0 0 0).wf = false := by
  decide

theorem test_wf_loop_bounds : (Instr.loops 0 0 13 1).wf = false ∧ (Instr.loops 0 0 12 1).wf = true := by decide

/-- R28: family 6 takes no value, and AOUT takes only the codes that its row lists. -/
theorem test_wf_format : (Instr.fmt 0 6 0).wf = false ∧ (Instr.fmts 0 6 0).wf = false ∧ (Instr.fmt 0 2 0xFF).wf = false := by decide

theorem test_wf_qwait : (Instr.qwait 0 11 1).wf = false ∧ (Instr.qwait 0 12 0).wf = false ∧ (Instr.qwait 0 12 9).wf = false ∧
    (Instr.qwait 0 12 8).wf = true := by decide

theorem test_wf_qalign : (Instr.qalign 0 0 0).wf = false := by decide

theorem test_wf_fence : (Instr.fence 0 5 1).wf = false ∧ (Instr.fence 0 0 0).wf = false := by decide

theorem test_wf_csr : (Instr.csrr 0 1 0x007).wf = false ∧ (Instr.csrw 0 1 0x101).wf = false ∧ (Instr.csrr 0 1 0x230).wf = false ∧
    (Instr.csrr 0 1 0x100).wf = true := by decide

theorem test_wf_twait : (Instr.twait 0 7 1).wf = false := by decide

theorem test_wf_shape : (Instr.shw 0 0 0 1 0).wf = false ∧ (Instr.shr 0 1 1 0 17).wf = false ∧ (Instr.shw 0 1 0 1 16).wf = true := by
  decide

theorem test_wf_tile : (Instr.ard 0 0 12 0 0 0).wf = false ∧ (Instr.ardc 0 0 12 0 0 0).wf = false ∧ (Instr.awr 0 0 13 0 0 0).wf = false ∧
    (Instr.aacc 0 0 14 0 0 0).wf = false ∧ (Instr.azero 0 15 0 0 0).wf = false ∧ (Instr.ascl 0 0 12).wf = false ∧
    (Instr.ardt 0 0 12 0 0 0).wf = false ∧ (Instr.mma 0 12 0 0 0).wf = false ∧ (Instr.mmaz 0 12 0 0 0).wf = false ∧
    (Instr.mdrain 0 12).wf = false := by decide

theorem test_wf_vector_source : (Instr.vadd 0 1 16 2 1 0 0 0).wf = false ∧ (Instr.vadd 0 1 2 16 0 2 0 0).wf = false ∧
    (Instr.vmov 0 1 16 2 0 0).wf = false ∧ (Instr.vfma 0 1 31 2 1 0 0).wf = false ∧ (Instr.vadd 0 1 15 31 1 3 0 0).wf = true := by decide

theorem test_wf_vector_dest : (Instr.vadd 0 16 1 2 0 0 0 1).wf = false ∧ (Instr.vadd 0 1 1 2 0 0 0 2).wf = false ∧
    (Instr.viota 0 1 0 3).wf = false ∧ (Instr.viota 0 15 0 1).wf = true := by decide

theorem test_wf_predicate_dest : (Instr.vcmpeq 0 0 1 2 0 0 0).wf = false ∧ (Instr.vicmplt 0 0 1 2 0 0 0).wf = false ∧
    (Instr.pand 0 0 1 2).wf = false ∧ (Instr.por 0 0 1 2).wf = false ∧ (Instr.pxor 0 0 1 2).wf = false ∧ (Instr.pnot 0 0 1).wf = false ∧
    (Instr.pset 0 0 1).wf = false := by decide

theorem test_wf_interval_dest : (Instr.icmplt 0 1 2 0).wf = false ∧ (Instr.icmple 0 1 2 4).wf = false ∧ (Instr.icmpeq 0 1 2 7).wf = false ∧
    (Instr.isubset 0 1 2 0).wf = false ∧ (Instr.idisj 0 1 2 4).wf = false ∧ (Instr.idisj 0 1 2 3).wf = true := by decide

theorem test_wf_repeat : (Instr.mrep 0 0).wf = false := by decide

theorem test_wf_atomic_width : (Instr.amadd 0 1 2 2).wf = false ∧ (Instr.ammaxF 0 0 1 2 3).wf = false ∧ (Instr.amcas 0 0 1 2 2).wf = false ∧
    (Instr.amxchg 0 0 1 2 1).wf = true := by decide

theorem test_wf_wide_format : (Instr.wcadd 0 1 2 0xFF).wf = false ∧ (Instr.wcaddv 0 1 2 0xFF).wf = false := by decide

theorem test_wf_engine_records : (Instr.xcopy 0 0 1 0 1).wf = false ∧ (Instr.xgather 0 0 2 0 1 2 2).wf = false ∧
    (Instr.xscatter 0 0 3 0 1 2 3).wf = false ∧ (Instr.wstream 0 0 0 0 0).wf = false ∧ (Instr.xcopy 0 0 1 0 2).wf = true := by decide

theorem test_wf_engine_context : (Instr.xsplice 0 2 0 0 1 2).wf = false ∧ (Instr.xdarn 0 3 0 0 1 2).wf = false ∧
    (Instr.xdarnc 0 2 1).wf = false ∧ (Instr.xnote 0 1 7).wf = false ∧ (Instr.tread 0 1 7).wf = false := by decide

theorem test_wf_tier : (Instr.rent 0 1 2 0 6).wf = false ∧ (Instr.renew 0 1 2 7).wf = false ∧ (Instr.prepay 0 1 2 6).wf = false ∧
    (Instr.sublet 0 1 2 0 6).wf = false ∧ (Instr.vacate 0 1 2 6).wf = false ∧ (Instr.rentq 0 1 2 6).wf = false ∧
    (Instr.rateWrite 0 1 6).wf = false := by decide

/-- 04 R115: no attribute in tiers 0 to 2, SYNC alone in tier 3. -/
theorem test_wf_attributes : (Instr.rent 0 1 2 1 2).wf = false ∧ (Instr.rent 0 1 2 2 3).wf = false ∧ (Instr.rent 0 1 2 1 3).wf = true ∧
    (Instr.rent 0 1 2 7 4).wf = true := by decide

theorem test_wf_agent : (Instr.resultLanding 312).wf = false ∧ (Instr.genayReply 312 0).wf = false ∧ (Instr.start 312 0).wf = false ∧
    (Instr.rentCommit 311).wf = true := by decide

theorem test_wf_contexts_of_moves : (Instr.darncStart 0 7).wf = false ∧ (Instr.complete 0 7).wf = false ∧
    (Instr.taskPlacement 24).wf = false := by decide

/-- Words that the decoder refuses: qualifier 11, an unlisted opcode, a bit set outside the fields of the row. -/
theorem test_decode_refused : (decodeSlot 1 0xC168DC00).toOption = none ∧ (decodeSlot 0 0x3F000000).toOption = none ∧
    (decodeSlot 0 0x00000001).toOption = none ∧ (decodeSlot 1 0x01000001).toOption = none := by decide

/-! ## Words of each slot, written out from the fields of the opcode table -/

theorem test_decode_slot0_a :
  decodeSlot 0 0x41F2A74E = .ok (.br 1 15902542) ∧ decodeSlot 0 0x425BB162 = .ok (.bc 1 5 23 12642) ∧
      decodeSlot 0 0x83018B1B = .ok (.bpany 2 3 2843) ∧ decodeSlot 0 0x8401827F = .ok (.bpnone 2 3 639) ∧
      decodeSlot 0 0x053F88B0 = .ok (.call 0 4163760) ∧ decodeSlot 0 0x0600C000 = .ok (.jr 0 3) ∧ decodeSlot 0 0x07000000 = .ok (.ret 0) ∧
      decodeSlot 0 0x48523142 = .ok (.loop 1 2 18 12610) ∧ decodeSlot 0 0x096D73F5 = .ok (.loopi 0 3 3443 245) ∧
      decodeSlot 0 0x8A83687E = .ok (.loops 2 4 3 26750) ∧ decodeSlot 0 0x8BA00000 = .ok (.lbreak 2 5) ∧
      decodeSlot 0 0x8CB90000 = .ok (.lstride 2 5 12 16) ∧ decodeSlot 0 0x8DDB0000 = .ok (.lidx 2 27 3) ∧
      decodeSlot 0 0x8E000000 = .ok (.ckpt 2) := by
  decide

theorem test_decode_slot0_b :
  decodeSlot 0 0x8F000000 = .ok (.ckptl 2) ∧ decodeSlot 0 0x10800004 = .ok (.fmt 0 4 4) ∧ decodeSlot 0 0x5166C000 = .ok (.fmts 1 3 27) ∧
      decodeSlot 0 0x92000000 = .ok (.wfe 2) ∧ decodeSlot 0 0x1302C000 = .ok (.sev 0 11) ∧ decodeSlot 0 0x5406C000 = .ok (.waitt 1 27) ∧
      decodeSlot 0 0x15C10000 = .ok (.qwait 0 12 1) ∧ decodeSlot 0 0x16400000 = .ok (.qalign 0 0 1) ∧
      decodeSlot 0 0x57700000 = .ok (.fence 1 3 2) ∧ decodeSlot 0 0x99000001 = .ok (.uimask 2 1) ∧
      decodeSlot 0 0x1A00DF55 = .ok (.trap 0 57173) ∧ decodeSlot 0 0x1C100006 = .ok (.csrr 0 2 6) ∧
      decodeSlot 0 0x1D01C005 = .ok (.csrw 0 7 5) ∧ decodeSlot 0 0x1E003A2D = .ok (.brk 0 14893) := by
  decide

theorem test_decode_slot0_c :
  decodeSlot 0 0x6045C000 = .ok (.twait 1 2 23) ∧ decodeSlot 0 0xA1F7C000 = .ok (.twaita 2 15 31) ∧
      decodeSlot 0 0xA2044000 = .ok (.sleepc 2 17) ∧ decodeSlot 0 0x00000000 = .ok .nop ∧ decodeSlot 0 0x18000000 = .ok .uiret ∧
      decodeSlot 0 0x58000000 = .ok .uiretFirst ∧ decodeSlot 0 0x98000000 = .ok .uiretLast ∧ decodeSlot 0 0x1B000000 = .ok .eret ∧
      decodeSlot 0 0x5B000000 = .ok .eretFirst ∧ decodeSlot 0 0x9B000000 = .ok .eretLast ∧ decodeSlot 0 0x1F000000 = .ok .halt ∧
      decodeSlot 0 0x5F000000 = .ok .haltFirst ∧ decodeSlot 0 0x9F000000 = .ok .haltLast := by
  decide

theorem test_decode_slot1_a :
  decodeSlot 1 0x8168DC00 = .ok (.add 2 13 3 14) ∧ decodeSlot 1 0x821A5A00 = .ok (.sub 2 3 9 13) ∧
      decodeSlot 1 0x43FCF4B3 = .ok (.addi 1 31 19 13491) ∧ decodeSlot 1 0x04826400 = .ok (.mul 0 16 9 18) ∧
      decodeSlot 1 0x45A09400 = .ok (.mulh 1 20 2 10) ∧ decodeSlot 1 0x869A9800 = .ok (.mulhu 2 19 10 12) ∧
      decodeSlot 1 0x87DAB000 = .ok (.div 2 27 10 24) ∧ decodeSlot 1 0x88A29E00 = .ok (.divu 2 20 10 15) ∧
      decodeSlot 1 0x495AF600 = .ok (.rem 1 11 11 27) ∧ decodeSlot 1 0x4A40E000 = .ok (.remu 1 8 3 16) ∧
      decodeSlot 1 0x4BAA4C00 = .ok (.and 1 21 9 6) ∧ decodeSlot 1 0x8CF24A00 = .ok (.or 2 30 9 5) ∧
      decodeSlot 1 0x4D9F8800 = .ok (.xor 1 19 30 4) ∧ decodeSlot 1 0x0E661B36 = .ok (.andi 0 12 24 6966) := by
  decide

theorem test_decode_slot1_b :
  decodeSlot 1 0x4F75EAD7 = .ok (.ori 1 14 23 10967) ∧ decodeSlot 1 0x1084D217 = .ok (.xori 0 16 19 4631) ∧
      decodeSlot 1 0x9112C400 = .ok (.sll 2 2 11 2) ∧ decodeSlot 1 0x52B85200 = .ok (.srl 1 23 1 9) ∧
      decodeSlot 1 0x532AEC00 = .ok (.sra 1 5 11 22) ∧ decodeSlot 1 0x94430025 = .ok (.slli 2 8 12 37) ∧
      decodeSlot 1 0x955C4027 = .ok (.srli 2 11 17 39) ∧ decodeSlot 1 0x16558034 = .ok (.srai 0 10 22 52) ∧
      decodeSlot 1 0x179B9000 = .ok (.slt 0 19 14 8) ∧ decodeSlot 1 0x987A7400 = .ok (.sltu 2 15 9 26) ∧
      decodeSlot 1 0x1962B215 = .ok (.slti 0 12 10 12821) ∧ decodeSlot 1 0x9A339200 = .ok (.min 2 6 14 9) ∧
      decodeSlot 1 0x9B64C800 = .ok (.max 2 12 19 4) ∧ decodeSlot 1 0x9C3BCA00 = .ok (.minu 2 7 15 5) := by
  decide

theorem test_decode_slot1_c :
  decodeSlot 1 0x9DE12600 = .ok (.maxu 2 28 4 19) ∧ decodeSlot 1 0x5ECE0000 = .ok (.clz 1 25 24) ∧
      decodeSlot 1 0x9F35C000 = .ok (.popc 2 6 23) ∧ decodeSlot 1 0x20DEEC00 = .ok (.cmov 0 27 27 22) ∧
      decodeSlot 1 0x21A4546C = .ok (.li 0 20 283756) ∧ decodeSlot 1 0xA290B037 = .ok (.lui 2 18 45111) ∧
      decodeSlot 1 0x232A7E00 = .ok (.adds 0 5 9 31) ∧ decodeSlot 1 0x6413C400 = .ok (.subs 1 2 15 2) ∧
      decodeSlot 1 0x655A4000 = .ok (.amov 1 11 9) ∧ decodeSlot 1 0x66B38000 = .ok (.aget 1 22 14) ∧
      decodeSlot 1 0xA7485A00 = .ok (.aadd 2 9 1 13) ∧ decodeSlot 1 0x285A40A8 = .ok (.aaddi 0 11 9 168) ∧
      decodeSlot 1 0x6960E2A4 = .ok (.agen 1 12 3 17 164) ∧ decodeSlot 1 0x6A261200 = .ok (.fadd 1 4 24 9) := by
  decide

theorem test_decode_slot1_d :
  decodeSlot 1 0x6BE10200 = .ok (.fsub 1 28 4 1) ∧ decodeSlot 1 0xACEA8E00 = .ok (.fmul 2 29 10 7) ∧
      decodeSlot 1 0x2D4BD200 = .ok (.fdiv 0 9 15 9) ∧ decodeSlot 1 0x6E1CC400 = .ok (.fmin 1 3 19 2) ∧
      decodeSlot 1 0x2F4A0200 = .ok (.fmax 0 9 8 1) ∧ decodeSlot 1 0xB03E7800 = .ok (.fcmpEq 2 7 25 28) ∧
      decodeSlot 1 0xB0AEBE01 = .ok (.fcmpLt 2 21 26 31) ∧ decodeSlot 1 0x30E51C02 = .ok (.fcmpLe 0 28 20 14) ∧
      decodeSlot 1 0x7085C603 = .ok (.fcmpUn 1 16 23 3) ∧ decodeSlot 1 0x31B84000 = .ok (.fcvtF2i 0 23 1) ∧
      decodeSlot 1 0xB1818001 = .ok (.fcvtI2f 2 16 6) ∧ decodeSlot 1 0xB1360002 = .ok (.fcvtF2bf 2 6 24) ∧
      decodeSlot 1 0x71590003 = .ok (.fcvtBf2f 1 11 4) ∧ decodeSlot 1 0x3262C006 = .ok (.qpops 0 12 11 0 6) := by
  decide

theorem test_decode_slot1_e :
  decodeSlot 1 0x73440000 = .ok (.qpushs 1 8 16) ∧ decodeSlot 1 0x74F74006 = .ok (.shw 1 3 3 29 6) ∧
      decodeSlot 1 0x759D0005 = .ok (.shr 1 19 2 2 5) ∧ decodeSlot 1 0x36400000 = .ok (.rdrankRank 0 8) ∧
      decodeSlot 1 0x76E00001 = .ok (.rdrankLoom 1 28) ∧ decodeSlot 1 0xB6E80002 = .ok (.rdrankDie 2 29) ∧
      decodeSlot 1 0x76380003 = .ok (.rdrankCore 1 7) := by
  decide

theorem test_decode_slot3_a :
  decodeSlot 3 0x81E38740 = .ok (.nld 2 14 3 1 1856) ∧ decodeSlot 3 0x42DBB427 = .ok (.nldh 1 13 11 1 13351) ∧
      decodeSlot 3 0x839AFE4C = .ok (.nldb 2 9 10 1 32332) ∧ decodeSlot 3 0x4417AB62 = .ok (.nldx 1 1 7 1 10 866) ∧
      decodeSlot 3 0x059E380B = .ok (.nst 0 9 14 0 14347) ∧ decodeSlot 3 0x463D2E1D = .ok (.nsth 1 3 13 0 11805) ∧
      decodeSlot 3 0x07C21352 = .ok (.nstx 0 12 2 0 4 850) := by
  decide

theorem test_decode_slot4_a :
  decodeSlot 4 0x81F13490 = .ok (.ard 2 15 1 3 0 73) ∧ decodeSlot 4 0x0217CB10 = .ok (.ardc 0 1 7 12 1 49) ∧
      decodeSlot 4 0x4373BEA0 = .ok (.awr 1 7 3 11 1 106) ∧ decodeSlot 4 0x4422F480 = .ok (.aacc 1 2 2 15 0 72) ∧
      decodeSlot 4 0x05065B30 = .ok (.azero 0 6 5 1 51) ∧ decodeSlot 4 0x866A0000 = .ok (.ascl 2 6 10) ∧
      decodeSlot 4 0x47F77EC0 = .ok (.ardt 1 15 7 7 1 108) := by
  decide

theorem test_decode_slot5_a :
  decodeSlot 5 0x410B45FD = .ok (.vadd 1 1 13 2 3 3 7 1) ∧ decodeSlot 5 0x0258ABFD = .ok (.vsub 0 11 2 21 3 3 7 1) ∧
      decodeSlot 5 0x437319B1 = .ok (.vmul 1 14 12 12 3 1 4 1) ∧ decodeSlot 5 0x44C115DC = .ok (.vfma 1 24 4 10 3 2 7) ∧
      decodeSlot 5 0x856343D8 = .ok (.vfms 2 12 13 1 3 2 6) ∧ decodeSlot 5 0x463A10D1 = .ok (.vmin 1 7 8 8 1 2 4 1) ∧
      decodeSlot 5 0x071C85CD = .ok (.vmax 0 3 18 2 3 2 3 1) ∧ decodeSlot 5 0x484E818D = .ok (.vabs 1 9 26 3 3 1) ∧
      decodeSlot 5 0x0911809D = .ok (.vneg 0 2 6 1 7 1) ∧ decodeSlot 5 0x8A404089 = .ok (.vrcp 2 8 1 1 2 1) ∧
      decodeSlot 5 0x0B288189 = .ok (.vrsq 0 5 2 3 2 1) ∧ decodeSlot 5 0x8C43810D = .ok (.vsqrt 2 8 14 2 3 1) ∧
      decodeSlot 5 0x0D2B07D1 = .ok (.vdiv 0 5 12 3 3 2 4 1) ∧ decodeSlot 5 0x8E20C10D = .ok (.vexp2 2 4 3 2 3 1) := by
  decide

theorem test_decode_slot5_b :
  decodeSlot 5 0x4F29011D = .ok (.vexp 1 5 4 2 7 1) ∧ decodeSlot 5 0x1065018D = .ok (.vlog2 0 12 20 3 3 1) ∧
      decodeSlot 5 0x111C019D = .ok (.vsig 0 3 16 3 7 1) ∧ decodeSlot 5 0x92154185 = .ok (.vtanh 2 2 21 3 1 1) ∧
      decodeSlot 5 0x933F018D = .ok (.vcvt 2 7 28 3 3 1) ∧ decodeSlot 5 0x1472CACD = .ok (.vpexp 0 14 11 5 1 2 3 1) ∧
      decodeSlot 5 0x155F1DE8 = .ok (.vpmac 0 11 28 14 3 3 2) ∧ decodeSlot 5 0x96311578 = .ok (.vcmpeq 2 6 4 10 2 3 6) ∧
      decodeSlot 5 0x5710997C = .ok (.vcmplt 1 2 2 12 2 3 7) ∧ decodeSlot 5 0x180F49F8 = .ok (.vcmple 0 1 29 4 3 3 6) ∧
      decodeSlot 5 0x5932CB4C = .ok (.vcmpun 1 6 11 5 2 2 3) ∧ decodeSlot 5 0x5A33DFC5 = .ok (.viadd 1 6 15 15 3 2 1 1) ∧
      decodeSlot 5 0x5B204B79 = .ok (.visub 1 4 1 5 2 3 6 1) ∧ decodeSlot 5 0x1C59D325 = .ok (.vimul 0 11 7 9 2 1 1 1) := by
  decide

theorem test_decode_slot5_c :
  decodeSlot 5 0x9D610CAD = .ok (.vimin 2 12 4 6 1 1 3 1) ∧ decodeSlot 5 0x9E7B5355 = .ok (.vimax 2 15 13 9 2 2 5 1) ∧
      decodeSlot 5 0x1F4911DD = .ok (.vand 0 9 4 8 3 2 7 1) ∧ decodeSlot 5 0x604BB5E5 = .ok (.vor 1 9 14 26 3 3 1 1) ∧
      decodeSlot 5 0x215DFDE9 = .ok (.vxor 0 11 23 30 3 3 2 1) ∧ decodeSlot 5 0xA2290191 = .ok (.vnot 2 5 4 3 4 1) ∧
      decodeSlot 5 0xA359C4C9 = .ok (.vshl 2 11 7 2 1 2 2 1) ∧ decodeSlot 5 0x647715E9 = .ok (.vshr 1 14 28 10 3 3 2 1) ∧
      decodeSlot 5 0xA55859B9 = .ok (.vsra 2 11 1 12 3 1 6 1) ∧ decodeSlot 5 0x26390B79 = .ok (.vdot4 0 7 4 5 2 3 6 1) ∧
      decodeSlot 5 0x6709DCF0 = .ok (.vicmpeq 1 1 7 14 1 3 4) ∧ decodeSlot 5 0x2830ACE8 = .ok (.vicmplt 0 6 2 22 1 3 2) ∧
      decodeSlot 5 0x6923810D = .ok (.vmov 1 4 14 2 3 1) ∧ decodeSlot 5 0x6A0A9CBD = .ok (.vsel 1 1 10 14 1 1 7 1) := by
  decide

theorem test_decode_slot5_d :
  decodeSlot 5 0xAB3719B1 = .ok (.vperm 2 6 28 12 3 1 4 1) ∧ decodeSlot 5 0x2C2A8BB1 = .ok (.vrot 0 5 10 5 3 1 4 1) ∧
      decodeSlot 5 0x6D300005 = .ok (.viota 1 6 1 1) ∧ decodeSlot 5 0xAE1AD6D1 = .ok (.vpack 2 3 11 11 1 2 4 1) ∧
      decodeSlot 5 0xAF2B4109 = .ok (.vunpk 2 5 13 2 2 1) ∧ decodeSlot 5 0x70108195 = .ok (.vrsum 1 2 2 3 5 1) ∧
      decodeSlot 5 0x714EC18D = .ok (.vrmax 1 9 27 3 3 1) ∧ decodeSlot 5 0x7217C185 = .ok (.vrmin 1 2 31 3 1 1) ∧
      decodeSlot 5 0x3363810D = .ok (.vmaxi 0 12 14 2 3 1) ∧ decodeSlot 5 0x743D0191 = .ok (.vmini 1 7 20 3 4 1) ∧
      decodeSlot 5 0x351E419D = .ok (.vscan 0 3 25 3 7 1) ∧ decodeSlot 5 0x76184E00 = .ok (.pand 1 3 1 7) ∧
      decodeSlot 5 0xB728C400 = .ok (.por 2 5 3 2) ∧ decodeSlot 5 0x38188E00 = .ok (.pxor 0 3 2 7) := by
  decide

theorem test_decode_slot5_e :
  decodeSlot 5 0x39318000 = .ok (.pnot 0 6 6) ∧ decodeSlot 5 0xBAD88000 = .ok (.pcnt 2 27 2) ∧
      decodeSlot 5 0x3B174180 = .ok (.pset 0 2 29) ∧ decodeSlot 5 0xBC13C000 = .ok (.iadd 2 1 3 12) ∧
      decodeSlot 5 0x3CFDD001 = .ok (.isub 0 15 13 13) ∧ decodeSlot 5 0x3C8A9002 = .ok (.imul 0 8 10 9) ∧
      decodeSlot 5 0x3CE76003 = .ok (.idiv 0 14 7 6) ∧ decodeSlot 5 0x3CC70004 = .ok (.isqr 0 12 7) ∧
      decodeSlot 5 0x7C6A0005 = .ok (.isqrt 1 6 10) ∧ decodeSlot 5 0xBCBF0006 = .ok (.iexp 2 11 15) ∧
      decodeSlot 5 0x7C410007 = .ok (.ilog 1 4 1) ∧ decodeSlot 5 0xBC848008 = .ok (.imin 2 8 4 8) ∧
      decodeSlot 5 0x7C8EB009 = .ok (.imax 1 8 14 11) ∧ decodeSlot 5 0xBC61000A = .ok (.iabs 2 6 1) := by
  decide

theorem test_decode_slot5_f :
  decodeSlot 5 0xBC63D800 = .ok (.iaddB 2 6 3 13) ∧ decodeSlot 5 0x3CBAE801 = .ok (.isubB 0 11 10 14) ∧
      decodeSlot 5 0xBCFFE802 = .ok (.imulB 2 15 15 14) ∧ decodeSlot 5 0x7CE66803 = .ok (.idivB 1 14 6 6) ∧
      decodeSlot 5 0x3C550804 = .ok (.isqrB 0 5 5) ∧ decodeSlot 5 0xBCFB0805 = .ok (.isqrtB 2 15 11) ∧
      decodeSlot 5 0x7C4C0806 = .ok (.iexpB 1 4 12) ∧ decodeSlot 5 0xBC580807 = .ok (.ilogB 2 5 8) ∧
      decodeSlot 5 0xBC39D808 = .ok (.iminB 2 3 9 13) ∧ decodeSlot 5 0x3C66E809 = .ok (.imaxB 0 6 6 14) ∧
      decodeSlot 5 0x7C73080A = .ok (.iabsB 1 7 3) ∧ decodeSlot 5 0xBD721000 = .ok (.ihull 2 7 2 1) ∧
      decodeSlot 5 0x3DA8A001 = .ok (.imeet 0 10 8 10) ∧ decodeSlot 5 0x7D55D002 = .ok (.isplit 1 5 5 13) := by
  decide

theorem test_decode_slot5_g :
  decodeSlot 5 0x7D66F003 = .ok (.ifrom 1 6 6 15) ∧ decodeSlot 5 0xBD2F0004 = .ok (.itolo 2 2 15) ∧
      decodeSlot 5 0x7DEA0005 = .ok (.itohi 1 14 10) ∧ decodeSlot 5 0x3DC50006 = .ok (.imid 0 12 5) ∧
      decodeSlot 5 0x3D520007 = .ok (.iwid 0 5 2) ∧ decodeSlot 5 0x3E0ED300 = .ok (.icmplt 0 14 13 3) ∧
      decodeSlot 5 0x7E044101 = .ok (.icmple 1 4 4 1) ∧ decodeSlot 5 0x7E053102 = .ok (.icmpeq 1 5 3 1) ∧
      decodeSlot 5 0xBE0AB303 = .ok (.isubset 2 10 11 3) ∧ decodeSlot 5 0x3E05C304 = .ok (.idisj 0 5 12 3) := by
  decide

theorem test_decode_slot6_a :
  decodeSlot 6 0x01CB8E6E = .ok (.mldb 0 12 757358) ∧ decodeSlot 6 0x83B25F00 = .ok (.mma 2 11 2 0 95) ∧
      decodeSlot 6 0x84450B00 = .ok (.mmaz 2 4 5 0 11) ∧ decodeSlot 6 0x4500008B = .ok (.mrep 1 139) ∧
      decodeSlot 6 0x06900000 = .ok (.mdrain 0 9) ∧ decodeSlot 6 0x079F4E89 = .ok (.mldbl 0 9 1003145) ∧
      decodeSlot 6 0x02000000 = .ok .mswb ∧ decodeSlot 6 0x42000000 = .ok .mswbFirst ∧ decodeSlot 6 0x82000000 = .ok .mswbLast := by
  decide

theorem test_decode_slot7_a :
  decodeSlot 7 0x01900000 = .ok (.fld 0 2 1 0) ∧ decodeSlot 7 0x02C0C000 = .ok (.flds 0 3 3) ∧
      decodeSlot 7 0x83180400 = .ok (.fst 2 1 1 2) ∧ decodeSlot 7 0x44054200 = .ok (.fsts 1 21 1) ∧
      decodeSlot 7 0x05011602 = .ok (.amadd 0 4 11 1) ∧ decodeSlot 7 0x85C1CA03 = .ok (.amaddF 2 3 7 5 1) ∧
      decodeSlot 7 0x46062A02 = .ok (.ammax 1 24 21 1) ∧ decodeSlot 7 0x0644A403 = .ok (.ammaxF 0 1 18 18 1) ∧
      decodeSlot 7 0x8706BE02 = .ok (.ammin 2 26 31 1) ∧ decodeSlot 7 0x87C52C03 = .ok (.amminF 2 3 20 22 1) ∧
      decodeSlot 7 0x08C5A803 = .ok (.amxchg 0 3 22 20 1) ∧ decodeSlot 7 0x49C7D403 = .ok (.amcas 1 3 31 5 1) ∧
      decodeSlot 7 0x8A00A012 = .ok (.wcadd 2 2 16 18) ∧ decodeSlot 7 0x4B079E1A = .ok (.wcaddv 1 30 15 26) := by
  decide

theorem test_decode_slot7_b :
  decodeSlot 7 0x8C854000 = .ok (.wcread 2 2 21) ∧ decodeSlot 7 0x90B80001 = .ok (.xcopy 2 2 3 1 1) ∧
      decodeSlot 7 0x515F7E02 = .ok (.xgather 1 1 1 1 29 31 2) ∧ decodeSlot 7 0x52F69402 = .ok (.xscatter 1 3 3 0 26 10 2) ∧
      decodeSlot 7 0x13714000 = .ok (.xfill 0 1 3 0 5) ∧ decodeSlot 7 0x14300005 = .ok (.wstream 0 3 0 1 1) ∧
      decodeSlot 7 0x156EC400 = .ok (.xsplice 0 1 2 1 27 2) ∧ decodeSlot 7 0x96554A00 = .ok (.xdarn 2 1 1 0 21 5) ∧
      decodeSlot 7 0x97418000 = .ok (.xdarnc 2 1 6) ∧ decodeSlot 7 0x98040005 = .ok (.xnote 2 16 5) ∧
      decodeSlot 7 0x19004004 = .ok (.tread 0 1 4) ∧ decodeSlot 7 0x1B011600 = .ok (.xqp 0 4 11) ∧
      decodeSlot 7 0x5C007400 = .ok (.xmbox 1 1 26) ∧ decodeSlot 7 0x1D007C00 = .ok (.xarm 0 1 30) := by
  decide

theorem test_decode_slot7_c :
  decodeSlot 7 0x9E07D000 = .ok (.xlaunch 2 31 8) ∧ decodeSlot 7 0x2004A82C = .ok (.rent 0 18 20 5 4) ∧
      decodeSlot 7 0x21041605 = .ok (.renew 0 16 11 5) ∧ decodeSlot 7 0x62015601 = .ok (.prepay 1 5 11 1) ∧
      decodeSlot 7 0xA3067E02 = .ok (.sublet 2 25 31 0 2) ∧ decodeSlot 7 0xA4073401 = .ok (.vacate 2 28 26 1) ∧
      decodeSlot 7 0x2501E602 = .ok (.rentq 0 7 19 2) ∧ decodeSlot 7 0x26064000 = .ok (.allowq 0 25) := by
  decide

/-! ## Words of the spec's own examples (03 R78, R82, 04 R115) -/

theorem test_decode_examples :
    decodeSlot 1 0x2138048D = .ok (.li 0 7 0x48D) ∧ decodeSlot 1 0x2238ACF1 = .ok (.lui 0 7 0xACF1) ∧
    decodeSlot 1 0x2239AB00 = .ok (.lui 0 7 0x1AB00) ∧ decodeSlot 1 0x29114C02 = .ok (.agen 0 2 5 6 2) ∧
    decodeSlot 7 0x20014C01 = .ok (.rent 0 5 6 0 1) ∧ decodeSlot 7 0x20014E0B = .ok (.rent 0 5 7 1 3) ∧
    decodeSlot 7 0x21014C01 = .ok (.renew 0 5 6 1) ∧ decodeSlot 7 0x22014C01 = .ok (.prepay 0 5 6 1) ∧
    decodeSlot 7 0x2302120B = .ok (.sublet 0 8 9 1 3) ∧ decodeSlot 7 0x24014C01 = .ok (.vacate 0 5 6 1) ∧
    decodeSlot 7 0x25014C01 = .ok (.rentq 0 5 6 1) ∧ decodeSlot 7 0x26028000 = .ok (.allowq 0 10) := by decide

/-! ## Single steps -/

/-- What the instruction puts in flight on the agent whose turn it is: each landing issue cycle with its write. -/
def lands (i : Instr) (s : State) : List (Nat × Res) :=
  match exec i s with
  | .next t => (t.agent s.cur.toNat).flight.map fun f => (f.due, f.res)
  | _ => []

/-- Core 0 with some scalar registers written. -/
def reg (l : List (Nat × W64)) : State := rig 0 { Agent.reset with r := { Regs.reset with s := l } }

/-- The field of the agent whose turn it was, after an instruction. -/
def after {α : Type} (i : Instr) (s : State) (f : Agent → α) : Option α :=
  match exec i s with
  | .next t => some (f (t.agent s.cur.toNat))
  | _ => none

/-- R77: addition wraps; R78's chain; R82's example. -/
theorem test_add_wraps : lands (.add 0 3 1 2) (reg [(1, 0xFFFFFFFFFFFFFFFF), (2, 2)]) = [(1, .s 3 1)] := by decide +kernel

theorem test_lui_chain : lands (.lui 0 7 0x1AB00) (reg [(7, 0x2468ACF1)]) = [(1, .s 7 0x000123456789AB00)] := by decide +kernel

theorem test_agen_example :
    lands (.agen 0 2 5 6 2) (rig 0 { Agent.reset with r := { Regs.reset with
      s := [(5, 3), (6, 37)], kvbase := 0x004000000000, kvslot := 0x01000000, kvlayer := 0x00040000, kvtok := 0x100 } }) =
      [(1, .a 2 0x004003082500)] := by decide +kernel

theorem test_saturates : lands (.adds 0 3 1 2) (reg [(1, 0x7FFFFFFFFFFFFFFF), (2, 1)]) = [(1, .s 3 0x7FFFFFFFFFFFFFFF)] ∧
    lands (.subs 0 3 1 2) (reg [(1, 0x8000000000000000), (2, 1)]) = [(1, .s 3 0x8000000000000000)] := by decide +kernel

/-- A shift takes the low six bits of its amount. -/
theorem test_shifts : lands (.sra 0 3 1 2) (reg [(1, 0x8000000000000000), (2, 65)]) = [(1, .s 3 0xC000000000000000)] ∧
    lands (.srl 0 3 1 2) (reg [(1, 0x8000000000000000), (2, 64)]) = [(1, .s 3 0x8000000000000000)] ∧
    lands (.slli 0 3 1 63) (reg [(1, 3)]) = [(1, .s 3 0x8000000000000000)] := by decide +kernel

theorem test_signed_orders : lands (.slt 0 3 1 2) (reg [(1, 0xFFFFFFFFFFFFFFFF), (2, 0)]) = [(1, .s 3 1)] ∧
    lands (.sltu 0 3 1 2) (reg [(1, 0xFFFFFFFFFFFFFFFF), (2, 0)]) = [(1, .s 3 0)] ∧
    lands (.slti 0 3 1 0x3FFF) (reg [(1, 0)]) = [(1, .s 3 0)] ∧
    lands (.max 0 3 1 2) (reg [(1, 0xFFFFFFFFFFFFFFFF), (2, 0)]) = [(1, .s 3 0)] := by decide +kernel

theorem test_counts : lands (.clz 0 3 1) (reg []) = [(1, .s 3 64)] ∧ lands (.clz 0 3 1) (reg [(1, 1)]) = [(1, .s 3 63)] ∧
    lands (.popc 0 3 1) (reg [(1, 0xF0F0000000000001)]) = [(1, .s 3 9)] := by decide +kernel

theorem test_products : lands (.mulh 0 3 1 2) (reg [(1, 0xFFFFFFFFFFFFFFFF), (2, 1)]) = [(3, .s 3 0xFFFFFFFFFFFFFFFF)] ∧
    lands (.mulhu 0 3 1 2) (reg [(1, 0xFFFFFFFFFFFFFFFF), (2, 0xFFFFFFFFFFFFFFFF)]) = [(3, .s 3 0xFFFFFFFFFFFFFFFE)] ∧
    lands (.mul 0 3 1 2) (reg [(1, 0x100000001), (2, 0x100000001)]) = [(3, .s 3 0x200000001)] := by decide +kernel

/-- The borderline cases of division, and the sign of the remainder. -/
theorem test_division : lands (.div 0 3 1 2) (reg [(1, 0x8000000000000000), (2, 0xFFFFFFFFFFFFFFFF)]) = [(12, .s 3 0x8000000000000000)] ∧
    lands (.div 0 3 1 2) (reg [(1, 5)]) = [(12, .s 3 0xFFFFFFFFFFFFFFFF)] ∧ lands (.remu 0 3 1 2) (reg [(1, 5)]) = [(12, .s 3 5)] ∧
    lands (.rem 0 3 1 2) (reg [(1, 0xFFFFFFFFFFFFFFF9), (2, 2)]) = [(12, .s 3 0xFFFFFFFFFFFFFFFF)] ∧
    lands (.div 0 3 1 2) (reg [(1, 0xFFFFFFFFFFFFFFF9), (2, 2)]) = [(12, .s 3 0xFFFFFFFFFFFFFFFD)] := by decide +kernel

/-- A condition of zero: nothing lands. -/
theorem test_cmov_zero : lands (.cmov 0 3 1 2) (reg [(1, 5)]) = [] ∧ lands (.cmov 0 3 1 2) (reg [(1, 5), (2, 1)]) = [(1, .s 3 5)] := by
  decide +kernel

/-- s0 discards a write. -/
theorem test_s0 : (lands (.add 0 0 1 1) (reg [(1, 5)])).all (fun x => match x.2 with | .s d _ => d == 0 | _ => false) = true := by
  decide +kernel

/-- R79, R80: 1 + 2 = 3; 0 ÷ 0 is the canonical NaN; −0 equals +0. -/
theorem test_scalar_fp32 : lands (.fadd 0 3 1 2) (reg [(1, 0xFFFFFFFF3F800000), (2, 0x40000000)]) = [(4, .s 3 0x40400000)] ∧
    lands (.fdiv 0 3 1 2) (reg []) = [(12, .s 3 0x7FC00000)] ∧ lands (.fmin 0 3 1 2) (reg [(1, 0x80000000)]) = [(4, .s 3 0x80000000)] ∧
    lands (.fcmpEq 0 3 1 2) (reg [(1, 0x80000000)]) = [(4, .s 3 1)] := by decide +kernel

/-- An agent with three vector registers written. -/
def wide (l : List (Nat × Vec)) : State := rig 0 { Agent.reset with r := { Regs.reset with v := l } }

/-- The first lane of each vector result in flight, with the landing cycle and the lane's mask. -/
def lane0 (i : Instr) (s : State) : List (Nat × BitVec 32 × BitVec 32) :=
  (lands i s).filterMap fun x =>
    match x.2 with
    | .v _ m y => some (x.1, y.extractLsb' 0 32, m.extractLsb' 0 32)
    | _ => none

/-- R167, R169: lane results; the whole lane is written. -/
theorem test_vector_lanes : lane0 (.vadd 0 3 1 2 0 0 0 0) (wide [(1, 0x3F800000), (2, 0x40000000)]) = [(3, 0x40400000, 0xFFFFFFFF)] ∧
    lane0 (.vfms 0 3 1 2 0 0 0) (wide [(1, 0x40000000), (2, 0x40000000), (3, 0x40800000)]) = [(3, 0, 0xFFFFFFFF)] ∧
    lane0 (.vneg 0 3 1 0 0 0) (wide [(1, 0x7F800001)]) = [(3, 0xFF800001, 0xFFFFFFFF)] ∧
    lane0 (.viadd 0 3 1 2 0 0 0 0) (wide [(1, 0xFFFFFFFF), (2, 2)]) = [(3, 1, 0xFFFFFFFF)] ∧
    lane0 (.vsra 0 3 1 2 0 0 0 0) (wide [(1, 0x80000000), (2, 33)]) = [(3, 0xC0000000, 0xFFFFFFFF)] := by decide +kernel

/-- R165: an inactive lane is not written. -/
theorem test_inactive_lane : (lane0 (.viadd 0 3 1 2 0 0 1 0) (wide [(1, 4), (2, 2)])).map (fun x => x.2.2) = [0] := by decide +kernel

/-- R170: every lane of a compare is written, a lane that is not active as 0. -/
theorem test_compare : lands (.vicmplt 0 2 1 2 0 0 0) (wide [(1, 0xFFFFFFFF)]) = [(3, .p 2 1)] ∧
    lands (.vicmplt 0 2 1 2 0 0 1) (wide [(1, 0xFFFFFFFF)]) = [(3, .p 2 0)] := by decide +kernel

/-- An agent with interval registers written. -/
def bounds (l : List (Nat × Vec)) : State := rig 0 { Agent.reset with r := { Regs.reset with i := l } }

/-- The first lane of each interval result in flight: lo, then hi. -/
def pair0 (i : Instr) (s : State) : List (Nat × BitVec 32 × BitVec 32) :=
  (lands i s).filterMap fun x =>
    match x.2 with
    | .i _ y => some (x.1, y.extractLsb' 0 32, y.extractLsb' 32 32)
    | _ => none

/-- R181's example: the sum of the point intervals 0.1 and 0.2. -/
theorem test_interval_example : pair0 (.iadd 0 2 0 1) (bounds [(0, 0x3DCCCCCD3DCCCCCD), (1, 0x3E4CCCCD3E4CCCCD)]) =
    [(6, 0x3E999999, 0x3E99999A)] := by decide +kernel

/-- R180, R181: an empty operand gives the canonical empty pair; a divisor that holds 0 gives entire. -/
theorem test_interval_corners : pair0 (.imul 0 2 0 1) (bounds [(0, 0x3F80000040000000)]) = [(6, 0x7F800000, 0xFF800000)] ∧
    pair0 (.idiv 0 2 0 1) (bounds [(0, 0x3F8000003F800000)]) = [(6, 0xFF800000, 0x7F800000)] := by decide +kernel

/-! ## States that meet the hypotheses: words -/

theorem meets_IntegerWords : Runs (integer (.add 0 1 2 3)) State.reset := runs_of rfl (ready_of (by decide)) trivial trivial (by decide)

theorem meets_CmovConflict : ∃ F w, integer (.add 0 1 2 3) = some F ∧ wordOf (.add 0 1 2 3) = some w ∧ w.writes = [.s 1] ∧
    State.reset.members State.reset.cur.toNat = [State.reset.cur.toNat] := ⟨_, _, rfl, rfl, rfl, by decide⟩

theorem meets_ScalarFloatWords : Runs (scalarFloat (.fadd 0 1 2 3)) State.reset :=
  runs_of rfl (ready_of (by decide)) trivial trivial (by decide)

theorem meets_AddressWords : Runs (address 0 (.agen 0 2 5 6 2)) State.reset ∧ Runs (address 0 (.lidx 0 1 5)) State.reset :=
  ⟨runs_of rfl (ready_of (by decide)) trivial trivial (by decide), runs_of rfl (ready_of (by decide)) trivial trivial (by decide)⟩

theorem meets_QueueAndShapeWords : Runs (queueShape 0 (.qpops 0 1 12 0 63)) (rig 0 fed) ∧ Runs (queueShape 0 (.qpushs 0 0 1)) (rig 0 fed) ∧
    Runs (queueShape 288 (.shw 0 3 0 1 16)) (rig 288 Agent.reset) :=
  ⟨runs_of rfl (ready_of (by decide)) (.inl (by decide)) trivial (by decide),
    runs_of rfl (ready_of (by decide)) (.inl (by decide)) trivial (by decide),
    runs_of rfl (ready_of (by decide)) (.inr rfl) trivial (by decide)⟩

theorem meets_Slot0Words : Runs (slot0 State.reset 0 .nop) State.reset ∧ Runs (slot0 State.reset 0 (.csrr 0 1 0x005)) State.reset ∧
    Runs (slot0 State.reset 0 (.csrw 0 1 0x003)) State.reset ∧ Runs (slot0 State.reset 0 (.fmts 0 2 1)) State.reset ∧
    Runs (slot0 State.reset 0 (.sev 0 1)) State.reset :=
  ⟨runs_of rfl (ready_of (by decide)) trivial trivial (by decide),
    runs_of rfl (ready_of (by decide)) (.inr (.inl (by decide))) (.inr (by decide)) (by decide),
    runs_of rfl (ready_of (by decide)) (.inr (.inl (by decide))) (.inr (by decide)) (by decide),
    runs_of rfl (ready_of (by decide)) (show Agent.mode _ = _ by decide) (show famAccepts _ _ = true by decide) (by decide),
    runs_of rfl (ready_of (by decide)) trivial trivial (by decide)⟩

theorem meets_Slot0Words_twaita : Runs (slot0 (rig 0 (pointer 1 0x10000)) 0 (.twaita 0 1 2)) (rig 0 (pointer 1 0x10000)) :=
  runs_of rfl (ready_of (by decide)) (show Agent.mode _ ≠ _ by decide) ⟨by decide, by decide⟩ (by decide)

theorem meets_BranchWords : Runs (branches Agent.reset (.br 0 1)) (rig 0 Agent.reset) ∧
    Runs (branches (scalar 1 0x2000) (.jr 0 1)) (rig 0 (scalar 1 0x2000)) ∧ Runs (branches Agent.reset (.ret 0)) (rig 0 Agent.reset) :=
  ⟨runs_of rfl (ready_of (by decide)) trivial (fun _ => ⟨by decide, fun h => absurd h (by decide)⟩) (by decide),
    runs_of rfl (ready_of (by decide)) trivial (fun _ => ⟨by decide, fun h => absurd h (by decide)⟩) (by decide),
    runs_of rfl (ready_of (by decide)) trivial (fun _ => ⟨by decide, fun _ => by decide⟩) (by decide)⟩

/-- Level 0 of agent 0 is active with END at the PC. -/
def looping (index count : W64) (outer : List (Nat × Level)) : Agent :=
  { Agent.reset with r := { Regs.reset with
    pc := 0x1000
    levels := (0, { Level.reset with act := true, count := count, index := index, start := 0x1000, last := 0x1000 }) :: outer } }

theorem meets_LevelWords : Runs (levels (looping 0 4 []) (.lbreak 0 0)) (rig 0 (looping 0 4 [])) ∧
    Runs (levels Agent.reset (.lstride 0 5 15 1)) (rig 0 Agent.reset) :=
  ⟨runs_of rfl (ready_of (by decide)) (show Agent.mode _ ≠ _ by decide) trivial (by decide),
    runs_of rfl (ready_of (by decide)) trivial trivial (by decide)⟩

/-- LOOPI opens level 5 with its count, LOOP with s0 skips its body, where no level is active. -/
theorem meets_LoopWords : opening Agent.reset (.loopi 0 5 4 9) = some (0, 5, 9, 4) ∧ opening Agent.reset (.loop 0 5 0 1) = some (0, 5, 1, 0) ∧
    (rig 0 Agent.reset).ready 0 ∧ Agent.reset.mode = .task ∧ Agent.reset.selects 0 = true ∧ ∀ j ≤ 5, j < 6 → (Agent.reset.level j).act = false :=
  ⟨rfl, by decide, ready_of (by decide), rfl, by decide, by decide⟩

theorem meets_LoopNesting : opening (looping 0 4 []) (.loopi 0 1 4 9) = some (0, 1, 9, 4) ∧ (rig 0 (looping 0 4 [])).ready 0 ∧
    (looping 0 4 []).mode = .task ∧ (looping 0 4 []).selects 0 = true ∧ ∃ j ≤ 1, j < 6 ∧ ((looping 0 4 []).level j).act = true :=
  ⟨rfl, ready_of (by decide), rfl, by decide, 0, by decide⟩

/-- Level 1 of agent 0, active, with END at `e`. -/
def outside (e : W64) : List (Nat × Level) := [(1, { Level.reset with act := true, count := 2, index := 0, start := 0x800, last := e })]

theorem meets_IterationStep (x : Nat × List (Nat × Level)) (h : x = (0, []) ∨ x = (3, outside 0x2000) ∨ x = (3, outside 0x1000)) :
    let a := looping (BitVec.ofNat 64 x.1) 4 x.2
    (rig 0 a).ready 0 ∧ a.mode = .task ∧ a.innermost = some 0 ∧ (a.level 0).last = a.r.pc ∧ a.flight = [] := by
  rcases h with rfl | rfl | rfl <;> exact ⟨ready_of (by decide), rfl, by decide, by decide, rfl⟩

theorem meets_IterationStep_clauses : ((0 : W64) + 1).toNat < (4 : W64).toNat ∧ (4 : W64).toNat ≤ ((3 : W64) + 1).toNat ∧
    ((looping 3 4 (outside 0x2000)).level 1).last ≠ (looping 3 4 (outside 0x2000)).r.pc ∧
    ((looping 3 4 (outside 0x1000)).level 1).act = true ∧
    ((looping 3 4 (outside 0x1000)).level 1).last = (looping 3 4 (outside 0x1000)).r.pc ∧ ((0 : W64) + 1).toNat < (2 : W64).toNat := by
  decide

theorem meets_NearWords : Runs (near (rig 0 Agent.reset) 0 (.nld 0 1 0 1 0)) (rig 0 Agent.reset) ∧
    Runs (near (rig 0 fed) 0 (.nst 0 0 0 1 0)) (rig 0 fed) :=
  ⟨runs_of rfl (ready_of (by decide)) ⟨by decide, by decide⟩ ⟨by decide, by decide⟩ (by decide),
    runs_of rfl (ready_of (by decide)) ⟨by decide, by decide⟩ ⟨by decide, by decide⟩ (by decide)⟩

theorem meets_AccumulatorWords : Runs (accumulator (rig 0 Agent.reset) 0 (.ard 0 1 11 0 1 127)) (rig 0 Agent.reset) ∧
    Runs (accumulator (rig 0 fed) 0 (.aacc 0 0 11 0 1 127)) (rig 0 fed) ∧ Runs (accumulator (rig 0 fed) 0 (.ascl 0 0 11)) (rig 0 fed) :=
  ⟨runs_of rfl (ready_of (by decide)) ⟨by decide, by decide⟩ ⟨by decide, by decide, by decide⟩ (by decide),
    runs_of rfl (ready_of (by decide)) ⟨by decide, by decide⟩ ⟨by decide, by decide, fun _ => by decide⟩ (by decide),
    runs_of rfl (ready_of (by decide)) ⟨by decide, by decide⟩
      (fun b h => absurd h (by rw [show portBlock ((rig 0 fed).agent 0) 11 ((rig 0 fed).agent 0).icyc = none by decide]; exact nofun)) (by decide)⟩

theorem meets_LaneWords : Runs (binaryForm fed 0 (.vadd 0 1 12 9 1 0 0 1)) (rig 0 fed) ∧
    Runs (unaryForm Agent.reset 0 (.vneg 0 31 2 0 1 0)) (rig 0 Agent.reset) :=
  ⟨runs_of rfl (ready_of (by decide)) ⟨by decide, by decide⟩ trivial (by decide),
    runs_of rfl (ready_of (by decide)) ⟨by decide, by decide⟩ trivial (by decide)⟩

theorem meets_FusedAndPredicateWords : Runs (fusedOrPredicate Agent.reset 0 (.vfma 0 1 2 3 0 0 1)) (rig 0 Agent.reset) ∧
    Runs (fusedOrPredicate Agent.reset 0 (.pset 0 7 1)) (rig 0 Agent.reset) :=
  ⟨runs_of rfl (ready_of (by decide)) ⟨by decide, by decide⟩ trivial (by decide),
    runs_of rfl (ready_of (by decide)) ⟨by decide, by decide⟩ trivial (by decide)⟩

theorem meets_RearrangingWords : Runs (rearranges (rig 0 Agent.reset) 0 (.vrot 0 1 2 3 0 0 0 0)) (rig 0 Agent.reset) ∧
    Runs (rearranges (rig 0 fed) 0 (.vrsum 0 1 12 2 0 1)) (rig 0 fed) :=
  ⟨runs_of rfl (ready_of (by decide)) ⟨by decide, by decide⟩ trivial (by decide),
    runs_of rfl (ready_of (by decide)) ⟨by decide, by decide⟩ trivial (by decide)⟩

theorem meets_IntervalWords : Runs (intervals Agent.reset 0 (.iadd 0 15 0 1)) (rig 0 Agent.reset) ∧
    Runs (intervals Agent.reset 0 (.icmplt 0 0 1 3)) (rig 0 Agent.reset) :=
  ⟨runs_of rfl (ready_of (by decide)) ⟨by decide, by decide⟩ trivial (by decide),
    runs_of rfl (ready_of (by decide)) ⟨by decide, by decide⟩ trivial (by decide)⟩

theorem meets_BackwardWords : Runs (backwardForm Agent.reset 0 (.imulB 0 2 0 1)) (rig 0 Agent.reset) :=
  runs_of rfl (ready_of (by decide)) ⟨by decide, by decide⟩ trivial (by decide)

theorem meets_MatrixWords : Runs (matrix (rig 0 Agent.reset) 0 (.mldb 0 0 0)) (rig 0 Agent.reset) ∧
    Runs (matrix (rig 0 fed) 0 (.mmaz 0 11 12 0 127)) (rig 0 fed) ∧ Runs (matrix (rig 0 Agent.reset) 0 (.mrep 0 255)) (rig 0 Agent.reset) :=
  ⟨runs_of rfl (ready_of (by decide)) ⟨by decide, by decide⟩ (show _ = none by decide) (by decide),
    runs_of rfl (ready_of (by decide)) ⟨by decide, by decide⟩ (show _ = none by decide) (by decide),
    runs_of rfl (ready_of (by decide)) ⟨by decide, by decide⟩ trivial (by decide)⟩

/-- An MREP of 3 has armed `w`; queue 12 holds `q`. -/
def repeating (w : W32) (q : List Vec) : Agent := { Agent.reset with r := { Regs.reset with repn := 3, repw := w, q := [(12, q)] } }
def repeated : Instr := .mmaz 0 11 12 0 127

theorem repeated_can (w : W32) (hs : supply (repeating w [7]) [⟨12, false⟩] = true)
    (hk : mmaCheck (rig 0 (repeating w [7])) 0 11 128 = none) : (multiplies (rig 0 (repeating w [7])) 0 0 true 11 12 0 127).can (repeating w [7]) :=
  ⟨hk, supply_ok _ _ hs, nofun, .inl rfl, .inl rfl⟩

/-- The word after the prefix; its repetition, with and without an entry; a second slot-6 word. -/
theorem meets_Repetition : (∀ a ∈ [repeating 0 [7], repeating (encode repeated) [7], repeating (encode repeated) []],
      (rig 0 a).members 0 = [0] ∧ a.bundles < 4096 ∧ a.r.repn ≠ 0 ∧ a.selects 0 = true ∧ 0 < 288 ∧ a.mode = .task) ∧
    (repeating 0 [7]).r.repw = 0 ∧ (repeating (encode repeated) [7]).r.repw = encode repeated ∧
    (multiplies (rig 0 (repeating 0 [7])) 0 0 true 11 12 0 127).can (repeating 0 [7]) ∧
    (multiplies (rig 0 (repeating (encode repeated) [7])) 0 0 true 11 12 0 127).can (repeating (encode repeated) [7]) ∧
    (multiplies (rig 0 (repeating (encode repeated) [])) 0 0 true 11 12 0 127).ok ∧ (repeating (encode repeated) []).queue 12 = [] ∧
    ∃ g, matrix (rig 0 (repeating (encode repeated) [])) 0 (.mdrain 1 1) = some g := by
  refine ⟨?_, rfl, rfl, repeated_can _ ?_ ?_, repeated_can _ ?_ ?_, show _ = none from ?_, ?_, _, rfl⟩ <;> decide

theorem meets_PlaneSwap : swaps .mswbLast = some 2 ∧ (rig 0 Agent.reset).ready 0 ∧ onCore Agent.reset 0 :=
  ⟨rfl, ready_of (by decide), by decide, by decide⟩

/-- A shape record of one FP32 element at `va` in tier 4. -/
def oneWord (va : BitVec 57) : Shape := { Shape.reset with base := va, tier := 4 }

/-- A core whose record h0 of slot 7 names one element of the leased range, with s1 pointing into it. -/
def writer : Agent := { fed with r := { fed.r with s := [(1, 0x10040)], shapes := [(16, oneWord 0x10000), (17, oneWord 0x10000)] } }

theorem meets_WithheldWords : Runs (withheld writer 0 (.fst 0 0 0 0)) (rig 0 writer) ∧
    Runs (withheld writer 0 (.fsts 0 1 0)) (rig 0 writer) ∧ Runs (withheld writer 0 (.amcas 0 3 1 2 1)) (rig 0 writer) ∧
    Runs (withheld writer 0 (.wcaddv 0 1 0 0)) (rig 0 writer) ∧ Runs (withheld writer 0 (.xarm 0 1 0)) (rig 0 writer) :=
  ⟨runs_of rfl (ready_of (by decide)) ⟨by decide, by decide⟩ (show _ = none by decide) (by decide),
    runs_of rfl (ready_of (by decide)) ⟨by decide, by decide⟩ ⟨by decide, by decide⟩ (by decide),
    runs_of rfl (ready_of (by decide)) (show Agent.mode _ ≠ _ by decide) ⟨by decide, by decide⟩ (by decide),
    runs_of rfl (ready_of (by decide)) ⟨by decide, by decide⟩ ⟨by decide, by decide⟩ (by decide),
    runs_of rfl (ready_of (by decide)) (show Agent.mode _ ≠ _ by decide) ⟨by decide, by decide⟩ (by decide)⟩

theorem meets_ReadWords : Runs ((reads (rig 0 writer) 0 (.flds 0 1 1)).map Prod.fst) (rig 0 writer) ∧
    Runs ((reads (rig 0 writer) 0 (.fld 0 1 0 0)).map Prod.fst) (rig 0 writer) ∧
    Runs ((reads (rig 0 writer) 0 (.wcread 0 1 1)).map Prod.fst) (rig 0 writer) :=
  ⟨runs_of rfl (ready_of (by decide)) (show Agent.mode _ ≠ _ by decide) ⟨⟨by decide, by decide⟩, by decide⟩ (by decide),
    runs_of rfl (ready_of (by decide)) (show Agent.mode _ ≠ _ by decide) ⟨by decide, by decide⟩ (by decide),
    runs_of rfl (ready_of (by decide)) (show Agent.mode _ ≠ _ by decide) ⟨⟨by decide, by decide⟩, by decide⟩ (by decide)⟩

theorem meets_EngineWords : Runs (engines writer 0 (.xdarnc 0 1 0)) (rig 0 writer) ∧ Runs (engines writer 288 (.xfill 0 3 0 0 1)) (rig 288 writer) ∧
    Runs (timelines writer 0 (.xnote 0 1 6)) (rig 0 writer) ∧ Runs (timelines writer 288 (.tread 0 1 3)) (rig 288 writer) :=
  ⟨runs_of rfl (ready_of (by decide)) ⟨by decide, by decide⟩ trivial (by decide),
    runs_of rfl (ready_of (by decide)) (show Agent.mode _ ≠ _ by decide) trivial (by decide),
    runs_of rfl (ready_of (by decide)) ⟨show Agent.mode _ ≠ _ by decide, .inl (by decide)⟩ trivial (by decide),
    runs_of rfl (ready_of (by decide)) (.inr (by decide)) trivial (by decide)⟩

/-- XQP at the master of die 0, XMBOX and XLAUNCH at the next loom controller, with an entry in the leased range. -/
theorem meets_StallingWords : Runs (stalls (rig 0 writer) 0 (.rent 0 1 2 0 4)) (rig 0 writer) ∧
    Runs (stalls (rig 288 writer) 288 (.xqp 0 1 2)) (rig 288 writer) ∧ Runs (stalls (rig 289 writer) 289 (.xmbox 0 1 2)) (rig 289 writer) ∧
    Runs (stalls (rig 289 writer) 289 (.xlaunch 0 1 2)) (rig 289 writer) :=
  ⟨runs_of rfl (ready_of (by decide)) (show Agent.mode _ ≠ _ by decide) trivial (by decide),
    runs_of rfl (ready_of (by decide)) ⟨by decide, by decide⟩ ⟨by decide, by decide, by decide, by decide⟩ (by decide),
    runs_of rfl (ready_of (by decide)) ⟨by decide, by decide⟩ ⟨by decide, by decide⟩ (by decide),
    runs_of rfl (ready_of (by decide)) ⟨by decide, by decide⟩ (show _ = none by decide) (by decide)⟩

theorem meets_WordFrame : Runs (anyForm State.reset 0 (.add 0 1 2 3)) State.reset ∧ ∃ t, exec (.add 0 1 2 3) State.reset = .next t :=
  ⟨runs_of rfl (ready_of (by decide)) trivial trivial (by decide), _, rfl⟩

/-- A gang of loom 2, its rank-k agent as `f` changes it. -/
def gang (f : Nat → Agent → Agent) : State :=
  let a : Agent := { Agent.reset with
    task := some { account := 0, context := 0, cls := 0, kind := 1, tslot := 0, ts := 1, j := 0, rentwin := 1, pasid := none, save := 0 } }
  (List.range 12).foldl (fun s k => s.setAgent (24 + k) (f k a)) { State.reset with cur := 24 }

theorem gang_ready (f : Nat → Agent → Agent) (h : ((gang f).members 24).all (fun m =>
      (((gang f).agent m).mode == .task) && (((gang f).agent m).r.repn == 0) && decide (((gang f).agent m).bundles < 4096)) = true)
    (ht : ((gang f).agent 24).task.any (fun t => t.kind == 1) = true) : gangReady (gang f) 24 := by
  refine ⟨by decide, ?_, fun m hm => ?_⟩
  · rw [Option.any_eq_true] at ht
    obtain ⟨t, e, k⟩ := ht
    exact ⟨t, e, by simpa using k⟩
  · simpa [and_assoc] using List.all_eq_true.1 h m hm

/-- Rank `k` of the gang has `x k` in s1. -/
def targets (x : Nat → W64) : State := gang (fun k a => { a with r := { a.r with s := [(1, x k)] } })

/-- The targets of a JR agree, or that of rank 5 differs; the condition of a BC holds on rank 5 alone. -/
theorem meets_GangIssues : gangReady (targets (fun _ => 0x400)) 24 ∧ gangReady (targets (fun k => if k = 5 then 0x420 else 0x400)) 24 ∧
    gangReady (targets (fun k => if k = 5 then 0 else 1)) 24 ∧
    (∀ m ∈ (targets (fun _ => 0x400)).members 24, ((targets (fun _ => 0x400)).agent m).getS 1 = 0x400 ∧
      ((targets (fun _ => 0x400)).agent m).selects 0 = true) ∧
    (let s := targets (fun k => if k = 5 then 0x420 else 0x400)
     (∀ m ∈ s.members 24, (s.agent m).selects 0 = true ∧ (s.agent m).getS 1 &&& 31 = 0) ∧ (s.agent 24).getS 1 ≠ (s.agent 29).getS 1) ∧
    (let s := targets (fun k => if k = 5 then 0 else 1)
     (∀ m ∈ s.members 24, (s.agent m).selects 0 = true ∧ (s.agent m).r.pc = (s.agent 24).r.pc) ∧ (s.agent 24).r.pc &&& 31 = 0 ∧
       holds 0 ((s.agent 24).getS 1) ≠ holds 0 ((s.agent 29).getS 1)) ∧
    (targets (fun _ => 0x400)).members 24 = (List.range 12).map (fun k => 12 * (24 / 12) + k) := by
  refine ⟨gang_ready _ ?_ ?_, gang_ready _ ?_ ?_, gang_ready _ ?_ ?_, ?_, ⟨?_, ?_⟩, ⟨?_, ?_, ?_⟩, ?_⟩ <;> decide +kernel

/-- Queue 12 is full on ranks 5 and 7. -/
def jammed : State := gang (fun k a => { a with r := { a.r with q := if k = 5 ∨ k = 7 then [(12, List.replicate 8 7)] else [] } })

/-- A gang that has UFVEC. -/
def vectored : State := gang (fun _ a => { a with dup := { Regs.reset with ufvec := 0x40 } })

theorem meets_GangTraps : gangReady jammed 24 ∧ (∀ k ∈ jammed.members 24, (jammed.agent k).selects 0 = true) ∧ 29 ∈ jammed.members 24 ∧
    8 ≤ ((jammed.agent 29).queue 12).length + (jammed.agent 29).reserved 12 ∧
    (∀ k ∈ jammed.members 24, k < 29 → ((jammed.agent k).queue 12).length + (jammed.agent k).reserved 12 < 8) ∧
    gangReady vectored 24 ∧ (0x03 : Byte) ∈ toUser ∧ (vectored.agent (12 * (24 / 12))).dup.ufvec ≠ 0 ∧
    (∀ m ∈ vectored.members 24, (vectored.agent m).dup.ufvec &&& 31 = 0) := by
  refine ⟨gang_ready _ ?_ ?_, ?_, ?_, ?_, ?_, gang_ready _ ?_ ?_, ?_, ?_, ?_⟩ <;> decide +kernel

/-- In the second iteration of a loop a word of the first is not selected. -/
theorem meets_UnselectedWord : (anyForm (rig 0 (looping 1 4 [])) 0 (.add 1 1 2 3)).isSome = true ∧ (rig 0 (looping 1 4 [])).ready 0 ∧
    (looping 1 4 []).selects 1 = false := ⟨rfl, ready_of (by decide), by decide⟩

theorem meets_ParallelWords : ∃ F G v w, integer (.add 0 1 2 3) = some F ∧ integer (.mul 0 2 1 1) = some G ∧
    wordOf (.add 0 1 2 3) = some v ∧ wordOf (.mul 0 2 1 1) = some w ∧ v.writes = [.s 1] ∧ w.writes = [.s 2] ∧ State.reset.ready 0 ∧
    (State.reset.agent 0).selects F.iq = true ∧ (State.reset.agent 0).selects G.iq = true :=
  ⟨_, _, _, _, rfl, rfl, rfl, rfl, rfl, rfl, ready_of (by decide), by decide, by decide⟩

/-! ## States that meet the hypotheses: refusals, traps and returns -/

/-- A loom controller may not hold a near load. -/
theorem meets_ProfileRefusal : ∃ F, anyForm (rig 288 Agent.reset) 288 (.nld 0 0 0 0 0) = some F ∧ ¬ F.held ∧
    (rig 288 Agent.reset).members 288 = [288] := ⟨_, rfl, fun h => absurd h.1 (by decide), by decide⟩

theorem meets_PrivilegeRefusals : State.reset.members 0 = [0] ∧ Agent.reset.r.repn = 0 ∧ Agent.reset.mode ≠ .super ∧ namesCsr 0 0x100 ∧
    erets .eret = some 0 ∧ halts .haltFirst = some 1 ∧ csrAccess Agent.reset 0x100 = .s ∧ csrAccess Agent.reset 0x000 ≠ .u ∧
    Agent.reset.selects 0 = true := ⟨by decide, rfl, by decide, .inr (.inl (by decide)), rfl, rfl, by decide, by decide, by decide⟩

/-- q12 is empty at reset; eight entries fill it. -/
def brim : Agent := { Agent.reset with r := { Regs.reset with q := [(12, List.replicate 8 7)] } }

theorem meets_QueueRefusals : (rig 0 Agent.reset).ready 0 ∧ Agent.reset.queue 12 = [] ∧ (rig 288 brim).ready 288 ∧ 12 ≤ (12 : BitVec 4).toNat ∧
    8 ≤ (brim.queue 12).length + brim.reserved 12 ∧ brim.selects 0 = true :=
  ⟨ready_of (by decide), by decide, ready_of (by decide), by decide, by decide, by decide⟩

theorem meets_LimitAndTargetRefusals : (rig 0 { Agent.reset with bundles := 4096 }).members 0 = [0] ∧ (rig 0 (scalar 1 0x1004)).members 0 = [0] ∧
    (scalar 1 0x1004).getS 1 &&& 31 ≠ 0 ∧ (scalar 1 0x1004).selects 0 = true ∧ (scalar 1 0x1004).bundles < 4096 := by decide

theorem meets_TrapWords : trapping (.trap 0 0xFFFF) = some (0, 0x0F, 0xFFFF) ∧ trapping (.brk 1 0) = some (1, 0x10, 0) ∧ State.reset.ready 0 ∧
    Agent.reset.selects 0 = true ∧ (rig 0 (looping 1 4 [])).ready 0 ∧ (looping 1 4 []).selects 1 = false :=
  ⟨rfl, rfl, ready_of (by decide), by decide, ready_of (by decide), by decide⟩

/-- A task's agent with both vectors set and something of its interval to discard. -/
def busy : Agent :=
  { Agent.reset with
    dup := { Regs.reset with pc := 0x100, ufvec := 0x40 }
    svec := 0x80
    flight := [{ due := 3, res := .s 1 5 }]
    journal := [(2, some 9)]
    touched := [(5, some 4)]
    task := some { account := 0, context := 0, cls := 0, kind := 0, tslot := 0, ts := 1, j := 0, rentwin := 0, pasid := none, save := 0 } }

theorem meets_UserTrapEntry : (rig 0 busy).members 0 = [0] ∧ busy.mode = .task ∧ (0x0D : Byte) ∈ toUser ∧ 7 < 8 ∧ busy.dup.ufvec ≠ 0 ∧
    busy.dup.ufvec &&& 31 = 0 := by decide

theorem meets_SupervisorTrapEntry : (rig 0 busy).members 0 = [0] ∧ busy.mode ≠ .super ∧ (0x11 : Byte) ∉ toUser ∧ busy.svec ≠ 0 ∧
    busy.svec &&& 31 = 0 := by decide

theorem meets_DoubleTrap : (rig 0 { busy with mode := .super }).members 0 = [0] ∧ busy.task ≠ none ∧
    (rig 0 { busy with svec := 0 }).members 0 = [0] ∧ (0x11 : Byte) ∉ toUser := by decide

/-- What the interval of `busy` saves is in order. -/
theorem meets_TrapRevertsMemory : saves (rig 0 busy) 0 ∧ (rig 0 busy).members 0 = [0] ∧ busy.mode = .task ∧ busy.svec ≠ 0 ∧
    busy.svec &&& 31 = 0 := ⟨⟨by decide, by decide, by decide, by decide, by decide, by decide⟩, by decide⟩

/-- Selected and not, with and without a slot-7 word that stalls, and outside a user handler. -/
theorem meets_UserReturn : uirets .uiret = some 0 ∧ uirets .uiretFirst = some 1 ∧
    (rig 0 { looping 1 4 [] with mode := .userFault }).ready 0 ∧ ({ looping 1 4 [] with mode := .userFault } : Agent).selects 1 = false ∧
    (∀ st, (rig 0 { busy with mode := .userInt, stall := st }).ready 0) ∧ (rig 0 { busy with mode := .userFault }).ready 0 ∧
    back { busy with mode := .userFault } &&& 31 = 0 ∧ back { busy with mode := .userInt } = 0 ∧
    ({ busy with mode := .userInt } : Agent).selects 0 = true ∧ ({ busy with mode := .userFault } : Agent).selects 0 = true ∧
    (rig 0 busy).members 0 = [0] ∧ busy.mode = .task :=
  ⟨rfl, rfl, ready_of (by decide), by decide, fun _ => ready_of rfl, ready_of (by decide), by decide, by decide, by decide, by decide,
    by decide, rfl⟩

/-- A supervisor handler; the cause of the second is fatal, the return PC of the third misaligned. -/
def handler (cause s31 : W64) : Agent := { busy with mode := .super, cause := cause, super := { Bank.reset with s := [(31, s31)] } }

theorem meets_SupervisorReturn : erets .eret = some 0 ∧ erets .eretFirst = some 1 ∧
    (rig 0 { looping 1 4 [] with mode := .super }).ready 0 ∧ ({ looping 1 4 [] with mode := .super } : Agent).selects 1 = false ∧
    (∀ c x st, (rig 0 { handler c x with stall := st }).ready 0 ∧ (handler c x).selects 0 = true) ∧
    (handler 0x11 0x120).cause.setWidth 8 ∉ [0x06#8, 0x07#8, 0x16#8] ∧ Tab.get 0 (handler 0x11 0x120).super.s 31 &&& 31 = 0 ∧
    (handler 0x07 0x120).cause.setWidth 8 ∈ [0x06#8, 0x07#8, 0x16#8] ∧ Tab.get 0 (handler 0x11 0x121).super.s 31 &&& 31 ≠ 0 ∧
    (handler 0x07 0x120).task ≠ none ∧ ∀ f ∈ (handler 0x07 0x120).flight, ∀ u r x, f.res ≠ .row u r x :=
  ⟨rfl, rfl, ready_of (by decide), by decide, fun _ _ _ => ⟨ready_of rfl, rfl⟩, by decide, by decide, by decide, by decide, by decide,
    fun f h u r x => by simp only [handler, busy, List.mem_singleton] at h; subst h; exact nofun⟩

theorem meets_HaltWord : halts .halt = some 0 ∧ (rig 0 (handler 0x11 0)).ready 0 ∧ (handler 0x11 0).mode = .super ∧
    (handler 0x11 0).selects 0 = true ∧ (handler 0x11 0).task ≠ none ∧ halts .haltFirst = some 1 ∧
    (rig 0 { looping 1 4 [] with mode := .super }).ready 0 ∧ ({ looping 1 4 [] with mode := .super } : Agent).selects 1 = false :=
  ⟨rfl, ready_of (by decide), rfl, by decide, by decide, rfl, ready_of (by decide), by decide⟩

/-! ## States that meet the hypotheses: landings and waits -/

theorem meets_ResultLanding (r : Res) (_ : r = .s 31 1 ∨ r = .v 31 1 7 ∨ r = .csr 0x017 5 ∨ r = .csr 0x103 9 ∨ r = .csr 0x200 6 ∨
      r = .csr 0x208 6 ∨ r = .shape 3 0 15 0xFFFF ∨ r = .fmt 5 1 ∨ r = .npf ∨ r = .push 0 7 ∨ r = .row 11 127 7) :
    let a : Agent := { Agent.reset with icyc := 4, flight := [{ due := 4, res := r }] }
    nextFlight a.flight = some { due := 4, res := r } ∧ a.lands (2 * 4) = true ∧ (rig 0 a).quarantined = [] ∧
      ∀ l g e v, r = .shape l g e v → r = .shape 3 0 15 0xFFFF → 0 < l.toNat := by
  refine ⟨by simp [nextFlight], by simp [Agent.lands, Agent.landKeys, Agent.reset], rfl, fun l g e v h h' => ?_⟩
  cases h.symm.trans h'
  decide

/-- Without poison and without a lost unit nothing is poisoned. -/
theorem unpoisoned {s : State} (hp : s.poison = []) (hq : s.quarantined = []) (a k : Nat) : poisonedAt s a k = none := by
  unfold poisonedAt
  simp only []
  rw [List.find?_eq_none.2]
  intro l _
  simp only [hp, quarantinedAt, hq, Bool.or_false]
  exact Bool.false_ne_true

theorem unpoisoned_va {s : State} (hp : s.poison = []) (hq : s.quarantined = []) (n : Nat) (q : Option (BitVec 20)) (va k : Nat) :
    s.vaPoison n q va k = none := by
  unfold State.vaPoison
  rw [List.findSome?_eq_none_iff]
  intro p _
  split
  · rfl
  · rw [unpoisoned hp hq]
    rfl

/-- A near store of the last line, at its time, whose line the journal does not hold. -/
def landing : Agent := { Agent.reset with icyc := 3, nsq := [{ due := 3, off := 0x1FFFC0, len := 64, data := 7 }] }

theorem meets_NearStoreLanding : landing.nsq = [{ due := 3, off := 0x1FFFC0, len := 64, data := 7 }] ∧ landing.lands (2 * 3) = true ∧
    Tab.get none landing.journal 0x7FFF = none ∧ (∃ far cyc, ({ landing with icyc := 1, wait := .qalign false true 1 } : Agent).wait =
      .qalign far true cyc ∧ 3 < cyc + 3) := ⟨rfl, by decide, rfl, false, 1, rfl, by decide⟩

theorem meets_PlaneLoadLanding :
    let a : Agent := { Agent.reset with icyc := 8, planeLoads := [{ due := 8, plane := 1, frame := 191, swap := true }] }
    a.lands (2 * 8) = true ∧ poisonedAt (rig 0 a) (canopyAddr 0 (32768 * (191 : Byte).toNat)) 32768 = none :=
  ⟨by decide, unpoisoned rfl rfl _ _⟩

theorem meets_BlockAddition :
    let a : Agent := { Agent.reset with icyc := 8, blocks := [{ port := 7, tile := 11, zero := false, rows := [7, 8] }] }
    a.lands (2 * 7 + 1) = true ∧ (rig 0 a).quarantined = [] ∧ ([7, 8] : List Vec).length ≤ 128 := by decide

theorem meets_TileStallEnds :
    let a : Agent := { Agent.reset with blocks := [{ port := 7, tile := 11, zero := false, rows := [7, 8] }], board := some 11, mdrain := some 11 }
    (∀ b ∈ a.blocks, b.rows.length ≤ 128) ∧ a.board = some 11 ∧ a.mdrain = some 11 ∧ (rig 0 a).quarantined = [] := by decide

theorem abandons_of (a : Agent) (h : a.stop = StopReq.none) : ¬ abandons a := by
  rw [abandons, h]
  simp [StopReq.none]

theorem meets_WaitsEnd : (∀ w : Wait, ¬ abandons { Agent.reset with wait := w } ∧ ({ Agent.reset with wait := w } : Agent).settled = true) ∧ (0 : W64).toNat ≤ State.reset.now.toNat ∧
    (1 : BitVec 4).toNat ≤ (fed.queue 12).length ∧ ({ Regs.reset with latch := true } : Regs).latch = true ∧
    Agent.reset.farFault = none ∧ (0 : W64).toNat ≤ (Agent.reset.timeline 6).count.toNat ∧ (Agent.reset.timeline 6).frec = none ∧
    twaitaCheck (rig 0 Agent.reset) 0 0x10000 = none ∧ (rig 0 Agent.reset).vaPoison 0 none 0x10000 8 = none ∧
    (0 : W64).toNat ≤ (rig 0 Agent.reset).pollValue 0 0x10000 :=
  ⟨fun _ => ⟨abandons_of _ rfl, rfl⟩, by decide, by decide, rfl, rfl, by decide, by decide, by decide, by decide, by decide⟩

/-- In a user's interrupt handler a pre-emption does not abandon a wait, and in a fault handler a debug stop does not. -/
theorem meets_WaitsEnd_handlers : ¬ abandons { Agent.reset with mode := .userInt, stop := { StopReq.none with preempt := some 0 } } ∧
    ¬ abandons { Agent.reset with mode := .userFault, stop := { StopReq.none with debug := true } } := by
  constructor <;> simp [abandons, StopReq.none]

/-- A core in TWAIT for operation 2 of context 0, of which `m` operations are complete, with a recorded fault of operation `k`. -/
def waiting (m : BitVec 56) (k : W64) : Agent :=
  Agent.setCtx { Agent.reset with wait := .twait 0 2 } 0 0
    { EngCtx.reset with count := m, frec := some { num := k, status := 0x01, addr := 0x10000, sub := false } }

theorem meets_WaitDelivers : (rig 0 (waiting 5 2)).members 0 = [0] ∧ (waiting 5 2).wait = .twait 0 2 ∧ ¬ abandons (waiting 5 2) ∧
    (waiting 5 2).settled = true ∧ (waiting 5 2).farFault = none ∧ ({ waiting 5 2 with farFault := some (0x08, 0x10000) } : Agent).settled = true ∧
    (2 : W64).toNat ≤ ((waiting 5 2).timeline 0).count.toNat ∧
    ((waiting 5 2).timeline 0).frec = some { num := 2, status := 0x01, addr := 0x10000, sub := false } ∧
    ((waiting 5 3).timeline 0).frec = some { num := 3, status := 0x01, addr := 0x10000, sub := false } := by
  refine ⟨?_, ?_, abandons_of _ rfl, ?_, ?_, ?_, ?_, ?_, ?_⟩ <;> decide

/-- Each of the six waits meets each kind of stop request. -/
theorem meets_WaitAbandoned : (∀ w r, (rig 0 { busy with wait := w, stop := r }).members 0 = [0]) ∧ endsWait (.waitt 9) 0 (.waittEnd 0) ∧
    endsWait (.sleepc 9) 0 (.sleepcEnd 0) ∧ endsWait (.qwait 12 8) 0 (.qwaitEnd 0) ∧ endsWait .wfe 0 (.wfeWake 0) ∧
    endsWait (.twait 6 9) 0 (.twaitEnd 0) ∧ endsWait (.twaita 0x10000 9) 0 (.twaitaPoll 0) ∧
    ∀ r ∈ [{ StopReq.none with debug := true }, { StopReq.none with preempt := some 0 }, { StopReq.none with watchdog := some 0 }],
      ∀ w, abandons { busy with wait := w, stop := r } := by
  refine ⟨fun _ _ => rfl, rfl, rfl, rfl, rfl, rfl, rfl, fun r hr w => ?_⟩
  simp only [List.mem_cons, List.not_mem_nil, or_false] at hr
  rcases hr with rfl | rfl | rfl
  · exact .inr (.inl ⟨rfl, nofun, nofun⟩)
  · exact .inr (.inr ⟨nofun, rfl⟩)
  · exact .inl nofun

/-- A header whose program and parameter block lie in the leased range. -/
def header : BitVec 512 := BitVec.ofNat 512 (0x10000 + 0x10100 * 2 ^ 128)

/-- Loom task 0 of set 1, of agent 0, in state `st`. -/
def job (st : TStat) : LoomTask :=
  { stat := st, agent := 0, lightStop := false, lightLevels := [], held := 10, slice := 10, due := false, graph := [], code := []
    task := { account := 0, context := 0, cls := 0, kind := 0, tslot := 0, ts := 1, j := 0, rentwin := 1, pasid := none, save := 0x20000 } }

/-- Task set 1, launched by interface 3 under tag 9. -/
def jobs (xs : List LoomTask) : TaskSet :=
  { source := .queue 3 9 0, hdr := header, part := 0, cls := 0, rentwin := 1, pasid := none, ready := true, nodes := [], tasks := xs
    heldTicks := 0, heldAt := 0, code := 0, cause := 0, charged := 0, cap := none, overdue := false, dep := none
    swept := false }

/-- A checkpoint with a store of the leased range, an engine marker and a VACATE withheld. -/
def leaving : Agent :=
  { Agent.reset with wait := .ckpt false false 0x20, wb := [.store [{ addr := 0x10000, len := 64 }] 7, .marker 2, .rent (.vacate 4)] }

theorem meets_CheckpointCompletes : (rig 0 leaving).members 0 = [0] ∧ (rig 0 leaving).ckptReady [0] = true ∧ leaving.farFault = none ∧
    (rig 0 leaving).blocksInsolvent 0 = false ∧ (rig 0 leaving).firstRefused 0 = none ∧ leaving.stop = StopReq.none ∧
    (∀ c, Tab.get none leaving.r.notes c = none) := ⟨by decide, by decide, rfl, by decide, by decide, rfl, fun _ => rfl⟩

/-- A store outside every pitch is refused; with a debt a withheld RENT is; a far fault comes before both. -/
theorem meets_CheckpointRefused :
    let a : Agent := { leaving with wb := [.store [{ addr := 0x30000, len := 64 }] 7] }
    let b : Agent := { leaving with wb := [.rent (.rent 4 1)] }
    (rig 0 a).members 0 = [0] ∧ (rig 0 a).ckptReady [0] = true ∧ a.drains = false ∧ a.farFault = none ∧ (rig 0 a).blocksInsolvent 0 = false ∧
    (rig 0 a).firstRefused 0 = some (0x0A, 0x30000) ∧ b.drains = false ∧ (rig 0 b).ckptReady [0] = true ∧
    ({ rig 0 b with accounts := [(0, { Account.reset with committed := -1 })] } : State).blocksInsolvent 0 = true ∧
    (rig 0 { a with farFault := some (0x08, 0x10000) }).ckptReady [0] = true := by decide

/-- The last checkpoint of a task that leaves two pitches in its core's stores, one of them accessed. -/
theorem meets_FinalCheckpoint :
    let a : Agent := { busy with wait := .ckpt false true 0x20, flight := [], journal := [], touched := [] }
    let u := jobs [job .running]
    let s : State := { rig 0 a with
      tasksets := [(1, some u)], pitches := [(0, lease 0 0 0 0xC0000), (1, { lease 1 0 0 0x200000 with inflight := 1 })] }
    s.members 0 = [0] ∧ s.ckptReady [0] = true ∧ a.farFault = none ∧ s.blocksInsolvent 0 = false ∧ s.firstRefused 0 = none ∧
    a.stop = StopReq.none ∧ a.task ≠ none ∧ a.wb = [] ∧ s.commits = [] ∧ Tab.get none s.tasksets a.who.ts = some u ∧
    u.tasks[a.who.j]? = some (job .running) ∧ (job .running).stat ≠ .ended ∧
    (∀ k < 2, let p := s.pitch k
      p.state = .leased ∧ p.tier.toNat ≤ 2 ∧ p.unit = 0 ∧ p.account = a.who.account ∧ p.context = a.who.context) ∧
    (s.pitch 0).inflight = 0 ∧ (s.pitch 1).inflight ≠ 0 := by decide +kernel

theorem meets_NoteServed :
    let a : Agent := { leaving with wb := [], r := { Regs.reset with uivec := 0x60, notes := [(6, some { num := 3, status := 0 })] } }
    (rig 0 a).members 0 = [0] ∧ (rig 0 a).ckptReady [0] = true ∧ (rig 0 a).firstRefused 0 = none ∧
    Tab.get none a.r.notes 6 = some { num := 3, status := 0 } ∧ (∀ d, d < 6 → Tab.get none a.r.notes d = none) ∧ a.r.uimask = false ∧
    a.r.repn = 0 ∧ a.r.uivec ≠ 0 ∧ a.r.uivec &&& 31 = 0 := by decide

/-- A core at `pc` with two scalar registers written. -/
def at' (pc : W64) (x y : W64) : State := rig 0 { Agent.reset with r := { Regs.reset with pc := pc, s := [(1, x), (2, y)] } }

/-- 02 R58, R59: branches move by their displacement in bundles, forward and back; a condition that fails goes on. -/
theorem test_branches : after (.br 0 4) (at' 0x1000 0 0) (fun a => a.r.pc) = some 0x1080 ∧
    after (.br 0 0xFFFFFF) (at' 0x1000 0 0) (fun a => a.r.pc) = some 0xFE0 ∧
    after (.bc 0 0 1 2) (at' 0x1000 0 0) (fun a => a.r.pc) = some 0x1040 ∧
    after (.bc 0 0 1 2) (at' 0x1000 1 0) (fun a => a.r.pc) = some 0x1020 := by decide +kernel

theorem test_call : after (.call 0 4) (at' 0x1000 0 0) (fun a => a.r.pc) = some 0x1080 ∧
    lands (.call 0 4) (at' 0x1000 0 0) = [(1, .s 31 0x1020)] := by decide +kernel

/-- R55: at its end bundle a level goes back to its start, and after its last iteration the spindle goes on. -/
theorem test_loop_step : (after .nop (rig 0 (looping 0 2 [])) fun a => a.r.pc) = some 0x1000 ∧
    (after .nop (rig 0 (looping 1 2 [])) fun a => a.r.pc) = some 0x1020 := by decide +kernel

/-- R59: the index of an active level, all ones for an inactive one. -/
theorem test_lidx : lands (.lidx 0 3 0) (rig 0 (looping 1 4 [])) = [(1, .s 3 1)] ∧
    lands (.lidx 0 3 5) (rig 0 (looping 1 4 [])) = [(1, .s 3 0xFFFFFFFFFFFFFFFF)] := by decide +kernel

/-- R274's example, R260: TRAP 0x0001 goes to the supervisor with its number and the bundle's address, and the interval is discarded. -/
theorem test_trap : (after (.trap 0 1) (rig 0 { busy with r := { busy.r with pc := 0x200 } })
    fun a => (a.r.pc, a.cause, a.faddr, a.resume, a.flight.length)) = some (0x80, 0x1000F, 0x200, 0x100, 0) := by decide +kernel

/-- R260: a read of a supervisor CSR by a task is a privileged operation; a CSRW lands one issue cycle later (R48). -/
theorem test_csr_privilege : (after (.csrr 0 1 0x100) (rig 0 busy) fun a => (a.r.pc, a.cause)) = some (0x80, 0x0E) ∧
    lands (.csrw 0 1 0x010) (at' 0 0x40 0) = [(1, .csr 0x010 0x40)] := by decide +kernel

/-- 05 R122, R123: a word of the near store enters its queue six issue cycles later; a store leaves it at once and lands after three. -/
theorem test_near : ((lands (.nld 0 1 0 0 0) (rig 0 Agent.reset)).map Prod.fst) = [6] ∧
    (after (.nst 0 0 0 0 0) (rig 0 fed) fun a => (a.nsq.map (fun x => (x.due, x.off)), a.queue 0)) = some ([(3, 0)], []) := by decide +kernel

/-- 03 R88: a pop takes word w of the head; a peek leaves it. -/
theorem test_queue_words : lands (.qpops 0 3 12 0 0) (rig 0 fed) = [(1, .s 3 7)] ∧ (after (.qpops 0 3 12 0 0) (rig 0 fed) fun a => a.queue 12) = some [] ∧
    (after (.qpops 0 3 12 1 0) (rig 0 fed) fun a => a.queue 12) = some [7] := by decide +kernel

/-- 04 R96: a tick of the rent clock. -/
theorem test_clock : (match exec .rentClockTick (rig 0 Agent.reset) with | .next t => some t.now | _ => none) = some 1 := by decide +kernel

/-- 04 R102: at its paid tick a pitch that nothing accesses lapses. -/
theorem test_expiry : (match exec (.pitchExpiry 4) { rig 0 Agent.reset with now := 1000, pitches := [(4, { lease 4 0 0x10000 0x10000 with att := 0 })] } with
    | .next t => some (t.pitch 4).state | _ => none) = some .lapsed := by decide +kernel

/-! ## States that meet the hypotheses: channels, homes and engines -/

/-- The owner of an agent without a task. -/
def me : Who := Agent.reset.who

def load : FarLoad := { q := 13, cyc := 0, id := 0, parts := 1, es := [{ addr := 0x10000, len := 64, phys := 0x10000 }], pitches := [], dropped := false }
def store : Cmd := .store [{ addr := 0x10000, len := 64 }] 7
def fill : EngOp :=
  { op := 0x13, ctx := 0, num := 1, dst := oneWord 0x10000, src := Shape.reset, s := 5, s2 := 0, enc := false, docreg := 0, kvslot := 0
    kvtok := 0, kvlayer := 0, devthr := 0 }

/-- Agent 0 where the leased range is a TSO pitch, with entries in the channels. -/
def tso (a : Agent) (ts : List Transit) : State :=
  { rig 0 a with pitches := [(4, { lease 4 0 0x10000 0x10000 with att := 3 })], transit := ts }

/-- An entry of agent 0 on its way to the home of the leased range. -/
def away (l : Load) (route : List Point) : Transit :=
  { agent := 0, owner := me, seq := 0, load := l, passed := .agent 0, route := route, home := .dop 0 }

/-- Accesses of no TSO page; of one, alone and behind another of its queue; the other commands of the FSQ. -/
theorem meets_EntriesDepart : (rig 0 { Agent.reset with flq := [load] }).isTso 0 (.read load) = false ∧
    (rig 0 { Agent.reset with fsq := [⟨me, store, 0⟩] }).isTso 0 (.cmd store) = false ∧
    (tso Agent.reset []).isTso 0 (.read load) = true ∧ (tso Agent.reset []).isTso 0 (.cmd store) = true ∧ tsoFree (tso Agent.reset []) 0 Load.isRead ∧
    ¬ tsoFree (tso Agent.reset [away (.read load) [.dop 0]]) 0 Load.isRead ∧
    ¬ tsoFree (tso Agent.reset [away (.cmd store) [.dop 0]]) 0 Load.isStored ∧
    (rig 0 Agent.reset).isTso 0 (.cmd (.atomic .add true 0x10000 1 0 none)) = false ∧
    (rig 0 Agent.reset).isTso 0 (.cmd (.wcAddV 0x10000 0 1)) = false ∧ (7 : W64).toNat < 312 ∧
    ∀ u ∈ (rig 0 Agent.reset).transit, u.agent = 0 → u.load.isStored = false := by
  refine ⟨by decide, by decide +kernel, by decide +kernel, by decide +kernel, fun _ h => absurd h List.not_mem_nil, fun h => ?_, fun h => ?_, by decide,
    by decide +kernel, by decide, fun _ h => absurd h List.not_mem_nil⟩
  · exact absurd (h _ (List.mem_singleton_self _) rfl rfl) (by decide)
  · exact absurd (h _ (List.mem_singleton_self _) rfl rfl) (by decide +kernel)

/-- A store of the HBM range that has passed its LOP lets a marker of scope LOOM go, and one before it does not. -/
theorem meets_EntriesDepart_marker : lets (away (.cmd store) [.dop 0]) 1 ∧ ¬ lets (away (.cmd store) [.lop 0, .dop 0]) 1 ∧
    (away (.cmd store) [.lop 0, .dop 0]).load.isStored = true ∧ (⟨me, .marker 1, 0⟩ : Held).isMarker = true := by
  refine ⟨⟨by simp [inScope, away], .inr (by decide)⟩, fun h => ?_, rfl, rfl⟩
  exact absurd h.2 (by decide)

theorem meets_HomesOfElements : ∀ e ∈ load.es, ∀ j < e.len, (rig 0 Agent.reset).isArm (e.addr.toNat + j) = false := fun _ _ _ _ => rfl

theorem meets_EntriesHop :
    let e : Transit := { agent := 0, owner := me, seq := 0, load := .read load, passed := .agent 0, route := [.lop 0, .dop 0], home := .dop 0 }
    let s : State := { State.reset with transit := [e] }
    s.transit[0]? = some e ∧ ∀ u ∈ s.transit.take 0, u.passed ≠ e.passed ∨ u.route.head? ≠ some (.lop 0) := ⟨rfl, fun _ h => absurd h (List.not_mem_nil (α := Transit))⟩

def carried (l : Load) : Transit := { agent := 0, owner := me, seq := 0, load := l, passed := .dop 0, route := [], home := .dop 0 }
def home (l : Load) : State := { rig 0 Agent.reset with transit := [carried l] }
theorem at_home (s : State) (l : Load) (h : s.transit = [carried l]) : atHome s 0 (carried l) :=
  ⟨by rw [h]; rfl, rfl, fun _ h => absurd h List.not_mem_nil⟩

/-- A load of the leased range; with a part of it that has performed before. -/
theorem meets_LoadPerforms : atHome (home (.read load)) 0 (carried (.read load)) ∧ (∀ z ∈ load.es, regionOf z.addr.toNat = .rented) ∧
    (home (.read load)).arrivals = [] ∧
    let y : Arrival := { agent := 0, owner := me, q := 13, entry := 0, pitches := [], owed := false, dropped := false, trap := none, parts := 1 }
    y.agent = (carried (.read load)).agent ∧ y.owed = false ∧ y.parts ≠ 0 ∧ y.id = load.id :=
  ⟨at_home _ _ rfl, by decide, rfl, by decide⟩

/-- A store of a whole page and an atomic at the end of one. -/
theorem meets_StoresPerform : atHome (home (.cmd store)) 0 (carried (.cmd store)) ∧ (home (.cmd store)).quarantined = [] ∧
    (home (.cmd store)).live 0 me 0x10000 = true ∧
    (0x10000 : W64).toNat % 4096 + 512 ≤ 4096 ∧ (0x10FF8 : W64).toNat % 4096 + 8 ≤ 4096 ∧
    (home (.cmd store)).partPoison 0 none 0x10000 512 = none ∧ (home (.cmd store)).vaPoison 0 none 0x10000 512 = none ∧
    (home (.cmd store)).live 0 me 0x10FF8 = true ∧ (home (.cmd store)).partPoison 0 none 0x10FF8 8 = none ∧
    (home (.cmd store)).vaPoison 0 none 0x10FF8 8 = none ∧ regionOf 0x10FF8 = .rented := by
  refine ⟨at_home _ _ rfl, ?_, ?_, ?_, ?_, ?_, ?_, ?_, ?_, ?_, ?_⟩ <;> decide +kernel

/-- The pitch of the entry has gone. -/
theorem meets_LapsedEntriesPerform (l : Load) (hl : l ∈ [.cmd store, .cmd (.atomic .add true 0x10000 1 0 (some 13)), .cmd (.wcAdd 0x10000 0 1),
      .cmd (.wcRead 0x10000 13 [] 0x10000)]) :
    let s : State := { home l with pitches := [(4, { lease 4 0 0x10000 0x10000 with state := .lapsed })] }
    atHome s 0 (carried l) ∧ s.live 0 me 0x10000 = false :=
  ⟨at_home _ _ rfl, (show ∀ l ∈ _, State.live { home l with pitches := [(4, { lease 4 0 0x10000 0x10000 with state := .lapsed })] } 0 me 0x10000 = false
    by decide +kernel) l hl⟩

theorem meets_WideCellsPerform : let add : Load := .cmd (.wcAdd 0x10040 0 1)
    let read : Load := .cmd (.wcRead 0x10040 13 [] 0x10040)
    atHome (home add) 0 (carried add) ∧ atHome (home read) 0 (carried read) ∧
    (∀ l ∈ [add, read], (home l).quarantined = [] ∧ (home l).live 0 me 0x10040 = true) ∧ (0x10040 : W64).toNat % 64 = 0 ∧
    regionOf 0x10040 = .rented ∧ (home add).vaPoison 0 none 0x10040 64 = none ∧ poisonedAt (home read) 0x10040 64 = none := by
  refine ⟨at_home _ _ rfl, at_home _ _ rfl, ?_, ?_, ?_, ?_, ?_⟩ <;> decide +kernel

/-- A counter whose COUNT reads 0 fires at THRESH 0, with an event, and waits at THRESH 5. -/
theorem meets_ArmCounterFires : (∀ x, atHome (home (.cmd (.xarm 0x10040 x))) 0 (carried (.cmd (.xarm 0x10040 x)))) ∧
    (∀ l ∈ [Load.cmd (.xarm 0x10040 0x100020000000), .cmd (.xarm 0x10040 5)], (home l).quarantined = [] ∧
      (home l).live 0 me 0x10040 = true ∧ (home l).work = [] ∧ (home l).mem.num 0x10040 8 % 2 ^ 28 = 0) ∧
    (0x10040 : W64).toNat % 16 = 0 ∧ regionOf 0x10040 = .rented ∧ ((0x100020000000 : W64).extractLsb' 0 28).toNat ≤ 0 ∧
    ¬ ((5 : W64).extractLsb' 0 28).toNat ≤ 0 := by
  refine ⟨fun _ => at_home _ _ rfl, ?_, ?_, ?_, ?_, ?_⟩ <;> decide +kernel

def filling (todo : List (Nat × Micro)) : Running :=
  { agent := 0, owner := me, op := fill, todo := todo, kept := [], status := 0, faddr := 0, sub := false, pitches := [], slotHdr := none, seq := 0 }

/-- A place of the leased range and the operation's state with these accesses to come. -/
def spot : Spot := { tier := 4, addr := 0x10040 }
def making (todo : List (Nat × Micro)) : State := { rig 0 Agent.reset with running := [filling todo] }

/-- An access that may enter; one whose page is unmapped; a rotation and a judgement that come first. -/
theorem meets_ElementsDepart (d : Arena) (u : Turn) :
    let m : Micro := .copy spot spot 64
    (making [(0, m)]).mayEnter (filling [(0, m)]) 0 = true ∧ m.place = some (spot, 64) ∧ (filling [(0, m)]).todo[0]? = some (0, m) ∧
    (making [(0, m)]).firstFault 0 me ((filling [(0, m)]).todo.take 1) = none ∧
    (State.firstFault { making [(0, m)] with pages := [(0x10, { Page.plain with unmapped := true })] } 0 me
      ((filling [(0, m)]).todo.take 1)).isSome = true ∧
    (filling [(0, .turn u)]).todo[0]? = some (0, .turn u) ∧ (filling [(0, .judge d 0 0 0 0)]).todo[0]? = some (0, .judge d 0 0 0 0) ∧
    ∀ ms, (making ms).flying 0 0 = [] := by
  refine ⟨?_, rfl, rfl, ?_, ?_, rfl, rfl, fun _ => rfl⟩ <;> decide +kernel

/-- A place whose second quarter is an arm counter's: its bytes have two homes. -/
def divided (todo : List (Nat × Micro)) : State := { making todo with arms := [(0x1005, some (0, 0))] }

theorem meets_ElementsDepart_parts :
    let m : Micro := .copy spot { tier := 2, addr := 0 } 64
    let w : Micro := .put spot (List.replicate 64 7)
    ((making []).partsOf 0 none spot 64).length = 1 ∧ ((divided []).partsOf 0 none spot 64).length ≠ 1 ∧
    (∀ x ∈ [m, w], x.place = some (spot, 64) ∧ (divided [(0, x)]).mayEnter (filling [(0, x)]) 0 = true ∧
      (divided [(0, x)]).firstFault 0 me ((filling [(0, x)]).todo.take 1) = none) ∧
    w.writes = some (spot, List.replicate 64 7) ∧ m.writes = none ∧ w.reads = none := by
  refine ⟨?_, ?_, ?_, rfl, rfl, rfl⟩ <;> decide +kernel

/-- A read behind a write, a write behind a read, a step that comes first and one that does not, a judgement that waits for an access under
way, and kept bytes of a rotation and of a read in parts. -/
theorem meets_ElementsDepart_steps (d : Arena) (u : Turn) :
    let m : Micro := .copy spot spot 64
    let w : Micro := .put spot [7]
    let flying : State := { making [(1, .judge d 0 0 0 0)] with transit := [carried (.element 0 0 m)] }
    let kept : Running := { filling [(0, .turn { u with even := 2, odd := 4 }), (1, .join m [6])] with kept := [(2, [1]), (4, [2]), (6, [3])] }
    m.reads ≠ none ∧ (∀ x ∈ [(0, w)], x.2 ≠ .gate true) ∧ w.reads = none ∧ w.place ≠ none ∧ (∃ x ∈ [(0, m)], x.2.isPut = false) ∧
    (filling [(0, .gate true), (1, m)]).todo[0]? = some (0, .gate true) ∧ (filling [(0, m), (1, .gate true)]).todo[1]? = some (1, .gate true) ∧
    (making []).flying 0 0 = [] ∧ (∃ y ∈ flying.flying 0 0, y.1 < 1) ∧
    (∀ x ∈ [2, 4, 6], ∃ y ∈ kept.kept, y.1 = x) := by
  refine ⟨nofun, ?_, rfl, nofun, ⟨_, List.mem_singleton_self _, rfl⟩, rfl, rfl, rfl, ⟨(0, .copy spot spot 64), ?_, by decide⟩, ?_⟩
  · intro x hx
    rw [List.mem_singleton.1 hx]
    exact nofun
  · exact List.mem_singleton_self _
  · intro x hx
    simp only [List.mem_cons, List.not_mem_nil, or_false] at hx
    rcases hx with rfl | rfl | rfl <;> simp

/-- Accesses that travel: of the canopy and of HBM, with and without poison, and a dictionary of its 16 bytes and 256 code bytes. -/
theorem meets_ElementPerforms : let s (m : Micro) : State := { making [] with transit := [carried (.element 0 0 m)] }
    (∀ m, atHome (s m) 0 (carried (.element 0 0 m)) ∧ (s m).running = [filling []] ∧ (s m).quarantined = [] ∧ (filling []).owner = me) ∧
    (2 : BitVec 3).toNat ≤ 3 ∧
    regionOf spot.addr.toNat = .rented ∧ spot.addr.toNat % 4096 + 4 ≤ 4096 ∧ (s (.copy spot spot 64)).spotPoison 0 none spot 64 = none ∧
    (State.spotPoison { s (.copy spot spot 64) with poison := [(0x401, true)] } 0 none spot 64).isSome = true ∧
    (Micro.dict spot [0, 1] false).reads = some (spot, 272) ∧ 2 ≤ 2 * (272 - 16) := by
  refine ⟨fun _ => ⟨at_home _ _ rfl, rfl, rfl, rfl⟩, by decide, by decide, by decide, by decide +kernel, by decide +kernel, rfl, by decide⟩

/-- The second part of a copy of 128 bytes, whose first 64 have poison too. -/
theorem meets_ElementPerforms_parts : let m : Micro := .copy spot { tier := 2, addr := 0 } 128
    let r := filling [(0, .join m [1, 3])]
    let e : Load := .element 0 0 (.keep (spot.shift 64) 64 3)
    let s : State := { making [] with running := [r], transit := [carried e], poison := [(0x401, true), (0x402, true)] }
    atHome s 0 (carried e) ∧ s.running = [r] ∧ 3 % 2 = 1 ∧ r.partOf 3 = some m ∧ m.reads = some (spot, 128) ∧
    (s.spotPoison 0 none (spot.shift 64) 64).isSome = true ∧ s.spotPoison 0 none spot 128 = some 0x10040 ∧
    (Micro.amend 0x10040 5 none).reads = some (vaSpot 0x10040, 16) := by
  refine ⟨at_home _ _ rfl, rfl, rfl, rfl, rfl, ?_, ?_, rfl⟩ <;> decide +kernel

/-- The entry of a block at 0x10040: bit 108 (SPLICED), bit 109 (UNDER) with watermark 0, and bit 110 (STALE). -/
def tagging (byte : Byte) : State :=
  { making [] with mem := [(0x1004D, byte)], transit := [carried (.element 0 0 (.tag 0x10000 0x10040 1 true 0x10080 1 true))] }
theorem meets_TagChecks : (∀ x, atHome (tagging x) 0 (carried (.element 0 0 (.tag 0x10000 0x10040 1 true 0x10080 1 true)))) ∧
    (∀ k ∈ [0x10, 0x20, 0x40], (tagging (BitVec.ofNat 8 k)).spotPoison 0 none (vaSpot 0x10040) 16 = none) ∧
    (let e (x : Byte) : Nat := natOfBytes ((tagging x).spotBytes 0 none (vaSpot 0x10040) 16)
     (e 0x10).testBit 110 = false ∧ (e 0x10).testBit 108 = true ∧ (e 0x40).testBit 110 = true ∧ (e 0x20).testBit 110 = false ∧
       (e 0x20).testBit 108 = false ∧ (e 0x20).testBit 109 = true ∧ e 0x20 / 2 ^ 100 % 2 ^ 8 = 0 ∧ (e 0).testBit 109 = false) ∧
    (filling []).status = 0 := by
  refine ⟨fun _ => at_home _ _ rfl, ?_, ?_, rfl⟩ <;> decide +kernel

/-- The registry's entry at 0x10080 holds DOC 5: current for a block of DOC 5, and not for one of DOC 6; the mark of that block. -/
theorem meets_TagChecks_look : let look (ent : Nat) : Load := .element 0 0 (.look 0x10000 0x10040 1 true 0x10080 ent true)
    let mark : Load := .element 0 0 (.stale 0x10000 0x10040 6)
    let s (l : Load) : State := { making [] with mem := [(0x10080, 5)], transit := [carried l] }
    (∀ l, atHome (s l) 0 (carried l) ∧ (s l).running = [filling []] ∧ (s l).quarantined = []) ∧
    (s (look 5)).spotPoison 0 none (vaSpot 0x10080) 16 = none ∧
    (let reg := natOfBytes ((s (look 5)).spotBytes 0 none (vaSpot 0x10080) 16)
     reg % 2 ^ 80 = 5 % 2 ^ 80 ∧ reg % 2 ^ 80 ≠ 6 % 2 ^ 80) ∧
    (s mark).transit = [carried mark] ∧ regionOf (0x10040 : W64).toNat = .rented ∧ (0x10040 : W64).toNat % 4096 + 16 ≤ 4096 := by
  refine ⟨fun _ => ⟨at_home _ _ rfl, rfl, rfl⟩, ?_, ⟨?_, ?_⟩, rfl, ?_, ?_⟩ <;> decide +kernel

theorem planned {o : Except Halt Plan} (h : (match o with | .ok _ => true | .error _ => false) = true) : ∃ p, o = .ok p := by
  cases o with
  | ok p => exact ⟨p, rfl⟩
  | error e => cases h

theorem meets_CopyAndFillPlans : (∃ p, (rig 0 Agent.reset).planOf 0 me fill = .ok p) ∧
    ∃ p, (rig 0 Agent.reset).planOf 0 me { fill with op := 0x10, src := oneWord 0x10400 } = .ok p :=
  ⟨planned (by decide +kernel), planned (by decide +kernel)⟩

/-- An entry that waits for a part, one that a restore has dropped, one whole, and one with poison. -/
theorem meets_EntriesArrive (d o : Bool) (k : Nat) (p : Option (Byte × W64)) :
    let x : Arrival := { agent := 0, owner := me, q := 13, entry := 7, pitches := [], owed := o, dropped := d, trap := p, parts := k }
    let s : State := { State.reset with arrivals := [x] }
    s.arrivals[0]? = some x ∧ s.runs 0 x.owner = true ∧ x.pitches = [] := by cases d <;> cases o <;> exact ⟨rfl, rfl, rfl⟩

/-- An entry and an operation that hold pitch 4, leased, left by its task or in overstay, once or twice. -/
theorem meets_InflightFalls (p : Pitch) (hp : p ∈ [{ lease 4 0 0x10000 0x10000 with inflight := 2 },
      { lease 4 0 0x10000 0x10000 with inflight := 1 }, { lease 4 0 0x10000 0x10000 with inflight := 1, vacWhenIdle := true },
      { lease 4 0 0x10000 0x10000 with state := .overstay, inflight := 1, att := 0 }]) :
    let x : Arrival := { agent := 0, owner := me, q := 13, entry := 7, pitches := [4], owed := false, dropped := false, trap := none }
    let r : Running := { filling [] with pitches := [4] }
    let s : State := { rig 0 Agent.reset with arrivals := [x], running := [r], pitches := [(4, p)] }
    ((s.pitch 4).att.getLsbD 0 = false ∨
        ((s.pitch 4).state ≠ .overstay ∧ s.expiryDue 4 = false ∧ (s.pitch 4).drained = false)) ∧ s.arrivals[0]? = some x ∧ x.parts = 0 ∧
      s.runningOn 0 0 = some r ∧ r.todo = [] ∧ s.flying 0 0 = [] := by
  simp only [List.mem_cons, List.not_mem_nil, or_false] at hp
  rcases hp with rfl | rfl | rfl | rfl <;> exact ⟨by decide, rfl, rfl, rfl, rfl, rfl⟩

/-- The tick has reached the end of an accessed pitch, or the next one after it in overstay; neither has been charged. -/
theorem meets_InflightFalls_late : let p : Pitch := { lease 4 0 0x10000 0x10000 with inflight := 1, att := 0 }
    let s : State := { rig 0 Agent.reset with now := 1000, pitches := [(4, p), (5, { p with state := .overstay, lapsedAt := 999 })] }
    s.expiryDue 4 = true ∧ (s.pitch 4).inflight ≠ 0 ∧ (s.pitch 5).state = .overstay ∧ (s.pitch 5).lapsedAt < s.now.toNat ∧
      (s.pitch 5).inflight ≠ 0 ∧ -(2 ^ 63) ≤ (s.account 0).committed.toInt - (2 * 0x10000 * 1 : Nat) ∧
      (s.account 0).overstay.toNat + 2 * 0x10000 * 1 < 2 ^ 64 := by decide +kernel

/-- An operation that may start; one behind a marker; one whose context runs; a DARNC behind an earlier command. -/
theorem meets_OperationsStart :
    let s := rig 0 { Agent.reset with ecb := [⟨me, .engine fill, 0⟩] }
    let marked : List Held := [⟨me, .marker 1, 0⟩, ⟨me, .engine fill, 1⟩]
    let darnc : EngOp := { fill with op := 0x17 }
    nextOp 0 (s.agent 0).ecb = some (0, ⟨me, .engine fill, 0⟩, fill) ∧ openTo (s.agent 0).ecb 0 = true ∧ s.ctxBusy 0 0 = false ∧
      s.slotBusy (s.slotHeader 0 me fill) = false ∧ fill.op ≠ 0x17 ∧ nextOp 0 marked = some (1, ⟨me, .engine fill, 1⟩, fill) ∧
      openTo marked 1 = false ∧ (making []).ctxBusy 0 0 = true ∧ nextOp 0 [⟨me, .engine darnc, 3⟩] = some (0, ⟨me, .engine darnc, 3⟩, darnc) ∧
      (rig 0 { Agent.reset with fsq := [⟨me, store, 1⟩] }).doneBefore 0 3 = false ∧ s.doneBefore 0 0 = true := by
  refine ⟨rfl, ?_, ?_, ?_, ?_, rfl, ?_, ?_, rfl, ?_, ?_⟩ <;> decide +kernel

theorem meets_OperationsComplete :
    let r : Running := { filling [] with status := 0x08 }
    let s : State := { rig 0 { Agent.reset with r := { Regs.reset with noteReq := [(0, 1)] } } with running := [r] }
    s.runningOn 0 0 = some r ∧ s.flying 0 0 = [] ∧ s.runs 0 r.owner = true ∧ faulting r.status = true ∧ (Agent.reset.ctx 0 0).frec = none ∧
      Tab.get 0 (s.agent 0).r.noteReq 0 ≠ 0 ∧ (Tab.get 0 (s.agent 0).r.noteReq 0).toNat ≤ r.op.num.toNat :=
  ⟨rfl, rfl, by decide, by decide, by decide, by decide, by decide⟩

/-- A loom controller with a task of account 0 stalls on an entry of the leased range. -/
def caller (st : Stall) : State :=
  { rig 289 { busy with stall := st } with tasksets := [(1, some (jobs [job .running]))] }

/-- The entry reads or has poison; a mailbox with room and a full one; a master with a task of the account and none; a header that passes,
and one for each check that fails. -/
theorem meets_EntryReads : (caller (.xqp 0x10000 3)).vaPoison 289 none 0x10000 64 = none ∧
    (State.vaPoison { caller (.xqp 0x10000 3) with poison := [(0x400, true)] } 289 none 0x10000 64).isSome = true ∧
    (Tab.get [] (caller (.xmbox 0x10000 1 0)).mailbox 0).length < 16 ∧
    16 ≤ (Tab.get [] [(0, List.replicate 16 ({ agent := 0, account := 0, req := none, order := 0 } : Slot))] 0).length ∧
    (caller (.xmbox 0x10000 1 0)).masterHolds 0 0 = false ∧
    ((caller (.xmbox 0x10000 1 0)).setAgent 288 busy).masterHolds 0 0 = true ∧
    (Tab.get none (caller (.xlaunch 0x10000 1 0)).tasksets busy.who.ts).isSome = true ∧ hdrKind (BitVec.ofNat 512 (2 ^ 92)) ≠ 0 ∧
    11 < hdrRank (BitVec.ofNat 512 (12 * 2 ^ 100)) ∧ hdrAccount (BitVec.ofNat 512 (1 + 2 ^ 64)) ≠ 0 ∧ hdrPc 0 = 0 ∧
    (header.extractLsb' 57 7 = 0 ∧ header.extractLsb' 104 24 = 0 ∧ header.extractLsb' 448 64 = 0 ∧ hdrKind header = 0) ∧
    hdrRank header ≤ 11 ∧ hdrAccount header = busy.who.account ∧ hdrContext header = busy.who.context ∧ hdrPc header ≠ 0 ∧
    hdrPc header &&& 31 = 0 := by
  refine ⟨?_, ?_, ?_, ?_, ?_, ?_, ?_, ?_, ?_, ?_, ?_, ?_, ?_, ?_, ?_, ?_, ?_⟩ <;> decide +kernel

/-! ## States that meet the hypotheses: Genay -/

/-- Agent `n` waits for Genay's reply to `r`; account 0 has `x` units. -/
def asking (n : Nat) (x : Int) (r : RentReq) : State :=
  { rig n { Agent.reset with stall := .genay r } with accounts := [(0, { Account.reset with committed := x, hold := 100 })] }

/-- A RENT of 100 bytes of the loom store for 10 ticks. -/
def rentReq : RentReq := { op := 0x20, x := 100, y := 10, d := 5, att := 0, tier := 3, cyc := 0 }

theorem meets_RentGranted : let s := asking 0 1000000000 rentReq
    ((s.agent 0).stall = .genay rentReq ∧ s.insolvent 0 = false ∧ s.heldBy 0 < 65536 ∧ s.inUse < 262144 ∧
      s.place 3 0 (roundUp 3 100) 0x10000 = some 0x10000) ∧ s.freshPitch.isSome = true ∧
      s.cannotPay 0 0 (roundUp 3 100 * (s.rates.at 3).toNat * 10) = false ∧ 100 ≤ largestPitch 3 := by
  refine ⟨⟨rfl, ?_, ?_, ?_, ?_⟩, ?_, ?_, ?_⟩ <;> decide +kernel

/-- No bytes, a loom controller that asks for accumulator rows, a debt, 65,536 pitches, and too small an allowance. -/
theorem meets_RentRefused :
    (asking 0 0 { rentReq with x := 0 }).insolvent 0 = false ∧ (3 < 288 ∧ 288 ≤ 288) ∧ (asking 0 (-1) rentReq).insolvent 0 = true ∧
    65536 ≤ State.heldBy { asking 0 0 rentReq with pitches := List.replicate 65536 (4, lease 4 0 0x10000 0x10000) } 0 ∧
    ((asking 0 0 rentReq).place 3 0 (roundUp 3 100) 0x10000).isSome = true ∧ (asking 0 0 rentReq).freshPitch.isSome = true ∧
    (asking 0 0 rentReq).cannotPay 0 0 (roundUp 3 100 * 8 * 10) = true := by
  refine ⟨by decide, by decide, by decide, ?_, by decide +kernel, by decide +kernel, by decide +kernel⟩
  have h : ∀ x ∈ List.replicate 65536 (4, lease 4 0 0x10000 0x10000),
      (decide ((x.2 : Pitch).state ≠ .free) && x.2.account == 0) = true := fun x hx => by rw [List.eq_of_mem_replicate hx]; decide
  unfold State.heldBy
  exact le_of_eq (by rw [List.filter_eq_self.2 h]; exact List.length_replicate.symm)

/-- The loom's store is full: one pitch is leased, or its storage is being scrubbed. -/
theorem meets_RentRefused_space : let s (st : PState) : State := { asking 0 0 rentReq with pitches := [(3, { lease 3 0 0 0x1800000 with state := st })] }
    let kept (s : State) : State := { s with pitches := s.pitches.filter (fun x => decide (x.2.state ≠ .scrubbing)) }
    (s .leased).place 3 0 (roundUp 3 100) 0x10000 = none ∧ (s .scrubbing).place 3 0 (roundUp 3 100) 0x10000 = none ∧
    (kept (s .leased)).place 3 0 (roundUp 3 100) 0 = none ∧ ((kept (s .scrubbing)).place 3 0 (roundUp 3 100) 0).isSome = true ∧
    ¬ (65536 ≤ (s .leased).heldBy 0 ∨ 262144 ≤ (s .leased).inUse) ∧ ¬ (65536 ≤ (s .scrubbing).heldBy 0 ∨ 262144 ≤ (s .scrubbing).inUse) := by
  refine ⟨?_, ?_, ?_, ?_, ?_, ?_⟩ <;> decide +kernel

/-- The range of HBM belongs to the asking context and has not lapsed; a UIRET waits for the answer of an ALLOWQ. -/
theorem meets_RentQueries : (asking 0 0 { rentReq with op := 0x25, x := 0x10000 }).holding 0 4 0x10000 = .own 4 (lease 4 0 0x10000 0x10000) ∧
    (asking 0 0 { rentReq with op := 0x25, x := 0x10000 }).lapsedFor 4 (lease 4 0 0x10000 0x10000) = false ∧
    -2 ^ 63 ≤ ((asking 0 0 rentReq).account 0).committed.toInt - ((asking 0 0 rentReq).account 0).hold ∧
    ({ Agent.reset with stall := .genay { rentReq with op := 0x26 }, wait := .uiret } : Agent).wait = .uiret ∧
    (rig 0 { Agent.reset with stall := .genay { rentReq with op := 0x26 }, wait := .uiret }).members 0 = [0] := by decide +kernel

/-- A RENEW and a PREPAY of 10 ticks, a SUBLET of the two granules of the pitch, and a VACATE. -/
theorem meets_RentExtended : (∀ op ∈ [0x21, 0x22], let s := asking 0 10000000000 { rentReq with op := BitVec.ofNat 6 op, x := 0x10000 }
      s.holding 0 4 0x10000 = .own 4 (lease 4 0 0x10000 0x10000) ∧ s.lapsedFor 4 (lease 4 0 0x10000 0x10000) = false ∧
      s.paidFor 0 4 = 1000 ∧ s.insolvent 0 = false ∧ s.cannotPay 0 0 (10 * 0x10000) = false) ∧
    (1000 + 10 ≠ 1000 ∧ 1000 + 10 < 2 ^ 63) ∧ max 1000 (State.reset.now.toNat + (1010 : W64).toNat) ≠ 1000 ∧
    (lease 4 0 0x10000 0x10000).inflight = 0 ∧ 0x10000 % granule 4 = 0 ∧ 0x10000 - 0x10000 + 2 * granule 4 ≤ 0x10000 ∧
    ((0x8000400 : W64).extractLsb' 26 30).toNat = 2 ∧ (0x8000400 : W64).extractLsb' 56 8 = 0 ∧
    ((asking 0 0 rentReq).subletsFor 0 4).length < 4 := by decide +kernel

theorem meets_RentCommits : let p := lease 4 0 0x10000 0x10000
    let s : State := { asking 0 1000 rentReq with pitches := [(4, { p with state := .tentative, tentBy := some 0 }), (5, p)] }
    (s.pitch 4).state = .tentative ∧ s.now.toNat < (s.pitch 4).paid ∧ 100 ≤ (s.account 0).hold ∧ (s.account 0).charged.toNat + 100 < 2 ^ 64 ∧
      counts64 ((s.account 0).committed.toInt - 100) ∧ s.now.toNat < (s.pitch 5).paid ∧
      (s.pitch 5).state = .leased ∧ (s.pitch 5).inflight = 0 ∧ (p.subs.filter (fun _ => true)).length < 4 ∧
      counts64 ((s.account 0).committed.toInt + (1000 - 1) * 0x10000) := by
  refine ⟨?_, ?_, ?_, ?_, ⟨?_, ?_⟩, ?_, ?_, ?_, ?_, ⟨?_, ?_⟩⟩ <;> decide +kernel

theorem meets_ClockTicks : let s : State := { rig 0 busy with tasksets := [(1, some (jobs [job .running]))] }
    s.updateLate = false ∧ (∀ e ∈ s.pitches, s.sweepDue e.1 = false) ∧ (∀ e ∈ s.agents, s.owesTick e.1 = false ∧ s.owesStop e.1 = false) ∧
    ∀ e ∈ s.tasksets, (match e.2 with
      | some u => s.drainDue u
      | none => false) = false := by decide +kernel

/-- At its last tick a pitch lapses or, accessed, overstays; one whose extension is pending, or paid for longer, stays; an overstay of the
tick before owes one. -/
theorem meets_PitchesExpire : let p := lease 4 0 0x10000 0x10000
    let s : State := { rig 0 { Agent.reset with wb := [.rent (.renew 3 9 2000)] } with
      now := 1000
      pitches := [(3, p), (4, { p with att := 0 }), (5, { p with inflight := 1 }), (6, { p with state := .overstay, lapsedAt := 999 }),
        (7, { p with paid := 1001 })] }
    (s.pitch 4).paid ≤ s.now.toNat ∧ s.extensionPending 4 = false ∧ (s.pitch 4).att.getLsbD 0 = false ∧ (s.pitch 5).inflight ≠ 0 ∧
      s.extensionPending 3 = true ∧ (s.pitch 3).state = .leased ∧ (s.pitch 7).paid > s.now.toNat ∧
      (s.pitch 6).state = .overstay ∧ (s.pitch 6).lapsedAt < s.now.toNat ∧
      counts64 ((s.account 0).committed.toInt - 2 * 0x10000) ∧ (s.account 0).overstay.toNat + 2 * 0x10000 < 2 ^ 64 := by
  refine ⟨?_, ?_, ?_, ?_, ?_, ?_, ?_, ?_, ?_, ⟨?_, ?_⟩, ?_⟩ <;> decide +kernel

/-- A SYNC pitch at its last tick: a task of its context polls it, or waits for an event, or nobody waits and an arm counter lies in it; a
work entry waits on that counter. -/
def syncLapse (w : Wait) : State :=
  { rig 0 { busy with wait := w, dup := Regs.reset } with
    now := 1000, pitches := [(4, lease 4 0 0x10000 0x10000)], arms := [(0x1004, some (0, 0))]
    work := [{ qp := 4, entry := BitVec.ofNat 512 (1 + 0x10040 * 2 ^ 256), owner := me, agent := 288, handed := false, data := [], received := false
               cc := 0, moved := 0, num := 0 }] }

theorem meets_SyncPitchLapses : (∀ w ∈ [Wait.none, .wfe, .twaita 0x10040 9], let s := syncLapse w
      (s.pitch 4).state = .leased ∧ (s.pitch 4).paid ≤ s.now.toNat ∧ (s.pitch 4).inflight = 0 ∧ (s.pitch 4).att.getLsbD 0 = true ∧
      s.quarantined = [] ∧ (s.agents.map (·.1)).Nodup ∧ (s.agent 0).wait = w ∧ s.members 0 = [0] ∧ (s.agent 0).mode = .task ∧
      (s.agent 0).wb = [] ∧ (s.agent 0).dup.ufvec = 0 ∧ (s.agent 0).svec ≠ 0 ∧ (s.agent 0).svec &&& 31 = 0) ∧
    (syncLapse .none).extensionPending 4 = false ∧ ((syncLapse .none).pitch 4).covers 0 0x10040 = true ∧
    (∀ z ∈ (syncLapse .none).work, z.handed = false ∧ trigOf z.entry ≠ 0 ∧
      ((syncLapse .none).pitch 4).holds 4 0 (trigOf z.entry).toNat = true) ∧
    busy.who.account = ((syncLapse .none).pitch 4).account ∧ busy.who.context = ((syncLapse .none).pitch 4).context ∧
    regionOf 0x10040 = .rented ∧ (syncLapse .none).page 0x10040 = Page.plain ∧ Tab.get none (syncLapse .none).arms (0x10040 / 16) ≠ none := by
  refine ⟨?_, ?_, ?_, ?_, ?_, ?_, ?_, ?_, ?_⟩ <;> decide +kernel

theorem meets_PitchesScrub : let p := lease 4 0 0x10000 0x10000
    let s : State := { rig 0 Agent.reset with now := 2, pitches := [(4, { p with state := .lapsed, lapsedAt := 1 }), (5, { p with state := .scrubbing })] }
    (s.pitch 4).state = .lapsed ∧ (s.pitch 4).lapsedAt < s.now.toNat ∧ (s.pitch 5).state = .scrubbing ∧ (s.pitch 5).inflight = 0 := by
  decide +kernel

/-! ## States that meet the hypotheses: the fabric, the mailbox and the package -/

theorem meets_QueuePairWritten : (State.reset.qpair 1023).posted = 0 ∧
    (State.qpair { State.reset with qpairs := [(3, { QPair.reset with posted := 1 })] } 3).posted ≠ 0 := by decide

/-- A WRITE of 64 bytes to 0x10040 on LOOP queue pair 4, handed over, with DONE at 0x10080. -/
def written : Work :=
  { qp := 4, entry := BitVec.ofNat 512 (1 + 0x10040 * 2 ^ 128 + 64 * 2 ^ 192 + 0x10080 * 2 ^ 448), owner := me, agent := 288, handed := true
    data := List.replicate 64 9, received := false, cc := 0, moved := 0, num := 0 }
def linked : State :=
  { rig 288 Agent.reset with work := [written], qpairs := [(4, { QPair.reset with valid := true, loop := true, rqp := 4, posted := 1 })] }

theorem meets_FabricWrites : written.qp = 4 ∧ linked.heldWork 0 = false ∧ (linked.qpair 4).loop = true ∧ workOp written.entry = 1 ∧
    workFits written.entry = true ∧ linked.remoteRefuses 288 (linked.qpair (linked.qpair 4).rqp.toNat) written.entry = false ∧
    workRctr written.entry = 0 ∧ written.data.length = workLen written.entry ∧ regionOf (workDst written.entry).toNat = .rented ∧
    (workDst written.entry).toNat % 4096 + workLen written.entry ≤ 4096 ∧ linked.quarantined = [] := by
  refine ⟨?_, ?_, ?_, ?_, ?_, ?_, ?_, ?_, ?_, ?_, ?_⟩ <;> decide +kernel

theorem meets_WorkCompletes : workOp written.entry ≠ 3 ∧ workLctr written.entry = 0 ∧ workDone written.entry = 0x10080 ∧
    linked.refuses 288 me askAtomic 0x10080 8 = none ∧ regionOf 0x10080 = .rented ∧
    (State.qpair { linked with qpairs := [(4, { QPair.reset with posted := 1 })] } 4).loop = false := by
  refine ⟨?_, ?_, ?_, ?_, ?_, ?_⟩ <;> decide +kernel

/-- A mailbox request, a launch and a marker at the head of an ECB; the request at its master. -/
theorem meets_CommandsStart : (∀ c, (rig 289 { Agent.reset with ecb := [⟨me, c, 0⟩] }).agent 289 = { Agent.reset with ecb := [⟨me, c, 0⟩] }) ∧
    (⟨me, .xmbox 0 5 9, 0⟩ : Held).cmd = .xmbox 0 5 9 ∧ (⟨me, .xlaunch ⟨9, 0, 0, 1, none⟩, 0⟩ : Held).cmd = .xlaunch ⟨9, 0, 0, 1, none⟩ ∧
    (⟨me, .marker 1, 0⟩ : Held).isMarker = true ∧ atHome (home (.cmd (.xmbox 0 5 9))) 0 (carried (.cmd (.xmbox 0 5 9))) :=
  ⟨fun _ => rfl, rfl, rfl, rfl, at_home _ _ rfl⟩

/-- A privileged interface 3 with one request; account 0 is bound to partition 0 of loom 0; the leased range holds a header at 0x10200, its
parameter block (SAVE 0x20000, one GiB of window) at 0x10100, and the first bytes of a full save area at 0x20000. -/
def site (rs : List Req) (sets : List (Nat × Option TaskSet)) : State :=
  { State.reset with
    pitches := [(4, lease 4 0 0x10000 0x1000000)]
    accounts := [(0, { Account.reset with committed := 1000000, parts := 1 })]
    parts := [(0, { looms := 1, slice := 1000, stopping := false })]
    queues := [(3, { QRec.reset with state := true, priv := true })]
    mem := [(0x10182, 2), (0x10188, 1), (0x10202, 1), (0x10211, 1), (0x10212, 1), (0x20000, 1), (0x20004, 2), (0x20005, 1), (0x20009, 16),
      (0x20018, 1), (0x20019, 1)]
    requests := rs
    tasksets := sets
    nextTs := 1 }

/-- The row group of the first 256 bytes of the leased range is due at 31 ms, and not yet 10 ms after a row of it was activated; a leased
line of it and one of no pitch. -/
theorem meets_UpkeepAndLimits : let s : State := { rig 0 Agent.reset with now := 31000 }
    s.groupInUse (groupOf 256) = true ∧ s.groupStamp (groupOf 256) + 32 ≤ s.now.toNat / 1000 + 1 ∧
    s.now.toNat / 1000 + 1 < State.groupStamp { s with activated := [(256, 21)] } (groupOf 256) + 32 ∧
    (rig 0 Agent.reset).leasedLine (0x10000 / 64) = true ∧ 64 * (0x10000 / 64) < 0x00FFD00000000000 ∧
    (rig 0 Agent.reset).leasedLine 0 = false ∧ 105 < 106 ∧ 99 < 100 ∧ 100 ≤ 105 := by
  refine ⟨?_, by decide, ?_, by decide +kernel, by decide, by decide +kernel, by decide⟩
  · rw [State.groupInUse, Bool.or_eq_true, List.any_eq_true]
    refine .inr ⟨(4, lease 4 0 0x10000 0x10000), by simp [rig, State.setAgent], ?_⟩
    simp only [lease, Bool.and_eq_true, rangeInGroup, List.any_eq_true]
    exact ⟨⟨by decide, by decide⟩, 0, List.mem_range.2 (by decide), by simp⟩
  · unfold State.groupStamp
    simp [rig, State.setAgent, State.reset]

/-- No interface has PRIV, or interface 3 alone. -/
theorem meets_UnitQuarantined : (12 : BitVec 8).toNat ≤ 12 ∧ (63 : BitVec 16).toNat < 64 ∧
    ((12 : BitVec 8), (63 : BitVec 16)) ∉ State.reset.quarantined ∧ (∀ k, k < 64 → (State.reset.qrec (BitVec.ofNat 6 k)).priv = false) ∧
    (site [] []).quarantined = [] ∧ ((site [] []).qrec 3).priv = true ∧ ∀ p : BitVec 6, p ≠ 3 → ((site [] []).qrec p).priv = false := by
  refine ⟨by decide, by decide, List.not_mem_nil, fun _ _ => rfl, rfl, rfl, fun p hp => ?_⟩
  have h : p.toNat ≠ 3 := fun e => hp (BitVec.eq_of_toNat_eq e)
  simp [State.qrec, site, Tab.get, Ne.symm h, QRec.reset]

/-- Whatever the checks that the model leaves open answer, one of the three cases of the boot holds. -/
theorem meets_PackageRestarts (image other : Prop) : image ∨ (¬ image ∧ other) ∨ (¬ image ∧ ¬ other) := by tauto

/-! ## States that meet the hypotheses: the host side -/

/-- A request of interface 3. -/
def req (op : Byte) (a0 a1 a2 a3 a4 a5 : W64) : Req :=
  { q := 3, num := 0, prio := 3, opcode := op, pasid := 0, tag := 77, a0 := a0, a1 := a1, a2 := a2, a3 := a3, a4 := a4, a5 := a5 }

theorem posed_of (r : Req) (sets : List (Nat × Option TaskSet)) (h : r.q = 3 ∧ r.pasid = 0 ∧ r.malformed = false) :
    posed (site [r] sets) 3 r r.opcode :=
  ⟨⟨[], rfl, fun _ h => absurd h List.not_mem_nil⟩, h.1, rfl, h.2.2, h.2.1, rfl, fun _ => rfl, rfl⟩

theorem meets_CompletionPosted : (State.reset.qrec 3).state = false ∧ ((site [] []).qrec 3).state = true ∧ (site [] []).quarantined = [] := by
  decide

/-- A malformed request, one of another opcode and one of another selector; a wrong PASID and no PRIV. -/
theorem meets_RequestRefusals : (∃ p, requestRow (.pageUnmap 3) = some (3, p) ∧ p (req 0x16 0 0x11000 1 0 0 0) ∧ ¬ p (req 0x16 0 0x11000 2 0 0 0) ∧
      ¬ p (req 0x10 0 5 0 0 0 0) ∧ 0x10 ≤ (req 0x16 0 0x11000 1 0 0 0).opcode.toNat) ∧
    (∃ p, requestRow (.fwupdate 3) = some (3, p) ∧ p (req 0x1D 9 0 0 0 0 0)) ∧ (site [] []).fw.updating = none ∧
    (site [] []).revoked.contains (0 : BitVec 20) = false ∧ (req 0x10 0 0 1 0 0 0).malformed = true ∧ (req 0x10 0 5 0 0 0 0).malformed = false ∧
    ({ req 0x10 0 5 0 0 0 0 with pasid := 1 } : Req).pasid ≠ ((site [] []).qrec 3).pasid ∧
    (State.qrec { site [] [] with queues := [] } 3).priv = false ∧ ((site [] []).qrec 3).leaving = none :=
  ⟨⟨_, rfl, ⟨rfl, rfl⟩, by decide, by decide, by decide⟩, ⟨_, rfl, rfl⟩, rfl, by decide, by decide⟩

/-- Each command of the statements below is posed. -/
theorem meets_posed : posed (site [req 0x10 0 5 0 0 0 0] []) 3 (req 0x10 0 5 0 0 0 0) 0x10 ∧
    posed (site [req 0x12 0 65535 1 0 0 0] []) 3 (req 0x12 0 65535 1 0 0 0) 0x12 ∧
    posed (site [req 0x18 0 0 0 0 0 0] []) 3 (req 0x18 0 0 0 0 0 0) 0x18 ∧
    posed (site [req 0x13 23 1 0 0 0 0] []) 3 (req 0x13 23 1 0 0 0 0) 0x13 ∧
    posed (site [req 0x15 5 1 0 0 0 0] []) 3 (req 0x15 5 1 0 0 0 0) 0x15 ∧ posed (site [req 0x15 5 0 0 0 0 0] []) 3 (req 0x15 5 0 0 0 0 0) 0x15 ∧
    posed (site [req 0x01 0x10200 0 0 0 0 0] []) 3 (req 0x01 0x10200 0 0 0 0 0) 0x01 ∧
    posed (site [req 0x02 0 0 0 0 0 0] []) 3 (req 0x02 0 0 0 0 0 0) 0x02 ∧
    posed (site [req 0x16 0 0x11000 4 21 0 0] []) 3 (req 0x16 0 0x11000 4 21 0 0) 0x16 ∧
    posed (site [req 0x16 0 0x11000 5 0 0x1000 0x12000] []) 3 (req 0x16 0 0x11000 5 0 0x1000 0x12000) 0x16 ∧
    posed (site [req 0x11 0 0x11000 0 0 0 0] []) 3 (req 0x11 0 0x11000 0 0 0 0) 0x11 ∧
    posed (site [req 0x17 0x11000 0 0x12000 0 0 0] []) 3 (req 0x17 0x11000 0 0x12000 0 0 0) 0x17 ∧
    posed (site [req 0x14 4 0x12000 0 0 0 0] []) 3 (req 0x14 4 0x12000 0 0 0 0) 0x14 ∧
    posed (site [req 0x1A 9 0 0x30000 0 8 1] []) 3 (req 0x1A 9 0 0x30000 0 8 1) 0x1A ∧
    posed (site [req 0x19 9 2 0 0 0 0] []) 3 (req 0x19 9 2 0 0 0 0) 0x19 ∧ posed (site [req 0x1B 0x12000 0 0 0 0 0] []) 3 (req 0x1B 0x12000 0 0 0 0 0) 0x1B ∧
    posed (site [req 0x1C 0x12000 64 0 0 0 0] []) 3 (req 0x1C 0x12000 64 0 0 0 0) 0x1C ∧ posed (site [req 0x1D 9 0 0 0 0 0] []) 3 (req 0x1D 9 0 0 0 0 0) 0x1D := by
  refine ⟨?_, ?_, ?_, ?_, ?_, ?_, ?_, ?_, ?_, ?_, ?_, ?_, ?_, ?_, ?_, ?_, ?_, ?_⟩ <;> exact posed_of _ _ (by decide)

theorem meets_AccountCommands : (∀ l < 24, (1 : BitVec 24).getLsbD l = true → (site [] []).loomFree l = true) ∧
    ∃ l < 24, (1 : BitVec 24).getLsbD l = true ∧ (site [] [(1, some (jobs [job .running]))]).loomFree l = false := by decide +kernel

theorem meets_PasidCommands : ((site [] [(1, some (jobs [job .waiting]))]).tasksets.map (·.1)).Nodup ∧
    ∀ ts u, Tab.get none (site [] [(1, some (jobs [job .waiting]))]).tasksets ts = some u → ∀ x ∈ u.tasks, x.due = false := by
  refine ⟨by decide, fun ts u h x hx => ?_⟩
  by_cases e : 1 = ts
  · subst e
    cases h
    rw [List.mem_singleton.1 hx]; rfl
  · simp [site, Tab.get, e] at h

/-- A launch that is taken; one at an address that is misaligned or out of reach, one of another account, one of an account that is not bound
to the partition, and one to a full partition. -/
theorem meets_LaunchCommands : let s := site [req 0x01 0x10200 0 0 0 0 0] []
    s.entryAt 0 (some 0) 0x10200 = header ∧ s.reaches (s.issuer 3) false 0x10200 64 = true ∧ hdrAccount header = (s.qrec 3).account ∧
    s.queuedIn 0 < 4096 ∧ hdrDep header = 0 ∧
    (s.touchFor (s.issuer 3) 0x10200 64).launchOk none (whoOf header (some 0) 0 0) 0 header = true ∧ s.launchBefore 3 0 = false ∧
    Tab.get none s.tasksets (s.nextTs + 1) = none ∧ (site [] [(1, some (jobs [job .waiting]))]).launchBefore 3 1 = true ∧
    (0x10210 : W64).toNat % 64 ≠ 0 ∧ s.reaches (s.issuer 3) false 0x0200000000000000 64 = false ∧
    hdrAccount (BitVec.ofNat 512 (2 ^ 64)) ≠ (s.qrec 3).account ∧
    (State.touchFor { s with accounts := [] } (s.issuer 3) 0x10200 64).launchOk none (whoOf header (some 0) 0 0) 0 header = false := by
  refine ⟨?_, ?_, ?_, ?_, ?_, ?_, ?_, ?_, ?_, ?_, ?_, ?_, ?_⟩ <;> decide +kernel

theorem meets_LaunchCommands_full : 4096 ≤ State.queuedIn { site [] [] with tasksets := List.replicate 4096 (1, some (jobs [job .waiting])) } 0 := by
  unfold State.queuedIn
  rw [List.filter_eq_self.2 fun x hx => by rw [List.eq_of_mem_replicate hx]; rfl]
  exact List.length_replicate.ge

theorem meets_FabricLaunches : (site [] []).vaPoison 0 none 0x10000 64 = none ∧ Tab.get none State.reset.launchTable 5 = none ∧
    Config.sha512 ((site [] []).vaBytes 0 none 0x10000 64) ∈ [Config.sha512 ((site [] []).vaBytes 0 none 0x10000 64)] ∧
    Config.sha512 ((site [] []).vaBytes 0 none 0x10000 64) ∉ ([] : List (BitVec 512)) ∧ (site [] []).queuedIn 0 < 4096 ∧
    ((site [] []).touchVa 0 none 0x10000 64).launchOk none (whoOf header none 0 0) 0 header = true ∧ hdrDep header = 0 ∧
    (State.touchVa { site [] [] with accounts := [] } 0 none 0x10000 64).launchOk none (whoOf header none 0 0) 0 header = false :=
  ⟨unpoisoned_va rfl rfl _ _ _ _, rfl, List.mem_singleton_self _, List.not_mem_nil, by decide +kernel, by decide +kernel, by decide +kernel, by decide +kernel⟩

theorem meets_PageCommands : let s := site [] []
    s.ctxPitch 0 0x5000 = none ∧ s.ctxPitch 0 0x11000 = some (lease 4 0 0x10000 0x1000000) ∧
    s.pageLogAt (lease 4 0 0x10000 0x1000000) 0x11000 < 21 ∧ (12 : W64).toNat ≤ s.pageLogAt (lease 4 0 0x10000 0x1000000) 0x11000 ∧
    s.pendingOn 0x10000 0x20000 (fun _ => true) = false ∧ 0x11000 + 0x1000 ≤ 0x10000 + 0x1000000 ∧
    s.findPitch 4 0 0x12000 = some (4, lease 4 0 0x10000 0x1000000) ∧ 0x12000 + 0x1000 ≤ 0x10000 + 0x1000000 ∧
    s.findPitch 4 0 0x5000 = none ∧ (21 : W64).toNat ≤ 21 ∧
    State.pendingOn { s with agents := [(0, { Agent.reset with fsq := [⟨me, store, 0⟩] })] } 0x10000 0x20000 (fun _ => true) = true := by
  refine ⟨?_, ?_, ?_, ?_, ?_, ?_, ?_, ?_, ?_, ?_, ?_⟩ <;> decide +kernel

theorem meets_TranslationsInvalidated : (site [] []).pendingOn 0x0100000000005000 0x0100000000006000 (fun w => decide (w.pasid = some 0)) = false ∧
    State.pendingOn (rig 0 { Agent.reset with fsq := [⟨{ me with pasid := some 0 }, .event 0, 0⟩,
      ⟨{ me with pasid := some 0 }, .wcAdd 0x0100000000005000 0 1, 1⟩] }) 0x0100000000005000 0x0100000000006000
        (fun w => decide (w.pasid = some 0)) = true := by decide +kernel

theorem meets_ReadingCommands : (site [] []).reaches ((site [] []).issuer 3) true 0x11000 640 = true ∧
    (site [] []).descPitch 0x5000 0 = none ∧ (site [] []).descPitch 0x11000 0 = some (lease 4 0 0x10000 0x1000000) := by decide +kernel

/-- Bits of a queue record: STATE, PRIV, SQLOG 6, CQLOG 6 and COUNT 1 fit; a COUNT of 0 does not. -/
theorem meets_QueueCommand : ((site [] []).qrec 4).tdisp ≠ 1 ∧ ((site [] []).qrec 4).tdisp ≠ 2 ∧
    (State.qrec { site [] [] with queues := [(4, { QRec.reset with tdisp := 2 })] } 4).tdisp = 2 ∧
    (site [] []).reaches ((site [] []).issuer 3) false 0x12000 64 = true ∧ (site [] []).reaches ((site [] []).issuer 3) false 0x0200000000000000 64 = false ∧
    recordFits (BitVec.ofNat 512 (3 + 6 * 2 ^ 128 + 6 * 2 ^ 256 + 2 ^ 332)) = true ∧
    recordFits (BitVec.ofNat 512 (3 + 6 * 2 ^ 128 + 6 * 2 ^ 256)) = false := by
  refine ⟨?_, ?_, ?_, ?_, ?_, ?_, ?_⟩ <;> decide +kernel

/-- SAVEIO of a stopped task; accesses to host memory, inside it and past its end; accesses to the leased range and outside it, at the HCP and
at the home. -/
theorem meets_DataCommands : let s := site [] [(1, some (jobs [job (.stopped true)]))]
    (s.setOfTag 9).isSome = true ∧ (jobs [job (.stopped true)]).regionAt 0 = some (job (.stopped true), 0x20000) ∧
    (job (.stopped true)).isStopped = true ∧ s.saveAreaOk 0 0 0x20000 (areaOf 0) = true ∧ s.reaches (s.issuer 3) true 0x12000 8 = true ∧
    s.reaches (s.issuer 3) false 0x12000 8 = true ∧ regionOf 0x0100000000005000 = .host 0x5000 ∧ 0x0100000000005000 + 8 ≤ 2 ^ 57 ∧
    s.vaPoison 0 none 0x0100000000005000 8 = none ∧ regionOf 0x01FFFFFFFFFFFFFF = .host 0xFFFFFFFFFFFFFF ∧ 2 ^ 57 < 0x01FFFFFFFFFFFFFF + 8 ∧
    regionOf 0x11000 = .rented ∧ s.hostReaches 0x5000 8 = false ∧ s.hostReaches 0x11000 8 = true ∧ s.hostLines = [] ∧ 0x11000 % 64 + 8 ≤ 64 ∧
    (∀ j < 8, s.isArm (0x11000 + j) = false) ∧ s.vaPoison 0 none 0x11000 8 = none := by
  refine ⟨?_, ?_, ?_, ?_, ?_, ?_, ?_, ?_, ?_, ?_, ?_, ?_, ?_, ?_, ?_, ?_, ?_, ?_⟩ <;> decide +kernel

theorem meets_DataCommands_home (l : Load) (_ : l = .host 0x11000 8 none true ∨ l = .host 0x11000 8 (some [1]) false) :
    atHome { site [] [] with transit := [carried l] } 0 (carried l) := at_home _ _ rfl

/-- A region that reads as poison. -/
theorem meets_DataCommands_poison : (State.vaPoison { site [] [] with poison := [(0x800, true)] } 0 none 0x20000 8).isSome = true := by
  decide +kernel

/-- A set under its tag and none; a running task and a stopped one whose save region is in order, or is not. -/
theorem meets_DebugCommands : let s := site [] [(1, some (jobs [job (.stopped true)]))]
    let t := site [] [(1, some (jobs [job .running]))]
    s.setOfTag 9 = some (1, jobs [job (.stopped true)]) ∧ s.setOfTag 8 = none ∧ t.setOfTag 9 = some (1, jobs [job .running]) ∧
    (∀ m, (t.agent m).inWait = false) ∧ s.tasksWith 1 = [job (.stopped true)] ∧ t.tasksWith 1 = [job .running] ∧
    (∀ m ∈ (job (.stopped true)).agents, s.areaOk m ((job (.stopped true)).region m) [] = true) ∧
    State.areaOk { s with mem := [] } 0 ((job (.stopped true)).region 0) [] = false ∧ 0 ∈ (job (.stopped true)).agents :=
  ⟨by decide +kernel, by decide +kernel, by decide +kernel, fun _ => rfl, by decide +kernel, by decide +kernel, by decide +kernel,
    by decide +kernel, by decide +kernel⟩

/-- An agent of task 0 of set 1 with a watchdog stop that waits for a checkpoint since `c` bundles. -/
def watched (c : Nat) : Agent := { busy with stop := { StopReq.none with watchdog := some c } }

/-- A slice at its end and one before it; a tile whose conductor lives; a watchdog that is due, one that is not and one that is off; a forced
stop that is due and one that is not. -/
theorem meets_StopRequests : let u := jobs [job .running]
    let tile : TaskSet := { u with source := .conductor 288 1 0 }
    let late : TaskSet := { u with heldTicks := 6 }
    let s (w : W32) : State := { site [] [(1, some late)] with queues := [(3, { QRec.reset with wdog := w })] }
    let watch (c : Nat) : State := { rig 0 (watched c) with tasksets := [(1, some u)] }
    (job .running).slice ≤ (job .running).held ∧ ({ job .running with held := 9 } : LoomTask).held < (job .running).slice ∧
    (∀ m, ((site [] [(1, some u)]).agent m).inWait = false) ∧ (∀ n p i, u.source ≠ .conductor n p i) ∧ tile.source = .conductor 288 1 0 ∧
    (site [] [(1, some (jobs [job .ended])), (2, some tile)]).tilesHold 1 0 = true ∧ (site [] [(1, some u)]).tilesHold 1 0 = false ∧
    ((s 0).qrec 3).wdog = 0 ∧ ((s 5).qrec 3).wdog.toNat < late.heldTicks ∧ late.heldTicks ≤ ((s 6).qrec 3).wdog.toNat ∧
    (Tab.get Partition.reset (s 5).parts 0).stopping = false ∧ (watch 4096).members 0 = [0] ∧ (watch 4095).members 0 = [0] ∧
    (watched 4096).task ≠ none ∧ (watched 4096).stop.watchdog = some 4096 ∧ Tab.get none (watch 4096).tasksets (watched 4096).who.ts = some u ∧
    u.tasks[(watched 4096).who.j]? = some (job .running) := by
  refine ⟨?_, ?_, fun _ => rfl, nofun, rfl, ?_, ?_, ?_, ?_, ?_, ?_, ?_, ?_, ?_, ?_, ?_, ?_⟩ <;> decide +kernel

/-- The head of a patch file of one entry for the image of digest `d`, at 0x12000. -/
def patched (d : BitVec 384) : List Byte := le 4 1 ++ (le 4 1 ++ (le 4 1088 ++ (le 4 0 ++ (le 48 d.toNat ++ []))))
def patching (d : BitVec 384) : State := { site [] [] with mem := Memory.write [] 0x12000 (patched d) }

theorem plain_bytes {s : State} (h : s.pages = []) (q : Option (BitVec 20)) (va k : Nat) (hk : va + k ≤ 0x00FFD00000000000) :
    s.vaBytes 0 q va k = s.mem.bytes va k := by
  induction k generalizing va with
  | zero => rfl
  | succ k ih =>
    have hr : regionOf va = .rented := by
      unfold regionOf
      rw [if_neg (by omega), if_neg (by omega), if_pos (by omega)]
    rw [State.vaBytes, Memory.bytes, ih (va + 1) (by omega)]
    simp only [State.vaByte, State.storage, hr, State.page, h]
    rfl

/-- The file names the image in use, or another one; whether its entry verifies is for the check that the model leaves open (log 6). -/
theorem meets_FirmwareCommands (d : BitVec 384) : let hdr := (patching d).vaBytes 0 (some 0) 0x12000 64
    numAt hdr 0 4 = 1 ∧ numAt hdr 4 4 = 1 ∧ numAt hdr 8 4 = 64 + 1024 * 1 ∧ numAt hdr 12 4 = 0 ∧ numAt hdr 16 48 = d.toNat ∧ d + 1 ≠ d ∧
      (patching d).reaches ((patching d).issuer 3) false 0x12000 (64 + 1024 * 1) = true ∧
      (patching d).reaches ((patching d).issuer 3) false 0x0200000000000000 64 = false := by
  have e : (patching d).vaBytes 0 (some 0) 0x12000 64 = patched d := by
    rw [plain_bytes rfl _ _ _ (by decide)]
    exact (bytes_write [] 0x12000 (patched d) 0 64 (by simp [patched])).trans (by rw [List.drop_zero]; exact List.take_of_length_le (by simp [patched]))
  simp only [e]
  have skip (x : Nat) (bs : List Byte) (o k : Nat) (h : 4 ≤ o) : numAt (le 4 x ++ bs) o k = numAt bs (o - 4) k := by
    rw [numAt_skip _ _ _ _ (by simpa using h), le_length]
  refine ⟨?_, ?_, ?_, ?_, ?_, ?_, by
      simp only [State.reaches, show regionOf (0x12000 : W64).toNat = Region.rented by decide, unpoisoned_va (s := patching d) rfl rfl]; decide,
    by simp only [State.reaches, show regionOf (0x0200000000000000 : W64).toNat = Region.outside by decide, Bool.false_and]⟩
  · exact numAt_here 4 1 _
  · rw [patched, skip _ _ _ _ (by decide)]; exact numAt_here 4 1 _
  · rw [patched, skip _ _ _ _ (by decide), skip _ _ _ _ (by decide)]; exact numAt_here 4 1088 _
  · rw [patched, skip _ _ _ _ (by decide), skip _ _ _ _ (by decide), skip _ _ _ _ (by decide)]; exact numAt_here 4 0 _
  · rw [patched, skip _ _ _ _ (by decide), skip _ _ _ _ (by decide), skip _ _ _ _ (by decide), skip _ _ _ _ (by decide)]
    exact (numAt_here 48 _ _).trans (Nat.mod_eq_of_lt (d.isLt.trans_eq (pow_mul 2 8 48)))
  · exact fun h => absurd (left_eq_add.1 h.symm) (by decide)

/-- A patch RAM in address order with room, and one that is full without address 0. -/
theorem meets_PatchEntries : List.Pairwise (fun x y : BitVec 12 × BitVec 96 => x.1.toNat < y.1.toNat) [(3, 5)] ∧
    [((3 : BitVec 12), (5 : BitVec 96))].length < 64 ∧ Firmware.reset.keptVersion ≤ numAt (List.replicate 64 0) 14 4 ∧
    64 ≤ ((List.range 64).map (fun k => (BitVec.ofNat 12 (k + 1), (0 : BitVec 96)))).length ∧
    ∀ p ∈ (List.range 64).map (fun k => (BitVec.ofNat 12 (k + 1), (0 : BitVec 96))), p.1 ≠ 0 := by
  refine ⟨by simp, by decide, by decide, by simp, fun p hp h => ?_⟩
  obtain ⟨k, hk, rfl⟩ := List.mem_map.1 hp
  have hk := List.mem_range.1 hk
  have h := congrArg BitVec.toNat h
  simp at h
  omega

/-- A pitch of the canopy, one of HBM that a load accesses, and one of HBM in overstay; the first is the only one of its account that goes. -/
theorem meets_DeviceVacated : let p := { lease 4 0 0x10000 0x10000 with att := 0, account := 1 }
    let s : State := { site [] [] with pitches := [(2, lease 2 0 0 0x600000), (4, { p with inflight := 1 }),
      (5, { p with inflight := 1, state := .overstay, base := 0x20000 }), (6, { p with base := 0x30000 })] }
    (s.pitches.map (·.1)).Nodup ∧ (∀ k ∈ [2, 4, 5, 6], (s.pitch k).inflight = 0 ∨ (s.pitch k).att.getLsbD 0 = false) ∧
    (s.pitch 2).inflight = 0 ∧ (s.pitch 2).tier.toNat ≤ 3 ∧ (s.pitch 2).state = .leased ∧
    counts64 ((s.account 0).committed.toInt + (1000 - 0 - 1) * 0x600000 * 1) ∧ (s.pitch 4).inflight ≠ 0 ∧ 4 ≤ (s.pitch 4).tier.toNat ∧
    (s.pitch 4).state = .leased ∧ s.expiryDue 4 = false ∧ (s.pitch 4).vacWhenIdle = false ∧ (s.pitch 5).state = .overstay ∧
    (s.pitch 6).inflight = 0 ∧ 4 ≤ (s.pitch 6).tier.toNat := by
  refine ⟨?_, ?_, ?_, ?_, ?_, ⟨?_, ?_⟩, ?_, ?_, ?_, ?_, ?_, ?_, ?_, ?_⟩ <;> decide +kernel

/-- The other pitches have no accesses, and none of another number is of account 0 but that of the canopy. -/
theorem meets_DeviceVacated_others : let p := { lease 4 0 0x10000 0x10000 with att := 0, account := 1 }
    let s : State := { site [] [] with pitches := [(2, lease 2 0 0 0x600000), (4, { p with inflight := 1 })] }
    ∀ k, k ≠ 2 → (s.pitch k).account = 0 → (s.pitch k).inflight = 0 ∧ (s.pitch k).state ≠ .leased ∧ (s.pitch k).state ≠ .tentative := by
  intro p s k hk ha
  by_cases h : 4 = k
  · subst h
    exact absurd ha (by decide)
  · have e : s.pitch k = Pitch.free := by simp [s, State.pitch, Tab.get, Ne.symm hk, h]
    rw [e]
    exact ⟨rfl, nofun, nofun⟩

/-- No image staged; one staged and no update under way; an update under way, with and without a running set, before and after its
deadline; a second FWUPDATE. -/
theorem meets_FirmwareUpdate : let f : Firmware := { Firmware.reset with staged := true, updating := some (3, 77, 9) }
    let r := req 0x1D 9 0 0 0 0 0
    let s : State := { site [r] [] with fw := f }
    Firmware.reset.staged = false ∧ Firmware.reset.updating = none ∧ (s.qrec 3).sqhead.toNat < 2 ^ (s.qrec 3).sqlog.toNat ∧
    s.fw.updating = some (3, r.tag, 9) ∧ s.anyRunning = false ∧ s.now.toNat < 9 ∧
    (State.anyRunning { site [] [(1, some (jobs [job .running]))] with fw := f, now := 9 }) = true ∧ 9 ≤ (9 : W64).toNat ∧
    ∃ x ∈ [r, { r with q := 4, tag := 78 }], x.q = 4 ∧ x.opcode = 0x1D ∧ x.tag = 78 := by decide +kernel

/-- An interface that is not locked, and a locked one without and with a task set; one that is leaving. -/
theorem meets_SecurityMessages : (State.reset.qrec 3).tdisp ≠ 1 ∧ ({ QRec.reset with tdisp := 2 } : QRec).tdisp = 2 ∧
    (3 : BitVec 2) ≠ 1 ∧ (3 : BitVec 2) ≠ 2 ∧ QRec.reset.leaving = none ∧ ({ QRec.reset with leaving := some 0 } : QRec).leaving = some 0 ∧
    (site [] []).tasksets = [] ∧ ((site [] [(1, some (jobs [job .running]))]).tasksets.map (·.1)).Nodup ∧
    (jobs [job .running]).source = .queue 3 9 0 ∧ ∀ m, ((site [] [(1, some (jobs [job .running]))]).agent m).inWait = false :=
  ⟨by decide, rfl, by decide, by decide, rfl, rfl, rfl, by decide, rfl, fun _ => rfl⟩

/-- A ring of 64 with one new packet (a CREDIT of account 0), with and without an update, a tail beyond the ring, offsets and sizes that are
refused, a disabled interface, and an unsignalled completion past its timer. -/
theorem meets_NotifyWrites : let r : QRec := { QRec.reset with state := true, rvalid := true, unsignalled := 1, timer := 1 }
    (65 : W64).toNat % 2 ^ 16 ≥ 2 ^ r.sqlog.toNat ∧ (1 : W64).toNat % 2 ^ 16 < 2 ^ r.sqlog.toNat ∧
    (reqOf 3 0 3 (BitVec.ofNat 512 0x10)).malformed = false ∧ r.timer ≠ 0 ∧ r.firstAt + r.timer.toNat ≤ (1 : W64).toNat ∧
    QRec.reset.state = false ∧ State.reset.fw.updating = none ∧ ({ Firmware.reset with updating := some (3, 77, 9) } : Firmware).updating ≠ none ∧
    (4 : BitVec 12) ≠ 0 ∧ (4 : BitVec 12) ≠ 8 ∧ 2 ≠ 4 ∧ 2 ≠ 8 := by decide +kernel

/-! ## States that meet the hypotheses: Rhory -/

/-- A partition that stops, an update, no task; a waiting task that a loom takes; a stopped one that resumes alone. -/
theorem meets_TasksPlaced : let s := site [] [(1, some (jobs [job .waiting]))]
    let t := site [] [(1, some (jobs [job (.stopped false)]))]
    let g := t.resumeGroup 1 0 (job (.stopped false))
    (Tab.get Partition.reset s.parts 0).stopping = false ∧ s.fw.updating = none ∧ s.nextTask 0 = some (1, 0) ∧
    (s.beginSlice 1 0 0 (job .waiting)).pickLoom (jobs [job .waiting]) 0 (job .waiting) = some 0 ∧ t.nextTask 0 = some (1, 0) ∧
    (t.tasksets.map (·.1)).Nodup ∧ (g.flatMap (fun y => y.2.2.agents)).Nodup ∧ (∀ y ∈ g, y.2.2.graph = []) ∧ (site [] []).nextTask 0 = none ∧
    ({ looms := 1, slice := 1000, stopping := true } : Partition).stopping = true := by
  refine ⟨?_, ?_, ?_, ?_, ?_, ?_, ?_, ?_, ?_, ?_⟩ <;> decide +kernel

/-- A stopped gang, whose ranks take the PC of rank 0. -/
theorem meets_TasksPlaced_gang : let x : LoomTask := { job (.stopped false) with task := { (job (.stopped false)).task with kind := 1 } }
    x.task.kind = 1 ∧ x.agents = List.range 12 ∧ x.graph = [] := by decide

/-- Two tasks of a partition of two looms of two dies that can be placed; the looms of the second. -/
theorem meets_TasksChosen : let s := { site [] [(1, some (jobs [job .waiting])), (2, some (jobs [job .waiting]))] with
      parts := [(0, { looms := 0x41, slice := 1000, stopping := false })] }
    (s.tasksets.map (·.1)).Nodup ∧ s.placeable (jobs [job .waiting]) 2 0 (job .waiting) = true ∧ (s.nextTask 0).isSome = true ∧
    s.pickLoom (jobs [job .waiting]) 1 (job .waiting) = some 6 ∧ s.loomsOf 0 = [0, 6] ∧ s.nextTask 1 = none ∧
    s.pickLoom { jobs [job .waiting] with part := 1 } 0 (job .waiting) = none := by
  refine ⟨?_, ?_, ?_, ?_, ?_, ?_, ?_⟩ <;> decide +kernel

/-- A placed task that passes its checks, one whose account is not bound to its partition, and one whose timeline slot an operation keeps. -/
theorem meets_TasksStart : let s := site [] [(1, some (jobs [job .placed]))]
    (∀ m ∈ (job .placed).agents, s.slotFree m 0 = true ∧ s.slotHeld m 0 = false) ∧ Tab.get none s.tasksets 1 = some (jobs [job .placed]) ∧
    State.launchOk { s with tasksets := Tab.set none s.tasksets 1 none } (some 0) (whoOf header none 1 0) 0 header = true ∧
    State.launchOk { s with tasksets := Tab.set none s.tasksets 1 none, accounts := [] } (some 0) (whoOf header none 1 0) 0 header = false ∧
    0 ∈ (job .placed).agents ∧ State.slotFree { s with running := [filling []] } 0 0 = false ∧
    (Tab.get Partition.reset s.parts 0).stopping = false ∧ ({ Partition.reset with stopping := true } : Partition).stopping = true := by
  refine ⟨?_, ?_, ?_, ?_, ?_, ?_, ?_, ?_⟩ <;> decide +kernel

/-- DEP names a cell of the leased range that reads 0: DEPCOUNT 0 is met, 1 is not, and a cell outside every pitch is refused. -/
def waitsFor (dep count : Nat) : BitVec 512 := BitVec.ofNat 512 (0x10000 + 0x10100 * 2 ^ 128 + dep * 2 ^ 320 + count * 2 ^ 384)

/-- A set that waits, with the answer of the last read of its cell before the cell's pitch went, or none. -/
def waitingSet (dep : Option Bool) (h : BitVec 512) : TaskSet := { jobs [job .waiting] with ready := false, hdr := h, dep := dep }

/-- The read of the cell at 0x30000, with its pitch leased, at its expiry, and with poison; one that is refused. -/
theorem meets_DependencesMet : (∀ d h, (waitingSet d h).ready = false ∧ (waitingSet d h).dep = d ∧ (waitingSet d h).code = 0 ∧
      (∀ x ∈ (waitingSet d h).tasks, x.due = false) ∧ ∃ x ∈ (waitingSet d h).tasks, x.stat ≠ .ended) ∧
    (let s := site [] []
     let h := waitsFor 0x30000 0
     let w := whoOf h none 1 0
     let due : State := { s with now := 1000 }
     hdrDep h = 0x30000 ∧ regionOf 0x30000 = .rented ∧ s.refuses nobody w askLoad 0x30000 8 = none ∧ s.vaPoison nobody none 0x30000 8 = none ∧
       (State.vaPoison { s with poison := [(0xC00, true)] } nobody none 0x30000 8).isSome = true ∧
       due.refuses nobody w askLoad 0x30000 8 = some (0x08, 0x30000) ∧ due.expiring nobody 0x30000 = true ∧
       s.refuses nobody w askLoad 0x8 8 = some (0x0A, 0x8)) ∧
    hdrDep (waitsFor 0 0) = 0 ∧ (hdrDepcount (waitsFor 0x30000 0)).toNat = 0 ∧ (hdrDepcount (waitsFor 0x30000 1)).toNat = 1 := by
  refine ⟨fun _ _ => ⟨rfl, rfl, rfl, fun x hx => ?_, job .waiting, List.mem_singleton_self _, nofun⟩, ⟨?_, ?_, ?_, ?_, ?_, ?_, ?_, ?_⟩, ?_, ?_, ?_⟩
  · rw [List.mem_singleton.1 hx]; rfl
  all_goals decide +kernel

/-- A set that has ended, one that runs, and a discarded one before and after its sweep; the last set of an interface that leaves TDISP. -/
theorem meets_TaskSetsComplete : let late (b : Bool) : TaskSet := { jobs [job .ended] with overdue := true, swept := b }
    let mute : TaskSet := { late true with source := .silent 3 }
    let gone : State := { site [] [(1, some mute)] with queues := [(3, { QRec.reset with leaving := some 3 })] }
    (∀ x ∈ (jobs [job .ended]).tasks, x.stat = .ended) ∧ (site [] [(1, some (jobs [job .ended]))]).setPerformed 1 = true ∧
    (site [] [(1, some (jobs [job .ended]))]).tilesOpen 1 = false ∧
    (site [] [(1, some (jobs [job .ended])), (2, some { jobs [job .running] with source := .conductor 288 1 0 })]).tilesOpen 1 = true ∧
    (∀ m, ((site [] []).agent m).wait = .none) ∧
    (∃ x ∈ (jobs [job .running]).tasks, x.stat ≠ .ended) ∧ (site [] [(1, some (late false))]).drained (late false) 1 = true ∧
    (site [] [(1, some (late false))]).setPerformed 1 = true ∧ 1 ∉ (site [] [(1, some (late false))]).tileSets 1 ∧
    (State.drained { site [] [] with agents := [(0, busy)] } (late false) 1 = false) ∧ (late true).source = .queue 3 9 0 ∧
    mute.source = .silent 3 ∧ (gone.qrec 3).leaving = some 3 ∧ (gone.tasksets.map (·.1)).Nodup := by
  refine ⟨?_, ?_, ?_, ?_, fun _ => rfl, ?_, ?_, ?_, ?_, ?_, ?_, ?_, ?_, ?_⟩ <;> decide +kernel

/-- No other set is left. -/
theorem meets_TaskSetsComplete_last (u : TaskSet) : ∀ p v, p ≠ 1 → Tab.get none (site [] [(1, some u)]).tasksets p = some v →
    v.source ≠ .silent 3 := fun p v hp h => by simp [site, Tab.get, Ne.symm hp] at h

/-- The conductor of loom 0 has released two launches behind one of another controller; its tile may start, or rank 0 is taken, or its account
is not bound. -/
theorem meets_TilesStart : let c : Task := { (job .running).task with kind := 2 }
    let w : Who := { me with ts := 1 }
    let l : Launch := { hdr := header, part := 0, cls := 0, rentwin := 1, dep := none }
    let s : State := State.setAgent { site [] [(1, some (jobs [{ job .running with agent := 288, task := c }]))] with
      tileLaunches := [(289, w, l), (288, w, l), (288, w, { l with hdr := 0 })]
      mem := [(0x10182, 2)] } 288 { Agent.reset with task := some c }
    let rest (s : State) : State := State.touchDep { s with tileLaunches := s.tileLaunches.erase (288, w, l) } 288 (whoOf header none 2 0) header
    s.tileDep 288 w l = .met ∧ s.tileDep 288 w { l with dep := some false } = .ends 0x02 ∧
    s.tileDep 288 w { l with hdr := waitsFor 0x30000 1 } = .unmet ∧ s.ownsLoom 288 w = true ∧ (Tab.get Partition.reset s.parts 0).stopping = false ∧ (s.agent (12 * loomOf 288 + hdrRank header)).task = none ∧
    s.slotFree 0 (hdrTslot header) = true ∧ s.slotHeld 0 (hdrTslot header) = false ∧
    (rest s).tileOk 0 (whoOf header none 2 0) 0 header = true ∧
    (rest { s with accounts := [] }).tileOk 0 (whoOf header none 2 0) 0 header = false ∧ ((s.setAgent 0 busy).agent 0).task ≠ none ∧
    s.runs 288 w = true ∧ State.runs { s with agents := [] } 288 w = false := by
  refine ⟨?_, ?_, ?_, ?_, ?_, ?_, ?_, ?_, ?_, ?_, ?_, ?_, ?_⟩ <;> decide +kernel

/-! ## States that meet the hypotheses: decoding and stepping -/

/-- A task of agent 0 at 0x10400, where the bytes are zero: the bundle of eight zero words can be fetched and issued. -/
theorem meets_StepRunsBundle : let a : Agent := { busy with flight := [], journal := [], touched := [], r := { Regs.reset with pc := 0x10400 } }
    let s := rig 0 a
    s.alive ∧ s.sched = [] ∧ s.canIssue 0 = true ∧ s.fetchFault 0 0x10400 = none ∧ (∀ k < 8, slotWord (s.bundleAt 0 0x10400) k = 0) :=
  ⟨⟨rfl, rfl⟩, rfl, by decide +kernel, by decide +kernel, by decide +kernel⟩

/-- The bundle with one word, ADD s1, s2, s3 in slot 1, and one whose slot-0 word decodes to nothing. -/
theorem meets_StepRunsBundle_words : slotWord (BitVec.ofNat 256 (0x01088600 * 2 ^ 32)) 1 = 0x01088600 ∧
    decodeSlot 1 0x01088600 = .ok (.add 0 1 2 3) ∧ (∀ j < 8, j ≠ 1 → slotWord (BitVec.ofNat 256 (0x01088600 * 2 ^ 32)) j = 0) ∧
    slotWord (BitVec.ofNat 256 0x3F000000) 0 ≠ 0 ∧ ∀ i, decodeSlot 0 0x3F000000 ≠ .ok i :=
  ⟨by decide, by decide, by decide, by decide, fun i h => by cases h⟩

theorem meets_EncodingDecodes : (Instr.add 0 1 2 3).slot = some 1 ∧ (Instr.add 0 1 2 3).wf = true ∧ (Instr.mswbLast).slot = some 6 := by decide

theorem meets_StepKeepsMemory : State.reset.Inv ∧ (rig 0 busy).Inv ∧ ∃ t, step State.reset = .next t := ⟨rfl, rfl, _, rfl⟩

end Sys2Proof.Tests
end

section
/-!
PROOFS. Every step keeps memory in its canonical form (00 R6): the rows of the opcode table one by one, the moves that the machine chooses
of itself, which are rows too, and then the step.
-/

namespace Sys2Proof.Machine

/-! ## What an outcome leaves -/

/-- The next state, where the outcome has one, holds memory in its canonical form. -/
def LeavesInv (o : Host.Outcome State Fault Refusal) : Prop := ∀ t, o = .next t → t.Inv

theorem leaves_next {t : State} (h : t.mem.wf = true) : LeavesInv (.next t) := fun _ e => by cases e; exact h

theorem leaves_fault (r : Fault) : LeavesInv (.fault r) := fun _ e => by cases e

theorem wf_of_mem_eq {s t : State} (e : t.mem = s.mem) (h : s.mem.wf = true) : t.mem.wf = true := (congrArg Memory.wf e).trans h

/-- A service that leaves memory alone keeps its canonical form. -/
theorem served_keeps {run : Req → State → Served} (e : ∀ r t, (run r t).state.mem = t.mem) (r : Req) (t : State) (h : t.mem.wf = true) :
    (run r t).state.mem.wf = true := wf_of_mem_eq (e r t) h

/-! ## The rows of the opcode table -/

/-- A slot word alone: its bundle. -/
theorem issueAlone_leaves (w : Word) (hw : w.Keeps) (s : State) (h : s.mem.wf = true) : LeavesInv (issueAlone w s) :=
  leaves_next (State.issue_wf s _ [w] (fun v hv => by rw [List.mem_singleton.1 hv]; exact hw) h)

/-- A row that is no slot word. -/
theorem row_leaves (i : Instr) (hi : wordOf i = none) (s : State) (h : s.mem.wf = true) : LeavesInv (exec i s) := by
  cases i with
  | genayReply n base => exact leaves_next (State.genayReply_wf _ _ _ h)
  | resultLanding n => exact leaves_next (State.resultLanding_wf _ _ h)
  | nearPerform n => exact leaves_next (State.nearPerform_wf _ _ h)
  | planeLoadLand n => exact leaves_next (wf_of_mem_eq (State.planeLoadLand_mem _ _) h)
  | partialSumAdd n => exact leaves_next (State.partialSumAdd_wf _ _ h)
  | scoreboardStallEnd n => exact leaves_next (State.scoreboardStallEnd_wf _ _ h)
  | mdrainEnd n => exact leaves_next (State.mdrainEnd_wf _ _ h)
  | checkpointComplete n => exact leaves_next (State.checkpointComplete_wf _ _ h)
  | waittEnd n => exact leaves_next (State.waittEnd_wf _ _ h)
  | sleepcEnd n => exact leaves_next (State.sleepcEnd_wf _ _ h)
  | qwaitEnd n => exact leaves_next (State.qwaitEnd_wf _ _ h)
  | twaitEnd n => exact leaves_next (State.twaitEnd_wf _ _ h)
  | twaitaPoll n => exact leaves_next (State.twaitaPoll_wf _ _ h)
  | wfeWake n => exact leaves_next (State.wfeWake_wf _ _ h)
  | depart n what =>
    cases what with
    | load => exact leaves_next (wf_of_mem_eq (State.departLoad_mem _ _) h)
    | store => exact leaves_next (wf_of_mem_eq (State.departStore_mem _ _) h)
    | element c j => exact leaves_next (wf_of_mem_eq (State.departElement_mem _ _ _ _) h)
  | hop k => exact leaves_next (wf_of_mem_eq (State.hop_mem _ _) h)
  | perform k => exact leaves_next (State.performAt_wf _ _ h)
  | arrive k => exact leaves_next (State.arrive_wf _ _ h)
  | start n c => exact leaves_next (State.start_wf _ _ _ h)
  | darncStart n c => exact leaves_next (wf_of_mem_eq (State.darncStart_mem _ _ _) h)
  | tileLaunchStart n => exact leaves_next (State.tileLaunchStart_wf _ _ h)
  | complete n c => exact leaves_next (State.complete_wf _ _ _ h)
  | workEntryComplete qp cc => exact leaves_next (State.workEntryComplete_wf _ _ _ h)
  | fabricReceive src => exact leaves_next (State.fabricReceive_wf _ _ h)
  | rentCommit n => exact leaves_next (State.rentCommit_wf _ _ h)
  | rentClockTick => exact leaves_next (wf_of_mem_eq (State.rentClockTick_mem _) h)
  | pitchExpiry k => exact leaves_next (State.pitchExpiry_wf _ _ h)
  | overstayTick k => exact leaves_next (wf_of_mem_eq (State.overstayTick_mem _ _) h)
  | scrubStart k => exact leaves_next (wf_of_mem_eq (State.scrubStart_mem _ _) h)
  | scrubDone k => exact leaves_next (State.scrubDone_wf _ _ h)
  | rentScrubWait n base => exact leaves_next (State.rentScrubWait_wf _ _ _ h)
  | rowGroupRefresh r => exact leaves_next (wf_of_mem_eq (State.rowGroupRefresh_mem _ _ _) h)
  | patrolScrub line => exact leaves_next (wf_of_mem_eq (State.patrolScrub_mem _ _) h)
  | quarantine unit pc => exact leaves_next (State.quarantine_wf _ _ _ h)
  | powerSample watts amps => exact leaves_next h
  | thermalThrottle celsius => exact leaves_next h
  | thermalTrip celsius =>
    refine leaves_next ?_
    split
    · exact State.kept_wf s h
    · exact h
  | packageReset => exact leaves_next (State.packageReset_wf _ h)
  | taskPlacement part => exact leaves_next (State.taskPlacement_wf _ _ h)
  | taskStart ts j => exact leaves_next (wf_of_mem_eq (State.taskStart_mem _ _ _) h)
  | dependenceMet ts => exact leaves_next (wf_of_mem_eq (State.dependenceMet_mem _ _) h)
  | sliceExpiry ts j => exact leaves_next (State.sliceExpiry_wf _ _ _ h)
  | watchdogExpiry ts => exact leaves_next (State.watchdogExpiry_wf _ _ h)
  | drainForceStop n => exact leaves_next (State.drainForceStop_wf _ _ h)
  | taskSetCompletion ts => exact leaves_next (State.taskSetCompletion_wf _ _ h)
  | msixTimer q => exact leaves_next (wf_of_mem_eq (State.msixTimer_mem _ _) h)
  | notifyTail q v => exact leaves_next (State.notifyTail_wf _ _ _ h)
  | notifyPrio q v => exact leaves_next (wf_of_mem_eq (State.notifyPrio_mem _ _ _) h)
  | notifyInvalidWrite q off size => exact leaves_next (wf_of_mem_eq (State.notifyInvalid_mem _ _ _ _) h)
  | launch q => exact leaves_next (State.launchRow_wf _ _ h)
  | barrier q => exact leaves_next (State.serveOp_wf _ _ _ _ (fun r t ht => ite_keeps (fun x : Served => x.state.mem.wf = true) _ ht ht) h)
  | credit q => exact leaves_next (State.serveOp_wf _ _ _ _ (served_keeps State.serveCredit_mem) h)
  | report q => exact leaves_next (State.serveOp_wf _ _ _ _ (State.serveReport_wf q) h)
  | account q => exact leaves_next (State.serveOp_wf _ _ _ _ (served_keeps State.serveAccount_mem) h)
  | partition q => exact leaves_next (State.serveOp_wf _ _ _ _ (served_keeps State.servePartition_mem) h)
  | queue q => exact leaves_next (State.serveOp_wf _ _ _ _ (served_keeps (State.serveQueue_mem q)) h)
  | pasidrevRevoke q => exact leaves_next (State.serveReq_wf _ _ _ _ (served_keeps (fun _ t => State.revoke_mem t _)) h)
  | pasidrevRestore q => exact leaves_next (State.serveReq_wf _ _ _ _ (served_keeps (fun _ _ => rfl)) h)
  | pageUnmap q => exact leaves_next (State.pageRow_wf _ _ _ _ (served_keeps (State.servePage_mem _ _)) h)
  | pageReadonly q => exact leaves_next (State.pageRow_wf _ _ _ _ (served_keeps (State.servePage_mem _ _)) h)
  | pageWritable q => exact leaves_next (State.pageRow_wf _ _ _ _ (served_keeps (State.servePage_mem _ _)) h)
  | pageDemote q => exact leaves_next (State.pageRow_wf _ _ _ _ (served_keeps (State.servePage_mem _ _)) h)
  | pageShare q => exact leaves_next (State.pageRow_wf _ _ _ _ (served_keeps State.serveShare_mem) h)
  | desc q => exact leaves_next (State.serveOp_wf _ _ _ _ (State.serveDesc_wf q) h)
  | status q => exact leaves_next (State.serveOp_wf _ _ _ _ (served_keeps State.serveStatus_mem) h)
  | debugStop q => exact leaves_next (State.serveReq_wf _ _ _ _ State.serveStop_wf h)
  | debugResume q => exact leaves_next (State.serveReq_wf _ _ _ _ (served_keeps State.serveResume_mem) h)
  | saveioRead q => exact leaves_next (State.serveReq_wf _ _ _ _ (State.serveSaveio_wf q false) h)
  | saveioWrite q => exact leaves_next (State.serveReq_wf _ _ _ _ (State.serveSaveio_wf q true) h)
  | fwpatch q => exact leaves_next (State.serveOp_wf _ _ _ _ (served_keeps (State.servePatch_mem q)) h)
  | fwstage q => exact leaves_next (State.serveOp_wf _ _ _ _ (served_keeps (State.serveStage_mem q)) h)
  | fwupdate q => exact leaves_next (State.settleUpdate_wf _ (State.serveOp_wf _ _ _ _ (State.serveUpdate_wf q) h))
  | qpRecordWrite qp rec => exact leaves_next (wf_of_mem_eq (State.qpRecordWrite_mem _ _ _) h)
  | hostMemoryAccess addr len op => cases op <;> exact leaves_next (State.hostAccess_wf _ _ _ _ _ h)
  | atsInvalidation pasid addr len answer readOnly => exact leaves_next (wf_of_mem_eq (State.atsInvalidation_mem _ _ _ _ _ _) h)
  | pasidStop pasid => exact leaves_next (wf_of_mem_eq (State.revoke_mem _ _) h)
  | tdispMessage q st => exact leaves_next (State.tdisp_wf _ _ _ h)
  | spdmMessage q index => exact leaves_next (wf_of_mem_eq (State.spdm_mem _ _ _) h)
  | fabricLaunch node hdr image len => exact leaves_next (State.fabricLaunch_wf _ _ _ _ _ h)
  | fwupdateTimeout => exact leaves_next (State.updateTimeout_wf _ h)
  | entryRead n => exact leaves_next (State.entryRead_wf _ _ h)
  | linkFailure qp => exact leaves_next (State.linkFailure_wf _ _ h)
  | _ => cases hi

theorem exec_leaves (i : Instr) (s : State) (h : s.mem.wf = true) : LeavesInv (exec i s) := by
  cases hw : wordOf i with
  | none => exact row_leaves i hw s h
  | some w => rw [exec_word i w s hw]; exact issueAlone_leaves w (wordOf_keeps i w hw) s h

/-! ## The moves of the machine itself -/

/-- A move is a row of the table, or the release of a hold that no row ends. -/
def IsRow (f : Move) : Prop := (∃ i, f = exec i) ∨ ∃ n, f = releaseMove n

theorem isRow_exec (i : Instr) : IsRow (exec i) := .inl ⟨i, rfl⟩

theorem isRow_leaves {f : Move} (hf : IsRow f) (s : State) (h : s.mem.wf = true) : LeavesInv (f s) := by
  rcases hf with ⟨i, rfl⟩ | ⟨n, rfl⟩
  · exact exec_leaves i s h
  · exact leaves_next (wf_of_mem_eq (State.release_mem s n) h)

/-- A move that does not answer a next state leaves the state as it is. -/
theorem Move.run_wf {f : Move} (hf : IsRow f) (s : State) (h : s.mem.wf = true) : (f.run s).mem.wf = true := by
  have hl := isRow_leaves hf s h
  unfold Move.run
  split
  · next t e => exact hl t e
  · exact h

/-- Every move of a list is a row. -/
def AllRows (fs : List Move) : Prop := ∀ f ∈ fs, IsRow f

theorem allRows_append {fs gs : List Move} (hf : AllRows fs) (hg : AllRows gs) : AllRows (fs ++ gs) := fun f h =>
  (List.mem_append.1 h).elim (hf f) (hg f)

theorem allRows_map {α : Type} {g : α → Move} (hg : ∀ x, IsRow (g x)) (xs : List α) : AllRows (xs.map g) := fun f h => by
  obtain ⟨x, -, rfl⟩ := List.mem_map.1 h
  exact hg x

theorem allRows_flatMap {α : Type} {g : α → List Move} (hg : ∀ x, AllRows (g x)) (xs : List α) : AllRows (xs.flatMap g) := fun f h => by
  obtain ⟨x, -, hx⟩ := List.mem_flatMap.1 h
  exact hg x f hx

theorem agentMoves_rows (n : Nat) : AllRows (agentMoves n) := by
  let k : BitVec 9 := BitVec.ofNat 9 n
  have h : agentMoves n = [Instr.resultLanding k, .nearPerform k, .planeLoadLand k, .partialSumAdd k, .scoreboardStallEnd k, .mdrainEnd k,
      .genayReply k 0, .entryRead k, .checkpointComplete k, .waittEnd k, .qwaitEnd k, .wfeWake k, .twaitEnd k, .twaitaPoll k].map exec ++
      [releaseMove n] := rfl
  rw [h]
  refine allRows_append (allRows_map isRow_exec _) fun f hf => .inr ⟨n, ?_⟩
  exact List.mem_singleton.1 hf

theorem requestMoves_rows (q : BitVec 6) : AllRows (requestMoves q) := by
  have h : requestMoves q = [Instr.launch q, .barrier q, .credit q, .report q, .account q, .partition q, .queue q, .pasidrevRevoke q,
      .pasidrevRestore q, .pageUnmap q, .pageReadonly q, .pageWritable q, .pageDemote q, .pageShare q, .desc q, .status q, .debugStop q,
      .debugResume q, .saveioRead q, .saveioWrite q, .fwpatch q, .fwstage q, .fwupdate q].map exec := rfl
  rw [h]
  exact allRows_map isRow_exec _

theorem orderMoves_rows (s : State) : AllRows s.orderMoves := by
  unfold State.orderMoves
  refine allRows_append (allRows_append (allRows_append (allRows_append (allRows_append (allRows_append (allRows_append (allRows_append
    ?_ ?_) ?_) ?_) ?_) ?_) ?_) ?_) ?_
  · exact allRows_map (fun k => isRow_exec (.arrive k)) _
  · exact allRows_map (fun k => isRow_exec (.perform k)) _
  · exact allRows_map (fun k => isRow_exec (.hop k)) _
  · exact allRows_map (fun _ => isRow_exec (.complete _ _)) _
  · exact allRows_map (fun r : Running => isRow_exec (.depart (BitVec.ofNat 9 r.agent) (.element r.op.ctx _))) _
  · exact allRows_map (fun n => isRow_exec (.depart n .load)) _
  · exact allRows_map (fun n => isRow_exec (.depart n .store)) _
  · exact allRows_flatMap (fun n => allRows_map (fun c => isRow_exec (.start n c)) _) _
  · exact allRows_flatMap (fun n => allRows_map (fun c => isRow_exec (.darncStart n c)) _) _

theorem rentMoves_rows (s : State) : AllRows s.rentMoves := by
  unfold State.rentMoves
  refine allRows_append (allRows_append (allRows_append (allRows_append (allRows_append (allRows_append ?_ ?_) ?_) ?_) ?_) ?_) ?_
  · exact allRows_map (fun _ => isRow_exec (.rentCommit _)) _
  · exact allRows_map (fun k => isRow_exec (.pitchExpiry k)) _
  · exact allRows_map (fun k => isRow_exec (.overstayTick k)) _
  · exact allRows_map (fun k => isRow_exec (.scrubStart k)) _
  · exact allRows_map (fun k => isRow_exec (.scrubDone k)) _
  · exact allRows_map (fun q => isRow_exec (.fabricReceive (.loop q))) _
  · exact allRows_map (fun _ => isRow_exec (.workEntryComplete _ _)) _

theorem taskMoves_rows (s : State) : AllRows s.taskMoves := by
  unfold State.taskMoves
  refine allRows_append (allRows_append (allRows_append (allRows_append (allRows_append (allRows_append (allRows_append
    ?_ ?_) ?_) ?_) ?_) ?_) ?_) ?_
  · exact allRows_map (fun k => isRow_exec (.dependenceMet k)) _
  · exact allRows_map (fun k => isRow_exec (.taskSetCompletion k)) _
  · exact allRows_map (fun _ => isRow_exec (.taskStart _ _)) _
  · exact allRows_map (fun _ => isRow_exec (.tileLaunchStart _)) _
  · exact allRows_map (fun _ => isRow_exec (.sliceExpiry _ _)) _
  · exact allRows_map (fun k => isRow_exec (.watchdogExpiry k)) _
  · exact allRows_map (fun n => isRow_exec (.drainForceStop n)) _
  · exact allRows_map (fun _ => isRow_exec (.taskPlacement _)) _

theorem hostMoves_rows (s : State) : AllRows s.hostMoves := by
  unfold State.hostMoves
  refine allRows_append (allRows_append ?_ ?_) ?_
  · exact allRows_flatMap (fun _ => requestMoves_rows _) _
  · exact allRows_map (fun _ => isRow_exec (.msixTimer _)) _
  · exact fun f hf => List.mem_singleton.1 hf ▸ isRow_exec .fwupdateTimeout

theorem deviceMoves_rows (s : State) : AllRows s.deviceMoves := by
  unfold State.deviceMoves
  refine allRows_append (allRows_append (allRows_append (allRows_append (allRows_append ?_ ?_) ?_) ?_) ?_) ?_
  · exact orderMoves_rows s
  · exact rentMoves_rows s
  · exact allRows_flatMap agentMoves_rows _
  · exact taskMoves_rows s
  · exact hostMoves_rows s
  · exact allRows_map (fun _ => isRow_exec (.sleepcEnd _)) _

/-! ## The step -/

theorem State.firstChange_wf {s t : State} {fs : List Move} (hf : AllRows fs) (h : s.mem.wf = true) (e : s.firstChange fs = some t) :
    t.mem.wf = true := by
  obtain ⟨f, hm, rfl⟩ := State.firstChange_mem s t fs e
  exact Move.run_wf (hf f hm) s h

theorem State.idle_wf (s : State) (h : s.mem.wf = true) : s.idle.mem.wf = true := by
  unfold State.idle
  split
  · next t e => exact State.firstChange_wf (deviceMoves_rows s) h e
  · split
    · exact h
    · exact wf_of_mem_eq (State.rentClockTick_mem s) h

theorem State.turn_wf (s : State) (n : Nat) (h : s.mem.wf = true) : (s.turn n).mem.wf = true := by
  unfold State.turn
  split
  · exact State.issueNext_wf _ _ h
  · split
    · next t e => exact State.firstChange_wf (allRows_flatMap agentMoves_rows _) h e
    · exact State.idle_wf s h

/-- A write of a notify page is one of the three NOTIFY rows (15 R318). -/
theorem bar2Write_leaves (o : BitVec 18) (size : Nat) (v : W64) (s : State) (h : s.mem.wf = true) : LeavesInv (execBar2Write o size v s) :=
  ite_keeps LeavesInv _ (ite_keeps LeavesInv _ (exec_leaves (.notifyTail _ v) s h) (exec_leaves (.notifyPrio _ v) s h))
    (exec_leaves (.notifyInvalidWrite _ _ size) s h)

/-- What the rails and the service of SPDM alone leave of a chosen move (15 R326, 23 R370). -/
theorem guarded_leaves {off only : Prop} [Decidable off] [Decidable only] {s : State} {o : Host.Outcome State Fault Refusal}
    (h : s.mem.wf = true) (ho : LeavesInv o) : LeavesInv (if off then .fault .noPower else if only then .next s else o) :=
  ite_keeps LeavesInv _ (leaves_fault _) (ite_keeps LeavesInv _ (leaves_next h) ho)

theorem step_leaves (s : State) (h : s.mem.wf = true) : LeavesInv (step s) := by
  unfold step
  split
  · next i rest _ => exact guarded_leaves h (exec_leaves i { s with sched := rest } h)
  · next n rest _ => exact guarded_leaves h (leaves_next (State.turn_wf { s with sched := rest } _ h))
  · next o size v rest _ =>
    refine guarded_leaves h ?_
    cases v with
    | some v => exact bar2Write_leaves o size v { s with sched := rest } h
    | none => exact leaves_next h
  · next node e rest _ => exact guarded_leaves h (leaves_next (wf_of_mem_eq (State.writeTable_mem { s with sched := rest } node e) h))
  · next x fatal rest _ =>
    exact ite_keeps LeavesInv _ (leaves_fault _) (leaves_next (wf_of_mem_eq (State.upset_mem { s with sched := rest } x fatal) h))
  · exact ite_keeps LeavesInv _ (leaves_fault _)
      (ite_keeps LeavesInv _ (exec_leaves .rentClockTick s h) (leaves_next (State.turn_wf s _ h)))

/-- Settles O60, from the rows (`exec_leaves`) and the moves that the machine chooses of itself (`deviceMoves_rows`). -/
theorem stepKeepsMemory : Obligations.StepKeepsMemory := by
  unfold Obligations.StepKeepsMemory
  exact fun s t h e => step_leaves s h t e

end Sys2Proof.Machine
end

section
/-!
PROOFS. Who may hold a word, and what a supervisor's word takes in the user view (00 R11, 01 R37, R38, 12 R268, R269).
-/

namespace Sys2Proof.Spec

open Sys2Proof Sys2Proof.Machine

/-! ## The profiles of the words and of their rows -/

/-- An agent as the profile of a word sees it. -/
abbrev viewOf (a : Agent) (n : Nat) : Prof := { ctl := isCtl n, mode := a.mode }

section

variable {a : Agent} {n : Nat}

theorem isCtl_false : isCtl n = false ↔ n < 288 := by simp [isCtl]

theorem profBase_core {k : Nat} (hk : k = 3 ∨ k = 4 ∨ k = 5 ∨ k = 6) : profBase k (viewOf a n) = true ↔ onCore a n := by
  rw [prof3456 _ _ hk]
  simp [onCore, isCtl_false, and_comm]

theorem profTask_inTask : profTask 0 (viewOf a n) = true ↔ inTask a := by
  simp [profTask, prof0, viewOf, inTask]

theorem profUser_notSuper : Machine.profUser 0 (viewOf a n) = true ↔ notSuper a := by
  simp [Machine.profUser, prof0, viewOf, notSuper]

theorem csrOpen_names (c : BitVec 12) : csrOpen c (viewOf a n) = true ↔ namesCsr n c := by
  simp [csrOpen, prof0, viewOf, namesCsr, isCtl]

theorem queueOk_reaches (q : BitVec 4) : (profBase 1 (viewOf a n) && queueOk q (viewOf a n)) = true ↔ (n < 288 ∨ 12 ≤ q.toNat) := by
  simp [queueOk, prof1, viewOf, isCtl]

theorem shapeOk_reaches (slot : BitVec 2) : shapeOk slot (viewOf a n) = true ↔ (n < 288 ∨ slot = 3) := by
  simp [shapeOk, prof1, viewOf, isCtl]

theorem profBase_seven : profBase 7 (viewOf a n) = true ↔ notSuper7 a := by
  simp [prof7, viewOf, notSuper7]

theorem coreOnly_seven : coreOnly (viewOf a n) = true ↔ coreOnly7 a n := by
  simp [coreOnly, prof7, viewOf, coreOnly7, isCtl]

theorem ctxOk_names (c : BitVec 3) : ctxOk c (viewOf a n) = true ↔ namesCtx n c := by
  simp [ctxOk, namesCtx, isCtl]

theorem ctlOnly_inTask : ctlOnly (viewOf a n) = true ↔ (288 ≤ n ∧ a.mode = .task) := by
  simp [ctlOnly, isCtl]

theorem vecWord_prof (iq lat vd md ops mask val) : (vecWord iq lat vd md ops mask val).prof = profBase 5 := by
  unfold vecWord
  split <;> rfl

/-- A vector word, whatever its destination. -/
theorem vecWord_core (iq lat vd md ops mask val) : (vecWord iq lat vd md ops mask val).prof (viewOf a n) = true ↔ onCore a n := by
  rw [vecWord_prof]
  exact profBase_core (by simp)

end

/-! ## Every row's holders are those of its word -/

section

/-- Where a row is given, the instruction has a word, whose profile lets agent `n` hold it exactly where the row does. -/
def HoldersAgree (s : State) (n : Nat) (i : Instr) (o : Option Form) : Prop :=
  ∀ F, o = some F → ∃ w, wordOf i = some w ∧ (w.prof (viewOf (s.agent n) n) = true ↔ F.held)

variable (s : State) (n : Nat) (i : Instr)

theorem holders_or {s : State} {n : Nat} {i : Instr} {o u : Option Form} (ho : HoldersAgree s n i o) (hu : HoldersAgree s n i u) :
    HoldersAgree s n i (o.or u) := by
  cases o with
  | none => exact hu
  | some F => exact ho

theorem integer_holders : HoldersAgree s n i (integer i) := by
  intro F h
  unfold integer at h
  split at h <;> cases h
  all_goals exact ⟨_, rfl, iff_of_true (prof1 _) trivial⟩

theorem scalarFloat_holders : HoldersAgree s n i (scalarFloat i) := by
  intro F h
  unfold scalarFloat at h
  split at h <;> cases h
  all_goals exact ⟨_, rfl, iff_of_true (prof1 _) trivial⟩

theorem branches_holders : HoldersAgree s n i (branches (s.agent n) i) := by
  intro F h
  unfold branches at h
  split at h <;> cases h
  all_goals exact ⟨_, rfl, iff_of_true (prof0 _) trivial⟩

theorem near_holders : HoldersAgree s n i (near s n i) := by
  intro F h
  unfold near at h
  split at h <;> cases h
  all_goals exact ⟨_, rfl, profBase_core (k := 3) (by simp)⟩

theorem accumulator_holders : HoldersAgree s n i (accumulator s n i) := by
  intro F h
  unfold accumulator at h
  split at h <;> cases h
  all_goals exact ⟨_, rfl, profBase_core (k := 4) (by simp)⟩

theorem matrix_holders : HoldersAgree s n i (matrix s n i) := by
  intro F h
  unfold matrix at h
  split at h <;> cases h
  all_goals exact ⟨_, rfl, profBase_core (k := 6) (by simp)⟩

theorem binaryForm_holders : HoldersAgree s n i (binaryForm (s.agent n) n i) := by
  intro F h
  unfold binaryForm binary at h
  split at h <;> cases h
  all_goals exact ⟨_, rfl, vecWord_core ..⟩

theorem unaryForm_holders : HoldersAgree s n i (unaryForm (s.agent n) n i) := by
  intro F h
  unfold unaryForm unary at h
  split at h <;> cases h
  all_goals exact ⟨_, rfl, vecWord_core ..⟩

theorem rearranges_holders : HoldersAgree s n i (rearranges s n i) := by
  intro F h
  unfold rearranges at h
  split at h <;> cases h
  all_goals exact ⟨_, rfl, vecWord_core ..⟩

theorem backwardForm_holders : HoldersAgree s n i (backwardForm (s.agent n) n i) := by
  intro F h
  unfold backwardForm backward at h
  split at h <;> cases h
  all_goals exact ⟨_, rfl, profBase_core (k := 5) (by simp)⟩

theorem address_holders : HoldersAgree s n i (address n i) := by
  intro F h
  unfold address at h
  split at h <;> cases h
  -- LIDX is the one word of slot 0 among them
  case h_10 => exact ⟨_, rfl, iff_of_true (prof0 _) trivial⟩
  all_goals exact ⟨_, rfl, iff_of_true (prof1 _) trivial⟩

theorem queueShape_holders : HoldersAgree s n i (queueShape n i) := by
  intro F h
  unfold queueShape at h
  split at h <;> cases h
  · exact ⟨_, rfl, queueOk_reaches _⟩
  · exact ⟨_, rfl, queueOk_reaches _⟩
  · exact ⟨_, rfl, shapeOk_reaches _⟩
  · exact ⟨_, rfl, shapeOk_reaches _⟩

theorem levels_holders : HoldersAgree s n i (levels (s.agent n) i) := by
  intro F h
  unfold levels at h
  split at h <;> cases h
  · exact ⟨_, rfl, profUser_notSuper⟩
  · exact ⟨_, rfl, iff_of_true (prof0 _) trivial⟩

theorem fusedOrPredicate_holders : HoldersAgree s n i (fusedOrPredicate (s.agent n) n i) := by
  intro F h
  unfold fusedOrPredicate at h
  split at h <;> cases h
  all_goals exact ⟨_, rfl, profBase_core (k := 5) (by simp)⟩

theorem intervals_holders : HoldersAgree s n i (intervals (s.agent n) n i) := by
  intro F h
  unfold intervals at h
  split at h <;> cases h
  -- ISPLIT needs two destinations
  case h_15 => exact ⟨_, rfl, Bool.and_eq_true_iff.trans (and_congr (profBase_core (by simp)) decide_eq_true_iff)⟩
  all_goals exact ⟨_, rfl, profBase_core (k := 5) (by simp)⟩

theorem withheld_holders : HoldersAgree s n i (withheld (s.agent n) n i) := by
  intro F h
  unfold withheld at h
  split at h <;> cases h
  -- FST, FSTS and WCADDV are words of cores
  case h_1 | h_2 | h_12 => exact ⟨_, rfl, coreOnly_seven⟩
  all_goals exact ⟨_, rfl, profBase_seven⟩

theorem engines_holders : HoldersAgree s n i (engines (s.agent n) n i) := by
  intro F h
  unfold engines at h
  split at h <;> cases h
  -- XCOPY, XGATHER, XSCATTER and XFILL; the other contexts are those of cores
  case h_1 | h_2 | h_3 | h_4 => exact ⟨_, rfl, profBase_seven⟩
  all_goals exact ⟨_, rfl, coreOnly_seven⟩

theorem timelines_holders : HoldersAgree s n i (timelines (s.agent n) n i) := by
  intro F h
  unfold timelines at h
  split at h <;> cases h
  · exact ⟨_, rfl, (Bool.and_eq_true_iff).trans (and_congr profBase_seven (ctxOk_names _))⟩
  · exact ⟨_, rfl, ctxOk_names _⟩

theorem stalls_holders : HoldersAgree s n i (stalls s n i) := by
  intro F h
  unfold stalls at h
  split at h <;> cases h
  -- RENTQ and ALLOWQ
  case h_6 | h_7 => exact ⟨_, rfl, iff_of_true rfl trivial⟩
  -- XQP, XMBOX and XLAUNCH
  case h_8 | h_9 | h_10 => exact ⟨_, rfl, ctlOnly_inTask⟩
  all_goals exact ⟨_, rfl, profBase_seven⟩

theorem slot0_holders : HoldersAgree s n i (slot0 s n i) := by
  intro F h
  unfold slot0 at h
  split at h <;> cases h
  -- NOP, QALIGN, FENCE and SEV
  case h_1 | h_10 | h_11 | h_12 => exact ⟨_, rfl, iff_of_true (prof0 _) trivial⟩
  -- CKPT, CKPTL, FMT and FMTS
  case h_2 | h_3 | h_14 | h_15 => exact ⟨_, rfl, profTask_inTask⟩
  -- TWAIT
  case h_8 => exact ⟨_, rfl, Bool.and_eq_true_iff.trans (and_congr profUser_notSuper (ctxOk_names _))⟩
  -- WFE, WAITT, SLEEPC, QWAIT, TWAITA and UIMASK
  case h_4 | h_5 | h_6 | h_7 | h_9 | h_13 => exact ⟨_, rfl, profUser_notSuper⟩
  -- the words of CSRs
  all_goals exact ⟨_, rfl, csrOpen_names _⟩

theorem anyForm_holders : HoldersAgree s n i (anyForm s n i) :=
  holders_or
    (holders_or (holders_or (holders_or (integer_holders s n i) (scalarFloat_holders s n i))
        (holders_or (address_holders s n i) (queueShape_holders s n i)))
      (holders_or (holders_or (slot0_holders s n i) (branches_holders s n i)) (holders_or (levels_holders s n i) (near_holders s n i))))
    (holders_or
      (holders_or (holders_or (accumulator_holders s n i) (binaryForm_holders s n i))
        (holders_or (unaryForm_holders s n i) (fusedOrPredicate_holders s n i)))
      (holders_or
        (holders_or (holders_or (rearranges_holders s n i) (intervals_holders s n i))
          (holders_or (backwardForm_holders s n i) (matrix_holders s n i)))
        (holders_or (holders_or (withheld_holders s n i) (engines_holders s n i))
          (holders_or (timelines_holders s n i) (stalls_holders s n i)))))

theorem reads_holders : HoldersAgree s n i ((reads s n i).map Prod.fst) := by
  intro F h
  unfold reads at h
  split at h <;> cases h
  all_goals exact ⟨_, rfl, profBase_seven⟩


end

/-! ## The refusals -/

theorem word_slot {i : Instr} {w : Word} (h : wordOf i = some w) : w.slot = i.slot.getD 0 := by
  cases hk : i.slot with
  | some k => exact slot_word i w k hk h
  | none => cases i <;> cases hk <;> cases h <;> rfl

/-- Step 1 of 01 R38 for a word alone. -/
theorem early_unheld {s : State} {n : Nat} (w : Word) (hp : ¬ w.prof (viewOf (s.agent n) n) = true) :
    earlyTrap s n [w] = some { cause := 0x01, slot := w.slot, imm := 0, faddr := (s.agent n).r.pc } := by
  have hf : firstSlot (fun w => !w.prof (viewOf (s.agent n) n) || (decide (repeated (s.agent n) ≠ []) && w.slot == 6)) [w] = some w.slot := by
    simp [firstSlot, hp]
  unfold earlyTrap
  simp only [hf]

/-- Step 3 of 01 R38 for a word alone: no repetition brings a word of its own. -/
theorem early_privileged {s : State} {n : Nat} (w : Word) (hr : (s.agent n).mode = .task → (s.agent n).r.repn = 0)
    (hp : w.prof (viewOf (s.agent n) n) = true) (hq : (s.agent n).selects w.iq = true) (hv : w.priv s n = true) :
    earlyTrap s n [w] = some { cause := 0x0E, slot := w.slot, imm := 0, faddr := (s.agent n).r.pc } := by
  have hn : repeated (s.agent n) = [] := by
    unfold repeated
    exact if_neg (fun h => h.1 (hr h.2.2))
  have hw : allWords s n [w] = [w] := by rw [allWords, hn, withRepeat_nil]
  unfold earlyTrap selected
  simp [hw, hn, firstSlot, conflictSlot, hp, hq, hv]

theorem profileRefusal : Spec.ProfileRefusal := by
  intro i s F hF n hm hh
  have ha : HoldersAgree s n i (some F) := by
    rcases hF with h | ⟨ks, h⟩
    · exact h ▸ anyForm_holders s n i
    · have hr := reads_holders s n i
      rwa [h] at hr
  obtain ⟨w, hw, hp⟩ := ha F rfl
  rw [exec_word i w s hw, issueAlone_early rfl hm w _ (early_unheld w (mt hp.1 hh)), word_slot hw]
  rfl

/-- ERET and HALT belong to the supervisor handler, in every form. -/
theorem supervisor_word {i : Instr} {iq : BitVec 2} (h : erets i = some iq ∨ halts i = some iq) :
    ∃ w, wordOf i = some w ∧ w.iq = iq ∧ w.slot = 0 ∧ w.prof = profBase 0 ∧ w.priv = fun s n => decide ((s.agent n).mode ≠ .super) := by
  rcases h with h | h
  · unfold erets at h
    split at h <;> cases h <;> exact ⟨_, rfl, rfl, rfl, rfl, rfl⟩
  · unfold halts at h
    split at h <;> cases h <;> exact ⟨_, rfl, rfl, rfl, rfl, rfl⟩

theorem privilegeRefusals : Spec.PrivilegeRefusals := by
  intro s i iq d x c n a hm hr hu hc
  have refused : ∀ (j : Instr) (w : Word), wordOf j = some w → w.slot = 0 → w.prof (viewOf a n) = true → a.selects w.iq = true →
      w.priv s n = true → exec j s = .next (traps s n 0x0E 0 0 a.r.pc) := by
    intro j w hw h0 hp hq hv
    rw [exec_word j w s hw, issueAlone_early rfl hm w _ (early_privileged w hr hp hq hv), h0]
    rfl
  refine ⟨fun hi hq => ?_, fun ha hq => ?_, fun ha hq => ?_⟩
  · obtain ⟨w, hw, rfl, h0, hp, hv⟩ := supervisor_word hi
    exact refused i w hw h0 (by rw [hp]; exact prof0 _) hq (by rw [hv]; exact decide_eq_true hu)
  · exact refused _ (wCsrr iq d c) rfl rfl ((csrOpen_names c).2 hc) hq (by simpa [wCsrr, Word.base] using ⟨hu, ha⟩)
  · exact refused _ (wCsrw iq x c) rfl rfl ((csrOpen_names c).2 hc) hq (by simpa [wCsrw, Word.base] using ⟨hu, ha⟩)

/-- Settles O15: the profile of every word is that of its row (`anyForm_holders`), and step 3 of 01 R38 refuses the supervisor's words. -/
theorem profileAndPrivilegeRefusals : Obligations.ProfileAndPrivilegeRefusals := by
  unfold Obligations.ProfileAndPrivilegeRefusals
  exact ⟨profileRefusal, privilegeRefusals⟩

end Sys2Proof.Spec
end

section
/-!
PROOFS. Encoding and decoding agree (01 R20, R36), word by word: the word of an instruction names its own row in the map of its slot.
-/

namespace Sys2Proof

open BitVec

/-! ## The row that a word names -/

/-- The words of control, scalar, near and accumulator instructions name their own row (01 R25, R28, R30, R31). -/
theorem rowOf_encode_low {i : Instr} {k : Nat} (hk : i.slot = some k) (hn : i ≠ .nop) (h : decide (k < 5) = true) :
    rowOf k (encode i) = some i := by
  cases i
  all_goals cases hk
  all_goals cases h
  case nop => exact absurd rfl hn
  -- words without an operand
  case uiret | uiretFirst | uiretLast | eret | eretFirst | eretLast | halt | haltFirst | haltLast => rfl
  all_goals
    unfold encode
    -- the map of the slot, in it the row at OP, and there the fields
    conv_lhs => whnf
    conv in (fld _ 24 6).toNat =>
      simp -index only [fld, extractLsb'_append_eq_of_le, extractLsb'_append_eq_of_add_le, extractLsb'_eq_self, Nat.reduceLeDiff,
        Nat.reduceSub, Nat.reduceAdd, reduceExtractLsb', reduceToNat]
    with_reducible_and_instances conv_lhs => whnf
    simp -index only [fld, extractLsb'_append_eq_of_le, extractLsb'_append_eq_of_add_le, extractLsb'_eq_self, Nat.reduceLeDiff,
      Nat.reduceSub, Nat.reduceAdd, reduceExtractLsb', reduceToNat]

/-- The words of vector, matrix and engine instructions name their own row (01 R32 to R35). -/
theorem rowOf_encode_high {i : Instr} {k : Nat} (hk : i.slot = some k) (h : decide (5 ≤ k) = true) : rowOf k (encode i) = some i := by
  cases i
  all_goals cases hk
  all_goals cases h
  case mswb | mswbFirst | mswbLast => rfl
  all_goals
    unfold encode
    conv_lhs => whnf
    conv in (fld _ 24 6).toNat =>
      simp -index only [fld, extractLsb'_append_eq_of_le, extractLsb'_append_eq_of_add_le, extractLsb'_eq_self, Nat.reduceLeDiff,
        Nat.reduceSub, Nat.reduceAdd, reduceExtractLsb', reduceToNat]
    with_reducible_and_instances conv_lhs => whnf
    simp -index only [fld, extractLsb'_append_eq_of_le, extractLsb'_append_eq_of_add_le, extractLsb'_eq_self, Nat.reduceLeDiff,
      Nat.reduceSub, Nat.reduceAdd, reduceExtractLsb', reduceToNat, reduceEq, if_true, if_false]

/-- In the map of its slot, every word but NOP names the row of its instruction. -/
theorem rowOf_encode {i : Instr} {k : Nat} (hk : i.slot = some k) (hn : i ≠ .nop) : rowOf k (encode i) = some i := by
  rcases Nat.lt_or_ge k 5 with h | h
  · exact rowOf_encode_low hk hn (decide_eq_true h)
  · exact rowOf_encode_high hk (decide_eq_true h)

theorem rowOf_zero (k : Nat) : rowOf k 0 = none := by
  unfold rowOf
  split <;> rfl

/-- The qualifier of a well-formed slot word is not 11 (01 R21). -/
theorem encode_qualifier {i : Instr} {k : Nat} (hk : i.slot = some k) (hw : i.wf = true) : fld (encode i) 30 2 ≠ 3 := by
  intro e
  cases i
  all_goals cases hk
  all_goals
    unfold encode fld at e
    -- words without an operand are closed here: their qualifier is written out
    simp -index only [extractLsb'_append_eq_of_le, extractLsb'_eq_self, Nat.reduceLeDiff, Nat.reduceSub, Nat.reduceAdd,
      reduceExtractLsb', reduceEq] at e
  all_goals
    subst e
    cases hw

/-! ## The statements -/

/-- Settles O57: the word names its row (`rowOf_encode`), which no zero word does, and its qualifier is none that is reserved. -/
theorem encodingDecodes : Obligations.EncodingDecodes := by
  unfold Obligations.EncodingDecodes
  intro i k hk hw
  by_cases hn : i = .nop
  · subst hn
    cases hk
    rfl
  · have hr := rowOf_encode hk hn
    have h0 : encode i ≠ 0 := fun h => by rw [h, rowOf_zero] at hr; cases hr
    exact row_ok i k h0 (encode_qualifier hk hw) hr hw

/-- Settles O56, by decoding the sixteen words. -/
theorem decodedWords : Obligations.DecodedWords := by
  unfold Obligations.DecodedWords
  exact ⟨rfl, rfl, rfl, rfl, rfl, rfl, rfl, rfl, rfl, rfl, rfl, rfl, rfl, rfl, rfl, rfl⟩

end Sys2Proof
end

section
/-!
PROOFS. A step issues the words that the slots of the fetched bundle decode to (01 R17, R36, R38, 02 R53).
-/

namespace Sys2Proof.Machine

/-- Where every slot brings NOP or the word that it decodes to, the bundle issues those words, and NOP where there are none (01 R17). -/
theorem issueWords_decoded (s : State) (n : Nat) (b : BitVec 256) (f : Nat → Option Word)
    (h : ∀ k < 8, (slotWord b k = 0 ∧ f k = none) ∨ ∃ i w, slotWord b k ≠ 0 ∧ decodeSlot k (slotWord b k) = .ok i ∧ wordOf i = some w ∧
      f k = some { w with slot := k }) :
    s.issueWords n b = s.issue n (if ((List.range 8).filterMap f).isEmpty then [wNop] else (List.range 8).filterMap f) := by
  obtain ⟨hb, hg⟩ := good_words b f (List.range 8) (fun k hk => h k (List.mem_range.1 hk)) 0
  unfold State.issueWords bundleWords
  simp only [hb, hg]

/-- A slot that decodes to nothing stops the bundle in it or a lower slot (01 R38 step 1). -/
theorem issueWords_undecoded (s : State) (n : Nat) (b : BitVec 256) {k : Nat} (hk : k < 8) (h0 : slotWord b k ≠ 0)
    (hd : ∀ i, decodeSlot k (slotWord b k) ≠ .ok i) : ∃ j < 8, s.issueWords n b = Spec.traps s n 0x01 j 0 (s.agent n).r.pc := by
  obtain ⟨m, hm, hl⟩ := bad_some b (List.range 8) 0 k (List.mem_range.2 hk) h0 hd
  rw [List.length_range, Nat.zero_add] at hl
  refine ⟨s.illegalSlot n m (goodWords (bundleWords b)), ?_, ?_⟩
  · unfold State.illegalSlot
    dsimp only
    split
    · exact Nat.lt_of_le_of_lt (Nat.min_le_right _ _) hl
    · exact hl
  · unfold State.issueWords bundleWords
    simp only [hm]
    rfl

theorem filterMap_range_single (w : Word) {k : Nat} (hk : k < 8) :
    (List.range 8).filterMap (fun j => if j = k then some w else none) = [w] := by
  interval_cases k <;> rfl

end Sys2Proof.Machine

namespace Sys2Proof.Spec

open Sys2Proof Sys2Proof.Machine

theorem stepRunsWord : Spec.StepRunsWord := by
  intro s hs
  refine ⟨fun i rest h => ?_, fun h hc hf => ⟨fun f hne hw => ?_, fun i k hn hk h0 hz hd hi => ?_, fun hn hz => ?_, ?_⟩⟩
  · unfold step
    simp [h, hs.1, hs.2]
  all_goals rw [turn_issue hs h hc hf]
  · rw [issueWords_decoded s _ _ f hw, if_neg]
    obtain ⟨k, hk, hfk⟩ := hne
    intro he
    exact hfk (List.filterMap_eq_nil_iff.1 (List.isEmpty_iff.1 he) k (List.mem_range.2 hk))
  · obtain ⟨w, hw⟩ := word_some i k hi
    have hs' : ({ w with slot := k } : Word) = w := by rw [← slot_word i w k hi hw]
    rw [issueWords_decoded s _ _ (fun j => if j = k then some w else none), filterMap_range_single w hk, exec_word i w s hw, hn]
    · rfl
    · intro j hj
      by_cases hjk : j = k
      · subst hjk
        exact .inr ⟨i, w, h0, hd, hw, by rw [if_pos rfl, hs']⟩
      · exact .inl ⟨hz j hj hjk, if_neg hjk⟩
  · rw [issueWords_decoded s _ _ (fun _ => none) (fun k hk => .inl ⟨hz k hk, rfl⟩), hn]
    rfl
  · rintro ⟨k, hk, h0, hd⟩
    obtain ⟨j, hj, he⟩ := issueWords_undecoded s _ _ hk h0 hd
    exact ⟨j, hj, by rw [he]⟩

/-- Settles O58: the step is the issue of the fetched bundle (`turn_issue`), whose words are those that its slots decode to. -/
theorem stepRunsBundle : Obligations.StepRunsBundle := by
  unfold Obligations.StepRunsBundle
  exact stepRunsWord

end Sys2Proof.Spec
end

section
/-!
PROOFS. A gang whose ranks do not select the same words: O13 supposes nothing of their loop levels, which 01 R21 holds equal.
-/

namespace Sys2Proof.Spec

open Sys2Proof Sys2Proof.Machine

/-- A bundle that passes every check, but in which the ranks disagree, takes 0x05 with its own address (02 R62). -/
theorem issue_diverges {s : State} {n : Nat} {ws : List Word} (he : firstEarly s (s.members n) ws = none)
    (ht : (s.members n).any (fun m => decide (heldTile s m ws ≠ none)) = false) (hp : (s.members n).any (fun m => holdsPlanes s m ws) = false)
    (hc : firstCheck s (s.members n) ws = none) (hd : diverges s (s.members n) ws = true) :
    s.issue n ws = traps s n 0x05 0 0 (s.agent n).r.pc := by
  unfold State.issue State.issueReady
  simp only [he, ranksAhead, ht, hp, hc, hd, Bool.false_eq_true, if_false, if_true, Option.or_none]
  rfl

/-- A gang of loom 2 in a loop of two iterations: rank 5 is in the second, the other ranks are in the first. -/
def staggered : State :=
  let task : Task := { account := 0, context := 0, cls := 0, kind := 1, tslot := 0, ts := 1, j := 0, rentwin := 1, pasid := none, save := 0 }
  let rank (k : Nat) : Agent := { Agent.reset with
    r := { Regs.reset with levels := [(0, { Level.reset with act := true, count := 2, index := if k = 5 then 1 else 0 })] }
    task := some task }
  { State.reset with cur := 24, agents := (List.range 12).map (fun k => (24 + k, rank k)) }

theorem staggered_gang : gangReady staggered 24 := by
  refine ⟨by decide, ⟨_, rfl, rfl⟩, ?_⟩
  decide

/-- A word of the first iteration issues on eleven ranks, so that what the ranks compare differs. -/
theorem staggered_diverges : diverges staggered (staggered.members 24) [sWord 1 0 1 (fun _ => 0)] = true := by decide

theorem staggered_traps : exec (.li 1 0 0) staggered = .next (traps staggered 24 0x05 0 0 0) :=
  congrArg Host.Outcome.next (issue_diverges (by decide) (by decide) (by decide) (by decide) staggered_diverges)

/-- Refutes O13, in the clause on the integer words of a gang: nothing there makes the ranks select the same words. In the gang `staggered`
LI.first writes s0 on eleven ranks and is not selected on rank 5, so that the ranks disagree (`staggered_traps`): none of them issues. -/
theorem not_wordFrame : ¬ Obligations.WordFrame := by
  unfold Obligations.WordFrame
  rintro ⟨-, -, hg⟩
  obtain ⟨hi, -, -⟩ := hg staggered staggered_gang
  obtain ⟨t, ht, -, hr, -⟩ := hi (.li 1 0 0) _ rfl
  have hs : t = traps staggered 24 0x05 0 0 0 := Host.Outcome.next.inj (ht.symm.trans staggered_traps)
  -- rank 0 has counted an issue cycle if it has issued, and has restored its checkpoint if it has trapped
  have h := congrArg Agent.icyc (hr 24 (by decide))
  rw [hs] at h
  exact absurd h (by decide +kernel)

end Sys2Proof.Spec
end

section
/-!
PROOFS. The words of slot 0 that fall through do what their rows say (02 R64 to R73, 10 R237 to R242).
-/

namespace Sys2Proof.Spec

open Sys2Proof Sys2Proof.Machine

/-! ## Words of slot 0 that fall through -/

/-- A word of slot 0 that falls through: it takes no queue operand and holds its bundle for nothing, meets its checks where the condition
of its row holds, and has the effect of its row. -/
structure FallsThrough (s : State) (n : Nat) (F : Form) (w : Word) : Prop where
  word : w = { Word.base 0 F.iq with
    prof := w.prof, writes := w.writes, priv := w.priv, chk := w.chk, cmd := F.cmds, ckpt := w.ckpt, act := w.act }
  form : F = { iq := F.iq, held := F.held, cmds := F.cmds, ok := F.ok, act := F.act }
  met : F.ok → w.priv s n = false ∧ w.chk s n = none
  act : w.act s n (s.agent n) = F.act (s.agent n)
  keeps : (F.act (s.agent n)).mode = (s.agent n).mode ∧ (F.act (s.agent n)).r.repn = (s.agent n).r.repn

theorem FallsThrough.says {F : Form} {i : Instr} {s : State} {w : Word} (h : FallsThrough s s.cur.toNat F w) (hw : wordOf i = some w)
    (hp : F.held → w.prof (viewOf (s.agent s.cur.toNat) s.cur.toNat) = true) : F.Says i s := by
  obtain ⟨hword, hform, hmet, hact, hkeeps⟩ := h
  have ops : F.ops = [] := by rw [hform]
  have push : F.push = [] := by rw [hform]
  have stores : F.stores = 0 := by rw [hform]
  have flow : F.flow = fun _ a => a.seqStep := by rw [hform]
  refine form_says F i s w (exec_word i w s hw) (by rw [hword]; rfl) hp (fun hh hc => ?_) ⟨?_, fun a _ => ?_⟩ ?_ (by rw [hword]; rfl)
    (by rw [hword]) (by rw [hword, stores]; rfl)
  · obtain ⟨hv, hk⟩ := hmet hc.1
    exact runs_unchecked w s _ F hc (hp hh) hv (by rw [hword]; rfl) (by rw [hword]; rfl) hk (by rw [hword]; rfl) (by rw [hword])
      (by rw [hword, stores]; rfl) (by rw [hword, ops]; rfl) (by rw [hword, push]; rfl) (by simp [push])
  · rw [hact]
    exact hkeeps
  · rw [hword]
    exact seqStep_keeps a
  · unfold Word.effect
    rw [hact, hword, flow, ops, push]
    rfl

/-! ## The words -/

/-- The check of TWAITA passes where the cell is aligned and its access is allowed (10 R242). -/
theorem twaitaCheck_none {s : State} {n : Nat} {e : W64} (ha : e &&& 7 = 0) (hv : s.vaCheck n (s.agent n).who askCell e.toNat 8 = none) :
    twaitaCheck s n e = none := by
  unfold twaitaCheck
  rw [if_neg (not_not_intro ha), hv]
  rfl

/-- A CSRR meets its privilege where it may read, and keeps all but its result in flight and NPF. -/
theorem readsCsr_falls (s : State) (n : Nat) (iq : BitVec 2) (d : BitVec 5) (c : BitVec 12) :
    FallsThrough s n (readsCsr s n iq d c) (wCsrr iq d c) where
  word := rfl
  form := rfl
  met hok := by
    refine ⟨?_, rfl⟩
    simp only [wCsrr, Bool.and_eq_false_iff, decide_eq_false_iff_not, not_not]
    exact hok
  act := rfl
  keeps := by
    unfold readsCsr
    dsimp only
    split <;> exact ⟨rfl, rfl⟩

/-- A CSRW meets its privilege where it may write. -/
theorem writesCsr_falls (s : State) (n : Nat) (iq : BitVec 2) (x : BitVec 5) (c : BitVec 12) :
    FallsThrough s n (writesCsr s n iq x c) (wCsrw iq x c) where
  word := rfl
  form := rfl
  met hok := by
    refine ⟨?_, rfl⟩
    simp only [wCsrw, Bool.and_eq_false_iff, decide_eq_false_iff_not, not_not]
    exact hok
  act := rfl
  keeps := ⟨rfl, rfl⟩

/-- Every row of slot 0 is that of a word that falls through. -/
theorem slot0_falls {s : State} {n : Nat} {i : Instr} {F : Form} (h : slot0 s n i = some F) :
    ∃ w, wordOf i = some w ∧ FallsThrough s n F w := by
  unfold slot0 at h
  split at h <;> cases h
  -- TWAITA and FMTS have checks of their own
  case h_9 => exact ⟨_, rfl, rfl, rfl, fun hok => ⟨rfl, twaitaCheck_none hok.1 hok.2⟩, rfl, rfl, rfl⟩
  case h_15 => exact ⟨_, rfl, rfl, rfl, fun hok => ⟨rfl, if_pos hok⟩, rfl, rfl, rfl⟩
  -- FENCE, by the two bits of its kind
  case h_11 iq scope kind =>
    refine ⟨_, rfl, rfl, rfl, fun _ => ⟨rfl, rfl⟩, rfl, ?_⟩
    dsimp only
    split <;> split <;> exact ⟨rfl, rfl⟩
  case h_16 | h_17 => exact ⟨_, rfl, readsCsr_falls ..⟩
  case h_18 | h_19 | h_20 | h_21 | h_22 | h_23 => exact ⟨_, rfl, writesCsr_falls ..⟩
  all_goals exact ⟨_, rfl, rfl, rfl, fun _ => ⟨rfl, rfl⟩, rfl, rfl, rfl⟩

/-- Settles O3: every word of these rows falls through (`slot0_falls`), and its profile is that of its row (`slot0_holders`). -/
theorem slot0Words : Obligations.Slot0Words := by
  unfold Obligations.Slot0Words
  intro i s F h
  obtain ⟨w, hw, hf⟩ := slot0_falls h
  obtain ⟨v, hv, hp⟩ := slot0_holders s s.cur.toNat i F h
  obtain rfl : w = v := Option.some.inj (hw.symm.trans hv)
  exact hf.says hw hp.2

end Sys2Proof.Spec
end

section
/-!
PROOFS. The integer words compute what their rows say (03 R77, R78), and two of them in one bundle both read the state before it (01 R39).
-/

namespace Sys2Proof.Spec

open Sys2Proof Sys2Proof.Machine

/-! ## The results of the integer words -/

section

variable (x y : W64)

theorem truth_slt : truth (x.slt y) = if x.toInt < y.toInt then 1 else 0 := by simp [truth, BitVec.slt]

theorem truth_slt_imm (i : BitVec 14) : truth (x.slt (i.signExtend 64)) = if x.toInt < i.toInt then 1 else 0 := by
  rw [truth_slt, BitVec.toInt_signExtend_of_le (by decide)]

theorem truth_ult : truth (x.ult y) = if x.toNat < y.toNat then 1 else 0 := by simp [truth, BitVec.ult]

theorem smaller_signed : (if x.slt y then x else y) = BitVec.ofInt 64 (min x.toInt y.toInt) := by
  rw [Int.min_def]
  by_cases h : x.toInt < y.toInt
  · simp [BitVec.slt, h, Int.le_of_lt h]
  · rcases Int.lt_or_eq_of_le (Int.not_lt.1 h) with h' | h'
    · simp [BitVec.slt, h, Int.not_le.2 h']
    · simp [BitVec.slt, BitVec.eq_of_toInt_eq h']

theorem greater_signed : (if x.slt y then y else x) = BitVec.ofInt 64 (max x.toInt y.toInt) := by
  rw [Int.max_def]
  by_cases h : x.toInt < y.toInt
  · simp [BitVec.slt, h, Int.le_of_lt h]
  · rcases Int.lt_or_eq_of_le (Int.not_lt.1 h) with h' | h'
    · simp [BitVec.slt, h, Int.not_le.2 h']
    · simp [BitVec.slt, BitVec.eq_of_toInt_eq h']

theorem smaller_unsigned : (if x.ult y then x else y) = BitVec.ofNat 64 (min x.toNat y.toNat) := by
  apply BitVec.eq_of_toNat_eq
  by_cases h : x.toNat < y.toNat
  · simp [BitVec.ult, h, Nat.min_eq_left (Nat.le_of_lt h)]
  · simp [BitVec.ult, h, Nat.min_eq_right (Nat.not_lt.1 h)]

theorem greater_unsigned : (if x.ult y then y else x) = BitVec.ofNat 64 (max x.toNat y.toNat) := by
  apply BitVec.eq_of_toNat_eq
  by_cases h : x.toNat < y.toNat
  · simp [BitVec.ult, h, Nat.max_eq_right (Nat.le_of_lt h)]
  · simp [BitVec.ult, h, Nat.max_eq_left (Nat.not_lt.1 h)]

theorem quotS_tdiv : quotS x y = if y = 0 then BitVec.allOnes 64 else BitVec.ofInt 64 (x.toInt.tdiv y.toInt) := by
  unfold quotS
  rw [show x.sdiv y = BitVec.ofInt 64 (x.toInt.tdiv y.toInt) from
    BitVec.eq_of_toInt_eq (by rw [BitVec.toInt_sdiv, BitVec.toInt_ofInt])]

theorem quotU_div : quotU x y = if y = 0 then BitVec.allOnes 64 else BitVec.ofNat 64 (x.toNat / y.toNat) := by
  unfold quotU
  rw [show x / y = BitVec.ofNat 64 (x.toNat / y.toNat) by rw [← BitVec.toNat_udiv, BitVec.ofNat_toNat, BitVec.setWidth_eq]]

theorem remS_tmod : remS x y = if y = 0 then x else BitVec.ofInt 64 (x.toInt.tmod y.toInt) := by
  unfold remS
  rw [show x.srem y = BitVec.ofInt 64 (x.toInt.tmod y.toInt) by rw [← BitVec.toInt_srem, BitVec.ofInt_toInt]]

theorem remU_mod : remU x y = if y = 0 then x else BitVec.ofNat 64 (x.toNat % y.toNat) := by
  unfold remU
  rw [show x % y = BitVec.ofNat 64 (x.toNat % y.toNat) by rw [← BitVec.toNat_umod, BitVec.ofNat_toNat, BitVec.setWidth_eq]]

end

/-! ## The word of an integer row -/

/-- The word that writes what a row writes. -/
theorem sWord_congr {iq : BitVec 2} {lat : Nat} {d : BitVec 5} {u v : Agent → W64} (h : ∀ a, u a = v a) :
    some (sWord iq d lat u) = some (sWord iq d lat v) := by
  rw [funext h]

/-- An integer word but CMOV writes one register with the value of its row. -/
theorem integer_word {i : Instr} {F : Form} (h : integer i = some F) :
    (∃ iq lat d v, F = writesS iq lat d v ∧ wordOf i = some (sWord iq d lat v)) ∨ ∃ iq d x y, i = .cmov iq d x y := by
  unfold integer at h
  split at h <;> cases h
  -- shifts by the low six bits of a register
  case h_12 | h_13 | h_14 => exact .inl ⟨_, _, _, _, rfl, sWord_congr fun a => by rw [and63_toNat]⟩
  -- compares, least and greatest
  case h_18 => exact .inl ⟨_, _, _, _, rfl, sWord_congr fun a => truth_slt _ _⟩
  case h_19 => exact .inl ⟨_, _, _, _, rfl, sWord_congr fun a => truth_slt_imm _ _⟩
  case h_20 => exact .inl ⟨_, _, _, _, rfl, sWord_congr fun a => truth_ult _ _⟩
  case h_21 => exact .inl ⟨_, _, _, _, rfl, sWord_congr fun a => smaller_signed _ _⟩
  case h_22 => exact .inl ⟨_, _, _, _, rfl, sWord_congr fun a => greater_signed _ _⟩
  case h_23 => exact .inl ⟨_, _, _, _, rfl, sWord_congr fun a => smaller_unsigned _ _⟩
  case h_24 => exact .inl ⟨_, _, _, _, rfl, sWord_congr fun a => greater_unsigned _ _⟩
  case h_27 => exact .inr ⟨_, _, _, _, rfl⟩
  -- quotients and remainders
  case h_31 => exact .inl ⟨_, _, _, _, rfl, sWord_congr fun a => quotS_tdiv _ _⟩
  case h_32 => exact .inl ⟨_, _, _, _, rfl, sWord_congr fun a => quotU_div _ _⟩
  case h_33 => exact .inl ⟨_, _, _, _, rfl, sWord_congr fun a => remS_tmod _ _⟩
  case h_34 => exact .inl ⟨_, _, _, _, rfl, sWord_congr fun a => remU_mod _ _⟩
  -- the others compute the expression of their row
  all_goals exact .inl ⟨_, _, _, _, rfl, rfl⟩

/-- An agent with more results in flight. -/
def adds (xs : List Flight) (a : Agent) : Agent := { a with flight := a.flight ++ xs }

/-- An integer word adds to any agent the results in flight that its row computes from the state before the bundle. -/
theorem integer_adds {i : Instr} {F : Form} {w : Word} (h : integer i = some F) (hw : wordOf i = some w) (s : State) (n : Nat) :
    w = { Word.base 1 F.iq with writes := w.writes, act := w.act } ∧
      ∃ xs, F.act (s.agent n) = adds xs (s.agent n) ∧ ∀ b, w.act s n b = adds xs b := by
  rcases integer_word h with ⟨iq, lat, d, v, rfl, hv⟩ | ⟨iq, d, x, y, rfl⟩
  · obtain rfl : w = sWord iq d lat v := Option.some.inj (hw.symm.trans hv)
    exact ⟨rfl, _, rfl, fun _ => rfl⟩
  · cases hw
    cases h
    refine ⟨rfl, ?_⟩
    by_cases hy : (s.agent n).getS y = 0
    · -- nothing lands of a CMOV whose condition is 0
      exact ⟨[], by simp [adds, hy], fun b => by simp [adds, wCmov, hy]⟩
    · exact ⟨_, if_neg hy, fun b => if_neg hy⟩

/-! ## Two words of one bundle -/

/-- A word of slot `k`, 1 or 2, that only writes the register `d`, with effect `f`. -/
def wWrites (k : Nat) (iq : BitVec 2) (d : BitVec 5) (f : State → Nat → Agent → Agent) : Word :=
  { Word.base 1 iq with slot := k, writes := [.s d], act := f }

section

variable {s : State} {n : Nat} {p q : BitVec 2} {d e : BitVec 5} {f g : State → Nat → Agent → Agent}

theorem clash_writers (hd : d ≠ e) : clash (wWrites 1 p d f) (wWrites 2 q e g) = false := by
  simp [clash, meets, wWrites, Word.base, Word.pops, hd]

theorem filter_writers {a : Agent} (hp : a.selects p = true) (hq : a.selects q = true) :
    [wWrites 1 p d f, wWrites 2 q e g].filter (fun w => a.selects w.iq) = [wWrites 1 p d f, wWrites 2 q e g] := by
  simp [wWrites, Word.base, hp, hq]

theorem selected_writers (h : s.ready n) (hp : (s.agent n).selects p = true) (hq : (s.agent n).selects q = true) :
    selected s n [wWrites 1 p d f, wWrites 2 q e g] = [wWrites 1 p d f, wWrites 2 q e g] := by
  unfold selected
  rw [ready_words h, filter_writers hp hq]

theorem early_writers (h : s.ready n) (hp : (s.agent n).selects p = true) (hq : (s.agent n).selects q = true) (hd : d ≠ e) :
    earlyTrap s n [wWrites 1 p d f, wWrites 2 q e g] = none := by
  have hc := clash_writers (p := p) (q := q) (f := f) (g := g) hd
  unfold earlyTrap
  simp only [selected_writers h hp hq, ready_words h, ready_repeated h, ready_overrun h, firstSlot, conflictSlot, List.any_cons, List.any_nil, hc]
  simp [wWrites, Word.base, prof1]

theorem checks_writers : checkTrap s n [wWrites 1 p d f, wWrites 2 q e g] = none := rfl

theorem issue_writers (h : s.ready n) (hp : (s.agent n).selects p = true) (hq : (s.agent n).selects q = true) (hd : d ≠ e) :
    s.issue n [wWrites 1 p d f, wWrites 2 q e g] = s.issueDone n [n] [wWrites 1 p d f, wWrites 2 q e g] := by
  have hs := selected_writers (d := d) (e := e) (f := f) (g := g) h hp hq
  have he : firstEarly s [n] [wWrites 1 p d f, wWrites 2 q e g] = none := by simp [firstEarly, early_writers h hp hq hd]
  have ht : heldTile s n [wWrites 1 p d f, wWrites 2 q e g] = none := by unfold heldTile; rw [hs]; rfl
  have hl : holdsPlanes s n [wWrites 1 p d f, wWrites 2 q e g] = false := by unfold holdsPlanes; rw [hs]; rfl
  unfold State.issue State.issueReady
  simp [ready_members h, he, ranksAhead, ht, hl, firstCheck, hs, checks_writers, diverges]

/-- Both effects reach the agent, of which each has read the state before the bundle. -/
theorem effect_writers (h : s.ready n) {xs ys : List Flight} (hf : ∀ b, f s n b = adds xs b) (hg : ∀ b, g s n b = adds ys b) :
    Agent.effect s n [wWrites 1 p d f, wWrites 2 q e g] = ((adds ys (adds xs (s.agent n))).seqStep).retire 0 0 := by
  obtain ⟨hm, hr⟩ := seqStep_keeps (adds ys (adds xs (s.agent n)))
  have ha : Agent.effect s n [wWrites 1 p d f, wWrites 2 q e g] =
      ((g s n (f s n (s.agent n))).seqStep.repeatAfter [wWrites 1 p d f, wWrites 2 q e g]).countBundle
        [wWrites 1 p d f, wWrites 2 q e g] := rfl
  rw [ha, hf, hg, countBundle_eq]
  unfold Agent.repeatAfter
  rw [stepRepeat_eq (by rw [hm, hr]; exact h.2.1)]
  rfl

/-- A bundle of two words that write different registers adds the results of both. -/
theorem issue_writers_next (h : s.ready n) (hp : (s.agent n).selects p = true) (hq : (s.agent n).selects q = true) (hd : d ≠ e)
    {xs ys : List Flight} (hf : ∀ b, f s n b = adds xs b) (hg : ∀ b, g s n b = adds ys b) :
    s.issue n [wWrites 1 p d f, wWrites 2 q e g] = s.issued n 0 0 (fun a => (adds ys (adds xs a)).seqStep) := by
  rw [issue_writers h hp hq hd]
  unfold State.issueDone
  simp only [selected_writers h hp hq, List.foldl_cons, List.foldl_nil, State.effect, ready_words h, filter_writers hp hq,
    effect_writers h hf hg]
  rfl

end

/-- Settles O14: each word adds the results that its row computes from the state before the bundle (`integer_adds`), and the bundle of the two
adds both (`issue_writers_next`). -/
theorem parallelWords : Obligations.ParallelWords := by
  unfold Obligations.ParallelWords
  intro i j s F G v w d e hF hG hv hw hd he hde n a hr hi hj
  obtain ⟨hvw, xs, hF', hf⟩ := integer_adds hF hv s n
  obtain ⟨hww, ys, hG', hg⟩ := integer_adds hG hw s n
  refine ⟨xs, ys, hF', hG', ?_⟩
  rw [hd] at hvw
  rw [he] at hww
  rw [hvw, hww]
  exact (issue_writers_next hr hi hj hde hf hg).trans (issued_congr _ _ _ _ _ _ (by simp [adds]))

end Sys2Proof.Spec
end

section
/-!
PROOFS. The integer words write the results of their rows (03 R77, R78), and a CMOV is a writer of its bundle whatever its condition
(03 R77, 01 R40).
-/

namespace Sys2Proof.Spec

open Sys2Proof Sys2Proof.Machine

/-! ## The integer words alone -/

/-- A CMOV whose condition is 0 leaves nothing in flight (03 R77). -/
theorem cmov_says {F : Form} (s : State) (iq : BitVec 2) (d x y : BitVec 5) (h : integer (.cmov iq d x y) = some F) :
    F.Says (.cmov iq d x y) s := by
  cases h
  refine form_says _ _ s (wCmov iq d x y) rfl rfl (fun _ => prof1 _)
    (fun _ hc => runs_unchecked _ s _ _ hc (prof1 _) rfl rfl rfl rfl rfl rfl rfl rfl rfl List.nodup_nil) ⟨?_, fun a _ => seqStep_keeps a⟩
    rfl rfl rfl rfl
  dsimp only [wCmov]
  split <;> exact ⟨rfl, rfl⟩

/-- Every integer word does what its row says: it writes the register of its row, or it is a CMOV. -/
theorem integerWords : Spec.IntegerWords := by
  intro i s F h
  rcases integer_word h with ⟨iq, lat, d, v, rfl, hw⟩ | ⟨iq, d, x, y, rfl⟩
  · exact writesS_says i s iq lat d v v (exec_word i _ s hw) fun _ => rfl
  · exact cmov_says s iq d x y h

/-! ## Two writers of one register -/

/-- A bundle that steps 1 to 3 of 01 R38 stop takes their trap. -/
theorem issue_early {s : State} {n : Nat} {ws : List Word} {t : Trap} (hm : s.members n = [n]) (h : earlyTrap s n ws = some t) :
    s.issue n ws = s.takeTrap n t false := by
  have he : firstEarly s [n] ws = some (n, t) := by simp [firstEarly, h]
  unfold State.issue State.issueReady
  simp [hm, he, ranksAhead, firstCheck]

/-- Two words below slot 6 stand before the word that a repetition brings (08 R198). -/
theorem allWords_two (s : State) (n : Nat) {v w : Word} (hv : v.slot ≤ 6) (hw : w.slot ≤ 6) :
    allWords s n [v, w] = v :: w :: repeated (s.agent n) := by
  simp only [allWords, withRepeat, if_pos hv, if_pos hw]

/-- Step 2 of 01 R38: two words that may be held and conflict stop their bundle in the slot of the first. -/
theorem early_clash {s : State} {n : Nat} {v w : Word} (hv : v.slot < 6) (hw : w.slot < 6) (pv : v.prof (viewOf (s.agent n) n) = true)
    (pw : w.prof (viewOf (s.agent n) n) = true) (hc : clash v w = true) :
    earlyTrap s n [v, w] = some { cause := 0x02, slot := v.slot, imm := 0, faddr := (s.agent n).r.pc } := by
  have h6 : (v.slot == 6) = false ∧ (w.slot == 6) = false := by simp; omega
  unfold earlyTrap
  simp [firstSlot, pv, pw, h6, allWords_two s n hv.le hw.le, conflictSlot, hc]

/-- Two words that write the register `d` conflict, unless it is s0 (01 R40). -/
theorem clash_same_register {v w : Word} {d : BitVec 5} (hv : v.writes = [.s d]) (hw : w.writes = [.s d]) (hd : d ≠ 0) :
    clash v w = true := by
  have h0 : ¬ d = 0#5 := hd
  simp [clash, meets, hv, hw, h0]

theorem cmovConflict : Spec.CmovConflict := by
  intro i s F w d iq x y hF hw hwr hd n hm
  obtain ⟨hform, -⟩ := integer_adds hF hw s n
  have hp : w.prof = profBase 1 := congrArg Word.prof hform
  exact issue_early hm (early_clash (v := { w with slot := 1 }) (w := { wCmov iq d x y with slot := 2 }) (show 1 < 6 by decide)
    (show 2 < 6 by decide) (by rw [hp]; exact prof1 _) (prof1 _) (clash_same_register hwr rfl hd))

/-- Settles O1: each integer word does what its row says (`integerWords`), and a CMOV beside another writer of its register conflicts with
it, since `clash` looks at no condition (`cmovConflict`). -/
theorem integerWordsAndWriters : Obligations.IntegerWordsAndWriters := by
  unfold Obligations.IntegerWordsAndWriters
  exact ⟨integerWords, cmovConflict⟩

end Sys2Proof.Spec
end

section
/-!
PROOFS. Words of slot 7 that reach far memory: stores, atomics, wide-cell commands and XARM are withheld (09 R214 to R216, 16 R339), and a
read that passes its checks holds its pitches from its issue on (04 R109).
-/

namespace Sys2Proof.Spec

open Sys2Proof Sys2Proof.Machine

/-! ## Words of slot 7 -/

/-- A word of slot 7 with row `F`: it falls through, nothing holds its bundle, its checks pass where the condition of the row holds, and
its effect on its agent is that of the row. What follows the bundle is left open. -/
structure Slot7Row (s : State) (n : Nat) (F : Form) (w : Word) : Prop where
  word : w = { Word.base 7 F.iq with
    prof := w.prof, writes := w.writes, ops := F.ops, pushes := F.push, chk := w.chk, cmd := F.cmds, sto := F.stores, act := w.act
    post := w.post }
  flow : F.flow = fun _ a => a.seqStep
  once : F.push.Nodup
  met : F.ok → w.chk s n = none
  act : w.act s n (s.agent n) = F.act (s.agent n)
  keeps : (F.act (s.agent n)).mode = (s.agent n).mode ∧ (F.act (s.agent n)).r.repn = (s.agent n).r.repn

section

variable {s : State} {n : Nat} {F : Form} {w : Word}

theorem Slot7Row.plain (h : Slot7Row s n F w) : w.Plain s n := by
  refine ⟨?_, fun a h0 => ?_⟩
  · rw [h.act]
    exact h.keeps
  · rw [h.word] at h0
    cases h0

theorem Slot7Row.runs (h : Slot7Row s n F w) (hp : w.prof (viewOf (s.agent n) n) = true) (hc : F.can (s.agent n)) : w.Runs s n := by
  have hframe : w.priv s n = false ∧ w.perm s n = false ∧ w.hold = .none ∧ w.late = none := by
    rw [h.word]
    exact ⟨rfl, rfl, rfl, rfl⟩
  have hrow : w.cmd = F.cmds ∧ w.sto = F.stores ∧ w.ops = F.ops ∧ w.pushes = F.push := by
    rw [h.word]
    exact ⟨rfl, rfl, rfl, rfl⟩
  obtain ⟨hpriv, hperm, hhold, hlate⟩ := hframe
  obtain ⟨hcmd, hsto, hops, hpush⟩ := hrow
  exact runs_unchecked w s n F hc hp hpriv hperm hhold (h.met hc.1) hlate hcmd hsto hops hpush h.once

/-- What a selected word of slot 7 does to its agent, as its row says. -/
theorem Slot7Row.effect (h : Slot7Row s n F w) :
    w.effect s n (s.agent n) = (F.push.foldl Agent.reserve ((F.act (s.agent n)).taken F.ops)).seqStep := by
  unfold Word.effect
  rw [h.act, h.word]
  simp [Word.base, Agent.popAll, Agent.taken, Word.pops]

theorem Slot7Row.run_selected (h : Slot7Row s n F w) (hq : (s.agent n).selects F.iq = true) :
    F.run (s.agent n) = (F.push.foldl Agent.reserve ((F.act (s.agent n)).taken F.ops)).seqStep := by
  unfold Form.run
  rw [if_pos hq, h.flow]

end

/-- A word of slot 7 alone: the state of its row, with what follows the bundle where the word is selected. -/
theorem Slot7Row.exec {s : State} {F : Form} {w : Word} {i : Instr} (h : Slot7Row s s.cur.toNat F w) (hw : wordOf i = some w) :
    let n := s.cur.toNat
    let sel := (s.agent n).selects F.iq
    s.ready n → w.prof (viewOf (s.agent n) n) = true → (sel = true → F.can (s.agent n)) →
    Machine.exec i s = .next (if sel then w.post (s.issued n F.cmds F.stores F.run) n else s.issued n 0 0 F.run) := by
  intro n sel hr hp hc
  have hiq : w.iq = F.iq := by rw [h.word]; rfl
  rw [exec_word i w s hw]
  by_cases hq : sel = true
  · have hcmd : w.cmd = F.cmds := by rw [h.word]
    have hsto : w.sto = F.stores := by rw [h.word]
    rw [issueAlone_runs rfl hr w (hiq ▸ hq) (h.runs hp (hc hq)) h.plain, if_pos hq, hcmd, hsto,
      issued_congr s n _ _ (w.effect s n) F.run (h.effect.trans (h.run_selected hq).symm)]
  · have hq' : (s.agent n).selects F.iq = false := Bool.eq_false_iff.2 hq
    rw [issueAlone_skips rfl hr w (hiq ▸ hq') hp, if_neg hq, issued_congr s n 0 0 Agent.seqStep F.run]
    unfold Form.run
    rw [if_neg hq]

/-- A word of slot 7 that nothing follows does what its row says. -/
theorem Slot7Row.says {s : State} {F : Form} {w : Word} {i : Instr} (h : Slot7Row s s.cur.toNat F w) (hw : wordOf i = some w)
    (hp : F.held → w.prof (viewOf (s.agent s.cur.toNat) s.cur.toNat) = true) (hpost : w.post = fun s _ => s) : F.Says i s := by
  intro hr hh hc
  rw [h.exec hw hr (hp hh) hc, hpost]
  cases (s.agent s.cur.toNat).selects F.iq <;> rfl

/-! ## Withheld words -/

section

variable (s : State) (n : Nat)

/-- FST and FSTS (09 R214). -/
theorem stores_row {iq : BitVec 2} {q : BitVec 4} {ok : Prop} {chk : Agent → Option (Byte × W64)} {es : Agent → List Elem}
    {after : Agent → Agent} (hok : ok → chk (s.agent n) = none)
    (hkeep : ∀ a, (after a).mode = a.mode ∧ (after a).r.repn = a.r.repn) :
    Slot7Row s n (stores (s.agent n) n iq q ok es after) (storeWord iq q chk es after) where
  word := rfl
  flow := rfl
  once := List.nodup_nil
  met := hok
  act := rfl
  keeps := hkeep _

/-- The atomics (09 R215): a fetch form reserves one place. -/
theorem atomic_row (iq : BitVec 2) (op : AtOp) (wd : BitVec 2) (x : BitVec 5) (v v2 : Agent → W64) (c : Option (BitVec 2)) :
    Slot7Row s n (atomic (s.agent n) iq op wd x v v2 c) (atomicWord iq op wd x v v2 c) := by
  refine ⟨rfl, rfl, ?_, fun hok => ?_, rfl, rfl, rfl⟩
  · cases c
    · exact List.nodup_nil
    · exact List.nodup_singleton _
  · simp only [atomicWord, cmdWord, beq_iff_eq]
    exact (addrRefuses_none ..).2 hok

/-- Every row of these is that of a word of slot 7, which nothing follows. -/
theorem withheld_rows {s : State} {n : Nat} {i : Instr} {F : Form} (h : withheld (s.agent n) n i = some F) :
    ∃ w, wordOf i = some w ∧ Slot7Row s n F w ∧ w.post = fun s _ => s := by
  unfold withheld at h
  split at h <;> cases h
  -- FST and FSTS
  case h_1 => exact ⟨_, rfl, stores_row s n (fun hok => hok) (exchanged_keeps _ _), rfl⟩
  case h_2 => exact ⟨_, rfl, stores_row s n (addrRefuses_none ..).2 fun _ => ⟨rfl, rfl⟩, rfl⟩
  -- WCADD, WCADDV and XARM
  case h_11 | h_12 => exact ⟨_, rfl, ⟨rfl, rfl, List.nodup_nil, (addrRefuses_none ..).2, rfl, rfl, rfl⟩, rfl⟩
  case h_13 =>
    refine ⟨_, rfl, ⟨rfl, rfl, List.nodup_nil, fun hok => ?_, rfl, rfl, rfl⟩, rfl⟩
    exact (if_neg (not_not_intro hok.1)).trans (if_neg (not_not_intro hok.2))
  -- the atomics
  all_goals exact ⟨_, rfl, atomic_row .., rfl⟩

end

theorem withheldWords : Spec.WithheldWords := by
  intro i s F h
  obtain ⟨w, hw, hrow, hpost⟩ := withheld_rows h
  obtain ⟨v, hv, hp⟩ := withheld_holders s s.cur.toNat i F h
  obtain rfl : w = v := Option.some.inj (hw.symm.trans hv)
  exact hrow.says hw hp.2 hpost

/-! ## Reads, which hold their pitches -/

section

variable {s : State} {n : Nat}

/-- Who issues a bundle shares its stream with the same agents after it, where its effect keeps the task. -/
theorem members_issued (k m : Nat) {f : Agent → Agent} (h : (f (s.agent n)).task = (s.agent n).task) :
    (s.issued n k m f).members n = s.members n := by
  unfold State.members
  rw [State.issued_agent, Agent.retire_task, h]

/-- The loop step leaves the task, the FLQ and the withhold buffer. -/
theorem seqStep_queues (a : Agent) : a.seqStep.task = a.task ∧ a.seqStep.flq = a.flq ∧ a.seqStep.wb = a.wb := by
  obtain ⟨_, _, _, _, _, _, h⟩ := LoopOnly.seqStep a
  rw [h]
  exact ⟨rfl, rfl, rfl⟩

/-- A selected word that pops nothing and reserves one place leaves them as its effect does. -/
theorem run_queues {F : Form} {q : BitVec 4} {a : Agent} (hflow : F.flow = fun _ b => b.seqStep) (hops : F.ops = []) (hpush : F.push = [q])
    (hq : a.selects F.iq = true) :
    (F.run a).task = (F.act a).task ∧ (F.run a).flq = (F.act a).flq ∧ (F.run a).wb = (F.act a).wb := by
  have hrun : F.run a = ((F.act a).reserve q).seqStep := by
    unfold Form.run
    rw [if_pos hq, hflow, hops, hpush]
    rfl
  rw [hrun]
  exact seqStep_queues _

/-- An exchange of records leaves the task and the FLQ. -/
theorem exchanged_queues (sw : BitVec 1) (h : BitVec 2) (a : Agent) :
    (exchanged sw [h] a).task = a.task ∧ (exchanged sw [h] a).flq = a.flq := by
  unfold exchanged
  split <;> exact ⟨rfl, rfl⟩

/-- The load that has just joined the FLQ of an agent of no gang holds its pitches. -/
theorem raiseLast_solo {l : FarLoad} (hm : s.members n = [n]) (hl : (s.agent n).flq.getLast? = some l) :
    raiseLast s n = s.raise l.pitches := by
  simp [raiseLast, hm, hl]

/-- The WCREAD that an agent of no gang has just withheld holds its pitch. -/
theorem raiseRead_solo {va : W64} {q : BitVec 4} {ks : List Nat} {a : Nat} (hm : s.members n = [n])
    (hl : (s.agent n).wb.getLast? = some (.wcRead va q ks a)) : raiseRead s n = s.raise ks := by
  simp [raiseRead, hm, hl]

/-- What follows a read that has issued: the pitches that its row names rise. -/
def Raises (s : State) (n : Nat) (F : Form) (w : Word) (ks : List Nat) : Prop :=
  s.members n = [n] → (s.agent n).selects F.iq = true →
    w.post (s.issued n F.cmds 0 F.run) n = (s.issued n F.cmds 0 F.run).raise ks

/-- A far load (09 R214) joins the FLQ, and the pitches that it reads rise. -/
theorem farLoad_row {iq c : BitVec 2} {ok : Prop} {chk : Agent → Option (Byte × W64)} {es : Agent → List Elem} {after : Agent → Agent}
    {F : Form} {ks : List Nat} (hF : some (farLoad (s.agent n) s n iq c ok (es (s.agent n)) after) = some (F, ks))
    (hok : ok → chk (s.agent n) = none) (hkeep : ∀ a, (after a).mode = a.mode ∧ (after a).r.repn = a.r.repn)
    (hafter : ∀ a, (after a).task = a.task ∧ (after a).flq = a.flq) :
    Slot7Row s n F (loadWord iq c chk es after) ∧ Raises s n F (loadWord iq c chk es after) ks := by
  cases hF
  refine ⟨⟨rfl, rfl, List.nodup_singleton _, fun hc => ?_, rfl, hkeep _⟩, fun hm hq => ?_⟩
  · have hl : s.loadRefuses n (es (s.agent n)) = none := hc.2
    dsimp only [loadWord]
    rw [hok hc.1, hl]
    rfl
  · obtain ⟨htask, hflq, -⟩ := run_queues rfl rfl rfl hq
    refine raiseLast_solo (l := { q := 12 + c.setWidth 4, cyc := (s.agent n).icyc, id := 0, parts := 1
                                  es := s.placed n (s.agent n).who.pasid (es (s.agent n)), pitches := _, dropped := false })
      ((members_issued 0 0 (htask.trans (hafter _).1)).trans hm) ?_
    rw [State.issued_agent, Agent.retire_flq, hflq]
    exact (congrArg List.getLast? (hafter _).2).trans List.getLast?_concat

/-- WCREAD (09 R216) is withheld, and the pitch that holds its cell rises. -/
theorem wcread_row {iq c : BitVec 2} {x : BitVec 5} {F : Form} {ks : List Nat} (h : reads s n (.wcread iq c x) = some (F, ks)) :
    Slot7Row s n F (wWcread iq c x) ∧ Raises s n F (wWcread iq c x) ks := by
  cases h
  refine ⟨⟨rfl, rfl, List.nodup_singleton _, fun hok => ?_, rfl, rfl, rfl⟩, fun hm hq => ?_⟩
  · dsimp only [wWcread]
    rw [(addrRefuses_none ..).2 hok.1, hok.2]
    rfl
  · obtain ⟨htask, -, hwb⟩ := run_queues rfl rfl rfl hq
    refine raiseRead_solo (va := (s.agent n).getS x) (q := 12 + c.setWidth 4)
      (a := s.storage n (s.agent n).who.pasid ((s.agent n).getS x).toNat) ((members_issued 1 0 htask).trans hm) ?_
    rw [State.issued_agent, Agent.retire_wb, hwb]
    exact List.getLast?_concat

/-- Every read is a word of slot 7 whose pitches rise as it issues, and none counts as a store. -/
theorem reads_rows {i : Instr} {F : Form} {ks : List Nat} (h : reads s n i = some (F, ks)) :
    ∃ w, wordOf i = some w ∧ Slot7Row s n F w ∧ Raises s n F w ks ∧ F.stores = 0 := by
  unfold reads at h
  split at h
  · next c r sw =>
    obtain ⟨hrow, hraises⟩ := farLoad_row (chk := fun a => shapeRefuses a.r.pc (recOf a r sw)) (es := fun a => shapeElems (record a r sw)) h
      (fun hok => hok) (exchanged_keeps _ _) (exchanged_queues _ _)
    cases h
    exact ⟨_, rfl, hrow, hraises, rfl⟩
  · next c x =>
    obtain ⟨hrow, hraises⟩ := farLoad_row (chk := fun a => addrRefuses (a.getS x) 64 512) (es := fun a => lines (a.getS x)) h
      (addrRefuses_none ..).2 (fun _ => ⟨rfl, rfl⟩) (fun _ => ⟨rfl, rfl⟩)
    cases h
    exact ⟨_, rfl, hrow, hraises, rfl⟩
  · obtain ⟨hrow, hraises⟩ := wcread_row h
    cases h
    exact ⟨_, rfl, hrow, hraises, rfl⟩
  · cases h

end

theorem readWords : Spec.ReadWords := by
  intro i s F ks h n sel hr hh hc
  obtain ⟨w, hw, hrow, hraises, hsto⟩ := reads_rows h
  obtain ⟨v, hv, hp⟩ := reads_holders s n i F (congrArg (Option.map Prod.fst) h)
  obtain rfl : w = v := Option.some.inj (hw.symm.trans hv)
  rw [hrow.exec hw hr (hp.2 hh) hc, hsto]
  by_cases hq : sel = true
  · rw [if_pos hq, if_pos hq, hraises hr.1 hq]
  · rw [if_neg hq, if_neg hq]

/-- Settles O11: the withheld words are words of slot 7 that nothing follows (`withheld_rows`), and after a read INFLIGHT of its pitches rises
(`reads_rows`). -/
theorem farMemoryWords : Obligations.FarMemoryWords := by
  unfold Obligations.FarMemoryWords
  exact ⟨withheldWords, readWords⟩

end Sys2Proof.Spec
end

section
/-!
PROOFS. What ARRIVE leaves of an entry (10 R228 M9, 03 R86, R89), and what becomes of a pitch as its INFLIGHT falls (04 R102, R109, R111).
-/

namespace Sys2Proof.Spec

open Sys2Proof Sys2Proof.Machine

/-! ## The arrival of an entry -/

section

variable (a : Agent) (o : Bool) (q : BitVec 4) (v : Vec)

/-- An entry stands at the end of its own queue, and no other queue changes. -/
theorem arrive_queue (r : BitVec 4) : (a.arrive o q v).queue r = if r = q then a.queue q ++ [v] else a.queue r := by
  have h : (a.arrive o q v).r.q = Tab.set [] a.r.q q.toNat (a.queue q ++ [v]) := by cases o <;> rfl
  unfold Agent.queue at *
  rw [h]
  by_cases hr : r = q
  · rw [hr, Tab.get_set, if_pos rfl]
  · rw [Tab.get_set_ne _ _ _ _ _ fun e => hr (BitVec.eq_of_toNat_eq e), if_neg hr]

/-- The place that a load reserved in its interval is held. -/
theorem arrive_reserved : Tab.get 0 (a.arrive false q v).resv q.toNat = Tab.get 0 a.resv q.toNat - 1 := Tab.get_set ..

/-- An owed entry is owed no longer, and is kept for a restore. -/
theorem arrive_owed : Tab.get 0 (a.arrive true q v).owed q.toNat = Tab.get 0 a.owed q.toNat - 1 ∧
    (a.arrive true q v).arrived = a.arrived ++ [(q, v)] := ⟨Tab.get_set .., rfl⟩

end

section

variable {s t : State} {i : Nat} {x : Arrival}

theorem exec_arrive (s : State) (i : Nat) : exec (.arrive i) s = .next (s.arrive i) := rfl

theorem arrive_waits (h : s.arrivals[i]? = some x) (hp : x.parts ≠ 0) : s.arrive i = s := by
  unfold State.arrive
  rw [h]
  exact if_pos hp

/-- An entry of which every part has performed, from the state `t` in which the pitches that it held have fallen. -/
theorem arrive_whole (h : s.arrivals[i]? = some x) (hp : x.parts = 0)
    (ht : { s with arrivals := s.arrivals.eraseIdx i }.fallAll x.pitches = t) : s.arrive i =
    if x.dropped || !t.runs x.agent x.owner then t
    else
      let u := t.setAgent x.agent ((t.agent x.agent).arrive x.owed x.q x.entry)
      match x.trap with
      | some (c, f) => traps u x.agent c 0 0 f
      | none => u := by
  unfold State.arrive
  rw [h, ← ht]
  exact if_neg (not_not_intro hp)

/-- One that no restore has dropped, of a task that its agent still runs. -/
theorem arrive_enters (h : s.arrivals[i]? = some x) (hp : x.parts = 0)
    (ht : { s with arrivals := s.arrivals.eraseIdx i }.fallAll x.pitches = t) (hd : x.dropped = false)
    (hr : t.runs x.agent x.owner = true) : s.arrive i =
    let u := t.setAgent x.agent ((t.agent x.agent).arrive x.owed x.q x.entry)
    match x.trap with
    | some (c, f) => traps u x.agent c 0 0 f
    | none => u := by
  rw [arrive_whole h hp ht, hd, hr]
  rfl

end

theorem entryArrives : Spec.EntriesArrive := by
  intro s i x n a h hx
  -- no pitch falls
  have ht : { s with arrivals := s.arrivals.eraseIdx i }.fallAll x.pitches = { s with arrivals := s.arrivals.eraseIdx i } := by
    rw [hx]
    rfl
  rw [exec_arrive]
  refine ⟨fun hp => ?_, fun hp hd => ⟨_, rfl, ?_⟩, fun hp hd hr hn => ⟨_, rfl, ?_⟩, fun c f hp hd hr hn => ?_⟩
  · rw [arrive_waits h hp]
  · rw [arrive_whole h hp ht, hd]
    exact ⟨rfl, rfl⟩
  · rw [arrive_enters h hp ht hd hr, hn]
    dsimp only
    rw [State.agent_setAgent]
    refine ⟨rfl, rfl, ?_, fun q hq => ?_, fun m hm => State.agent_setAgent_ne _ _ _ _ hm, fun ho => ?_, fun ho => ?_⟩
    · exact (arrive_queue ..).trans (if_pos rfl)
    · exact (arrive_queue ..).trans (if_neg hq)
    · rw [ho]
      exact arrive_reserved ..
    · rw [ho]
      exact arrive_owed ..
  · rw [arrive_enters h hp ht hd hr, hn]
    rfl

/-! ## Accounts -/

/-- A count within 64 bits is written as it is (04 R95). -/
theorem fit64_toInt {z : Int} (hl : -2 ^ 63 ≤ z) (hu : z < 2 ^ 63) : (fit64 z).toInt = z := by
  unfold fit64
  rw [if_pos ⟨hl, hu⟩, BitVec.toInt_ofInt_eq_self (by decide) hl hu]

/-- A usage counter that does not saturate (04 R119). -/
theorem satAdd_toNat {v : W64} {k : Nat} (h : v.toNat + k < 2 ^ 64) : (satAdd v k).toNat = v.toNat + k := by
  unfold satAdd
  rw [BitVec.toNat_ofNat]
  omega

theorem charge_committed {c : Account} {k : Nat} (h : -(2 ^ 63) ≤ c.committed.toInt - k) :
    (c.charge k).committed.toInt = c.committed.toInt - k := by
  have hc : c.committed.toInt < 2 ^ 63 := BitVec.toInt_lt
  exact fit64_toInt h (by omega)

theorem refund_committed {c : Account} {k : Nat} (h : c.committed.toInt + k < 2 ^ 63) :
    (c.refund k).committed.toInt = c.committed.toInt + k := by
  have hc : -2 ^ 63 ≤ c.committed.toInt := BitVec.le_toInt _
  exact fit64_toInt (by omega) h

/-! ## The moves of one pitch -/

/-- From `s` to `t` no pitch but `d` changes, and time stands; in `t` the pitch is `p` and the account `c` is `x`. -/
structure PitchMoves (s t : State) (d : Nat) (p : Pitch) (c : BitVec 10) (x : Account) : Prop where
  pitch : t.pitch d = p
  account : t.account c = x
  others : ∀ k, k ≠ d → t.pitch k = s.pitch k
  now : t.now = s.now

section

variable {s t u : State} {d : Nat} {p q : Pitch} {c : BitVec 10} {x y : Account}

theorem PitchMoves.trans (h : PitchMoves s t d p c x) (k : PitchMoves t u d q c y) : PitchMoves s u d q c y where
  pitch := k.pitch
  account := k.account
  others j hj := (k.others j hj).trans (h.others j hj)
  now := k.now.trans h.now

/-- A further move that leaves the account as it finds it. -/
theorem PitchMoves.same (h : PitchMoves s t d p c x) (k : PitchMoves t u d q c (t.account c)) : PitchMoves s u d q c x := h.trans (h.account ▸ k)

theorem setPitch_moves (s : State) (d : Nat) (p : Pitch) (c : BitVec 10) : PitchMoves s (s.setPitch d p) d p c (s.account c) where
  pitch := State.pitch_setPitch ..
  account := rfl
  others _ hk := State.pitch_setPitch_ne _ _ _ _ hk
  now := rfl

theorem withdraw_moves (s : State) (d : Nat) (p : Pitch) (c : BitVec 10) : PitchMoves s (s.withdraw p) d (s.pitch d) c (s.account c) := by
  rw [withdraw_only]
  exact ⟨rfl, rfl, fun _ _ => rfl, rfl⟩

theorem forgetPages_moves (s : State) (d : Nat) (p : Pitch) (c : BitVec 10) : PitchMoves s (s.forgetPages p) d (s.pitch d) c (s.account c) := by
  rw [forgetPages_only]
  exact ⟨rfl, rfl, fun _ _ => rfl, rfl⟩

/-- What an overstay tick charges a pitch: its bytes at the double rate (04 R102). -/
def overstayCost (p : Pitch) : Nat := 2 * p.length * p.rate

/-- A pitch whose overstay tick has been charged at tick `now`. -/
def overstayed (p : Pitch) (now : Nat) : Pitch :=
  { p with state := .overstay, charged := p.charged + overstayCost p, lapsedAt := now }

/-- The account of a pitch whose overstay tick has been charged. -/
def overstayPaid (c : Account) (p : Pitch) : Account :=
  { c.charge (overstayCost p) with overstay := satAdd c.overstay (overstayCost p) }

theorem chargeOverstay_moves (h : s.pitch d = p) (ho : p.state = .overstay) :
    PitchMoves s (s.chargeOverstay d) d (overstayed p s.now.toNat) p.account (overstayPaid (s.account p.account) p) := by
  subst h
  unfold State.chargeOverstay State.chargePitch
  refine ⟨?_, ?_, fun k hk => ?_, ?_⟩
  · simp [overstayed, overstayCost, ← ho]
  · simp [overstayPaid, overstayCost, Account.charge]
  · simp [State.modPitch, State.pitch_setPitch_ne _ _ _ _ hk]
  · simp

/-- A pitch in the lapsed state from tick `now` on (04 R102, R112). -/
def lapsed (p : Pitch) (now : Nat) : Pitch :=
  { p with
    state := .lapsed, lapsedAt := now, endedSubs := p.subs, subs := [], vacWhenIdle := false, drained := false, tentBy := none }

/-- A pitch without SYNC lapses alone: it has no waiters to release (04 R112). -/
theorem lapse_moves (c : BitVec 10) (h : s.pitch d = p) (hs : p.att.getLsbD 0 = false) :
    PitchMoves s (s.lapse d) d (lapsed p s.now.toNat) c (s.account c) := by
  subst h
  have hset := setPitch_moves s d (lapsed (s.pitch d) s.now.toNat) c
  unfold State.lapse
  simp only [hs, Bool.false_eq_true, if_false]
  split
  · have hw := withdraw_moves (s.setPitch d (lapsed (s.pitch d) s.now.toNat)) d (s.pitch d) c
    rw [hset.pitch] at hw
    exact hset.same hw
  · exact hset

/-- A leased pitch that is vacated at tick `now`: it goes to scrubbing, with its refund (04 R102). -/
def vacatedAt (p : Pitch) (now : Nat) : Pitch := { p.toScrub with charged := p.charged - refundOf p now }

theorem vacate_moves (h : s.pitch d = p) (hl : p.state = .leased) (hi : p.inflight = 0) :
    PitchMoves s (s.vacate d) d (vacatedAt p s.now.toNat) p.account ((s.account p.account).refund (refundOf p s.now.toNat)) := by
  subst h
  have hset := setPitch_moves s d (vacatedAt (s.pitch d) s.now.toNat) (s.pitch d).account
  have hf := forgetPages_moves ((s.setPitch d (vacatedAt (s.pitch d) s.now.toNat)).modAccount (s.pitch d).account
    (·.refund (refundOf (s.pitch d) s.now.toNat))) d (s.pitch d) (s.pitch d).account
  rw [State.modAccount_pitch, hset.pitch, State.account_modAccount, hset.account] at hf
  unfold State.vacate State.vacateNow
  simp only [hl, hi, ne_eq, not_true_eq_false, and_false, if_false]
  exact ⟨hf.pitch, hf.account, fun k hk => (hf.others k hk).trans (hset.others k hk), hf.now⟩

/-! ## The fall of INFLIGHT -/

/-- A pitch without SYNC in overstay, once INFLIGHT is 0, lapses. -/
theorem settleIdle_overstay (c : BitVec 10) (h : s.pitch d = p) (ho : p.state = .overstay) (hs : p.att.getLsbD 0 = false) :
    PitchMoves s (s.settleIdle d) d (lapsed p s.now.toNat) c (s.account c) := by
  unfold State.settleIdle
  simp only [h, ho]
  exact lapse_moves c h hs

/-- A leased pitch that its task has left, once INFLIGHT is 0, is vacated, where no drain has to release waiters first. -/
theorem settleIdle_left (h : s.pitch d = p) (hl : p.state = .leased) (hv : p.vacWhenIdle = true) (hi : p.inflight = 0)
    (hd : (p.drained && p.att.getLsbD 0) = false) :
    PitchMoves s (s.settleIdle d) d (vacatedAt p s.now.toNat) p.account ((s.account p.account).refund (refundOf p s.now.toNat)) := by
  unfold State.settleIdle
  simp only [h, hl, hv, hd, if_true, Bool.false_eq_true, if_false]
  exact vacate_moves h hl hi

/-- Any other pitch stays as it is. -/
theorem settleIdle_stays (h : s.pitch d = p) (ho : p.state ≠ .overstay) (hl : p.state ≠ .leased ∨ p.vacWhenIdle = false) :
    s.settleIdle d = s := by
  unfold State.settleIdle
  rw [h]
  dsimp only
  split
  · next e => exact absurd e ho
  · next e => rw [hl.resolve_left (not_not_intro e)]; rfl
  · rfl

/-- A tick that began with accesses to the pitch, at or past its end, and that is not charged yet (04 R102). -/
def Late (s : State) (d : Nat) : Prop :=
  s.expiryDue d = true ∨ ((s.pitch d).state = .overstay ∧ (s.pitch d).lapsedAt < s.now.toNat)

/-- A late tick is charged before INFLIGHT falls. -/
theorem tick_late (h : s.pitch d = p) (hl : Late s d) (hi : p.inflight ≠ 0) :
    PitchMoves s ((s.pitchExpiry d).overstayTick d) d (overstayed p s.now.toNat) p.account (overstayPaid (s.account p.account) p) := by
  subst h
  by_cases he : s.expiryDue d = true
  · -- the pitch enters overstay, and its first tick is charged at once
    have hset := setPitch_moves s d { s.pitch d with state := .overstay } (s.pitch d).account
    have hc : PitchMoves s (s.pitchExpiry d) d (overstayed (s.pitch d) s.now.toNat) (s.pitch d).account
        (overstayPaid (s.account (s.pitch d).account) (s.pitch d)) := by
      unfold State.pitchExpiry
      rw [if_pos he, if_neg hi]
      exact hset.trans (chargeOverstay_moves (p := { s.pitch d with state := .overstay }) hset.pitch rfl)
    have hx : (s.pitchExpiry d).overstayTick d = s.pitchExpiry d := by
      unfold State.overstayTick
      rw [hc.pitch, hc.now]
      exact if_neg fun e => Nat.lt_irrefl _ e.2
    rw [hx]
    exact hc
  · obtain ⟨ho, ht⟩ := hl.resolve_left he
    have hx : (s.pitchExpiry d).overstayTick d = s.chargeOverstay d := by
      unfold State.pitchExpiry
      rw [if_neg he]
      exact if_pos ⟨ho, ht⟩
    rw [hx]
    exact chargeOverstay_moves rfl ho

/-- A tick that is not late owes the pitch nothing. -/
theorem tick_current (hl : ¬ Late s d) : (s.pitchExpiry d).overstayTick d = s := by
  obtain ⟨he, ho⟩ := not_or.1 hl
  unfold State.pitchExpiry
  rw [if_neg he]
  exact if_neg ho

/-- A pitch with one access fewer. -/
def oneFewer (p : Pitch) : Pitch := { p with inflight := p.inflight - 1 }

/-- The fall itself, from the state `u` in which the tick is charged. -/
theorem fall_from (hu : (s.pitchExpiry d).overstayTick d = u) (h : u.pitch d = p) : s.fall d =
    if p.inflight = 1 then (u.setPitch d (oneFewer p)).settleIdle d else u.setPitch d (oneFewer p) := by
  subst hu h
  rfl

/-- What a late fall leaves of a pitch: it stands in overstay, or has lapsed with its last access. -/
def lateFall (p : Pitch) (now : Nat) : Pitch :=
  if p.inflight = 1 then lapsed (oneFewer (overstayed p now)) now else oneFewer (overstayed p now)

theorem lateFall_fields (p : Pitch) (now : Nat) : (lateFall p now).charged = p.charged + overstayCost p ∧
    (lateFall p now).inflight = p.inflight - 1 ∧ (lateFall p now).lapsedAt = now ∧
    (lateFall p now).state = if p.inflight = 1 then .lapsed else .overstay := by
  unfold lateFall
  by_cases h : p.inflight = 1
  · rw [if_pos h, if_pos h]
    exact ⟨rfl, rfl, rfl, rfl⟩
  · rw [if_neg h, if_neg h]
    exact ⟨rfl, rfl, rfl, rfl⟩

theorem fall_late (h : s.pitch d = p) (hl : Late s d) (hi : p.inflight ≠ 0) (hs : p.att.getLsbD 0 = false) :
    PitchMoves s (s.fall d) d (lateFall p s.now.toNat) p.account (overstayPaid (s.account p.account) p) := by
  have ht := tick_late h hl hi
  have hv := ht.same (setPitch_moves _ d (oneFewer (overstayed p s.now.toNat)) p.account)
  rw [fall_from rfl ht.pitch]
  unfold lateFall
  by_cases h1 : p.inflight = 1
  · have hset := settleIdle_overstay p.account hv.pitch rfl hs
    rw [hv.now] at hset
    rw [if_pos h1]
    exact (if_pos h1).symm ▸ hv.same hset
  · rw [if_neg h1]
    exact (if_neg h1).symm ▸ hv

/-- A pitch without SYNC that no access holds is charged, or lapses, in its tick; it stays without accesses. -/
theorem tick_idle (h : s.pitch d = p) (hi : p.inflight = 0) (hs : p.att.getLsbD 0 = false) :
    ∃ q x, q.inflight = 0 ∧ PitchMoves s ((s.pitchExpiry d).overstayTick d) d q p.account x := by
  by_cases he : s.expiryDue d = true
  · have hm := lapse_moves p.account h hs
    have hx : (s.pitchExpiry d).overstayTick d = s.lapse d := by
      unfold State.pitchExpiry
      rw [if_pos he, h, if_pos hi]
      unfold State.overstayTick
      rw [hm.pitch]
      exact if_neg (fun e => nomatch e.1)
    exact ⟨lapsed p s.now.toNat, _, hi, hx ▸ hm⟩
  · have hx : s.pitchExpiry d = s := if_neg he
    rw [hx]
    unfold State.overstayTick
    dsimp only
    split
    · next ho => exact ⟨overstayed p s.now.toNat, _, hi, chargeOverstay_moves h (h ▸ ho.1)⟩
    · exact ⟨p, _, hi, h, rfl, fun _ _ => rfl, rfl⟩

/-- The fall of a pitch without SYNC that no access holds moves it alone. -/
theorem fall_idle (h : s.pitch d = p) (hi : p.inflight = 0) (hs : p.att.getLsbD 0 = false) : ∃ q x, PitchMoves s (s.fall d) d q p.account x := by
  obtain ⟨q, x, hq, hm⟩ := tick_idle h hi hs
  rw [fall_from rfl hm.pitch, if_neg (by omega)]
  exact ⟨oneFewer q, x, hm.same (setPitch_moves ..)⟩

/-- The fall in a tick that owes nothing, while the pitch is accessed still or need not change at its end. -/
theorem fall_stays (c : BitVec 10) (h : s.pitch d = p) (hl : ¬ Late s d)
    (hp : p.inflight ≠ 1 ∨ (p.state ≠ .overstay ∧ (p.state ≠ .leased ∨ p.vacWhenIdle = false))) :
    PitchMoves s (s.fall d) d (oneFewer p) c (s.account c) := by
  have hv := setPitch_moves s d (oneFewer p) c
  rw [fall_from (tick_current hl) h]
  split
  · next hi =>
    obtain ⟨ho, hk⟩ := hp.resolve_left (not_not_intro hi)
    rwa [settleIdle_stays hv.pitch ho hk]
  · exact hv

/-- The last access of a pitch goes in a tick that owes nothing. -/
theorem fall_last (h : s.pitch d = p) (hl : ¬ Late s d) (hi : p.inflight = 1) :
    s.fall d = (s.setPitch d { p with inflight := 0 }).settleIdle d := by
  rw [fall_from (tick_current hl) h, if_pos hi, oneFewer, hi]

/-- The last access ends the overstay of a pitch without SYNC. -/
theorem fall_overstay (c : BitVec 10) (h : s.pitch d = p) (hl : ¬ Late s d) (hi : p.inflight = 1) (ho : p.state = .overstay)
    (hs : p.att.getLsbD 0 = false) : PitchMoves s (s.fall d) d { lapsed p s.now.toNat with inflight := 0 } c (s.account c) := by
  have hv := setPitch_moves s d { p with inflight := 0 } c
  rw [fall_last h hl hi]
  exact hv.same (settleIdle_overstay c hv.pitch ho hs)

/-- The last access vacates a leased pitch that its task has left. -/
theorem fall_left (h : s.pitch d = p) (hl : ¬ Late s d) (hi : p.inflight = 1) (ho : p.state = .leased) (hw : p.vacWhenIdle = true)
    (hd : (p.drained && p.att.getLsbD 0) = false) : PitchMoves s (s.fall d) d { vacatedAt p s.now.toNat with inflight := 0 } p.account
      ((s.account p.account).refund (refundOf p s.now.toNat)) := by
  have hv := setPitch_moves s d { p with inflight := 0 } p.account
  rw [fall_last h hl hi]
  exact hv.trans (settleIdle_left hv.pitch ho hw rfl hd)

end

/-- No waiter is released as INFLIGHT of the pitch falls: it has no SYNC, or neither an overstay nor a drain stands (04 R112, 13 R298). -/
def Quiet (s : State) (d : Nat) : Prop := (s.pitch d).att.getLsbD 0 = false ∨
  ((s.pitch d).state ≠ .overstay ∧ s.expiryDue d = false ∧ (s.pitch d).drained = false)

section

variable {s : State} {d : Nat}

theorem Quiet.async (h : Quiet s d) (hl : Late s d ∨ (s.pitch d).state = .overstay) : (s.pitch d).att.getLsbD 0 = false := by
  refine h.resolve_right fun ⟨ho, he, _⟩ => ?_
  rcases hl with (hl | hl) | hl
  · rw [he] at hl
    cases hl
  · exact ho hl.1
  · exact ho hl

theorem Quiet.undrained (h : Quiet s d) : ((s.pitch d).drained && (s.pitch d).att.getLsbD 0) = false := by
  rcases h with h | ⟨-, -, h⟩ <;> rw [h]
  · exact Bool.and_false _
  · exact Bool.false_and _

/-- In every case the fall moves pitch `d` alone. -/
theorem fall_moves (h : Quiet s d) : ∃ q x, PitchMoves s (s.fall d) d q (s.pitch d).account x := by
  by_cases hl : Late s d
  · by_cases hi : (s.pitch d).inflight = 0
    · exact fall_idle rfl hi (h.async (.inl hl))
    · exact ⟨_, _, fall_late rfl hl hi (h.async (.inl hl))⟩
  · by_cases hp : (s.pitch d).inflight ≠ 1 ∨
        ((s.pitch d).state ≠ .overstay ∧ ((s.pitch d).state ≠ .leased ∨ (s.pitch d).vacWhenIdle = false))
    · exact ⟨_, _, fall_stays _ rfl hl hp⟩
    · simp only [not_or, not_and, not_not, Bool.not_eq_false] at hp
      obtain ⟨hi, hp⟩ := hp
      by_cases ho : (s.pitch d).state = .overstay
      · exact ⟨_, _, fall_overstay _ rfl hl hi ho (h.async (.inr ho))⟩
      · obtain ⟨hs, hv⟩ := hp ho
        exact ⟨_, _, fall_left rfl hl hi hs hv h.undrained⟩

theorem fall_falls (h : Quiet s d) : falls s (s.fall d) d := by
  refine ⟨?_, fun hl hi => ?_, fun hl => ⟨fun hp => ?_, fun hi ho hs => ?_, fun hi ho hv => ?_⟩⟩
  · obtain ⟨q, x, hm⟩ := fall_moves h
    exact hm.others
  · have hm := fall_late rfl hl hi (h.async (.inl hl))
    obtain ⟨hch, hin, hla, hst⟩ := lateFall_fields (s.pitch d) s.now.toNat
    rw [hm.pitch, hm.account]
    exact ⟨hch, hin, hla, hst, charge_committed, satAdd_toNat⟩
  · have hm := fall_stays (s.pitch d).account rfl hl hp
    exact ⟨hm.pitch, hm.account⟩
  · have hm := fall_overstay (s.pitch d).account rfl hl hi ho hs
    exact ⟨hm.pitch, hm.account⟩
  · have hm := fall_left rfl hl hi ho hv h.undrained
    dsimp only
    rw [hm.pitch, hm.account]
    exact ⟨rfl, rfl, rfl, refund_committed⟩

/-- `falls` looks at pitches and accounts alone. -/
theorem falls_congr {t u : State} (h : falls s t d) (hp : u.pitches = t.pitches) (ha : u.accounts = t.accounts) : falls s u d := by
  have hpitch : ∀ k, u.pitch k = t.pitch k := fun k => congrArg (Tab.get Pitch.free · k) hp
  have hacct : ∀ c, u.account c = t.account c := fun c => congrArg (Tab.get Account.reset · c.toNat) ha
  unfold falls
  simp only [hpitch, hacct]
  exact h

end

/-! ## The end of a load or an operation -/

theorem fallAll_one (s : State) (d : Nat) : s.fallAll [d] = s.fall d := rfl

/-- What a completion notes of a stopped task is in memory. -/
theorem noteStopped_only (s : State) (n : Nat) (w : Who) (c : Nat) (num : W64) (status : Byte) :
    (s.noteStopped n w c num status).pitches = s.pitches ∧ (s.noteStopped n w c num status).accounts = s.accounts := by
  have hput : ∀ a bs, (s.put a bs).pitches = s.pitches ∧ (s.put a bs).accounts = s.accounts := fun _ _ => ⟨rfl, rfl⟩
  unfold State.noteStopped
  split
  · split
    · dsimp only
      split
      · exact hput ..
      · exact ⟨rfl, rfl⟩
    · exact ⟨rfl, rfl⟩
  · exact ⟨rfl, rfl⟩

theorem exec_complete (s : State) (k : BitVec 9) (c : BitVec 3) : exec (.complete k c) s = .next (s.complete k.toNat c) := rfl

/-- An operation that completes leaves the pitches and accounts as the fall of its pitches does. -/
theorem complete_falls {s : State} {n : Nat} {c : BitVec 3} {r : Running} (hr : s.runningOn n c = some r) (ht : r.todo = [])
    (hf : s.flying n c = []) : let u := { s with running := s.running.filter (fun x => x ≠ r) }.fallAll r.pitches
    (s.complete n c).pitches = u.pitches ∧ (s.complete n c).accounts = u.accounts := by
  intro u
  unfold State.complete
  rw [hr]
  dsimp only
  rw [if_pos ⟨ht, hf⟩]
  split
  · exact ⟨rfl, rfl⟩
  · exact noteStopped_only ..

/-- An entry that arrives without a trap leaves them so too. -/
theorem arrive_falls {s : State} {i : Nat} {x : Arrival} (h : s.arrivals[i]? = some x) (hp : x.parts = 0)
    (hx : x.dropped = true ∨ x.trap = none) : let t := { s with arrivals := s.arrivals.eraseIdx i }.fallAll x.pitches
    (s.arrive i).pitches = t.pitches ∧ (s.arrive i).accounts = t.accounts := by
  intro t
  rw [arrive_whole h hp rfl]
  split
  · exact ⟨rfl, rfl⟩
  · next hn =>
    have hd : x.dropped ≠ true := fun e => hn (by rw [e]; rfl)
    rw [hx.resolve_left hd]
    exact ⟨rfl, rfl⟩

theorem inflightFalls : Spec.InflightFalls := by
  intro s d h
  refine ⟨fun i x hi hp hx ht => ⟨_, exec_arrive s i, ?_⟩, fun k c r hr ht hf hx => ⟨_, exec_complete s k c, ?_⟩⟩
  · obtain ⟨hpitch, hacct⟩ := arrive_falls hi hp ht
    rw [hx, fallAll_one] at hpitch hacct
    exact falls_congr (fall_falls (s := { s with arrivals := s.arrivals.eraseIdx i }) h) hpitch hacct
  · obtain ⟨hpitch, hacct⟩ := complete_falls hr ht hf
    rw [hx, fallAll_one] at hpitch hacct
    exact falls_congr (fall_falls (s := { s with running := s.running.filter (fun x => x ≠ r) }) h) hpitch hacct

/-- Settles O32: an arrival is the fall of its pitches and the entry at the end of its queue (`arrive_whole`), and a fall moves its pitch alone,
as the pitch's state and the charge that the tick still owes it say (`fall_falls`). -/
theorem entriesArrive : Obligations.EntriesArrive := by
  unfold Obligations.EntriesArrive
  exact ⟨entryArrives, inflightFalls⟩

end Sys2Proof.Spec
end

section
/-!
PROOFS. What CREDIT, ACCOUNT, STATUS and PARTITION leave (04 R97, 13 R289, R295, 15 R321): each is one service of a request that completes.
-/

namespace Sys2Proof.Spec

open Sys2Proof Sys2Proof.Machine

section

variable {s : State} {q : BitVec 6} {r : Req}

/-- A change of an account looks at it as it stands. -/
theorem modAccount_congr {c : BitVec 10} {f g : Account → Account} (h : f (s.account c) = g (s.account c)) :
    s.modAccount c f = s.modAccount c g := by
  unfold State.account at h
  unfold State.modAccount Tab.modify
  rw [h]

theorem exec_credit (h : posed s q r 0x10) : let acct : BitVec 10 := r.a0.setWidth 10
    let v := BitVec.ofInt 64 (min ((s.account acct).committed.toInt + r.a1.toNat) (2 ^ 63 - 1))
    exec (.credit q) s = .next (answer (s.modAccount acct (fun c => { c with committed := v })) r 0 v) := by
  intro acct v
  have hm : s.modAccount acct (fun c => { c with committed := BitVec.ofInt 64 (min (c.committed.toInt + r.a1.toNat) (2 ^ 63 - 1)) }) =
      s.modAccount acct (fun c => { c with committed := v }) := modAccount_congr rfl
  have hv : State.serveCredit r s = .done (s.modAccount acct (fun c => { c with committed := v })) 0 v := by
    unfold State.serveCredit
    dsimp only
    rw [hm, State.account_modAccount]
  exact congrArg Host.Outcome.next (op_done h _ _ _ _ hv rfl)

theorem exec_account_refused (h : posed s q r 0x12) (hw : r.a1 = 0 ∨ 65535 < r.a1.toNat) : exec (.account q) s = .next (answer s r 0x01 0) :=
  congrArg Host.Outcome.next (op_done h _ _ _ _ (if_pos hw) rfl)

theorem exec_account (h : posed s q r 0x12) (hl : 1 ≤ r.a1.toNat) (hu : r.a1.toNat ≤ 65535) : exec (.account q) s = .next
    (answer (s.modAccount (r.a0.setWidth 10) (fun c => { c with weight := r.a1.setWidth 16, parts := r.a2.setWidth 24 })) r 0 0) := by
  have hw : ¬ (r.a1 = 0 ∨ 65536 ≤ r.a1.toNat) := by
    rintro (h0 | h1)
    · rw [h0] at hl
      exact absurd hl (by decide)
    · omega
  exact congrArg Host.Outcome.next (op_done h _ _ _ _ (if_neg hw) rfl)

theorem exec_status (h : posed s q r 0x18) : exec (.status q) s = .next (answer
    (s.modAccount (r.a0.setWidth 10) (fun c => { c with clamped := false })) r 0 (if (s.account (r.a0.setWidth 10)).clamped then 1 else 0)) :=
  congrArg Host.Outcome.next (op_done h _ _ _ _ rfl rfl)

/-- The looms that partition `k` has once partition `j` has taken those of `mask`. -/
def givenTo (j : Nat) (mask : BitVec 24) (k : Nat) (p : Partition) : Partition :=
  { p with looms := if k = j then mask else p.looms &&& ~~~mask }

/-- A loom of the mask that is not free turns PARTITION away. -/
theorem servePartition_busy (hp : r.a0.toNat < 24) (hb : ∃ l < 24, (r.a1.setWidth 24).getLsbD l = true ∧ s.loomFree l = false) :
    State.servePartition r s = .done s 0x07 0 := by
  obtain ⟨l, hl, hm, hf⟩ := hb
  have hany : (List.range 24).any (fun l => (r.a1.setWidth 24).getLsbD l && !s.loomFree l) = true :=
    List.any_eq_true.2 ⟨l, List.mem_range.2 hl, by rw [hm, hf]; rfl⟩
  unfold State.servePartition
  dsimp only
  rw [if_neg (by omega), if_pos hany]

/-- Otherwise every partition is given its looms in turn. -/
theorem servePartition_gives (hp : r.a0.toNat < 24) (hf : ∀ l < 24, (r.a1.setWidth 24).getLsbD l = true → s.loomFree l = true) :
    State.servePartition r s = .done { s with
      parts := (List.range 24).foldl (fun t k => Tab.modify Partition.reset t (0 + k) (givenTo r.a0.toNat (r.a1.setWidth 24) k)) s.parts } 0 0 := by
  have hany : ¬ (List.range 24).any (fun l => (r.a1.setWidth 24).getLsbD l && !s.loomFree l) = true := by
    rw [List.any_eq_true]
    rintro ⟨l, hl, hb⟩
    obtain ⟨hm, hn⟩ := Bool.and_eq_true_iff.1 hb
    rw [hf l (List.mem_range.1 hl) hm] at hn
    cases hn
  unfold State.servePartition
  dsimp only
  rw [if_neg (by omega), if_neg hany]
  simp only [Nat.zero_add]
  rfl

end

/-- Settles O44: each of these is the service of a posed request that completes at once (`op_done`), PARTITION one fold over the partitions. -/
theorem accountCommands : Obligations.AccountCommands := by
  unfold Obligations.AccountCommands
  intro s q r acct c mask
  refine ⟨exec_credit, exec_account, exec_account_refused, exec_status, fun h hp => ⟨fun hf => ?_, fun hb => ?_⟩⟩
  · refine ⟨_, congrArg Host.Outcome.next (op_done h _ _ _ _ (servePartition_gives hp hf) rfl), fun k hk => ?_⟩
    rw [foldl_modify_get, if_pos (by omega), Nat.sub_zero]
    rfl
  · exact congrArg Host.Outcome.next (op_done h _ _ _ _ (servePartition_busy hp hb) rfl)

end Sys2Proof.Spec
end

section
/-!
PROOFS. Genay's storage and its replies: what clearing a range of a store leaves (04 R102, R104), how a reply reaches its core (04 R97, R105),
and the grant and the refusals of a RENT (04 R98, R116–R118).
-/

namespace Sys2Proof.Machine

/-! ## Clearing a range -/

section

variable (s : State) (tier unit base len : Nat)

theorem clearStore_mem : (s.clearStore tier unit base len).mem =
    s.mem.filter (fun c => decide (c.1 < tierAddr tier unit base) || decide (tierAddr tier unit base + len ≤ c.1)) := by
  unfold State.clearStore
  dsimp only
  split
  · rfl
  · split <;> rfl

/-- Beside memory and its marks, a cleared range touches saved copies of agents alone. -/
theorem clearStore_only : let t := s.clearStore tier unit base len
    t = { s with mem := t.mem, wcStatus := t.wcStatus, poison := t.poison, arms := t.arms, wiped := t.wiped, agents := t.agents } := by
  unfold State.clearStore
  dsimp only
  split
  · rfl
  · split <;> rfl

/-- An agent keeps all but its saved copies, which an engine reads (05 R125, R129). -/
theorem clearStore_agent (n : Nat) : ∃ j u, (s.clearStore tier unit base len).agent n = { s.agent n with journal := j, touched := u } := by
  have hset : ∀ (t : State) (a : Agent), (∀ m, t.agent m = s.agent m) → (∃ j u, a = { s.agent unit with journal := j, touched := u }) →
      ∃ j u, (t.setAgent unit a).agent n = { s.agent n with journal := j, touched := u } := by
    intro t a ht ha
    by_cases hn : n = unit
    · subst hn
      rwa [State.agent_setAgent]
    · rw [State.agent_setAgent_ne _ _ _ _ hn, ht]
      exact ⟨_, _, rfl⟩
  unfold State.clearStore
  dsimp only
  split
  · exact hset _ _ (fun _ => rfl) ⟨_, _, rfl⟩
  · split
    · exact hset _ _ (fun _ => rfl) ⟨_, _, rfl⟩
    · exact ⟨_, _, rfl⟩

variable {s tier unit base len}

/-- Filtering a key's entries out of a table leaves its default. -/
theorem get_filter_none {α : Type} (d : α) (t : Tab α) (p : Nat × α → Bool) (k : Nat) (h : ∀ x ∈ t, x.1 = k → p x = false) :
    Tab.get d (t.filter p) k = d := by
  by_contra hk
  obtain ⟨hx, hp⟩ := List.mem_filter.1 (Spec.get_mem d (t.filter p) k hk)
  rw [h _ hx rfl] at hp
  cases hp

/-- Every byte of a cleared range reads zero. -/
theorem clearStore_in {y : Nat} (hl : tierAddr tier unit base ≤ y) (hu : y < tierAddr tier unit base + len) :
    (s.clearStore tier unit base len).mem.read y = 0 := by
  rw [clearStore_mem]
  exact get_filter_none _ _ _ _ fun x _ hx => by simp only [Bool.or_eq_false_iff, decide_eq_false_iff_not]; omega

/-- Every other byte stays. -/
theorem clearStore_out {y : Nat} (h : y < tierAddr tier unit base ∨ tierAddr tier unit base + len ≤ y) :
    (s.clearStore tier unit base len).mem.read y = s.mem.read y := by
  rw [clearStore_mem]
  exact Tab.get_filter _ _ _ _ fun x _ hx => by simp only [Bool.or_eq_true, decide_eq_true_eq]; omega

theorem tierAddr_add (tier unit b j : Nat) : tierAddr tier unit (b + j) = tierAddr tier unit b + j := by
  unfold tierAddr accAddr nearAddr canopyAddr loomAddr
  split <;> omega

end

/-! ## Replies -/

section

variable {s t : State} {n : Nat} {r : RentReq} {base : Nat} {v : W64}

theorem exec_genayReply (s : State) (k : BitVec 9) (base : BitVec 57) :
    exec (.genayReply k base) s = .next (s.genayReply k.toNat base.toNat) := rfl

theorem exec_rentScrubWait (s : State) (k : BitVec 9) (base : BitVec 57) :
    exec (.rentScrubWait k base) s = .next (s.rentScrubWait k.toNat base.toNat) := rfl

/-- A RENT that waits for a scrub is answered as one that does not. -/
theorem rentScrubWait_eq (hs : (s.agent n).stall = .genay r) (ho : r.op = 0x20) : s.rentScrubWait n base = s.genayReply n base := by
  unfold State.rentScrubWait
  rw [hs]
  exact if_pos ho

theorem genayReply_answers (hs : (s.agent n).stall = .genay r) (hr : s.replyOf n r base = .answer t v) :
    s.genayReply n base = t.takeReply n r v := by
  unfold State.genayReply
  rw [hs]
  dsimp only
  rw [hr]

theorem genayReply_waits (hs : (s.agent n).stall = .genay r) (hr : s.replyOf n r base = .wait) : s.genayReply n base = s := by
  unfold State.genayReply
  rw [hs]
  dsimp only
  rw [hr]

theorem replyOf_rent (ho : r.op = 0x20) : s.replyOf n r base = s.replyRent n r base := by
  unfold State.replyOf
  rw [ho]
  rfl

/-- No return of a handler takes place unless the agent waits in one. -/
theorem finishReturn_none (hu : (s.agent n).wait ≠ .uiret) (he : (s.agent n).wait ≠ .eret) : s.finishReturn n = s := by
  unfold State.finishReturn
  split
  · split
    · next h => exact absurd h hu
    · next h => exact absurd h he
    · rfl
  · rfl

/-- An agent that has received the answer `v` of Genay, with its account's allowance `x` (04 R97, R105). -/
def answered (r : RentReq) (v x : W64) (a : Agent) : Agent :=
  { a with stall := .none, allow := x, flight := a.flight ++ [{ due := r.cyc + 1, res := .s r.d v }] }

/-- A reply changes its agent alone, where no return waited for it. -/
theorem takeReply_eq (hu : (s.agent n).wait ≠ .uiret) (he : (s.agent n).wait ≠ .eret) :
    s.takeReply n r v = s.setAgent n (answered r v (s.allowance (s.agent n).who.account) (s.agent n)) :=
  finishReturn_none (by rwa [State.agent_setAgent]) (by rwa [State.agent_setAgent])

end

/-! ## RENT -/

section

variable (s : State) (n : Nat) (r : RentReq)

/-- What a RENT costs (04 R116). -/
def rentCost : Nat := roundUp r.tier.toNat r.x.toNat * (s.rates.at r.tier.toNat).toNat * r.y.toNat

/-- The arguments of a RENT lie outside the limits (04 R118). -/
def OverLimit : Prop := r.x.toNat = 0 ∨ largestPitch r.tier.toNat < r.x.toNat ∨ r.y.toNat = 0 ∨ 2 ^ 48 ≤ r.y.toNat ∨
  2 ^ 63 ≤ s.now.toNat + r.y.toNat ∨ 2 ^ 63 ≤ rentCost s r

/-- The tier has no store at a loom controller (04 R98). -/
def AtController : Prop := r.tier.toNat ≤ 2 ∧ 288 ≤ n

/-- The tables have no room for a further pitch (04 R118). -/
def TablesFull : Prop := 65536 ≤ s.heldBy (s.agent n).who.account ∨ 262144 ≤ s.inUse

/-- The pitch that a RENT makes at base `b` (04 R101). -/
def rentedPitch (b : Nat) : Pitch :=
  { Pitch.free with
    account := (s.agent n).who.account, context := (s.agent n).who.context, tier := r.tier, state := .tentative, att := r.att, base := b
    length := roundUp r.tier.toNat r.x.toNat, paid := s.now.toNat + r.y.toNat, rate := (s.rates.at r.tier.toNat).toNat
    unit := if r.tier.toNat ≤ 3 then unitOf r.tier.toNat n else 0
    dies := if r.tier.toNat = 4 then s.diesFor n (roundUp r.tier.toNat r.x.toNat) else [], avoid := s.quarantined, tentBy := some n }

/-- The state that a RENT leaves which is granted base `b` and descriptor `d`, before its answer (04 R117). -/
def granted (b d : Nat) : State :=
  (((s.clearStore r.tier.toNat (unitOf r.tier.toNat n) b (roundUp r.tier.toNat r.x.toNat)).setPitch d (rentedPitch s n r b)).holdFor
    (s.agent n).who.account (rentCost s r)).withhold n (.rent d (rentCost s r))

variable {s n r} {base b d : Nat}

/-- The first check (04 R116): the limits. -/
theorem replyRent_limit (h : OverLimit s r) : s.replyRent n r base = fails s 0x0A := if_pos h

/-- The second: the tier. -/
theorem replyRent_tier (h : ¬ OverLimit s r) (hc : AtController n r) : s.replyRent n r base = fails s 0x07 :=
  (if_neg h).trans (if_pos ⟨hc.1, decide_eq_true hc.2⟩)

/-- What is left once both have passed. -/
theorem replyRent_passed (h : ¬ OverLimit s r) (hc : ¬ AtController n r) : s.replyRent n r base =
    if s.insolvent (s.agent n).who.account then fails s 0x02
    else if 65536 ≤ s.heldBy (s.agent n).who.account ∨ 262144 ≤ s.inUse then fails s 0x03
    else match s.place r.tier.toNat n (roundUp r.tier.toNat r.x.toNat) base, s.freshPitch with
      | some b, some d =>
        if s.cannotPay n (s.agent n).who.account (rentCost s r) then fails s 0x01 else .answer (granted s n r b d) (BitVec.ofNat 64 b)
      | _, _ => if s.scrubWait r.tier.toNat n (roundUp r.tier.toNat r.x.toNat) then .wait else fails s 0x03 :=
  (if_neg h).trans (if_neg fun e => hc ⟨e.1, of_decide_eq_true e.2⟩)

theorem replyRent_insolvent (h : ¬ OverLimit s r) (hc : ¬ AtController n r) (hi : s.insolvent (s.agent n).who.account = true) :
    s.replyRent n r base = fails s 0x02 := (replyRent_passed h hc).trans (if_pos hi)

theorem replyRent_full (h : ¬ OverLimit s r) (hc : ¬ AtController n r) (hi : s.insolvent (s.agent n).who.account = false)
    (hf : TablesFull s n) : s.replyRent n r base = fails s 0x03 := by
  rw [replyRent_passed h hc, hi]
  exact if_pos hf

section

variable (h : ¬ OverLimit s r) (hc : ¬ AtController n r) (hi : s.insolvent (s.agent n).who.account = false) (hf : ¬ TablesFull s n)

include h hc hi hf

theorem replyRent_noplace (hp : s.place r.tier.toNat n (roundUp r.tier.toNat r.x.toNat) base = none) : s.replyRent n r base =
    if s.scrubWait r.tier.toNat n (roundUp r.tier.toNat r.x.toNat) then .wait else fails s 0x03 := by
  rw [replyRent_passed h hc, hi, hp]
  exact if_neg hf

theorem replyRent_placed (hp : s.place r.tier.toNat n (roundUp r.tier.toNat r.x.toNat) base = some b) (hd : s.freshPitch = some d) :
    s.replyRent n r base = if s.cannotPay n (s.agent n).who.account (rentCost s r) then fails s 0x01
      else .answer (granted s n r b d) (BitVec.ofNat 64 b) := by
  rw [replyRent_passed h hc, hi, hp, hd]
  exact if_neg hf

end

/-- What a granted RENT leaves of its agent, but for its saved copies: the operation is withheld. -/
theorem granted_agent : ∃ j u, (granted s n r b d).agent n =
    { s.agent n with wb := (s.agent n).wb ++ [.rent (.rent d (rentCost s r))], journal := j, touched := u } := by
  obtain ⟨j, u, h⟩ := clearStore_agent s r.tier.toNat (unitOf r.tier.toNat n) b (roundUp r.tier.toNat r.x.toNat) n
  refine ⟨j, u, (State.agent_setAgent ..).trans ?_⟩
  unfold State.holdFor
  rw [State.modAccount_agent, State.setPitch_agent, h]

theorem granted_pitch : (granted s n r b d).pitch d = rentedPitch s n r b := State.pitch_setPitch ..

/-- The hold of its account rises by its cost. -/
theorem granted_account : (granted s n r b d).account (s.agent n).who.account =
    { s.account (s.agent n).who.account with hold := (s.account (s.agent n).who.account).hold + rentCost s r } := by
  have hc : ∀ (x : State) (op : RentOp) (c : BitVec 10), (x.withhold n op).account c = x.account c := fun _ _ _ => rfl
  unfold granted State.holdFor
  rw [hc, State.account_modAccount, State.setPitch_account, clearStore_only]
  rfl

theorem granted_zero {j : Nat} (hj : j < roundUp r.tier.toNat r.x.toNat) :
    (granted s n r b d).mem.read (tierAddr r.tier.toNat (unitOf r.tier.toNat n) (b + j)) = 0 := by
  rw [tierAddr_add]
  exact clearStore_in (by omega) (by omega)

end

end Sys2Proof.Machine

namespace Sys2Proof.Spec

open Sys2Proof Sys2Proof.Machine

/-- Settles O36: a RENT that passes its checks leaves the state `granted` (`replyRent_placed`), and its reply reaches its core. -/
theorem rentGranted : Obligations.RentGranted := by
  unfold Obligations.RentGranted
  intro s k base r b d i n a w tier len rate cost hs ho hi hx0 hx hy0 hy hp hcost ht hin hheld huse hu he hb hd hpay
  have hlim : ¬ OverLimit s r := by
    rintro (h | h | h | h | h | h)
    exacts [absurd h hx0.ne', absurd hx h.not_ge, absurd h hy0.ne', absurd hy h.not_gt, absurd hp h.not_gt, absurd hcost h.not_gt]
  have hctl : ¬ AtController n r := fun h => absurd (ht h.1) h.2.not_gt
  have hfull : ¬ TablesFull s n := fun h => h.elim hheld.not_ge huse.not_ge
  have hreply : s.replyOf n r base.toNat = .answer (granted s n r b d) (BitVec.ofNat 64 b) := by
    rw [replyOf_rent ho, replyRent_placed hlim hctl hin hfull hb hd]
    exact if_neg (Bool.eq_false_iff.1 hpay)
  obtain ⟨jr, rows, hag⟩ := granted_agent (s := s) (n := n) (r := r) (b := b) (d := d)
  have htake := takeReply_eq (s := granted s n r b d) (n := n) (r := r) (v := BitVec.ofNat 64 b) (by rwa [hag]) (by rwa [hag])
  have hexec : exec i s = .next ((granted s n r b d).takeReply n r (BitVec.ofNat 64 b)) := by
    rw [← genayReply_answers hs hreply]
    rcases hi with rfl | rfl
    · rfl
    · rw [exec_rentScrubWait, rentScrubWait_eq hs ho]
  rw [htake] at hexec
  refine ⟨_, hexec, ?_, ?_, ?_, ?_, ?_, ?_, fun j hj => ?_⟩
  · rw [State.setAgent_pitch, granted_pitch]
    exact ⟨rfl, rfl, rfl, rfl, rfl, rfl, rfl, rfl, rfl, rfl, rfl, rfl⟩
  · rw [State.setAgent_account, granted_account]
    rfl
  · rw [State.setAgent_account, granted_account]
  · rw [State.agent_setAgent, hag]
    rfl
  · rw [State.agent_setAgent]
    rfl
  · rw [State.agent_setAgent, hag]
    rfl
  · exact granted_zero (d := d) hj

/-- Settles O37: each refusal is the branch of the reply that its checks lead to (`replyRent_limit` and those after it), and a status
changes the agent alone. -/
theorem rentRefused : Obligations.RentRefused := by
  unfold Obligations.RentRefused
  intro s k base r n a w tier len cost bad ctl full status hs ho hu he
  have hstatus : ∀ c, s.replyRent n r base.toNat = fails s c → status c := by
    intro c h
    refine congrArg Host.Outcome.next ((genayReply_answers hs ((replyOf_rent ho).trans h)).trans ?_)
    exact takeReply_eq hu he
  have hsolv : 0 ≤ (s.account w.account).committed.toInt → s.insolvent w.account = false :=
    fun h => decide_eq_false (not_lt.2 h)
  refine ⟨fun hb => hstatus _ (replyRent_limit hb), fun hb hc => hstatus _ (replyRent_tier hb hc),
    fun hb hc hi => hstatus _ (replyRent_insolvent hb hc (decide_eq_true hi)),
    fun hb hc hi hf => hstatus _ (replyRent_full hb hc (hsolv hi) hf), fun hb hc hi hf hp => ?_, fun hb hc hi hf hp hd hpay => hstatus _ ?_⟩
  · have hreply := replyRent_noplace hb hc (hsolv hi) hf hp
    refine ⟨fun hn => hstatus _ (hreply.trans (if_neg ?_)), fun hn => congrArg Host.Outcome.next ?_⟩
    · unfold State.scrubWait
      dsimp only
      rw [show _ = none from hn]
      decide
    · exact genayReply_waits hs ((replyOf_rent ho).trans (hreply.trans (if_pos hn)))
  · obtain ⟨b, hb'⟩ := Option.isSome_iff_exists.1 hp
    obtain ⟨d, hd'⟩ := Option.isSome_iff_exists.1 hd
    rw [replyRent_placed hb hc (hsolv hi) hf hb' hd']
    exact if_pos hpay

end Sys2Proof.Spec
end

section
/-!
PROOFS. What RENT_COMMIT leaves of a pitch and its account (04 R95, R102, R106, R113, R117): one equation for each operation, and what a commit
does beside it.
-/

namespace Sys2Proof.Spec

open Sys2Proof Sys2Proof.Machine

section

variable {s : State} {d h : Nat} {p : Pitch}

/-! ## A commit and the operation that it applies -/

/-- What an operation leaves: the commits behind it, pitch `d` as `p`, account `c` as `x`. -/
structure Applies (s : State) (op : RentOp) (d : Nat) (p : Pitch) (c : BitVec 10) (x : Account) : Prop where
  commits : (s.applyRent op).commits = s.commits
  pitch : (s.applyRent op).pitch d = p
  account : (s.applyRent op).account c = x

theorem exec_rentCommit (s : State) (k : BitVec 9) : exec (.rentCommit k) s = .next (s.rentCommit k.toNat) := rfl

/-- The bookings of a commit touch the task sets and the agent that issued it. -/
theorem rentCommit_applies {n ts : Nat} {op : RentOp} {rest : List Commit} (hs : s.commits = { agent := n, ts := ts, op := op } :: rest) :
    let t := { s with commits := rest }.applyRent op
    (s.rentCommit n).commits = t.commits ∧ (s.rentCommit n).pitches = t.pitches ∧ (s.rentCommit n).accounts = t.accounts := by
  intro t
  have hf : s.commits.find? (fun c => c.agent == n) = some { agent := n, ts := ts, op := op } := by
    rw [hs, List.find?_cons, show (n == n) = true from beq_self_eq_true n]
  have he : s.commits.erase { agent := n, ts := ts, op := op } = rest := by rw [hs, List.erase_cons_head]
  unfold State.rentCommit
  rw [hf]
  dsimp only
  rw [he]
  split <;> exact ⟨rfl, rfl, rfl⟩

/-- The oldest commit of an agent leaves what its operation does. -/
theorem rentCommit_leaves {k : BitVec 9} {ts : Nat} {op : RentOp} {rest : List Commit} {c : BitVec 10} {x : Account}
    (hs : s.commits = { agent := k.toNat, ts := ts, op := op } :: rest) (ha : Applies { s with commits := rest } op d p c x) :
    ∃ t, exec (.rentCommit k) s = .next t ∧ t.commits = rest ∧ t.pitch d = p ∧ t.account c = x := by
  obtain ⟨hc, hp, hx⟩ := rentCommit_applies hs
  exact ⟨_, exec_rentCommit s k, hc.trans ha.commits, (congrArg (Tab.get Pitch.free · d) hp).trans ha.pitch,
    (congrArg (Tab.get Account.reset · c.toNat) hx).trans ha.account⟩

/-! ## Charges and holds -/

/-- A pitch before its end is not due. -/
theorem pitchExpiry_early (hn : s.now.toNat < (s.pitch d).paid) : s.pitchExpiry d = s := by
  have hd : s.expiryDue d = false := by
    unfold State.expiryDue
    dsimp only
    rw [decide_eq_false hn.not_ge, Bool.and_false, Bool.false_and]
  unfold State.pitchExpiry
  rw [hd]
  rfl

/-- An account that releases the hold `h` and pays `x`. -/
def paidOff (c : Account) (h x : Nat) : Account := (c.unhold h).charge x

theorem paidOff_hold (c : Account) (h x : Nat) : (paidOff c h x).hold = c.hold - h := rfl

theorem paidOff_committed {c : Account} {x : Nat} (hx : counts64 (c.committed.toInt - x)) :
    (paidOff c h x).committed.toInt = c.committed.toInt - x := charge_committed (c := c.unhold h) hx.1

theorem paidOff_charged {c : Account} {x : Nat} (hx : c.charged.toNat + x < 2 ^ 64) :
    (paidOff c h x).charged.toNat = c.charged.toNat + x := satAdd_toNat hx

/-- A pitch whose hold is released, which is charged `x`, and whose terms then change: where it has not come to its end. -/
def settled (s : State) (d h x : Nat) (f : Pitch → Pitch) : State := (((s.unholdOf d h).chargePitch d x).modPitch d f).pitchExpiry d

theorem settled_leaves {x : Nat} {f : Pitch → Pitch} (hp : s.pitch d = p) (hf : s.now.toNat < (f { p with charged := p.charged + x }).paid) :
    (settled s d h x f).commits = s.commits ∧ (settled s d h x f).pitch d = f { p with charged := p.charged + x } ∧
      (settled s d h x f).account p.account = paidOff (s.account p.account) h x := by
  subst hp
  unfold settled State.unholdOf State.chargePitch
  rw [pitchExpiry_early (by simpa using hf)]
  refine ⟨?_, ?_, ?_⟩ <;> simp [paidOff]

/-! ## The operations -/

theorem applies_rent (hp : s.pitch d = p) (ht : p.state = .tentative) (hn : s.now.toNat < p.paid) :
    Applies s (.rent d h) d { p with state := .leased, tentBy := none, charged := p.charged + h } p.account
      (paidOff (s.account p.account) h h) := by
  have he : s.applyRent (.rent d h) = settled s d h h (fun p => { p with state := .leased, tentBy := none }) :=
    if_pos (show (s.pitch d).state = .tentative by rwa [hp])
  obtain ⟨hc, hpitch, hacct⟩ := settled_leaves (f := fun p => { p with state := .leased, tentBy := none }) (h := h) (x := h) hp hn
  exact ⟨he ▸ hc, he ▸ hpitch, he ▸ hacct⟩

theorem applies_prepay {m : Nat} (hp : s.pitch d = p) (hl : p.state = .leased) (hn : s.now.toNat < p.paid) :
    Applies s (.prepay d h m) d { p with paid := p.paid + m, charged := p.charged + h } p.account (paidOff (s.account p.account) h h) := by
  have he : s.applyRent (.prepay d h m) = settled s d h h (fun p => { p with paid := p.paid + m }) :=
    if_pos (show (s.pitch d).state = .leased by rwa [hp])
  obtain ⟨hc, hpitch, hacct⟩ := settled_leaves (f := fun p => { p with paid := p.paid + m }) (h := h) (x := h) hp
    (Nat.lt_of_lt_of_le hn (Nat.le_add_right ..))
  exact ⟨he ▸ hc, he ▸ hpitch, he ▸ hacct⟩

theorem applies_renew {target : Nat} (hp : s.pitch d = p) (hl : p.state = .leased) (hn : s.now.toNat < p.paid) :
    let new := max p.paid target
    let cost := (new - p.paid) * p.length * p.rate
    Applies s (.renew d h target) d { p with paid := new, charged := p.charged + cost } p.account (paidOff (s.account p.account) h cost) := by
  intro new cost
  have he : s.applyRent (.renew d h target) = settled s d h cost (fun p => { p with paid := new }) := by
    subst hp
    exact if_pos (show (s.pitch d).state = .leased from hl)
  obtain ⟨hc, hpitch, hacct⟩ := settled_leaves (f := fun p => { p with paid := new }) (h := h) (x := cost) hp
    (Nat.lt_of_lt_of_le hn (Nat.le_max_left ..))
  exact ⟨he ▸ hc, he ▸ hpitch, he ▸ hacct⟩

/-- A sublet takes the place of an earlier one to its context, behind the others (04 R113; log 62). -/
theorem sublet_enter (l : List Sublet) (x : Sublet) : Sublet.enter l x =
    l.filter (fun y => decide (¬ (y.account = x.account ∧ y.context = x.context))) ++ (if x.count = 0 then [] else [x]) := by
  have hf : (fun y : Sublet => !(y.account == x.account && y.context == x.context)) =
      fun y => decide (¬ (y.account = x.account ∧ y.context = x.context)) := by
    funext y
    simp only [Bool.beq_eq_decide_eq, decide_not, Bool.decide_and]
  unfold Sublet.enter
  dsimp only
  rw [hf]
  split
  · exact (List.append_nil _).symm
  · rfl

theorem applies_sublet {acct : BitVec 10} {ctx : BitVec 16} {first count : Nat} {rw : Bool} (c : BitVec 10) (hp : s.pitch d = p)
    (hl : p.state = .leased) : let others := p.subs.filter (fun x => decide (¬(x.account = acct ∧ x.context = ctx)))
    others.length < 4 → Applies s (.sublet d acct ctx first count rw) d { p with subs := others ++
      (if count = 0 then [] else [{ account := acct, context := ctx, rw := rw, first := first, count := count }]) } c (s.account c) := by
  subst hp
  intro others ho
  have hs := sublet_enter (s.pitch d).subs { account := acct, context := ctx, rw := rw, first := first, count := count }
  have hlen : (others ++ if count = 0 then [] else [({ account := acct, context := ctx, rw := rw, first := first, count := count } :
      Sublet)]).length ≤ 4 := by
    rw [List.length_append]
    split <;> simp only [List.length_nil, List.length_singleton] <;> omega
  have he : s.applyRent (.sublet d acct ctx first count rw) = s.setPitch d { s.pitch d with subs := others ++
      (if count = 0 then [] else [{ account := acct, context := ctx, rw := rw, first := first, count := count }]) } := by
    unfold State.applyRent
    dsimp only
    rw [hs]
    exact if_pos ⟨hl, hlen⟩
  exact ⟨he ▸ rfl, he ▸ State.pitch_setPitch .., he ▸ rfl⟩

/-- A pitch that goes to scrubbing: its pages, the host's copies and the notes of dependences go with it. -/
theorem forgetPages_leaves (t : State) (q p : Pitch) (c : BitVec 10) : ((t.setPitch d q).forgetPages p).commits = t.commits ∧
    ((t.setPitch d q).forgetPages p).pitch d = q ∧ ((t.setPitch d q).forgetPages p).account c = t.account c := by
  rw [forgetPages_only]
  exact ⟨rfl, State.pitch_setPitch .., rfl⟩

/-- A VACATE does not look at INFLIGHT (04 R102). -/
theorem applies_vacate (hp : s.pitch d = p) (hl : p.state = .leased) : Applies s (.vacate d) d (vacatedAt p s.now.toNat) p.account
    ((s.account p.account).refund (refundOf p s.now.toNat)) := by
  subst hp
  have he : s.applyRent (.vacate d) = ((s.modAccount (s.pitch d).account (·.refund (refundOf (s.pitch d) s.now.toNat))).setPitch d
      (vacatedAt (s.pitch d) s.now.toNat)).forgetPages (s.pitch d) := by
    unfold State.applyRent State.vacateNow
    simp only [hl]
    rfl
  obtain ⟨hc, hpitch, hacct⟩ := forgetPages_leaves (d := d) (s.modAccount (s.pitch d).account
    (·.refund (refundOf (s.pitch d) s.now.toNat))) (vacatedAt (s.pitch d) s.now.toNat) (s.pitch d) (s.pitch d).account
  exact ⟨he ▸ hc, he ▸ hpitch, he ▸ hacct.trans (State.account_modAccount ..)⟩

/-- The pitch of a RENT that its interval gave up goes to scrubbing uncharged (04 R102). -/
theorem applies_void (hp : s.pitch d = p) (ht : p.state = .tentative) :
    Applies s (.void d h) d p.toScrub p.account ((s.account p.account).unhold h) := by
  subst hp
  have he : s.applyRent (.void d h) = ((s.unholdOf d h).setPitch d (s.pitch d).toScrub).forgetPages (s.pitch d) := if_pos ht
  obtain ⟨hc, hpitch, hacct⟩ := forgetPages_leaves (d := d) (s.unholdOf d h) (s.pitch d).toScrub (s.pitch d) (s.pitch d).account
  exact ⟨he ▸ hc, he ▸ hpitch, he ▸ hacct.trans (State.account_modAccount ..)⟩

/-- An extension of a pitch that its interval gave up releases its hold (04 R117). -/
theorem applies_drop (hp : s.pitch d = p) : Applies s (.drop d h) d p p.account ((s.account p.account).unhold h) := by
  subst hp
  exact ⟨rfl, rfl, State.account_modAccount ..⟩

end

/-- Settles O39: a commit leaves what its operation does (`rentCommit_leaves`), which each equation above gives. -/
theorem rentCommits : Obligations.RentCommits := by
  unfold Obligations.RentCommits
  intro s k ts rest d n p c has pays
  have hpays : ∀ {t : State} {h x : Nat}, t.account p.account = paidOff c h x → pays t h x := fun ht => by
    show (_ ∧ (_ → _) ∧ (_ → _))
    rw [ht]
    exact ⟨paidOff_hold .., paidOff_committed, paidOff_charged⟩
  refine ⟨fun h hs ht hn _ => ?_, fun h m hs hl hn _ => ?_, fun h target hs hl hn _ => ?_, fun acct ctx first count rw hs hl ho => ?_,
    fun hs hl => ?_, fun h hs ht _ => ?_, fun h hs _ => ?_⟩
  · obtain ⟨t, he, hc, hp, hx⟩ := rentCommit_leaves hs (applies_rent (p := p) rfl ht hn)
    exact ⟨t, he, hc, hp, hpays hx⟩
  · obtain ⟨t, he, hc, hp, hx⟩ := rentCommit_leaves hs (applies_prepay (p := p) rfl hl hn)
    exact ⟨t, he, hc, hp, hpays hx⟩
  · obtain ⟨t, he, hc, hp, hx⟩ := rentCommit_leaves hs (applies_renew (p := p) rfl hl hn)
    exact ⟨t, he, hc, hp, hpays hx⟩
  · obtain ⟨t, he, hc, hp, -⟩ := rentCommit_leaves hs (applies_sublet (p := p) p.account rfl hl ho)
    exact ⟨t, he, hc, hp⟩
  · obtain ⟨t, he, hc, hp, hx⟩ := rentCommit_leaves hs (applies_vacate (p := p) rfl hl)
    refine ⟨t, he, hc, ?_, ?_, ?_, fun hr => ?_⟩
    · rw [hp]; rfl
    · rw [hp]; rfl
    · rw [hp]; rfl
    · rw [hx]
      exact refund_committed hr.2
  · obtain ⟨t, he, hc, hp, hx⟩ := rentCommit_leaves hs (applies_void (p := p) rfl ht)
    refine ⟨t, he, hc, ?_, ?_, ?_⟩
    · rw [hp]; rfl
    · rw [hx]; rfl
    · rw [hx]; rfl
  · obtain ⟨t, he, hc, hp, hx⟩ := rentCommit_leaves hs (applies_drop (p := p) rfl)
    refine ⟨t, he, hc, hp, ?_, ?_⟩
    · rw [hx]; rfl
    · rw [hx]; rfl

end Sys2Proof.Spec
end

section
/-!
PROOFS. Words of slot 7 that start an operation or stall for an answer: engine operations, XNOTE and TREAD (09 R206, R217 to R223), rent
instructions and queries (04 R105, R117), XQP, XMBOX and XLAUNCH (16 R335, R340, 13 R296).
-/

namespace Sys2Proof.Spec

open Sys2Proof Sys2Proof.Machine

/-- A word of slot 7 that some agents are not permitted (16 R334), and that nothing follows, does what its row says where the condition of the
row permits it. -/
theorem permitted_says {s : State} {F : Form} {w : Word} {i : Instr} (h : Slot7Row s s.cur.toNat F { w with perm := fun _ _ => false })
    (hw : wordOf i = some w) (hp : F.held → w.prof (viewOf (s.agent s.cur.toNat) s.cur.toNat) = true)
    (hperm : F.ok → w.perm s s.cur.toNat = false) (hpost : w.post = fun s _ => s) : F.Says i s := by
  have hiq : w.iq = F.iq := congrArg Word.iq h.word
  have hcmd : w.cmd = F.cmds := congrArg Word.cmd h.word
  have hsto : w.sto = F.stores := congrArg Word.sto h.word
  refine form_says F i s w (exec_word i w s hw) hiq hp (fun hh hc => ?_) ⟨h.plain.act, h.plain.flow⟩ ?_ hpost hcmd hsto
  · have hr := h.runs (hp hh) hc
    exact ⟨hr.prof, hr.priv, hperm hc.1, hr.free, hr.planes, hr.chk, hr.cmds, hr.stores, hr.late, hr.ops, hr.room⟩
  · rw [h.flow]
    exact h.effect

/-! ## Engine operations -/

section

variable {s : State} {n : Nat} {i : Instr} {F : Form}

/-- An engine word takes the next number of its context, captures its records and registers and may exchange the records (09 R206, R217). -/
theorem engines_rows (h : engines (s.agent n) n i = some F) : ∃ w, wordOf i = some w ∧ Slot7Row s n F w ∧ w.post = fun s _ => s := by
  unfold engines at h
  split at h <;> cases h
  all_goals exact ⟨_, rfl, ⟨rfl, rfl, List.nodup_nil, fun _ => rfl, rfl, exchanged_keeps ..⟩, rfl⟩

/-! ## Notes and counters -/

/-- Either branch of XNOTE writes the note registers alone. -/
theorem timelines_rows (h : timelines (s.agent n) n i = some F) : ∃ w, wordOf i = some w ∧ Slot7Row s n F w ∧ w.post = fun s _ => s := by
  unfold timelines at h
  split at h <;> cases h
  case h_1 =>
    refine ⟨_, rfl, ⟨rfl, rfl, List.nodup_nil, fun _ => rfl, rfl, ?_⟩, rfl⟩
    dsimp only
    split <;> exact ⟨rfl, rfl⟩
  case h_2 => exact ⟨_, rfl, ⟨rfl, rfl, List.nodup_nil, fun _ => rfl, rfl, rfl, rfl⟩, rfl⟩

/-! ## Words that stall -/

/-- Every stalling word is one of slot 7 but for whom it is permitted, which its condition says. -/
theorem stalls_rows (h : stalls s n i = some F) : ∃ w, wordOf i = some w ∧ Slot7Row s n F { w with perm := fun _ _ => false } ∧
    (F.ok → w.perm s n = false) ∧ w.post = fun s _ => s := by
  unfold stalls at h
  split at h <;> cases h
  -- XQP, XMBOX and XLAUNCH
  case h_8 =>
    refine ⟨_, rfl, ⟨rfl, rfl, List.nodup_nil, fun hok => ?_, rfl, rfl, rfl⟩, fun hok => ?_, rfl⟩
    · obtain ⟨-, hx, hy, he⟩ := hok
      exact (if_neg (not_not_intro hx)).trans ((if_neg hy.not_ge).trans he)
    · exact congrArg not hok.1
  case h_9 => exact ⟨_, rfl, ⟨rfl, rfl, List.nodup_nil, fun hok => hok.2, rfl, rfl, rfl⟩, fun hok => hok.1, rfl⟩
  case h_10 => exact ⟨_, rfl, ⟨rfl, rfl, List.nodup_nil, fun hok => hok, rfl, rfl, rfl⟩, fun _ => rfl, rfl⟩
  -- the rent instructions and queries
  all_goals exact ⟨_, rfl, ⟨rfl, rfl, List.nodup_nil, fun _ => rfl, rfl, rfl, rfl⟩, fun _ => rfl, rfl⟩

end

/-- A word whose row is given in a table that agrees about its holders. -/
theorem word_holders {s : State} {n : Nat} {i : Instr} {F : Form} {w : Word} {o : Option Form} (hh : HoldersAgree s n i o) (h : o = some F)
    (hw : wordOf i = some w) : F.held → w.prof (viewOf (s.agent n) n) = true := by
  obtain ⟨v, hv, hp⟩ := hh F h
  obtain rfl : w = v := Option.some.inj (hw.symm.trans hv)
  exact hp.2

theorem engineWords : Spec.EngineWords := by
  rintro i s F (h | h)
  · obtain ⟨w, hw, hrow, hpost⟩ := engines_rows h
    exact hrow.says hw (word_holders (engines_holders s _ i) h hw) hpost
  · obtain ⟨w, hw, hrow, hpost⟩ := timelines_rows h
    exact hrow.says hw (word_holders (timelines_holders s _ i) h hw) hpost

theorem stallingWords : Spec.StallingWords := by
  intro i s F h
  obtain ⟨w, hw, hrow, hperm, hpost⟩ := stalls_rows h
  exact permitted_says hrow hw (word_holders (stalls_holders s _ i) h hw) hperm hpost

/-- Settles O12: engine operations, XNOTE and TREAD are words of slot 7 that nothing follows (`engines_rows`, `timelines_rows`), and so are
those that stall, but for whom they are permitted (`stalls_rows`). -/
theorem engineAndStallingWords : Obligations.EngineAndStallingWords := by
  unfold Obligations.EngineAndStallingWords
  exact ⟨engineWords, stallingWords⟩

end Sys2Proof.Spec
end

section
/-!
PROOFS. The lapse of a SYNC pitch (04 R112) where a core that polls a cell of it holds a withheld RENT of the same pitch: the expiry fault
restores the core, and the restore cancels that RENT (04 R107, 12 R261), which sends the pitch to scrubbing.
-/

namespace Sys2Proof.Spec

open Sys2Proof Sys2Proof.Machine

/-- A SYNC pitch of one page of HBM whose time has come, held by account 0, context 0. -/
def syncLease : Pitch :=
  { Pitch.free with tier := 4, state := .leased, att := 1, base := 0x10000, length := 0x1000, dies := [(0, 0x1000)] }

/-- Core 0, which acts for that context, polls a cell of the pitch in TWAITA; its withhold buffer names a RENT of the pitch. -/
def pollingRenter : State :=
  { State.reset with
    agents := [(0, { Agent.reset with wait := .twaita 0x10000 1, wb := [.rent (.rent 4 0)] })]
    pitches := [(4, syncLease)] }

/-- The pitch does not stay lapsed. -/
theorem pollingRenter_scrubbing : ((pollingRenter.pitchExpiry 4).pitch 4).state = .scrubbing := by decide

theorem exec_pitchExpiry (s : State) (d : Nat) : exec (.pitchExpiry d) s = .next (s.pitchExpiry d) := rfl

/-- Refutes O40, in the clause on the lapse of a SYNC pitch: nothing there keeps a core that waits on the pitch from holding a withheld RENT of
it. In `pollingRenter` the expiry fault cancels that RENT, and PITCH_EXPIRY leaves the pitch scrubbing, not lapsed. -/
theorem not_pitchLifetimes : ¬ Obligations.PitchLifetimes := by
  unfold Obligations.PitchLifetimes
  rintro ⟨-, hsync, -⟩
  obtain ⟨t, ht, hstate, -⟩ := hsync pollingRenter 4 rfl (by decide) rfl rfl rfl rfl (by decide)
  obtain rfl : pollingRenter.pitchExpiry 4 = t := Host.Outcome.next.inj ((exec_pitchExpiry ..).symm.trans ht)
  rw [pollingRenter_scrubbing] at hstate
  cases hstate

end Sys2Proof.Spec
end

section
/-!
PROOFS. What an entry does at its home (09 R214–R216, 10 R228 M6, R233, 16 R333, R339): far loads, released stores and atomics, wide-cell
commands and XARM.
-/

namespace Sys2Proof.Machine

/-! ## An access inside a page -/

/-- A range inside a page is one piece. -/
theorem pagePieces_page (va k : Nat) (h0 : 0 < k) (hk : va % 4096 + k ≤ 4096) : pagePieces va k = [(va, k)] := by
  have h1 : (va % 4096 + k + 4095) / 4096 = 1 := by omega
  have h2 : max va (4096 * (va / 4096)) = va := by omega
  have h3 : min (va + k) (4096 * (va / 4096 + 1)) - va = k := by omega
  simp [pagePieces, h1, h2, h3]

/-- A store inside a page is one write. -/
theorem vaStore_page (s : State) (n : Nat) (q : Option (BitVec 20)) (va : Nat) (bs : List Byte) (h0 : 0 < bs.length)
    (hk : va % 4096 + bs.length ≤ 4096) : s.vaStore n q va bs = s.put (s.storage n q va) bs := by
  simp [State.vaStore, pagePieces_page va bs.length h0 hk]

/-- A rented page is rented as a whole. -/
theorem regionOf_page (va i : Nat) (h : regionOf va = .rented) (hi : va % 4096 + i < 4096) : regionOf (va + i) = .rented := by
  have hr : va < 0x00FFD00000000000 := by
    by_contra hn
    rw [regionOf, if_neg hn] at h
    repeat' split at h
    all_goals cases h
  have h1 : ¬ 2 ^ 57 ≤ va + i := by omega
  have h2 : ¬ 0x0100000000000000 ≤ va + i := by omega
  have h3 : va + i < 0x00FFD00000000000 := by omega
  rw [regionOf, if_neg h1, if_neg h2, if_pos h3]

/-- The storage of a rented page is one range. -/
theorem storage_page (s : State) (n : Nat) (q : Option (BitVec 20)) (va i : Nat) (h : regionOf va = .rented) (hi : va % 4096 + i < 4096) :
    s.storage n q (va + i) = s.storage n q va + i := by
  have hp : s.page (va + i) = s.page va := by unfold State.page; rw [show (va + i) / 4096 = va / 4096 by omega]
  unfold State.storage
  rw [regionOf_page va i h hi, h]
  dsimp only
  rw [hp]
  split <;> omega

/-- The bytes of a rented range inside a page stand at its storage. -/
theorem vaBytes_page (s : State) (n : Nat) (q : Option (BitVec 20)) (va k : Nat) (h : regionOf va = .rented) (hk : va % 4096 + k ≤ 4096) :
    s.vaBytes n q va k = s.mem.bytes (s.storage n q va) k := by
  have each (k i : Nat) (hi : va % 4096 + i + k ≤ 4096) :
      s.vaBytes n q (va + i) k = s.mem.bytes (s.storage n q va + i) k := by
    induction k generalizing i with
    | zero => rfl
    | succ k ih =>
      have hb : s.vaByte n q (va + i) = s.mem.read (s.storage n q va + i) := by
        unfold State.vaByte
        rw [regionOf_page va i h (by omega), storage_page s n q va i h (by omega)]
      rw [State.vaBytes, Memory.bytes, hb, Nat.add_assoc, ih (i + 1) (by omega), Nat.add_assoc]
  exact each k 0 (by omega)

/-- A number just written. -/
theorem num_put (s : State) (a k : Nat) (x : BitVec (8 * k)) (hq : s.quarantined = []) : (s.put a (bytesOf x k)).mem.num a k = x.toNat := by
  have h := num_write s.mem a (bytesOf x k) 0 k (by simp)
  have hx : x.toNat < 256 ^ k := (Nat.pow_mul 2 8 k) ▸ x.isLt
  rw [Nat.add_zero] at h
  rw [put_mem s a _ hq, h, numAt, List.drop_zero, List.take_of_length_le (by simp), bytesOf, natOfBytes_bytesOfNat, Nat.mod_eq_of_lt hx]

/-- A number that lies outside a write stays. -/
theorem num_put_out (s : State) (a : Nat) (bs : List Byte) (b k : Nat) (h : b + k ≤ a ∨ a + bs.length ≤ b) :
    (s.put a bs).mem.num b k = s.mem.num b k := by
  have each (k b : Nat) (h : b + k ≤ a ∨ a + bs.length ≤ b) : (s.put a bs).mem.bytes b k = s.mem.bytes b k := by
    induction k generalizing b with
    | zero => rfl
    | succ k ih => rw [Memory.bytes, Memory.bytes, put_out s a bs b (by omega), ih (b + 1) (by omega)]
  rw [Memory.num, Memory.num, each k b h]

@[simp] theorem put_quarantined (s : State) (a : Nat) (bs : List Byte) : (s.put a bs).quarantined = s.quarantined := by rw [put_only]

/-! ## An entry leaves its channel -/

theorem touchAll_only (s : State) (n : Nat) (q : Option (BitVec 20)) (es : List Elem) :
    let t := s.touchAll n q es
    t = { s with hostLines := t.hostLines, activated := t.activated } := by
  unfold State.touchAll
  induction es generalizing s with
  | nil => rfl
  | cons e es ih => exact touch_trans (touchVa_only s n q e.addr.toNat e.len) (ih (s.touchVa n q e.addr.toNat e.len))

/-- The state in which the entry at place `i` performs. -/
def State.arrivedAt (s : State) (i : Nat) (e : Transit) : State := (s.keepCode e).leaveHome i e

/-- The entry is off its channel; besides, the bytes that a store covers are kept for fetch, and lines and rows are touched. -/
theorem State.arrivedAt_only (s : State) (i : Nat) (e : Transit) :
    let t := s.arrivedAt i e
    t = { s with transit := s.transit.eraseIdx i, tasksets := t.tasksets, hostLines := t.hostLines, activated := t.activated } := by
  have hk : s.keepCode e = { s with tasksets := (s.keepCode e).tasksets } := by
    unfold State.keepCode
    split <;> rfl
  unfold State.arrivedAt
  rw [hk]
  unfold State.leaveHome
  dsimp only
  split
  · rfl
  · rw [touchAll_only]

section
variable (s : State) (i : Nat) (e : Transit)

@[simp] theorem State.arrivedAt_mem : (s.arrivedAt i e).mem = s.mem := by rw [State.arrivedAt_only]
@[simp] theorem State.arrivedAt_transit : (s.arrivedAt i e).transit = s.transit.eraseIdx i := by rw [State.arrivedAt_only]
@[simp] theorem State.arrivedAt_arrivals : (s.arrivedAt i e).arrivals = s.arrivals := by rw [State.arrivedAt_only]
@[simp] theorem State.arrivedAt_agents : (s.arrivedAt i e).agents = s.agents := by rw [State.arrivedAt_only]
@[simp] theorem State.arrivedAt_wcStatus : (s.arrivedAt i e).wcStatus = s.wcStatus := by rw [State.arrivedAt_only]
@[simp] theorem State.arrivedAt_quarantined : (s.arrivedAt i e).quarantined = s.quarantined := by rw [State.arrivedAt_only]
@[simp] theorem State.arrivedAt_work : (s.arrivedAt i e).work = s.work := by rw [State.arrivedAt_only]

@[simp] theorem State.arrivedAt_storage (n : Nat) (q : Option (BitVec 20)) (va : Nat) :
    (s.arrivedAt i e).storage n q va = s.storage n q va := by rw [State.arrivedAt_only]; rfl

@[simp] theorem State.arrivedAt_live (n : Nat) (w : Who) (va : W64) : (s.arrivedAt i e).live n w va = s.live n w va := by
  rw [State.arrivedAt_only]; rfl

@[simp] theorem State.arrivedAt_poisonedAt (a k : Nat) : poisonedAt (s.arrivedAt i e) a k = poisonedAt s a k := by
  rw [State.arrivedAt_only]; rfl

@[simp] theorem State.arrivedAt_partPoison (n : Nat) (q : Option (BitVec 20)) (va : W64) (k : Nat) :
    (s.arrivedAt i e).partPoison n q va k = s.partPoison n q va k := by rw [State.arrivedAt_only]; rfl

@[simp] theorem State.arrivedAt_vaPoison (n : Nat) (q : Option (BitVec 20)) (va k : Nat) :
    (s.arrivedAt i e).vaPoison n q va k = s.vaPoison n q va k := by rw [State.arrivedAt_only]; rfl

end

/-! ## What an access counts -/

/-- An account's counter alone changes. -/
theorem State.movedIn_only (s : State) (acct : BitVec 10) (t : Option Nat) (k : Nat) :
    s.movedIn acct t k = { s with accounts := (s.movedIn acct t k).accounts } := by
  cases t <;> rfl

theorem accounts_trans {s t u : State} (h : t = { s with accounts := t.accounts }) (k : u = { t with accounts := u.accounts }) :
    u = { s with accounts := u.accounts } := k.trans (by rw [h])

theorem movedIns_only (s : State) (acct : BitVec 10) (es : List Elem) (f : State → Elem → Option Nat) :
    let t := es.foldl (fun s e => s.movedIn acct (f s e) e.len) s
    t = { s with accounts := t.accounts } := by
  induction es generalizing s with
  | nil => rfl
  | cons e es ih => exact accounts_trans (State.movedIn_only s acct (f s e) e.len) (ih (s.movedIn acct (f s e) e.len))

/-- A loom atomic unit alone counts. -/
theorem State.atomicEvent_only (s : State) (h : Point) : s.atomicEvent h = { s with agents := (s.atomicEvent h).agents } := by
  cases h <;> rfl

end Sys2Proof.Machine

namespace Sys2Proof.Spec

open Sys2Proof Sys2Proof.Machine

/-- The model's own choice of the entry that performs next. -/
theorem atHome_eq {s : State} {i : Nat} {e : Transit} (h : atHome s i e) : s.atHome i = some e := by
  obtain ⟨he, hr, hf⟩ := h
  unfold State.atHome
  rw [he]
  dsimp only
  rw [if_pos ⟨hr, by simpa [List.all_eq_true] using hf⟩]

/-- PERFORM of a far load. -/
theorem exec_perform_read {s : State} {i : Nat} {e : Transit} {x : FarLoad} (h : atHome s i e) (hl : e.load = .read x) :
    exec (.perform i) s = .next ((s.arrivedAt i e).performRead e.agent e.owner x) := by
  show Host.Outcome.next (s.performAt i) = _
  unfold State.performAt State.performEntry
  rw [atHome_eq h]
  dsimp only
  rw [hl]
  rfl

/-- PERFORM of a released command. -/
theorem exec_perform_cmd {s : State} {i : Nat} {e : Transit} {c : Cmd} (h : atHome s i e) (hl : e.load = .cmd c) :
    exec (.perform i) s = .next ((s.arrivedAt i e).performEntry e) := by
  show Host.Outcome.next (s.performAt i) = _
  unfold State.performAt
  rw [atHome_eq h]
  dsimp only
  rw [hl]
  rfl


/-! ## Far loads (09 R214, 10 R233) -/

/-- A far load changes accounts and arrivals alone. -/
theorem performRead_eq (u : State) (n : Nat) (w : Who) (x : FarLoad) :
    ∃ acc, u.performRead n w x = ({ u with accounts := acc }).gather {
      agent := n, owner := w, q := x.q, pitches := x.pitches, owed := false, dropped := x.dropped, id := x.id, parts := x.parts - 1
      entry := x.es.foldl (fun v e => v ||| (BitVec.ofNat 4096 (natOfBytes (u.bytesAt n e)) <<< (8 * e.off))) 0
      trap := (x.es.findSome? u.elemPoison).map (fun p => (0x11, p)) } := by
  refine ⟨(x.es.foldl (fun s e => s.movedIn w.account (s.tierAt n e.addr.toNat) e.len) u).accounts, ?_⟩
  unfold State.performRead
  dsimp only
  rw [movedIns_only u w.account x.es (fun s e => s.tierAt n e.addr.toNat)]

theorem gather_only (u : State) (t : Arrival) : u.gather t = { u with arrivals := (u.gather t).arrivals } := by
  unfold State.gather
  dsimp only
  split <;> rfl

/-- The first part of a load makes its entry. -/
theorem gather_first (u : State) (t : Arrival)
    (h : ∀ y ∈ u.arrivals, ¬ (y.agent = t.agent ∧ y.owed = false ∧ y.parts ≠ 0 ∧ y.id = t.id)) :
    u.gather t = { u with arrivals := u.arrivals ++ [t] } := by
  have hno : u.arrivals.any (fun x => x.agent == t.agent && !x.owed && decide (x.parts ≠ 0) && x.id == t.id) = false := by
    rw [List.any_eq_false]
    intro y hy
    have hy := h y hy
    simpa [and_assoc] using hy
  unfold State.gather
  dsimp only
  rw [hno]
  rfl

/-- A later part joins it. -/
theorem gather_joins (u : State) (t y : Arrival) (pre post : List Arrival) (hu : u.arrivals = pre ++ y :: post)
    (hy : y.agent = t.agent ∧ y.owed = false ∧ y.parts ≠ 0 ∧ y.id = t.id)
    (h : ∀ z ∈ pre ++ post, ¬ (z.agent = t.agent ∧ z.owed = false ∧ z.parts ≠ 0 ∧ z.id = t.id)) :
    u.gather t = { u with arrivals :=
      pre ++ { y with entry := y.entry ||| t.entry, trap := y.trap.or t.trap, parts := y.parts - 1 } :: post } := by
  have hmine : (y.agent == t.agent && !y.owed && decide (y.parts ≠ 0) && y.id == t.id) = true := by simpa [and_assoc] using hy
  have hskip (zs : List Arrival) (hz : ∀ z ∈ zs, z ∈ pre ++ post) :
      zs.map (fun x => if (x.agent == t.agent && !x.owed && decide (x.parts ≠ 0) && x.id == t.id) = true then
        { x with entry := x.entry ||| t.entry, trap := x.trap.or t.trap, parts := x.parts - 1 } else x) = zs := by
    refine (List.map_congr_left fun z hm => ?_).trans (List.map_id zs)
    have hz := h z (hz z hm)
    rw [if_neg (by simpa [and_assoc] using hz)]
    rfl
  unfold State.gather
  dsimp only
  rw [if_pos (by rw [hu]; simp only [List.any_append, List.any_cons, hmine, Bool.true_or, Bool.or_true]), hu, List.map_append, List.map_cons,
    if_pos hmine, hskip pre (by simp +contextual), hskip post (by simp +contextual)]

theorem loadPerforms : LoadPerforms := by
  intro s i e x hh hl hr entry trap same
  have hbytes : x.es.foldl (fun v z => v ||| (BitVec.ofNat 4096 (natOfBytes ((s.arrivedAt i e).bytesAt e.agent z)) <<< (8 * z.off))) 0 =
      entry := by
    refine List.foldl_ext _ _ _ fun v z hz => ?_
    unfold State.bytesAt
    rw [hr z hz, State.arrivedAt_mem]
  have htrap : (x.es.findSome? (s.arrivedAt i e).elemPoison).map (fun p => ((0x11 : Byte), p)) = trap := by
    rw [List.map_findSome?]
    congr 1
    funext z
    simp [State.elemPoison, Function.comp_def]
  obtain ⟨acc, hp⟩ := performRead_eq (s.arrivedAt i e) e.agent e.owner x
  rw [hbytes, htrap] at hp
  rw [exec_perform_read hh hl, hp]
  refine ⟨_, rfl, ?_, ?_, ?_, fun hn => ?_, fun pre y post hs hy hn => ?_⟩
  · rw [gather_only]
    exact State.arrivedAt_mem s i e
  · rw [gather_only]
    exact State.arrivedAt_transit s i e
  · rw [gather_only]
    exact State.arrivedAt_agents s i e
  · rw [gather_first _ _ fun y hy => hn y (by simpa using hy)]
    simp
  · rw [gather_joins _ _ y pre post (by simpa using hs) hy hn]


/-! ## Released stores and atomics (09 R214, R215, 04 R112) -/

/-- Byte `j` of a vector's bytes. -/
theorem bytesOf_getElem {w : Nat} (x : BitVec w) (k j : Nat) (h : j < (bytesOf x k).length) : (bytesOf x k)[j] = byteAt x j := by
  have each (k v j : Nat) (h : j < (bytesOfNat k v).length) : (bytesOfNat k v)[j] = BitVec.ofNat 8 (v / 256 ^ j) := by
    induction k generalizing v j with
    | zero => simp at h
    | succ k ih =>
      cases j with
      | zero => simp [bytesOfNat]
      | succ j => simp [bytesOfNat, ih, Nat.pow_succ', Nat.div_div_eq_div_mul]
  have hp : (2 : Nat) ^ (8 * j) = 256 ^ j := Nat.pow_mul 2 8 j
  refine (each k x.toNat j h).trans ?_
  unfold byteAt
  apply BitVec.eq_of_toNat_eq
  rw [BitVec.extractLsb'_toNat, Nat.shiftRight_eq_div_pow, hp, BitVec.toNat_ofNat]

/-- A command performs as its own rule says. -/
theorem performEntry_store {u : State} {e : Transit} {es : List Elem} {v : Vec} (h : e.load = .cmd (.store es v)) :
    u.performEntry e = State.storeElems e.agent e.owner (bytesOf v 512) es u := by
  unfold State.performEntry
  rw [h]

theorem performEntry_atomic {u : State} {e : Transit} {op : AtOp} {wide : Bool} {va v v2 : W64} {q : Option (BitVec 4)}
    (h : e.load = .cmd (.atomic op wide va v v2 q)) :
    u.performEntry e = u.performAtomic e.agent e.owner e.home op wide va v v2 q := by
  unfold State.performEntry
  rw [h]

theorem performEntry_wcAdd {u : State} {e : Transit} {va : W64} {fmt : Byte} {x : W32} (h : e.load = .cmd (.wcAdd va fmt x)) :
    u.performEntry e = u.performWcAdd e.agent e.owner e.home va fmt x := by
  unfold State.performEntry
  rw [h]

theorem performEntry_wcRead {u : State} {e : Transit} {va : W64} {q : BitVec 4} {ks : List Nat} {y : Nat}
    (h : e.load = .cmd (.wcRead va q ks y)) : u.performEntry e = u.performWcRead e.agent e.owner e.home va q ks y := by
  unfold State.performEntry
  rw [h]

theorem performEntry_xarm {u : State} {e : Transit} {va x : W64} (h : e.load = .cmd (.xarm va x)) (hv : u.live e.agent e.owner va = true) :
    u.performEntry e = u.armStep va.toNat x e.owner := by
  unfold State.performEntry
  rw [h]
  simp [hv]

/-- A store of one element inside a page is one write, which its account counts. -/
theorem storeElems_one (u : State) (n : Nat) (w : Who) (bs : List Byte) (z : Elem) (hv : u.live n w z.addr = true) (h0 : 0 < z.len)
    (hk : z.addr.toNat % 4096 + z.len ≤ 4096) (hb : z.off + z.len ≤ bs.length) (hp : u.partPoison n w.pasid z.addr z.len = none) :
    State.storeElems n w bs [z] u =
      (u.put (u.storage n w.pasid z.addr.toNat) ((bs.drop z.off).take z.len)).movedIn w.account (u.tierAt n z.addr.toNat) z.len := by
  have hlen : ((bs.drop z.off).take z.len).length = z.len := by simp; omega
  rw [State.storeElems, hv, hp, ← vaStore_page u n w.pasid z.addr.toNat _ (by omega) (by omega)]
  rfl

/-- The old word, and what an atomic inside a page leaves. -/
theorem performAtomic_live (u : State) (n : Nat) (w : Who) (h : Point) (op : AtOp) (wide : Bool) (va v v2 : W64) (q : Option (BitVec 4))
    (k : Nat) (hk : k = if wide then 8 else 4) (hv : u.live n w va = true) (hp : u.vaPoison n w.pasid va.toNat k = none)
    (hr : regionOf va.toNat = .rented) (hb : va.toNat % 4096 + k ≤ 4096) :
    let a := u.storage n w.pasid va.toNat
    let old := u.mem.num a k
    let new := atomicNew op (8 * k) (BitVec.ofNat (8 * k) old) (v.setWidth (8 * k)) (v2.setWidth (8 * k))
    u.performAtomic n w h op wide va v v2 q =
      (((u.put a (bytesOf new k)).movedIn w.account (u.tierAt n va.toNat) k).atomicEvent h).fetched n w q (entryOf (BitVec.ofNat 64 old)) := by
  have hk0 : 0 < k := by rw [hk]; split <;> decide
  intro a old new
  unfold State.performAtomic
  dsimp only
  rw [← hk, hv, hp]
  dsimp only
  rw [vaBytes_page u n w.pasid va.toNat k hr hb, vaStore_page u n w.pasid va.toNat _ (by simpa using hk0) (by simpa using hb)]
  rfl

/-- Only a fetch form delivers. -/
theorem fetched_eq (u : State) (n : Nat) (w : Who) (q : Option (BitVec 4)) (x : Vec) :
    u.fetched n w q x = { u with arrivals := u.arrivals ++ (match q with
      | some d => [{ agent := n, owner := w, q := d, entry := x, pitches := [], owed := true, dropped := false, trap := none }]
      | none => []) } := by
  cases q with
  | none => simp [State.fetched]
  | some d => rfl

theorem num_lt (m : Memory) (a k : Nat) : m.num a k < 256 ^ k := by
  unfold Memory.num
  induction k generalizing a with
  | zero => simp [Memory.bytes, natOfBytes]
  | succ k ih =>
    have h := ih (a + 1)
    have hb := (m.read a).isLt
    rw [Memory.bytes, natOfBytes, Nat.pow_succ]
    omega

/-- The entry of an old word of at most eight bytes. -/
theorem entryOf_num (m : Memory) (a k : Nat) (hk : k ≤ 8) :
    entryOf (BitVec.ofNat 64 (m.num a k)) = (BitVec.ofNat (8 * k) (m.num a k)).setWidth 4096 := by
  have hn : m.num a k < 2 ^ (8 * k) := by
    rw [Nat.pow_mul]
    exact num_lt m a k
  have h64 : m.num a k < 2 ^ 64 := hn.trans_le (Nat.pow_le_pow_right (by decide) (by omega))
  apply BitVec.eq_of_toNat_eq
  simp only [entryOf, BitVec.toNat_setWidth, BitVec.toNat_ofNat, Nat.mod_eq_of_lt hn, Nat.mod_eq_of_lt h64]

theorem storesPerform : StoresPerform := by
  intro s i e va k n x hh hq hv h0 hk hp hvp hr
  refine ⟨fun z v hz hzl hzo hl => ?_, fun op wide v v2 q hw hl => ?_⟩
  · subst hz hzl
    rw [exec_perform_cmd hh hl, performEntry_store hl,
      storeElems_one _ _ _ _ z (by simpa using hv) h0 hk (by simpa using hzo) (by simpa using hp), State.arrivedAt_storage]
    have hlen : (((bytesOf v 512).drop z.off).take z.len).length = z.len := by simp; omega
    refine ⟨_, rfl, ?_, fun j hj => ?_, fun y hy => ?_⟩
    · rw [State.movedIn_only, put_only]
      exact State.arrivedAt_transit s i e
    · rw [State.movedIn_mem, put_mem _ _ _ (by simpa using hq), read_write_in _ _ _ _ (by omega), List.getElem_take, List.getElem_drop,
        bytesOf_getElem]
    · rw [State.movedIn_mem, put_out _ _ _ _ (by rw [hlen]; exact hy), State.arrivedAt_mem]
  · rw [exec_perform_cmd hh hl, performEntry_atomic hl,
      performAtomic_live _ _ _ _ op wide va v v2 q k hw (by simpa using hv) (by simpa using hvp) hr hk, fetched_eq, State.arrivedAt_storage,
      State.arrivedAt_mem, State.atomicEvent_only, State.movedIn_only]
    refine ⟨_, _, rfl, rfl, ?_, ?_, fun y hy => ?_, fun hd => ?_, fun d hd => ?_⟩
    · rw [put_only]
      exact State.arrivedAt_transit s i e
    · dsimp only
      rw [num_put _ _ _ _ (by simpa using hq)]
    · dsimp only
      rw [put_out _ _ _ _ (by simpa using hy), State.arrivedAt_mem]
    · subst hd
      rw [put_only]
      simp
    · subst hd
      rw [put_only]
      dsimp only
      rw [State.arrivedAt_arrivals, entryOf_num _ _ _ (by rw [hw]; split <;> decide)]

theorem lapsedEntriesPerform : LapsedEntriesPerform := by
  intro s i e va n expired hh hv
  have hv' : (s.arrivedAt i e).live e.agent e.owner va = false := by simpa using hv
  refine ⟨fun z v hz hl => ?_, fun op wide v v2 q hl => ?_, fun fmt x hl => ?_, fun q ks y hl => ?_⟩
  · rw [exec_perform_cmd hh hl, performEntry_store hl, State.storeElems, hz, hv']
    exact ⟨_, rfl, State.arrivedAt_mem s i e, State.arrivedAt_arrivals s i e, State.arrivedAt_transit s i e⟩
  · rw [exec_perform_cmd hh hl, performEntry_atomic hl, State.performAtomic, hv', if_pos (by rfl), fetched_eq]
    exact ⟨_, rfl, State.arrivedAt_mem s i e, congrArg (· ++ _) (State.arrivedAt_arrivals s i e)⟩
  · rw [exec_perform_cmd hh hl, performEntry_wcAdd hl, State.performWcAdd, hv', if_pos (by rfl)]
    exact ⟨_, rfl, State.arrivedAt_mem s i e, State.arrivedAt_wcStatus s i e⟩
  · rw [exec_perform_cmd hh hl, performEntry_wcRead hl, State.performWcRead, hv', if_pos (by rfl)]
    exact ⟨_, rfl, State.arrivedAt_mem s i e, congrArg (· ++ _) (State.arrivedAt_arrivals s i e)⟩


/-! ## Wide cells (06 R150–R152, 09 R216) -/

/-- The exponent of a finite value, at or above that of a wide cell's lowest bit. -/
def onGrid (x : Machine.Num) : Prop :=
  match x with
  | .fin _ _ e => -192 ≤ e
  | _ => True

theorem onGrid_f32 (c : W32) : onGrid (f32Num c) := by
  unfold f32Num
  dsimp only
  split
  · split <;> trivial
  · split
    · exact (by decide : (-192 : Int) ≤ -149)
    · show (-192 : Int) ≤ (_ : Int) - 150
      omega

/-- The bias of a binary8 format is at most 128. -/
theorem b8Bias_le (f : Byte) : b8Bias f ≤ 128 := by
  unfold b8Bias b8P
  have hp (j : Nat) (hj : j ≤ 7) : 1 <<< j ≤ 128 := by
    rw [Nat.one_shiftLeft]
    exact (Nat.pow_le_pow_right (by decide) hj).trans (by decide : 2 ^ 7 ≤ 128)
  split
  · exact hp _ (by omega)
  · exact hp _ (by omega)

theorem onGrid_b8 (f : Byte) (c : Nat) : onGrid (b8Num f c) := by
  have hb := b8Bias_le f
  have hm : b8P f - 1 < 8 := by
    unfold b8P
    omega
  unfold b8Num
  dsimp only
  generalize (if b8Signed f = true then c % 0x80 else c) = mag
  split
  · trivial
  · split
    · trivial
    · split
      · exact (by decide : (-192 : Int) ≤ 0)
      · split
        · show (-192 : Int) ≤ 1 - (b8Bias f : Int) - ((b8P f - 1 : Nat) : Int)
          omega
        · show (-192 : Int) ≤ ((mag >>> (b8P f - 1) : Nat) : Int) - (b8Bias f : Int) - ((b8P f - 1 : Nat) : Int)
          generalize mag >>> (b8P f - 1) = z
          omega

/-- Every value that a wide cell takes up lies on its grid. -/
theorem onGrid_fmtNum (fmt : Byte) (c : Nat) (h : fmt = 0x00 ∨ fmt = 0x01 ∨ isBinary8 fmt = true) : onGrid (fmtNum fmt c) := by
  rcases h with rfl | rfl | h
  · exact onGrid_f32 _
  · exact onGrid_f32 _
  · have hne (f : Byte) (hf : isBinary8 f = false) : fmt ≠ f := by
      rintro rfl
      rw [hf] at h
      cases h
    unfold fmtNum
    rw [if_neg (hne _ (by decide)), if_neg (hne _ (by decide)), if_neg (hne _ (by decide)), if_neg (hne _ (by decide)),
      if_neg (hne _ (by decide)), if_neg (hne _ (by decide)), if_neg (hne _ (by decide)), if_neg (hne _ (by decide))]
    exact onGrid_b8 fmt c

/-- On the grid, the model's add is that of R151. -/
theorem add_eq_cellAfter (c : Wide) (x : Machine.Num) (h : onGrid x) :
    c.add x = { v := (cellAfter c.v c.st x).1, st := (cellAfter c.v c.st x).2 } := by
  cases x with
  | nan => rfl
  | inf neg => cases neg <;> rfl
  | fin neg m e =>
    obtain ⟨j, hj⟩ := Int.eq_ofNat_of_zero_le (show 0 ≤ e + 192 by have h : -192 ≤ e := h; omega)
    have hs : signInt neg (m <<< j / 1) = (if neg then -1 else 1) * ((m * 2 ^ j : Nat) : Int) := by
      rw [Nat.div_one, Nat.shiftLeft_eq]
      cases neg <;> simp [signInt]
    have hw : c.add (.fin neg m e) =
        (let w : Int := c.v.toInt + signInt neg (m <<< j / 1)
         if w > 2 ^ 511 - 1 then { v := BitVec.ofInt 512 (2 ^ 511 - 1), st := c.st ||| 1 }
         else if w < -(2 ^ 511) then { v := BitVec.ofInt 512 (-(2 ^ 511)), st := c.st ||| 1 }
         else { c with v := BitVec.ofInt 512 w }) := by
      unfold Wide.add
      dsimp only
      rw [hj]
      rfl
    rw [hw, hs]
    unfold cellAfter
    dsimp only
    rw [hj, Int.toNat_natCast]
    generalize (2 ^ 511 : Int) = b
    generalize c.v.toInt + (if neg = true then -1 else 1) * ((m * 2 ^ j : Nat) : Int) = w
    split
    · rfl
    · split <;> rfl

/-- A wide-cell add performs inside its page. -/
theorem performWcAdd_live (u : State) (n : Nat) (w : Who) (h : Point) (va : W64) (fmt : Byte) (x : W32) (hv : u.live n w va = true)
    (hp : u.vaPoison n w.pasid va.toNat 64 = none) (ha : va.toNat % 64 = 0) :
    let a := u.storage n w.pasid va.toNat
    let c := (u.wideCell a).add (fmtNum fmt (x.toNat % 2 ^ fmtBits fmt))
    let t := (u.put a (bytesOf c.v 64)).movedIn w.account (u.tierAt n va.toNat) 64
    u.performWcAdd n w h va fmt x = { t with wcStatus := Tab.set 0 t.wcStatus a c.st }.atomicEvent h := by
  intro a c t
  have hs : t.storage n w.pasid va.toNat = a := by
    dsimp only [t]
    rw [State.movedIn_only, put_only]
    rfl
  unfold State.performWcAdd
  rw [hv, hp]
  dsimp only
  rw [vaStore_page u n w.pasid va.toNat _ (by simp) (by rw [bytesOf_length]; omega), ← hs]
  rfl

/-- The entry of a WCREAD. -/
theorem wcEntry_eq (c : Wide) :
    ((c.st.setWidth 32 ++ c.read).setWidth 4096 : Vec) = BitVec.ofNat 4096 (c.read.toNat + 2 ^ 32 * c.st.toNat) := by
  apply BitVec.eq_of_toNat_eq
  have hst := c.st.isLt
  rw [BitVec.toNat_setWidth, BitVec.toNat_append, ← Nat.shiftLeft_add_eq_or_of_lt c.read.isLt, BitVec.toNat_ofNat, BitVec.toNat_setWidth,
    Nat.mod_eq_of_lt (by omega : c.st.toNat < 2 ^ 32), Nat.shiftLeft_eq, Nat.add_comm, Nat.mul_comm]

theorem wideCellsPerform : WideCellsPerform := by
  intro s i e va n y hh hq hv ha hr
  refine ⟨fun fmt x hf hp hl => ?_, fun q ks z hp hl => ?_⟩
  · intro c
    rw [exec_perform_cmd hh hl, performEntry_wcAdd hl, performWcAdd_live _ _ _ _ va fmt x (by simpa using hv) (by simpa using hp) ha]
    have hc : ((s.arrivedAt i e).wideCell y).add (fmtNum fmt (x.toNat % 2 ^ fmtBits fmt)) = { v := c.1, st := c.2 } := by
      rw [add_eq_cellAfter _ _ (onGrid_fmtNum fmt _ hf), State.wideCell, State.arrivedAt_mem, State.arrivedAt_wcStatus]
    rw [State.arrivedAt_storage, hc, State.atomicEvent_only, State.movedIn_only, put_only]
    dsimp only
    refine ⟨_, rfl, ?_, ?_, ?_, fun z hz => ?_⟩
    · exact State.arrivedAt_transit s i e
    · exact num_put _ _ _ _ (by simpa using hq)
    · exact Tab.get_set _ _ _ _
    · dsimp only
      rw [put_out _ _ _ _ (by simpa using hz), State.arrivedAt_mem]
  · intro c
    rw [exec_perform_cmd hh hl, performEntry_wcRead hl, State.performWcRead, State.arrivedAt_live, hv, State.arrivedAt_poisonedAt, hp]
    dsimp only
    rw [wcEntry_eq, State.wideCell, State.arrivedAt_mem, State.arrivedAt_wcStatus, State.atomicEvent_only, State.movedIn_only, State.deliver]
    exact ⟨_, rfl, State.arrivedAt_mem s i e, State.arrivedAt_wcStatus s i e, congrArg (· ++ _) (State.arrivedAt_arrivals s i e)⟩

end Sys2Proof.Spec

/-! ## Arm counters (16 R332, R333, R339) -/

namespace Sys2Proof.Machine

section
variable (s : State) (va k x : Nat)

@[simp] theorem State.putArmWord_work : (s.putArmWord va k x).work = s.work := by rw [State.putArmWord, put_only]
@[simp] theorem State.putArmWord_transit : (s.putArmWord va k x).transit = s.transit := by rw [State.putArmWord, put_only]
@[simp] theorem State.putArmWord_arms : (s.putArmWord va k x).arms = s.arms := by rw [State.putArmWord, put_only]
@[simp] theorem State.putArmWord_quarantined : (s.putArmWord va k x).quarantined = s.quarantined := by rw [State.putArmWord, put_only]
@[simp] theorem State.putArmWord_storage (a : Nat) : (s.putArmWord va k x).storage 0 none a = s.storage 0 none a := by
  rw [State.putArmWord, put_only]; rfl

/-- A word of a counter just written. -/
theorem State.armWord_putArmWord (hq : s.quarantined = []) (hx : x < 2 ^ 64) : (s.putArmWord va k x).armWord va k = x := by
  have h := num_put s (s.storage 0 none va + 8 * k) 8 (BitVec.ofNat (8 * 8) x) hq
  rw [bytesOf, BitVec.toNat_ofNat, Nat.mod_eq_of_lt hx] at h
  rw [State.armWord, State.putArmWord_storage, State.putArmWord, h]

/-- The other word stays. -/
theorem State.armWord_putArmWord_ne (j : Nat) (h : j ≠ k) : (s.putArmWord va k x).armWord va j = s.armWord va j := by
  rw [State.armWord, State.putArmWord_storage, State.putArmWord, num_put_out _ _ _ _ _ (by rw [bytesOfNat_length]; omega), State.armWord]

/-- Bytes outside the counter stay. -/
theorem State.putArmWord_out (hk : k < 2) (z : Nat) (hz : z < s.storage 0 none va ∨ s.storage 0 none va + 16 ≤ z) :
    (s.putArmWord va k x).mem.read z = s.mem.read z := by
  rw [State.putArmWord, put_out _ _ _ _ (by rw [bytesOfNat_length]; omega)]

end

/-! Handing entries over. -/

@[simp] theorem State.fabricBytes_work (s : State) (acct : BitVec 10) (k : Nat) : (s.fabricBytes acct k).work = s.work := rfl

theorem State.handWork_work (s : State) (w : Work) : (s.handWork w).1.work = s.work := by
  unfold State.handWork
  dsimp only
  split
  · split
    · rfl
    · rw [State.takeRequests, vaStore_only]
  · split
    · split
      · rw [touchVa_only]
        rfl
      · dsimp only
        rw [touchVa_only]
        rfl
    · rfl

theorem State.handWork_handed (s : State) (w : Work) : (s.handWork w).2.handed = true := by
  unfold State.handWork
  dsimp only
  split
  · split <;> rfl
  · split <;> rfl

/-- After an entry is handed over, every entry of its number is. -/
theorem State.hand_work (s : State) (k : Nat) (w : Work) (hw : w ∈ (s.hand k).work) :
    w.handed = true ∨ (w ∈ s.work ∧ w.num ≠ k) := by
  unfold State.hand at hw
  split at hw
  next hn => exact .inr ⟨hw, by simpa using List.find?_eq_none.mp hn w hw⟩
  next v hv =>
    simp only [State.handWork_work, List.mem_append, List.mem_filter, List.mem_singleton] at hw
    rcases hw with ⟨hw, hn⟩ | rfl
    · exact .inr ⟨hw, by simpa using hn⟩
    · exact .inl (State.handWork_handed s v)

theorem State.hands_work (ks : List Nat) (s : State) (w : Work) (hw : w ∈ (ks.foldl State.hand s).work) :
    w.handed = true ∨ (w ∈ s.work ∧ w.num ∉ ks) := by
  induction ks generalizing s with
  | nil => exact .inr ⟨hw, List.not_mem_nil⟩
  | cons k ks ih =>
    rcases ih (s.hand k) hw with h | ⟨h, hk⟩
    · exact .inl h
    · rcases State.hand_work s k w h with h | ⟨h, hn⟩
      · exact .inl h
      · exact .inr ⟨h, by simp [hn, hk]⟩

/-- Once a counter has fired, no entry that waits on it is left behind. -/
theorem State.waiting_handed (s : State) (va : Nat) (w : Work) (hw : w ∈ ((s.waitingOn va).foldl State.hand s).work)
    (ht : (trigOf w.entry).toNat = va) : w.handed = true := by
  rcases State.hands_work _ s w hw with h | ⟨h, hk⟩
  · exact h
  · cases hn : w.handed with
    | true => rfl
    | false => exact absurd (List.mem_map.mpr ⟨w, List.mem_filter.mpr ⟨h, by simp [hn, ht]⟩, rfl⟩) hk

@[simp] theorem State.armEvent_work (s : State) (va b : Nat) : (s.armEvent va b).work = s.work := by
  unfold State.armEvent
  split
  · split <;> rfl
  · rfl

/-! Firing. -/

/-- A counter below its threshold does not fire. -/
theorem State.fire_below (s : State) (va : Nat) (h : ¬ s.armWord va 1 % 2 ^ 28 ≤ s.armWord va 0 % 2 ^ 28) : s.fire va = s := by
  unfold State.fire
  dsimp only
  rw [if_neg fun hc => h (of_decide_eq_true ((Bool.and_eq_true _ _).mp hc).2)]

/-- An armed counter that has reached it does: FIRED takes the place of ARMED, entries are handed over, and an event may leave. -/
theorem State.fire_reached (s : State) (va : Nat) (ha : (s.armWord va 1).testBit 28 = true) (hf : (s.armWord va 1).testBit 29 = false)
    (h : s.armWord va 1 % 2 ^ 28 ≤ s.armWord va 0 % 2 ^ 28) :
    let u := s.putArmWord va 1 (s.armWord va 1 - 2 ^ 28 + 2 ^ 29)
    let t := (u.waitingOn va).foldl State.hand u
    s.fire va = if (s.armWord va 1).testBit 31 then t.armEvent va (s.armWord va 1 / 2 ^ 32 % 512) else t := by
  unfold State.fire
  dsimp only
  rw [ha, hf, if_pos (by simpa using h)]
  rfl

/-- What XARM writes into word 1: THRESH, ARMED, EVEN and AGENT. -/
def armFields (x : W64) : Nat :=
  (x.extractLsb' 0 28).toNat + 2 ^ 28 + (if x.getLsbD 29 then 2 ^ 31 else 0) + 2 ^ 32 * (x.extractLsb' 32 9).toNat

/-- The state that XARM leaves before the counter may fire. -/
def State.armed (s : State) (va : Nat) (x : W64) (w : Who) : State :=
  { (if x.getLsbD 28 then s.putArmWord va 0 0 else s).putArmWord va 1 (armFields x) with
    arms := Tab.set none s.arms (va / 16) (some (w.account, w.context)) }

section
variable (s : State) (va : Nat) (x : W64) (w : Who)

theorem armFields_lt : armFields x < 2 ^ 64 := by
  have ht := (x.extractLsb' 0 28).isLt
  have ha := (x.extractLsb' 32 9).isLt
  unfold armFields
  split <;> omega

theorem armFields_thresh : armFields x % 2 ^ 28 = (x.extractLsb' 0 28).toNat := by
  have ht := (x.extractLsb' 0 28).isLt
  unfold armFields
  split <;> omega

theorem armFields_agent : armFields x / 2 ^ 32 % 512 = (x.extractLsb' 32 9).toNat := by
  have ht := (x.extractLsb' 0 28).isLt
  have ha := (x.extractLsb' 32 9).isLt
  unfold armFields
  split <;> omega

theorem armFields_armed : (armFields x).testBit 28 = true := by
  have ht := (x.extractLsb' 0 28).isLt
  rw [Nat.testBit_eq_decide_div_mod_eq, decide_eq_true_eq]
  unfold armFields
  split <;> omega

theorem armFields_unfired : (armFields x).testBit 29 = false := by
  have ht := (x.extractLsb' 0 28).isLt
  rw [Nat.testBit_eq_decide_div_mod_eq, decide_eq_false_iff_not]
  unfold armFields
  split <;> omega

theorem armFields_even : (armFields x).testBit 31 = x.getLsbD 29 := by
  have ht := (x.extractLsb' 0 28).isLt
  rw [Nat.testBit_eq_decide_div_mod_eq]
  unfold armFields
  split
  next he => rw [he, decide_eq_true_eq]; omega
  next he => rw [Bool.eq_false_iff.mpr he, decide_eq_false_iff_not]; omega

@[simp] theorem State.armed_work : (s.armed va x w).work = s.work := by
  unfold State.armed
  cases x.getLsbD 28 <;> simp

@[simp] theorem State.armed_transit : (s.armed va x w).transit = s.transit := by
  unfold State.armed
  cases x.getLsbD 28 <;> simp

@[simp] theorem State.armed_quarantined : (s.armed va x w).quarantined = s.quarantined := by
  unfold State.armed
  cases x.getLsbD 28 <;> simp

@[simp] theorem State.armed_storage (a : Nat) : (s.armed va x w).storage 0 none a = s.storage 0 none a := by
  have h (t : State) (arms : Tab (Option (BitVec 10 × BitVec 16))) : ({ t with arms := arms }).storage 0 none a = t.storage 0 none a := rfl
  rw [State.armed, h, State.putArmWord_storage]
  split <;> simp

theorem State.armed_word1 (hq : s.quarantined = []) : (s.armed va x w).armWord va 1 = armFields x := by
  refine (State.armWord_putArmWord _ va 1 (armFields x) ?_ (armFields_lt x))
  split <;> simpa using hq

theorem State.armed_word0 (hq : s.quarantined = []) :
    (s.armed va x w).armWord va 0 = if x.getLsbD 28 then 0 else s.armWord va 0 := by
  refine (State.armWord_putArmWord_ne _ va 1 (armFields x) 0 (by decide)).trans ?_
  split
  · exact State.armWord_putArmWord s va 0 0 hq (by decide)
  · rfl

theorem State.armed_out (z : Nat) (hz : z < s.storage 0 none va ∨ s.storage 0 none va + 16 ≤ z) :
    (s.armed va x w).mem.read z = s.mem.read z := by
  refine (State.putArmWord_out _ va 1 (armFields x) (by decide) z ?_).trans ?_
  · split <;> simpa using hz
  · split
    · exact State.putArmWord_out s va 0 0 (by decide) z hz
    · rfl

end

theorem State.armStep_eq (s : State) (va : Nat) (x : W64) (w : Who) : s.armStep va x w = (s.armed va x w).fire va := by
  unfold State.armStep State.armed
  cases x.getLsbD 28 <;> rfl

end Sys2Proof.Machine

namespace Sys2Proof.Spec

open Sys2Proof Sys2Proof.Machine

/-- Which event a firing sends from the VOP. -/
theorem armEvent_transit (t : State) (va b : Nat) (acct : BitVec 10) (ctx : BitVec 16)
    (h : Tab.get none t.arms (va / 16) = some (acct, ctx)) :
    (t.armEvent va b).transit = t.transit ++ (if b < 312 then [{
      agent := 312, owner := { account := acct, context := ctx, pasid := none, tslot := 0, ts := 0, j := 0 }, seq := 0
      load := .cmd (.event (BitVec.ofNat 64 b)), passed := .vop
      route := [.dop (dieOf b), .lop (loomOf b), .agent b], home := .agent b }] else []) := by
  unfold State.armEvent
  rw [h]
  dsimp only
  split
  · rfl
  · simp

/-- An event changes what travels alone. -/
theorem armEvent_only (t : State) (va b : Nat) : t.armEvent va b = { t with transit := (t.armEvent va b).transit } := by
  unfold State.armEvent
  split
  · split <;> rfl
  · rfl

/-- Whether the counter that XARM leaves has reached its threshold. -/
def reaches (u : State) (va : Nat) (x : W64) : Prop :=
  (x.extractLsb' 0 28).toNat ≤ if x.getLsbD 28 then 0 else u.armWord va 0 % 2 ^ 28

/-- So the firing rule asks. -/
theorem reaches_iff (u : State) (va : Nat) (x : W64) (w : Who) (hq : u.quarantined = []) :
    reaches u va x ↔ (u.armed va x w).armWord va 1 % 2 ^ 28 ≤ (u.armed va x w).armWord va 0 % 2 ^ 28 := by
  rw [State.armed_word1 u va x w hq, armFields_thresh, State.armed_word0 u va x w hq, reaches]
  cases x.getLsbD 28 <;> rfl

/-- A counter that XARM leaves below its threshold does not fire. -/
theorem armStep_below (u : State) (va : Nat) (x : W64) (w : Who) (hq : u.quarantined = []) (h : ¬ reaches u va x) :
    u.armStep va x w = u.armed va x w := by
  rw [State.armStep_eq, State.fire_below _ _ (mt (reaches_iff u va x w hq).mpr h)]

/-- The state once FIRED has taken the place of ARMED. -/
def fired (u : State) (va : Nat) (x : W64) (w : Who) : State := (u.armed va x w).putArmWord va 1 (armFields x - 2 ^ 28 + 2 ^ 29)

/-- One that has reached it fires. -/
theorem armStep_reached (u : State) (va : Nat) (x : W64) (w : Who) (hq : u.quarantined = []) (h : reaches u va x) :
    let t := ((fired u va x w).waitingOn va).foldl State.hand (fired u va x w)
    u.armStep va x w = if x.getLsbD 29 then t.armEvent va (x.extractLsb' 32 9).toNat else t := by
  have h1 := State.armed_word1 u va x w hq
  have hf := State.fire_reached (u.armed va x w) va (by rw [h1]; exact armFields_armed x) (by rw [h1]; exact armFields_unfired x)
    ((reaches_iff u va x w hq).mp h)
  rw [h1, armFields_even, armFields_agent] at hf
  rw [State.armStep_eq, hf]
  rfl

/-- An entry that is handed over, or waits elsewhere, does not wait on a counter. -/
theorem waitingOn_none (s : State) (va : Nat) (h : ∀ w ∈ s.work, w.handed = true ∨ (trigOf w.entry).toNat ≠ va) : s.waitingOn va = [] := by
  rw [State.waitingOn, List.map_eq_nil_iff, List.filter_eq_nil_iff]
  intro w hw
  rcases h w hw with h | h <;> simp [h]

/-- Where no entry waits on a counter that fires, an event may leave and nothing else follows. -/
theorem armStep_alone (u : State) (va : Nat) (x : W64) (w : Who) (hq : u.quarantined = []) (h : reaches u va x)
    (hno : ∀ w ∈ u.work, w.handed = true ∨ (trigOf w.entry).toNat ≠ va) :
    let b := (x.extractLsb' 32 9).toNat
    u.armStep va x w = { fired u va x w with transit := u.transit ++ (if x.getLsbD 29 = true ∧ b < 312 then [{
      agent := 312, owner := { account := w.account, context := w.context, pasid := none, tslot := 0, ts := 0, j := 0 }, seq := 0
      load := .cmd (.event (BitVec.ofNat 64 b)), passed := .vop
      route := [.dop (dieOf b), .lop (loomOf b), .agent b], home := .agent b }] else []) } := by
  intro b
  have hw : (fired u va x w).waitingOn va = [] := waitingOn_none _ va (by simpa [fired] using hno)
  have ha : Tab.get none (fired u va x w).arms (va / 16) = some (w.account, w.context) := by
    rw [fired, State.putArmWord_arms]
    exact Tab.get_set _ _ _ _
  have ht : (fired u va x w).transit = u.transit := by simp [fired]
  rw [armStep_reached u va x w hq h, hw, List.foldl_nil]
  generalize fired u va x w = f at *
  cases x.getLsbD 29 with
  | false => rw [if_neg (by decide), if_neg (by simp), List.append_nil, ← ht]
  | true => rw [if_pos rfl, armEvent_only, armEvent_transit f va _ _ _ ha, ht]; simp only [true_and, b]

/-- Every entry that waits on a counter which XARM makes fire is handed over. -/
theorem armStep_hands (u : State) (va : Nat) (x : W64) (w : Who) (hq : u.quarantined = []) (h : reaches u va x) (z : Work)
    (hz : z ∈ (u.armStep va x w).work) (ht : (trigOf z.entry).toNat = va) : z.handed = true := by
  rw [armStep_reached u va x w hq h] at hz
  refine State.waiting_handed (fired u va x w) va z ?_ ht
  split at hz
  · rwa [State.armEvent_work] at hz
  · exact hz

theorem fired_out (u : State) (va : Nat) (x : W64) (w : Who) (z : Nat)
    (hz : z < u.storage 0 none va ∨ u.storage 0 none va + 16 ≤ z) : (fired u va x w).mem.read z = u.mem.read z := by
  rw [fired, State.putArmWord_out _ _ _ _ (by decide) z (by simpa using hz), State.armed_out u va x w z hz]

theorem fired_word0 (u : State) (va : Nat) (x : W64) (w : Who) (hq : u.quarantined = []) :
    (fired u va x w).armWord va 0 = if x.getLsbD 28 then 0 else u.armWord va 0 := by
  rw [fired, State.armWord_putArmWord_ne _ _ _ _ 0 (by decide), State.armed_word0 u va x w hq]

theorem fired_word1 (u : State) (va : Nat) (x : W64) (w : Who) (hq : u.quarantined = []) :
    (fired u va x w).armWord va 1 = armFields x - 2 ^ 28 + 2 ^ 29 := by
  have hlt : armFields x - 2 ^ 28 + 2 ^ 29 < 2 ^ 64 := by
    have ht := (x.extractLsb' 0 28).isLt
    have ha := (x.extractLsb' 32 9).isLt
    unfold armFields
    split <;> omega
  exact State.armWord_putArmWord _ _ _ _ (by simpa using hq) hlt

theorem armCounterFires : ArmCounterFires := by
  intro s i e va x n y count thresh agent even hh hl hq hv ha hr
  generalize hu : s.arrivedAt i e = u
  have uq : u.quarantined = [] := by rw [← hu]; simpa using hq
  have uw : u.work = s.work := by rw [← hu]; simp
  have um : u.mem = s.mem := by rw [← hu]; simp
  have ut : u.transit = s.transit.eraseIdx i := by rw [← hu]; simp
  have us : u.storage 0 none va.toNat = y := by rw [← hu]; simp [y]
  have u0 : u.armWord va.toNat 0 = s.mem.num y 8 := by rw [State.armWord, us, um]; rfl
  have hreach : reaches u va.toNat x ↔ thresh ≤ count := by rw [reaches, u0]
  rw [exec_perform_cmd hh hl, performEntry_xarm hl (by simpa using hv), hu]
  refine ⟨_, rfl, fun hle w hw ht => armStep_hands u _ x _ uq (hreach.mpr hle) w hw ht, fun hno => ?_⟩
  have hword (t : State) (k : Nat) (ht : t.storage 0 none va.toNat = y) : t.mem.num (y + 8 * k) 8 = t.armWord va.toNat k := by
    rw [State.armWord, ht]
  have hzero (z : Nat) (hz : z = if x.getLsbD 28 then 0 else u.armWord va.toNat 0) :
      if x.getLsbD 28 then z = 0 else z = s.mem.num y 8 := by
    rw [hz, u0]
    cases x.getLsbD 28 <;> simp
  by_cases hle : thresh ≤ count
  · have fs : (fired u va.toNat x e.owner).storage 0 none va.toNat = y := by rw [fired, State.putArmWord_storage, State.armed_storage, us]
    have w0 := (hword _ 0 fs).trans (fired_word0 u va.toNat x e.owner uq)
    have w1 := (hword _ 1 fs).trans (fired_word1 u va.toNat x e.owner uq)
    have fa : Tab.get none (fired u va.toNat x e.owner).arms (va.toNat / 16) = some (e.owner.account, e.owner.context) := by
      rw [fired, State.putArmWord_arms]
      exact Tab.get_set _ _ _ _
    have fo := fired_out u va.toNat x e.owner
    rw [armStep_alone u _ x _ uq (hreach.mpr hle) (by rwa [uw])]
    generalize fired u va.toNat x e.owner = f at *
    dsimp only
    refine ⟨hzero _ w0, ?_, fun z hz => ?_, fa, ?_⟩
    · rw [if_pos hle, w1, armFields]
      dsimp only [even, thresh, agent]
      split <;> omega
    · rw [fo z (by rwa [us]), um]
    · rw [ut]
      simp only [hle, true_and, agent]
  · have as : (u.armed va.toNat x e.owner).storage 0 none va.toNat = y := by rw [State.armed_storage, us]
    have w0 := (hword _ 0 as).trans (State.armed_word0 u va.toNat x e.owner uq)
    have w1 := (hword _ 1 as).trans (State.armed_word1 u va.toNat x e.owner uq)
    have aa : Tab.get none (u.armed va.toNat x e.owner).arms (va.toNat / 16) = some (e.owner.account, e.owner.context) := Tab.get_set _ _ _ _
    rw [armStep_below u _ x _ uq (mt hreach.mp hle)]
    refine ⟨hzero _ w0, ?_, fun z hz => ?_, aa, ?_⟩
    · rw [if_neg hle, w1, armFields]
      dsimp only [even, thresh, agent]
      split <;> omega
    · rw [State.armed_out u _ x _ z (by rwa [us]), um]
    · rw [State.armed_transit, ut, if_neg fun h => hle h.1, List.append_nil]

/-- Settles O30, part by part: a load gathers its parts, a store inside a page is one write, and XARM is its fields and the firing rule. -/
theorem entriesPerform : Obligations.EntriesPerform :=
  ⟨loadPerforms, storesPerform, lapsedEntriesPerform, wideCellsPerform, armCounterFires⟩

end Sys2Proof.Spec
end

section
/-!
PROOFS. REPORT and DESC lay their fields out (04 R101, R120), SAVEIO copies (12 R278), and the host's accesses enter and perform (04 R114,
10 R235).
-/

namespace Sys2Proof.Machine

/-! ## Fields behind one another -/

/-- Fields, each of a width in bytes and a value, one behind the other. -/
def laid (fs : List (Nat × Nat)) : List Byte := fs.flatMap (fun f => le f.1 f.2)

/-- Field `j`, whatever follows; it begins where the widths `ws` before it end. -/
theorem numAt_laid {fs : List (Nat × Nat)} {ws : List Nat} (hw : fs.map (·.1) = ws) (rest : List Byte) (j k x o : Nat)
    (h : fs[j]? = some (k, x)) (ho : (ws.take j).sum = o) : numAt (laid fs ++ rest) o k = x % 256 ^ k := by
  subst hw ho
  induction fs generalizing j with
  | nil => simp at h
  | cons f fs ih =>
    rw [laid, List.flatMap_cons, List.append_assoc]
    cases j with
    | zero =>
      obtain rfl : f = (k, x) := by simpa using h
      exact numAt_here k x _
    | succ j =>
      rw [List.map_cons, List.take_succ_cons, List.sum_cons, numAt_skip _ _ _ _ (by simp), le_length, Nat.add_sub_cancel_left]
      exact ih j (by simpa using h)

/-- A field of eight bytes that holds a word. -/
theorem numAt_laid_word {fs : List (Nat × Nat)} {ws : List Nat} (hw : fs.map (·.1) = ws) (rest : List Byte) (j : Nat) (x : W64) (o : Nat)
    (h : fs[j]? = some (8, x.toNat)) (ho : (ws.take j).sum = o) : numAt (laid fs ++ rest) o 8 = x.toNat := by
  rw [numAt_laid hw rest j 8 x.toNat o h ho]
  exact Nat.mod_eq_of_lt x.isLt

/-- Bytes cut after the first `a`. -/
theorem bytesOfNat_add (a b x : Nat) : bytesOfNat (a + b) x = bytesOfNat a x ++ bytesOfNat b (x / 256 ^ a) := by
  induction a generalizing x with
  | zero => simp [bytesOfNat]
  | succ a ih => rw [Nat.add_right_comm, bytesOfNat, bytesOfNat, ih, Nat.pow_succ', Nat.div_div_eq_div_mul, List.cons_append]

/-- The first `k` bytes see no more of a number. -/
theorem bytesOfNat_add_mul (k h x : Nat) : bytesOfNat k (h + 256 ^ k * x) = bytesOfNat k h := by
  induction k generalizing h with
  | zero => rfl
  | succ k ih =>
    have he : h + 256 ^ (k + 1) * x = h + 256 * (256 ^ k * x) := by rw [Nat.pow_succ', Nat.mul_assoc]
    have hb : BitVec.ofNat 8 (h + 256 * (256 ^ k * x)) = BitVec.ofNat 8 h := by
      apply BitVec.eq_of_toNat_eq
      rw [BitVec.toNat_ofNat, BitVec.toNat_ofNat]
      exact Nat.add_mul_mod_self_left _ _ _
    rw [bytesOfNat, bytesOfNat, he, hb, Nat.add_mul_div_left _ _ (by decide), ih]

theorem laid_length (fs : List (Nat × Nat)) : (laid fs).length = (fs.map (·.1)).sum := by
  simp [laid, List.length_flatMap]

end Sys2Proof.Machine

namespace Sys2Proof.Spec

open Sys2Proof Sys2Proof.Machine

/-! ## REPORT and DESC -/

/-- The fields of the first 128 bytes of a report. -/
def reportFields (s : State) (acct : BitVec 10) : List (Nat × Nat) :=
  let c := s.account acct
  let m (k : Nat) : Nat × Nat := (8, (Tab.get 0 c.moved k).toNat)
  [(4, 1), (4, acct.toNat), (8, s.reportNo.toNat), (8, s.now.toNat), (8, c.charged.toNat), (8, c.refunded.toNat), (8, c.overstay.toNat),
    (8, (c.bundleCycles + Config.stallCycles s.freeCtr).toNat), m 0, m 1, m 2, m 3, m 4, m 5, (8, c.fabric.toNat), (8, c.committed.toNat), (8, 0)]

theorem reportBody_laid (s : State) (acct : BitVec 10) : s.reportBody acct = laid (reportFields s acct) := by
  simp only [State.reportBody, reportFields, laid, List.flatMap_cons, List.flatMap_nil, List.append_assoc, List.append_nil,
    show List.range 6 = [0, 1, 2, 3, 4, 5] from rfl]

theorem reportFields_widths (s : State) (acct : BitVec 10) :
    (reportFields s acct).map (·.1) = [4, 4, 8, 8, 8, 8, 8, 8, 8, 8, 8, 8, 8, 8, 8, 8, 8] := rfl

theorem reportBody_length (s : State) (acct : BitVec 10) : (s.reportBody acct).length = 128 := by
  rw [reportBody_laid, laid_length, reportFields_widths]
  decide

theorem reportBody_fields (s : State) (acct : BitVec 10) (sig : List Byte) : let c := s.account acct
    let bs := s.reportBody acct ++ sig
    numAt bs 0 4 = 1 ∧ numAt bs 4 4 = acct.toNat ∧ numAt bs 0x08 8 = s.reportNo.toNat ∧ numAt bs 0x10 8 = s.now.toNat ∧
      numAt bs 0x18 8 = c.charged.toNat ∧ numAt bs 0x20 8 = c.refunded.toNat ∧ numAt bs 0x28 8 = c.overstay.toNat ∧
      numAt bs 0x30 8 = (c.bundleCycles + Config.stallCycles s.freeCtr).toNat ∧
      (∀ k < 6, numAt bs (0x38 + 8 * k) 8 = (Tab.get 0 c.moved k).toNat) ∧ numAt bs 0x68 8 = c.fabric.toNat ∧
      numAt bs 0x70 8 = c.committed.toNat ∧ numAt bs 0x78 8 = 0 := by
  intro c bs
  dsimp only [bs]
  rw [reportBody_laid]
  have hword := numAt_laid_word (reportFields_widths s acct) sig
  have hnum := numAt_laid (reportFields_widths s acct) sig
  have hacct : acct.toNat % 256 ^ 4 = acct.toNat := Nat.mod_eq_of_lt (acct.isLt.trans (by decide))
  refine ⟨hnum 0 4 1 _ rfl (by decide), (hnum 1 4 acct.toNat _ rfl (by decide)).trans hacct, hword 2 _ _ rfl (by decide),
    hword 3 _ _ rfl (by decide), hword 4 _ _ rfl (by decide), hword 5 _ _ rfl (by decide), hword 6 _ _ rfl (by decide),
    hword 7 _ _ rfl (by decide), fun k hk => ?_, hword 14 _ _ rfl (by decide), hword 15 _ _ rfl (by decide), hnum 16 8 0 _ rfl (by decide)⟩
  refine hword (8 + k) _ _ ?_ ?_
  · interval_cases k <;> rfl
  · interval_cases k <;> decide

/-- What the answer of REPORT says of the account. -/
theorem exec_report {s : State} {q : BitVec 6} {r : Req} (h : posed s q r 0x11) (hr : s.reaches (s.issuer q) true r.a1 640 = true) :
    let t : State := { s with reportNo := s.reportNo + 1 }
    let body := t.reportBody (r.a0.setWidth 10)
    exec (.report q) s = .next (answer (State.vaStore { s with reportNo := s.reportNo + 1, freeCtr := s.freeCtr + 1 } 0
      (some (s.qrec q).pasid) r.a1.toNat (body ++ t.signed body)) r 0 (s.reportNo + 1)) := by
  intro t body
  refine congrArg Host.Outcome.next (op_done h _ _ _ _ ?_ ?_)
  · unfold State.serveReport
    rw [hr]
    rfl
  · rw [vaStore_only]

/-- The words of sublet `k`. -/
def subWho (p : Pitch) (k : Nat) : Nat :=
  match p.subs[k]? with
  | none => 0
  | some x => x.account.toNat + 2 ^ 10 * x.context.toNat + 2 ^ 26 * x.rw.toNat + 2 ^ 27

def subRange (p : Pitch) (k : Nat) : Nat :=
  match p.subs[k]? with
  | none => 0
  | some x => x.first + 2 ^ 30 * x.count

/-- What the first four bytes of a descriptor hold. -/
def holder (p : Pitch) : Nat := p.account.toNat + 2 ^ 10 * p.context.toNat + 2 ^ 26 * p.tier.toNat + 2 ^ 29 * p.state.code

/-- The fields of a descriptor's 128 bytes. -/
def descFields (p : Pitch) : List (Nat × Nat) :=
  [(4, holder p), (4, p.att.toNat + 2 ^ 3 * p.subs.length), (8, p.base), (8, p.length), (8, p.paid), (8, p.rate), (8, p.inflight),
    (8, (BitVec.ofInt 64 p.charged).toNat), (8, 0), (8, subWho p 0), (8, subRange p 0), (8, subWho p 1), (8, subRange p 1),
    (8, subWho p 2), (8, subRange p 2), (8, subWho p 3), (8, subRange p 3)]

theorem descFields_widths (p : Pitch) : (descFields p).map (·.1) = [4, 4, 8, 8, 8, 8, 8, 8, 8, 8, 8, 8, 8, 8, 8, 8, 8] := rfl

theorem code_lt (st : PState) : st.code < 8 := by
  cases st <;> decide

theorem holder_lt (p : Pitch) : holder p < 2 ^ 32 := by
  have ha := p.account.isLt
  have hc := p.context.isLt
  have ht := p.tier.isLt
  have hs := code_lt p.state
  unfold holder
  omega

theorem subBytes_laid (p : Pitch) (k : Nat) : p.subBytes k = le 8 (subWho p k) ++ le 8 (subRange p k) := by
  unfold Pitch.subBytes subWho subRange
  cases p.subs[k]? <;> rfl

/-- The first word of a descriptor is two fields of four bytes. -/
theorem first_word (h : Nat) (x : Nat) (hh : h < 2 ^ 32) : le 8 (h + 2 ^ 32 * x) = le 4 h ++ le 4 x := by
  have hd : (h + 2 ^ 32 * x) / 256 ^ 4 = x := by omega
  have hm : bytesOfNat 4 (h + 2 ^ 32 * x) = bytesOfNat 4 h := bytesOfNat_add_mul 4 h x
  show bytesOfNat (4 + 4) _ = _
  rw [bytesOfNat_add, hd, hm]
  rfl

theorem descriptor_laid (p : Pitch) : p.descriptor = laid (descFields p) := by
  have h0 : p.account.toNat + 2 ^ 10 * p.context.toNat + 2 ^ 26 * p.tier.toNat + 2 ^ 29 * p.state.code + 2 ^ 32 * p.att.toNat +
      2 ^ 35 * p.subs.length = holder p + 2 ^ 32 * (p.att.toNat + 2 ^ 3 * p.subs.length) := by
    unfold holder
    omega
  simp only [Pitch.descriptor, h0, first_word _ _ (holder_lt p), descFields, laid, subBytes_laid, List.flatMap_cons, List.flatMap_nil,
    List.append_assoc, List.append_nil, show List.range 4 = [0, 1, 2, 3] from rfl]

theorem descriptor_length (p : Pitch) : p.descriptor.length = 128 := by
  rw [descriptor_laid, laid_length, descFields_widths]
  decide

theorem descriptor_fields (p : Pitch) : let bs := p.descriptor
    numAt bs 0 4 = holder p ∧ numAt bs 4 4 = p.att.toNat + 2 ^ 3 * (p.subs.length % 2 ^ 29) ∧
      numAt bs 0x08 8 = p.base % 2 ^ 64 ∧ numAt bs 0x10 8 = p.length % 2 ^ 64 ∧ numAt bs 0x18 8 = p.paid % 2 ^ 64 ∧
      numAt bs 0x20 8 = p.rate % 2 ^ 64 ∧ numAt bs 0x28 8 = p.inflight % 2 ^ 64 ∧
      numAt bs 0x30 8 = (BitVec.ofInt 64 p.charged).toNat ∧ numAt bs 0x38 8 = 0 ∧
      ∀ k < 4, numAt bs (0x40 + 16 * k) 8 = subWho p k % 2 ^ 64 ∧ numAt bs (0x48 + 16 * k) 8 = subRange p k % 2 ^ 64 := by
  intro bs
  have hbs : bs = laid (descFields p) ++ [] := (descriptor_laid p).trans (List.append_nil _).symm
  have hword := numAt_laid_word (descFields_widths p) []
  have hnum := numAt_laid (descFields_widths p) []
  have hatt := p.att.isLt
  rw [hbs]
  refine ⟨(hnum 0 4 _ _ rfl (by decide)).trans (Nat.mod_eq_of_lt (holder_lt p)), (hnum 1 4 _ _ rfl (by decide)).trans (by omega),
    hnum 2 8 _ _ rfl (by decide), hnum 3 8 _ _ rfl (by decide), hnum 4 8 _ _ rfl (by decide), hnum 5 8 _ _ rfl (by decide),
    hnum 6 8 _ _ rfl (by decide), hword 7 _ _ rfl (by decide), hnum 8 8 0 _ rfl (by decide),
    fun k hk => ⟨hnum (9 + 2 * k) 8 _ _ ?_ ?_, hnum (10 + 2 * k) 8 _ _ ?_ ?_⟩⟩
  · interval_cases k <;> rfl
  · interval_cases k <;> decide
  · interval_cases k <;> rfl
  · interval_cases k <;> decide

theorem exec_desc_absent {s : State} {q : BitVec 6} {r : Req} (h : posed s q r 0x17) (hd : s.descPitch r.a0 r.a1 = none) :
    exec (.desc q) s = .next (answer s r 0x0C 0) := by
  refine congrArg Host.Outcome.next (op_done h _ _ _ _ ?_ rfl)
  unfold State.serveDesc
  rw [hd]

theorem exec_desc {s : State} {q : BitVec 6} {r : Req} {p : Pitch} (h : posed s q r 0x17) (hd : s.descPitch r.a0 r.a1 = some p)
    (hr : s.reaches (s.issuer q) true r.a2 128 = true) :
    exec (.desc q) s = .next (answer (s.vaStore 0 (some (s.qrec q).pasid) r.a2.toNat p.descriptor) r 0 0) := by
  refine congrArg Host.Outcome.next (op_done h _ _ _ _ ?_ ?_)
  · unfold State.serveDesc
    rw [hd]
    dsimp only
    rw [hr]
    rfl
  · rw [vaStore_only]

theorem readingCommands : ReadingCommands := by
  intro s q r
  refine ⟨fun h hr => ?_, exec_desc_absent, fun p h hd hr => ?_⟩
  · intro c
    have hlen := reportBody_length { s with reportNo := s.reportNo + 1 } (r.a0.setWidth 10)
    have hacct : (r.a0.setWidth 10).toNat = r.a0.toNat % 1024 := BitVec.toNat_setWidth 10 r.a0
    obtain ⟨f0, f1, fields⟩ := reportBody_fields { s with reportNo := s.reportNo + 1 } (r.a0.setWidth 10)
      (State.signed { s with reportNo := s.reportNo + 1 } (State.reportBody { s with reportNo := s.reportNo + 1 } (r.a0.setWidth 10)))
    refine ⟨_, ?_, exec_report h hr, ?_, f0, f1.trans hacct, fields⟩
    · rw [List.length_append, hlen, State.signed, List.length_map, List.length_range]
    · rw [List.drop_left' hlen, List.take_left' hlen]
      rfl
  · obtain ⟨f0, f1, f2, f3, f4, f5, f6, f7, f8, subs⟩ := descriptor_fields p
    refine ⟨_, descriptor_length p, exec_desc h hd hr, f0, f1, f2, f3, f4, f5, f6, f7, f8, fun k hk => ?_⟩
    obtain ⟨hw, hr⟩ := subs k hk
    rw [hw, hr, subWho, subRange]
    cases p.subs[k]? with
    | none => exact ⟨rfl, rfl⟩
    | some y =>
      have ha := y.account.isLt
      have hc := y.context.isLt
      have hb : y.rw.toNat ≤ 1 := Bool.toNat_le y.rw
      exact ⟨Nat.mod_eq_of_lt (by dsimp only; omega), rfl⟩

/-! ## SAVEIO (12 R278) -/

/-- What SAVEIO asks of the task's region before it copies. -/
theorem serveSaveio_eq {s : State} {q : BitVec 6} {r : Req} {ts : Nat} {u : TaskSet} {x : LoomTask} {base : Nat} (wr : Bool)
    (ht : s.setOfTag r.a0 = some (ts, u)) (hx : u.regionAt r.a1.toNat = some (x, base)) (hst : x.isStopped = true)
    (ha : s.saveAreaOk x.task.account x.task.context x.task.save.toNat (areaOf x.task.kind) = true)
    (hr : s.reaches (s.issuer q) (!wr) r.a2 r.a4.toNat = true) (h0 : r.a4 ≠ 0) :
    State.serveSaveio q wr r s =
      (let len := r.a4.toNat
       let at0 := base + r.a3.toNat
       let p := some (s.qrec q).pasid
       if wr then .done ((s.touchFor (s.issuer q) r.a2 len).vaStore 0 none at0 (s.vaBytes 0 p r.a2.toNat len)) 0 0
       else if (s.vaPoison 0 none at0 len).isSome then .done s 0x0C 0
       else .done ((s.touchVa 0 none at0 len).vaStore 0 p r.a2.toNat (s.vaBytes 0 none at0 len)) 0 0) := by
  have hlen : r.a4.toNat ≠ 0 := fun h => h0 (BitVec.eq_of_toNat_eq h)
  have hb : (s.setOfTag r.a0).bind (fun y => y.2.regionAt r.a1.toNat) = some (x, base) := by rw [ht]; exact hx
  unfold State.serveSaveio
  dsimp only
  rw [hb]
  dsimp only
  rw [hst, ha, hr, if_neg (by decide), if_neg hlen]
  rfl

/-- A store keeps the requests. -/
theorem vaStore_requests (s : State) (n : Nat) (p : Option (BitVec 20)) (va : Nat) (bs : List Byte) :
    (s.vaStore n p va bs).requests = s.requests := by rw [vaStore_only]

theorem touchVa_requests (s : State) (n : Nat) (p : Option (BitVec 20)) (va len : Nat) : (s.touchVa n p va len).requests = s.requests := by
  rw [touchVa_only]

/-! ## The host's accesses (04 R114, 10 R235) -/

/-- What travels, and who is in flight, has no part in where a range lies and what stands there. -/
theorem vaBytes_transit (s : State) (l : List Transit) (n : Nat) (p : Option (BitVec 20)) (va k : Nat) :
    ({ s with transit := l }).vaBytes n p va k = s.vaBytes n p va k := by
  induction k generalizing va with
  | zero => rfl
  | succ k ih => rw [State.vaBytes, State.vaBytes, ih]; rfl

/-- The entry that a host access to a line sends into the route from the HCP. -/
def hostEntry (s : State) (a : W64) (len : Nat) (data : Option (List Byte)) (cached : Bool) : Transit :=
  let h := s.homeAt 0 a.toNat (s.storage 0 none a.toNat)
  { agent := 313, owner := { account := 0, context := 0, pasid := none, tslot := 0, ts := 0, j := 0 }, seq := 0
    load := .host a len data cached, passed := .hcp, route := if h = .vop then [.vop] else [.vop, h], home := h }

/-- A line that the host does not hold enters at the HCP. -/
theorem enterHost_away (s : State) (a : W64) (len : Nat) (data : Option (List Byte)) (cached : Bool)
    (h : s.storage 0 none a.toNat / 64 ∉ s.hostLines) :
    s.enterHost a len data cached = { s with transit := s.transit ++ [hostEntry s a len data cached] } := by
  have hroute (h : Point) : routeHost h = if h = .vop then [.vop] else [.vop, h] := by
    cases h <;> simp [routeHost]
  unfold State.enterHost hostEntry
  dsimp only
  rw [if_neg (by simpa using h), hroute]

/-- Lines, none of which the host holds, enter one after the other. -/
theorem enterHosts_away (s : State) (ps : List (Nat × Nat)) (a : Nat × Nat → W64) (data : Nat × Nat → Option (List Byte)) (cached : Bool)
    (h : ∀ x ∈ ps, s.storage 0 none (a x).toNat / 64 ∉ s.hostLines) (l : List Transit) :
    ps.foldl (fun s x => s.enterHost (a x) x.2 (data x) cached) { s with transit := l } =
      { s with transit := l ++ ps.map (fun x => hostEntry s (a x) x.2 (data x) cached) } := by
  induction ps generalizing l with
  | nil => simp
  | cons x ps ih =>
    have hx : ({ s with transit := l }).enterHost (a x) x.2 (data x) cached = { s with transit := l ++ [hostEntry s (a x) x.2 (data x) cached] } :=
      enterHost_away { s with transit := l } _ _ _ _ (h x List.mem_cons_self)
    rw [List.foldl_cons, hx, ih fun y hy => h y (List.mem_cons_of_mem x hy), List.map_cons, List.append_assoc, List.singleton_append]

/-- Bytes of one line, none of an arm counter, are one piece. -/
theorem hostPieces_line (s : State) (a : W64) (k : Nat) (h0 : 0 < k) (hk : a.toNat % 64 + k ≤ 64)
    (ha : ∀ j < k, s.isArm (a.toNat + j) = false) : s.hostPieces a.toNat k = [(0, k)] := by
  have h1 : (a.toNat % 64 + k + 64 - 1) / 64 = 1 := by omega
  have h2 : max a.toNat (64 * (a.toNat / 64)) - a.toNat = 0 := by omega
  have h3 : min (a.toNat + k) (64 * (a.toNat / 64) + 64) - max a.toNat (64 * (a.toNat / 64)) = k := by omega
  have hp : piecesOf 64 a.toNat k = [(0, k)] := by
    rw [piecesOf, h1]
    exact congrArg₂ (fun o l => [(o, l)]) h2 h3
  have hc : s.cut { addr := BitVec.ofNat 64 (a.toNat + 0), len := k, off := 0 } =
      [{ addr := BitVec.ofNat 64 (a.toNat + 0), len := k, off := 0 }] := by
    have haddr : (BitVec.ofNat 64 (a.toNat + 0)).toNat = a.toNat := by simp
    unfold State.cut
    dsimp only
    rw [haddr, if_neg]
    rw [List.any_eq_true]
    rintro ⟨p, hp, harm⟩
    obtain ⟨i, hi, rfl⟩ := List.mem_map.mp hp
    rw [List.mem_range] at hi
    rw [ha _ (by dsimp only; omega)] at harm
    cases harm
  rw [State.hostPieces, hp, List.flatMap_cons, List.flatMap_nil, List.append_nil]
  dsimp only
  rw [hc]
  rfl

/-- An access to device memory enters in its pieces, where the host reaches the range. -/
theorem hostAccess_device (s : State) (a : W64) (len : Nat) (data : Option (List Byte)) (cached : Bool)
    (h : ∀ off, regionOf a.toNat ≠ .host off) : let k := (data.map List.length).getD len
    s.hostAccess a len data cached =
      if s.hostReaches a.toNat k then (s.hostPieces a.toNat k).foldl (fun s p =>
        s.enterHost (a + BitVec.ofNat 64 p.1) p.2 (data.map (fun bs => (bs.drop p.1).take p.2)) cached) s
      else s := by
  cases data with
  | none =>
    unfold State.hostAccess
    dsimp only
    split
    next off hr => exact absurd hr (h off)
    next => rfl
  | some bs =>
    unfold State.hostAccess
    dsimp only
    split
    next off hr => exact absurd hr (h off)
    next => rfl

/-- The range of an access to host memory, and what it does there. -/
theorem hostAccess_host (s : State) (a : W64) (len off : Nat) (data : Option (List Byte)) (cached : Bool) (h : regionOf a.toNat = .host off) :
    s.hostAccess a len data cached =
      if 2 ^ 57 < a.toNat + (data.map List.length).getD len then s
      else match data with
        | some bs => s.vaStore 0 none a.toNat bs
        | none => { s with
          sent := s.sent ++ [.hostRead a (if (s.vaPoison 0 none a.toNat len).isSome then [] else s.vaBytes 0 none a.toNat len)] } := by
  unfold State.hostAccess
  cases data <;> dsimp only <;> rw [h] <;> rfl

/-- The lines that the host holds once an access has performed. -/
def heldAfter (s : State) (a : W64) (cached : Bool) : List Nat :=
  let l := s.storage 0 none a.toNat / 64
  if cached = true ∧ s.hostShared a.toNat = true ∧ l ∉ s.hostLines then s.hostLines ++ [l] else s.hostLines

theorem performHost_eq (s : State) (a : W64) (len : Nat) (data : Option (List Byte)) (cached : Bool) :
    s.performHost a len data cached =
      if s.hostReaches a.toNat ((data.map List.length).getD len) then
        match data with
        | some bs => { s.vaStore 0 none a.toNat bs with hostLines := heldAfter s a cached }
        | none => { s.touchVa 0 none a.toNat len with
            sent := s.sent ++ [.hostRead a (if (s.vaPoison 0 none a.toNat len).isSome then [] else s.vaBytes 0 none a.toNat len)]
            hostLines := heldAfter s a cached }
      else s := by
  have hheld : (if cached && s.hostShared a.toNat && !s.hostLines.contains (s.storage 0 none a.toNat / 64) then
      s.hostLines ++ [s.storage 0 none a.toNat / 64] else s.hostLines) = heldAfter s a cached := by
    unfold heldAfter
    congr 1
    simp [and_assoc]
  unfold State.performHost
  cases data with
  | none =>
    dsimp only [Option.map_none, Option.getD_none]
    by_cases hr : s.hostReaches a.toNat len = true
    · rw [if_pos hr, if_neg (by rw [hr]; decide), hheld, touchVa_only]
    · rw [if_neg hr, if_pos (by simpa using hr)]
  | some bs =>
    dsimp only [Option.map_some, Option.getD_some]
    by_cases hr : s.hostReaches a.toNat bs.length = true
    · rw [if_pos hr, if_neg (by rw [hr]; decide), hheld]
    · rw [if_neg hr, if_pos (by simpa using hr)]

/-- A host access that has reached its line. -/
theorem exec_perform_host {s : State} {i : Nat} {e : Transit} {a : W64} {len : Nat} {data : Option (List Byte)} {cached : Bool}
    (h : atHome s i e) (hl : e.load = .host a len data cached) :
    exec (.perform i) s = .next (State.performHost { s with transit := s.transit.eraseIdx i } a len data cached) := by
  show Host.Outcome.next (s.performAt i) = _
  unfold State.performAt
  rw [atHome_eq h]
  dsimp only
  rw [State.keepCode, State.leaveHome, hl]
  rfl

theorem dataCommands : DataCommands := by
  intro s
  refine ⟨?_, ?_, ?_, ?_⟩
  · intro q r ts u x base h ht hx hst ha h0 p lo len
    refine ⟨fun h5 hr hp => ?_, fun h5 hr hp => ?_, fun h5 hr => ?_⟩
    · refine congrArg Host.Outcome.next (serve_done h _ (by simp [h.2.2.1, h5]) _ _ _ _ ?_ ?_)
      · rw [serveSaveio_eq false ht hx hst ha hr h0]
        dsimp only
        rw [if_neg (by decide), if_neg (by rw [hp]; decide)]
      · rw [vaStore_requests, touchVa_requests]
    · refine congrArg Host.Outcome.next (serve_done h _ (by simp [h.2.2.1, h5]) _ _ _ _ ?_ rfl)
      rw [serveSaveio_eq false ht hx hst ha hr h0]
      dsimp only
      rw [if_neg (by decide), if_pos (Option.isSome_iff_ne_none.mpr hp)]
    · refine congrArg Host.Outcome.next (serve_done h _ (by simp [h.2.2.1, h5]) _ _ _ _ ?_ ?_)
      · rw [serveSaveio_eq true ht hx hst ha hr h0]
        rfl
      · rw [vaStore_requests, State.touchFor, touchVa_requests]
  · intro a len bs cached off hr
    refine ⟨fun h => ?_, fun h => ?_, fun h => ?_, fun h hp => ?_⟩
    · exact congrArg Host.Outcome.next ((hostAccess_host s a _ off (some bs) cached hr).trans (if_pos h))
    · exact congrArg Host.Outcome.next ((hostAccess_host s a len off none cached hr).trans (if_pos h))
    · exact congrArg Host.Outcome.next ((hostAccess_host s a _ off (some bs) cached hr).trans (if_neg (Nat.not_lt.mpr h)))
    · refine congrArg Host.Outcome.next ((hostAccess_host s a len off none cached hr).trans ((if_neg (Nat.not_lt.mpr h)).trans ?_))
      dsimp only
      rw [hp, if_neg (by decide)]
  · intro a len data cached hr k op enter
    have hop : exec (.hostMemoryAccess a len op) s = .next (s.hostAccess a len data cached) := by
      dsimp only [op]
      cases data with
      | none => rfl
      | some bs =>
        show Host.Outcome.next (s.hostAccess a bs.length (some bs) cached) = .next (s.hostAccess a len (some bs) cached)
        rw [hostAccess_device s a _ _ cached hr, hostAccess_device s a _ _ cached hr]
        rfl
    refine ⟨fun h => ?_, fun h hl => ?_, fun h0 hk ha => hostPieces_line s a k h0 hk ha⟩
    · rw [hop, hostAccess_device s a len data cached hr, if_neg (by rw [h]; decide)]
    · rw [hop, hostAccess_device s a len data cached hr, if_pos h]
      exact congrArg Host.Outcome.next (enterHosts_away s _ _ _ cached hl s.transit)
  · intro i e a len data cached hh hl k l w lines
    have hreach : w.hostReaches a.toNat k = s.hostReaches a.toNat k := rfl
    rw [exec_perform_host hh hl]
    refine ⟨fun h => ?_, fun h => ⟨fun bs hd => ?_, fun hd hp => ?_⟩⟩
    · rw [performHost_eq, if_neg (by rw [hreach, h]; decide)]
    · subst hd
      rw [performHost_eq, if_pos (hreach.trans h)]
      rfl
    · subst hd
      have hpw : w.vaPoison 0 none a.toNat len = none := hp
      rw [performHost_eq, if_pos (hreach.trans h)]
      dsimp only
      rw [hpw, if_neg (by decide), vaBytes_transit]
      rfl

/-- Settles O48: the fields laid behind one another, the copies, and the entries of the host's accesses. -/
theorem readingAndDataCommands : Obligations.ReadingAndDataCommands := ⟨readingCommands, dataCommands⟩

end Sys2Proof.Spec
end

section
/-!
PROOFS. What a firmware update leaves of the pitches (15 R329 step 3, 04 R102): every step moves one pitch and its account, and the steps of
different pitches do not meet.
-/

namespace Sys2Proof.Spec

open Sys2Proof Sys2Proof.Machine

/-! ## Steps that move one pitch -/

/-- Memory, agents, queues, commits, time and firmware are the same. -/
structure SameDevice (s t : State) : Prop where
  mem : t.mem = s.mem
  agents : t.agents = s.agents
  queues : t.queues = s.queues
  requests : t.requests = s.requests
  sent : t.sent = s.sent
  now : t.now = s.now
  fw : t.fw = s.fw
  commits : t.commits = s.commits

theorem SameDevice.refl (s : State) : SameDevice s s := ⟨rfl, rfl, rfl, rfl, rfl, rfl, rfl, rfl⟩

theorem SameDevice.trans {s t u : State} (h : SameDevice s t) (k : SameDevice t u) : SameDevice s u where
  mem := k.mem.trans h.mem
  agents := k.agents.trans h.agents
  queues := k.queues.trans h.queues
  requests := k.requests.trans h.requests
  sent := k.sent.trans h.sent
  now := k.now.trans h.now
  fw := k.fw.trans h.fw
  commits := k.commits.trans h.commits

/-- From `s` to `t` pitch `k` alone moves, with the account that holds it; its account, its tier and its attributes stay. -/
structure Touches (s t : State) (k : Nat) : Prop where
  device : SameDevice s t
  others : ∀ j, j ≠ k → t.pitch j = s.pitch j
  accounts : ∀ c, c ≠ (s.pitch k).account → t.account c = s.account c
  account : (t.pitch k).account = (s.pitch k).account
  tier : (t.pitch k).tier = (s.pitch k).tier
  att : (t.pitch k).att = (s.pitch k).att
  keys : (s.pitches.map (·.1)).Nodup → (t.pitches.map (·.1)).Nodup

/-- The keys of a table after a write. -/
theorem set_keys {α : Type} [DecidableEq α] (d : α) (t : Tab α) (k : Nat) (v : α) (h : (t.map (·.1)).Nodup) :
    ((Tab.set d t k v).map (·.1)).Nodup := by
  have hlow : ((t.filter (fun x => decide (x.1 < k))).map (·.1)).Nodup := h.sublist (List.filter_sublist.map _)
  have hhigh : ((t.filter (fun x => decide (k < x.1))).map (·.1)).Nodup := h.sublist (List.filter_sublist.map _)
  have hmid : ((if v = d then [] else [(k, v)]).map (·.1)).Nodup := by split <;> simp
  unfold Tab.set
  rw [List.map_append, List.map_append, List.append_assoc, List.nodup_append, List.nodup_append]
  have hmem (x : Nat) (hx : x ∈ (if v = d then [] else [(k, v)]).map (·.1)) : x = k := by
    split at hx
    · simp at hx
    · simpa using hx
  refine ⟨hlow, ⟨hmid, hhigh, fun a ha b hb => ?_⟩, fun a ha b hb => ?_⟩
  · obtain ⟨x, hx, rfl⟩ := List.mem_map.mp hb
    have hk : k < x.1 := by simpa using (List.mem_filter.mp hx).2
    rw [hmem a ha]
    exact hk.ne
  · obtain ⟨x, hx, rfl⟩ := List.mem_map.mp ha
    have hk : x.1 < k := by simpa using (List.mem_filter.mp hx).2
    rcases List.mem_append.mp hb with hb | hb
    · rw [hmem b hb]
      exact hk.ne
    · obtain ⟨y, hy, rfl⟩ := List.mem_map.mp hb
      have hy : k < y.1 := by simpa using (List.mem_filter.mp hy).2
      exact (hk.trans hy).ne

section
variable {s t u : State} {k : Nat}

theorem Touches.refl (s : State) (k : Nat) : Touches s s k := ⟨.refl s, fun _ _ => rfl, fun _ _ => rfl, rfl, rfl, rfl, id⟩

theorem Touches.trans (h : Touches s t k) (g : Touches t u k) : Touches s u k where
  device := h.device.trans g.device
  others j hj := (g.others j hj).trans (h.others j hj)
  accounts c hc := (g.accounts c (by rwa [h.account])).trans (h.accounts c hc)
  account := g.account.trans h.account
  tier := g.tier.trans h.tier
  att := g.att.trans h.att
  keys hn := g.keys (h.keys hn)

theorem touches_setPitch (s : State) (k : Nat) (p : Pitch) (ha : p.account = (s.pitch k).account) (ht : p.tier = (s.pitch k).tier)
    (hs : p.att = (s.pitch k).att) : Touches s (s.setPitch k p) k where
  device := ⟨rfl, rfl, rfl, rfl, rfl, rfl, rfl, rfl⟩
  others j hj := State.pitch_setPitch_ne _ _ _ _ hj
  accounts _ _ := rfl
  account := by rw [State.pitch_setPitch, ha]
  tier := by rw [State.pitch_setPitch, ht]
  att := by rw [State.pitch_setPitch, hs]
  keys := set_keys _ _ _ _

theorem touches_modAccount (s : State) (k : Nat) (c : BitVec 10) (f : Account → Account) (hc : c = (s.pitch k).account) :
    Touches s (s.modAccount c f) k where
  device := ⟨rfl, rfl, rfl, rfl, rfl, rfl, rfl, rfl⟩
  others _ _ := rfl
  accounts x hx := State.account_modAccount_ne _ _ _ _ (by rwa [hc])
  account := rfl
  tier := rfl
  att := rfl
  keys := id

theorem touches_withdraw (s : State) (k : Nat) (p : Pitch) : Touches s (s.withdraw p) k := by
  rw [withdraw_only]
  exact ⟨⟨rfl, rfl, rfl, rfl, rfl, rfl, rfl, rfl⟩, fun _ _ => rfl, fun _ _ => rfl, rfl, rfl, rfl, id⟩

theorem touches_forgetPages (s : State) (k : Nat) (p : Pitch) : Touches s (s.forgetPages p) k := by
  rw [forgetPages_only]
  exact ⟨⟨rfl, rfl, rfl, rfl, rfl, rfl, rfl, rfl⟩, fun _ _ => rfl, fun _ _ => rfl, rfl, rfl, rfl, id⟩

/-! Further moves of a pitch that has moved. -/

theorem Touches.setPitch (h : Touches s t k) {p : Pitch} (ha : p.account = (t.pitch k).account) (ht : p.tier = (t.pitch k).tier)
    (hs : p.att = (t.pitch k).att) : Touches s (t.setPitch k p) k := h.trans (touches_setPitch t k p ha ht hs)

theorem Touches.modPitch (h : Touches s t k) {f : Pitch → Pitch} (ha : ∀ p, (f p).account = p.account) (ht : ∀ p, (f p).tier = p.tier)
    (hs : ∀ p, (f p).att = p.att) : Touches s (t.modPitch k f) k := h.setPitch (ha _) (ht _) (hs _)

theorem Touches.modAccount (h : Touches s t k) {f : Account → Account} {c : BitVec 10} (hc : c = (t.pitch k).account) :
    Touches s (t.modAccount c f) k := h.trans (touches_modAccount t k c f hc)

theorem Touches.forgetPages (h : Touches s t k) {p : Pitch} : Touches s (t.forgetPages p) k := h.trans (touches_forgetPages t k p)

theorem touches_chargeOverstay (s : State) (k : Nat) : Touches s (s.chargeOverstay k) k := by
  unfold State.chargeOverstay State.chargePitch
  dsimp only
  refine Touches.modPitch (Touches.modAccount (Touches.modPitch (Touches.modAccount (.refl s k) rfl) ?_ ?_ ?_) ?_) ?_ ?_ ?_
  case refine_4 =>
    rw [State.modPitch, State.pitch_setPitch]
    rfl
  all_goals exact fun p => rfl

theorem touches_pitchExpiry (s : State) (k : Nat) (hi : (s.pitch k).inflight ≠ 0) : Touches s (s.pitchExpiry k) k := by
  unfold State.pitchExpiry
  rw [if_neg hi]
  split
  · have hset := (Touches.refl s k).setPitch (p := { s.pitch k with state := .overstay }) rfl rfl rfl
    exact hset.trans (touches_chargeOverstay _ k)
  · exact .refl s k

theorem touches_overstayTick (s : State) (k : Nat) : Touches s (s.overstayTick k) k := by
  unfold State.overstayTick
  dsimp only
  split
  · exact touches_chargeOverstay s k
  · exact .refl s k

/-- A pitch without SYNC lapses alone. -/
theorem touches_lapse (s : State) (k : Nat) (hs : (s.pitch k).att.getLsbD 0 = false) : Touches s (s.lapse k) k := by
  have hset := (Touches.refl s k).setPitch (p := lapsed (s.pitch k) s.now.toNat) rfl rfl rfl
  unfold State.lapse
  dsimp only
  rw [hs, if_neg (by decide)]
  split
  · exact hset.trans (touches_withdraw _ k (s.pitch k))
  · exact hset

theorem touches_vacate (s : State) (k : Nat) : Touches s (s.vacate k) k := by
  have hset (p : Pitch) (ha : p.account = (s.pitch k).account) (ht : p.tier = (s.pitch k).tier) (hs : p.att = (s.pitch k).att) :=
    (Touches.refl s k).setPitch ha ht hs
  unfold State.vacate State.vacateNow
  dsimp only
  split
  · exact hset _ rfl rfl rfl
  · split
    · exact ((hset (vacatedAt (s.pitch k) s.now.toNat) rfl rfl rfl).modAccount (by rw [State.pitch_setPitch]; rfl)).forgetPages
    · exact (hset (s.pitch k).toScrub rfl rfl rfl).forgetPages
    · exact .refl s k

theorem touches_settleIdle (s : State) (k : Nat) (hs : (s.pitch k).att.getLsbD 0 = false) : Touches s (s.settleIdle k) k := by
  unfold State.settleIdle
  dsimp only
  rw [hs, Bool.and_false]
  split
  · exact touches_lapse s k hs
  · split
    · exact touches_vacate s k
    · exact .refl s k
  · exact .refl s k

/-- The reset ends the accesses of a pitch without SYNC, and moves it alone. -/
theorem touches_idlePitch (s : State) (k : Nat) (h : (s.pitch k).inflight = 0 ∨ (s.pitch k).att.getLsbD 0 = false) :
    Touches s (s.idlePitch k) k := by
  unfold State.idlePitch
  split
  · exact .refl s k
  next hi =>
    have htick := (touches_pitchExpiry s k hi).trans (touches_overstayTick _ k)
    have hset := htick.setPitch (p := { ((s.pitchExpiry k).overstayTick k).pitch k with inflight := 0 }) rfl rfl rfl
    refine hset.trans (touches_settleIdle _ k ?_)
    rw [hset.att]
    exact h.resolve_left hi

end

/-! ## Steps of different pitches -/

section
variable {f : State → Nat → State} {P : Pitch → Prop} (hf : ∀ s k, P (s.pitch k) → Touches s (f s k) k)
include hf

/-- A row of steps moves the pitches of the row alone. -/
theorem steps_apart (ks : List Nat) (hn : ks.Nodup) (s : State) (hP : ∀ k ∈ ks, P (s.pitch k)) : let t := ks.foldl f s
    SameDevice s t ∧ (∀ j, j ∉ ks → t.pitch j = s.pitch j) ∧
      (∀ j, (t.pitch j).account = (s.pitch j).account ∧ (t.pitch j).tier = (s.pitch j).tier) ∧
      ((s.pitches.map (·.1)).Nodup → (t.pitches.map (·.1)).Nodup) := by
  induction ks generalizing s with
  | nil => exact ⟨.refl s, fun _ _ => rfl, fun _ => ⟨rfl, rfl⟩, id⟩
  | cons k ks ih =>
    obtain ⟨hk, hn⟩ := List.nodup_cons.mp hn
    have h1 := hf s k (hP k List.mem_cons_self)
    have hne (j : Nat) (hj : j ∈ ks) : j ≠ k := fun e => hk (e ▸ hj)
    obtain ⟨hd, ho, hm, hkeys⟩ := ih hn (f s k) fun j hj => by
      rw [h1.others j (hne j hj)]
      exact hP j (List.mem_cons_of_mem k hj)
    refine ⟨h1.device.trans hd, fun j hj => ?_, fun j => ?_, fun h => hkeys (h1.keys h)⟩
    · rw [List.mem_cons, not_or] at hj
      exact (ho j hj.2).trans (h1.others j hj.1)
    · obtain ⟨ha, ht⟩ := hm j
      by_cases hj : j = k
      · subst hj
        exact ⟨ha.trans h1.account, ht.trans h1.tier⟩
      · rw [h1.others j hj] at ha ht
        exact ⟨ha, ht⟩

/-- An account stays where the steps of its pitches do not touch it. -/
theorem steps_account {still : Pitch → Prop} (hs : ∀ s k, still (s.pitch k) → ∀ c, (f s k).account c = s.account c) (ks : List Nat)
    (hn : ks.Nodup) (s : State) (hP : ∀ k ∈ ks, P (s.pitch k)) (c : BitVec 10)
    (h : ∀ k ∈ ks, (s.pitch k).account = c → still (s.pitch k)) : (ks.foldl f s).account c = s.account c := by
  induction ks generalizing s with
  | nil => rfl
  | cons k ks ih =>
    obtain ⟨hk, hn⟩ := List.nodup_cons.mp hn
    have h1 := hf s k (hP k List.mem_cons_self)
    have hsame (j : Nat) (hj : j ∈ ks) : (f s k).pitch j = s.pitch j := h1.others j fun e => hk (e ▸ hj)
    have hstep : (f s k).account c = s.account c := by
      by_cases hc : (s.pitch k).account = c
      · exact hs s k (h k List.mem_cons_self hc) c
      · exact h1.accounts c (Ne.symm hc)
    rw [List.foldl_cons, ih hn (f s k), hstep]
    · intro j hj
      rw [hsame j hj]
      exact hP j (List.mem_cons_of_mem k hj)
    · intro j hj
      rw [hsame j hj]
      exact h j (List.mem_cons_of_mem k hj)

/-- A pitch of the row is as its own step leaves it, made from a state in which it stands as at first. -/
theorem steps_at {still : Pitch → Prop} (hs : ∀ s k, still (s.pitch k) → ∀ c, (f s k).account c = s.account c) (ks : List Nat)
    (hn : ks.Nodup) (s : State) (hP : ∀ k ∈ ks, P (s.pitch k)) (k : Nat) (hk : k ∈ ks) : ∃ u, SameDevice s u ∧ u.pitch k = s.pitch k ∧
      (ks.foldl f s).pitch k = (f u k).pitch k ∧
      ∀ c, (∀ j ∈ ks, j ≠ k → (s.pitch j).account = c → still (s.pitch j)) →
        u.account c = s.account c ∧ (ks.foldl f s).account c = (f u k).account c := by
  obtain ⟨pre, post, rfl⟩ := List.append_of_mem hk
  have hsplit := List.nodup_append.mp hn
  obtain ⟨hpre, htail, hdis⟩ := hsplit
  obtain ⟨hkpost, hpost⟩ := List.nodup_cons.mp htail
  have hkpre : k ∉ pre := fun h => hdis k h k List.mem_cons_self rfl
  have hPpre (j : Nat) (hj : j ∈ pre) : P (s.pitch j) := hP j (List.mem_append_left _ hj)
  obtain ⟨hd, ho, hm, -⟩ := steps_apart hf pre hpre s hPpre
  have hu : (pre.foldl f s).pitch k = s.pitch k := ho k hkpre
  have h1 := hf (pre.foldl f s) k (by rw [hu]; exact hP k hk)
  have hlater (j : Nat) (hj : j ∈ post) : (f (pre.foldl f s) k).pitch j = s.pitch j := by
    rw [h1.others j fun e => hkpost (e ▸ hj)]
    exact ho j fun h => hdis j h j (List.mem_cons_of_mem k hj) rfl
  have hPpost (j : Nat) (hj : j ∈ post) : P ((f (pre.foldl f s) k).pitch j) := by
    rw [hlater j hj]
    exact hP j (List.mem_append_right _ (List.mem_cons_of_mem k hj))
  rw [List.foldl_append, List.foldl_cons]
  refine ⟨pre.foldl f s, hd, hu, (steps_apart hf post hpost _ hPpost).2.1 k hkpost, fun c hc => ⟨?_, ?_⟩⟩
  · exact steps_account hf hs pre hpre s hPpre c fun j hj => hc j (List.mem_append_left _ hj) fun e => hkpre (e ▸ hj)
  · refine steps_account hf hs post hpost _ hPpost c fun j hj => ?_
    rw [hlater j hj]
    exact hc j (List.mem_append_right _ (List.mem_cons_of_mem k hj)) fun e => hkpost (e ▸ hj)

end

/-! ## Vacating -/

section
variable {s : State} {k : Nat}

/-- A pitch that is neither leased nor tentative is not vacated. -/
theorem vacate_stays (hl : (s.pitch k).state ≠ .leased) (ht : (s.pitch k).state ≠ .tentative) : s.vacate k = s := by
  unfold State.vacate State.vacateNow
  dsimp only
  rw [if_neg fun h => hl h.1]
  split
  next h => exact absurd h hl
  next h => exact absurd h ht
  next => rfl

/-- One that is not leased is vacated without a refund. -/
theorem vacate_account (hl : (s.pitch k).state ≠ .leased) (c : BitVec 10) : (s.vacate k).account c = s.account c := by
  unfold State.vacate State.vacateNow
  dsimp only
  rw [if_neg fun h => hl h.1]
  split
  next h => exact absurd h hl
  next => rw [forgetPages_only]; rfl
  next => rfl

/-- A pitch that nobody accesses goes to scrubbing. -/
theorem vacate_scrubs (hi : (s.pitch k).inflight = 0) (h : (s.pitch k).state = .leased ∨ (s.pitch k).state = .tentative) :
    ((s.vacate k).pitch k).state = .scrubbing ∧ ((s.vacate k).pitch k).vacated = true ∧ ((s.vacate k).pitch k).subs = [] := by
  rcases h with h | h
  · rw [(vacate_moves rfl h hi).pitch]
    exact ⟨rfl, rfl, rfl⟩
  · have hv : s.vacate k = (s.setPitch k (s.pitch k).toScrub).forgetPages (s.pitch k) := by
      unfold State.vacate State.vacateNow
      dsimp only
      rw [h, if_neg fun e => by cases e.1]
    have hp : ((s.setPitch k (s.pitch k).toScrub).forgetPages (s.pitch k)).pitch k = (s.pitch k).toScrub := by
      rw [(forgetPages_moves _ k _ 0).pitch, State.pitch_setPitch]
    rw [hv, hp]
    exact ⟨rfl, rfl, rfl⟩

theorem idlePitch_idle (hi : (s.pitch k).inflight = 0) : s.idlePitch k = s := if_pos hi

theorem extensionPending_same {t : State} (h : SameDevice s t) : t.extensionPending k = s.extensionPending k := by
  unfold State.extensionPending
  rw [h.commits, h.agents]

theorem expiryDue_same {t : State} (h : SameDevice s t) (hp : t.pitch k = s.pitch k) : t.expiryDue k = s.expiryDue k := by
  unfold State.expiryDue
  rw [hp, h.now, extensionPending_same h]

/-- A leased pitch whose time has not come loses its accesses alone. -/
theorem idlePitch_leased (hi : (s.pitch k).inflight ≠ 0) (hl : (s.pitch k).state = .leased) (he : s.expiryDue k = false)
    (hv : (s.pitch k).vacWhenIdle = false) : (s.idlePitch k).pitch k = { s.pitch k with inflight := 0 } := by
  have hlate : ¬ Late s k := by
    rintro (h | ⟨h, -⟩)
    · rw [he] at h
      cases h
    · rw [hl] at h
      cases h
  have hset := (setPitch_moves s k { s.pitch k with inflight := 0 } 0).pitch
  unfold State.idlePitch
  rw [if_neg hi, tick_current hlate]
  dsimp only
  rw [settleIdle_stays hset (by rw [show _ = PState.leased from hl]; decide) (.inr hv), hset]

/-- One in overstay, or whose time has come, lapses. -/
theorem idlePitch_overstay (hi : (s.pitch k).inflight ≠ 0) (hs : (s.pitch k).att.getLsbD 0 = false)
    (ho : (s.pitch k).state = .overstay ∨ s.expiryDue k = true) :
    ((s.idlePitch k).pitch k).state = .lapsed ∧ ((s.idlePitch k).pitch k).inflight = 0 := by
  have htick : ∃ q, ((s.pitchExpiry k).overstayTick k).pitch k = q ∧ q.state = .overstay ∧ q.att = (s.pitch k).att := by
    by_cases hlate : Late s k
    · exact ⟨_, (tick_late rfl hlate hi).pitch, rfl, rfl⟩
    · refine ⟨_, rfl, ?_, ?_⟩
      · rw [tick_current hlate]
        exact ho.resolve_right fun h => hlate (.inl h)
      · rw [tick_current hlate]
  obtain ⟨q, hq, hqo, hqa⟩ := htick
  have hset := (setPitch_moves ((s.pitchExpiry k).overstayTick k) k { q with inflight := 0 } 0).pitch
  have hlapse := (settleIdle_overstay 0 hset hqo (by rw [show _ = (s.pitch k).att from hqa]; exact hs)).pitch
  unfold State.idlePitch
  rw [if_neg hi]
  dsimp only
  rw [hq, hlapse]
  exact ⟨rfl, rfl⟩

end

/-- The state once the accesses of every pitch have ended. -/
def idled (s : State) : State := (s.pitches.map (·.1)).foldl State.idlePitch s

/-- The pitches of tiers 0 to 3. -/
def nearPitches (s : State) : List Nat := (s.pitches.filter (fun kp => decide (kp.2.tier.toNat ≤ 3))).map (·.1)

theorem vacateDevice_eq (s : State) : s.vacateDevice = (nearPitches (idled s)).foldl State.vacate (idled s) := rfl

section
variable {s : State} (hn : (s.pitches.map (·.1)).Nodup)
include hn

theorem mem_nearPitches (k : Nat) (h : k ∈ nearPitches s) : (s.pitch k).tier.toNat ≤ 3 := by
  obtain ⟨⟨j, p⟩, hm, rfl⟩ := List.mem_map.mp h
  obtain ⟨hm, ht⟩ := List.mem_filter.mp hm
  have hp : s.pitch j = p := mem_get _ _ hn _ _ hm
  dsimp only
  rw [hp]
  exact of_decide_eq_true ht

theorem nearPitches_nodup : (nearPitches s).Nodup := hn.sublist (List.filter_sublist.map _)

omit hn in
theorem nearPitches_of {k : Nat} (ht : (s.pitch k).tier.toNat ≤ 3) (hs : (s.pitch k).state ≠ .free) : k ∈ nearPitches s := by
  have hm : (k, s.pitch k) ∈ s.pitches := get_mem Pitch.free s.pitches k fun h => hs (congrArg Pitch.state h)
  exact List.mem_map.mpr ⟨_, List.mem_filter.mpr ⟨hm, decide_eq_true ht⟩, rfl⟩

omit hn in
theorem key_of_inflight {k : Nat} (h : (s.pitch k).inflight ≠ 0) : k ∈ s.pitches.map (·.1) :=
  List.mem_map.mpr ⟨_, get_mem Pitch.free s.pitches k fun e => h (congrArg Pitch.inflight e), rfl⟩

end

/-- A pitch whose accesses the reset may end without waiters. -/
def calm (p : Pitch) : Prop := p.inflight = 0 ∨ p.att.getLsbD 0 = false

section
variable {s : State} (hn : (s.pitches.map (·.1)).Nodup) (hc : ∀ k, calm (s.pitch k))
include hn hc

theorem idled_apart : SameDevice s (idled s) ∧ (∀ j, ((idled s).pitch j).account = (s.pitch j).account ∧
    ((idled s).pitch j).tier = (s.pitch j).tier) ∧ ((idled s).pitches.map (·.1)).Nodup := by
  obtain ⟨hd, -, hm, hk⟩ := steps_apart touches_idlePitch _ hn s fun k _ => hc k
  exact ⟨hd, hm, hk hn⟩

/-- A pitch in the idled device. -/
theorem idled_at (k : Nat) : (idled s).pitch k = s.pitch k ∨
    ∃ u, SameDevice s u ∧ u.pitch k = s.pitch k ∧ (idled s).pitch k = (u.idlePitch k).pitch k := by
  by_cases hk : k ∈ s.pitches.map (·.1)
  · obtain ⟨u, hd, hu, hp, -⟩ := steps_at touches_idlePitch (still := fun p => p.inflight = 0)
      (fun s k h c => by rw [idlePitch_idle h]) _ hn s (fun k _ => hc k) k hk
    exact .inr ⟨u, hd, hu, hp⟩
  · exact .inl ((steps_apart touches_idlePitch _ hn s fun k _ => hc k).2.1 k hk)

theorem idled_idle {k : Nat} (h : (s.pitch k).inflight = 0) : (idled s).pitch k = s.pitch k := by
  rcases idled_at hn hc k with hk | ⟨u, -, hu, hp⟩
  · exact hk
  · rw [hp, idlePitch_idle (by rw [hu]; exact h), hu]

/-- One that is accessed is as its own step leaves it. -/
theorem idled_busy {k : Nat} (h : (s.pitch k).inflight ≠ 0) :
    ∃ u, SameDevice s u ∧ u.pitch k = s.pitch k ∧ (idled s).pitch k = (u.idlePitch k).pitch k := by
  obtain ⟨u, hd, hu, hp, -⟩ := steps_at touches_idlePitch (still := fun p => p.inflight = 0)
    (fun s k h c => by rw [idlePitch_idle h]) _ hn s (fun k _ => hc k) k (key_of_inflight h)
  exact ⟨u, hd, hu, hp⟩

theorem idled_account (c : BitVec 10) (h : ∀ k, (s.pitch k).account = c → (s.pitch k).inflight = 0) :
    (idled s).account c = s.account c :=
  steps_account touches_idlePitch (still := fun p => p.inflight = 0) (fun s k h c => by rw [idlePitch_idle h]) _ hn s (fun k _ => hc k) c
    fun k _ => h k

/-- The second half of an update's vacating. -/
theorem vacated_apart : SameDevice (idled s) s.vacateDevice ∧
    ∀ j, j ∉ nearPitches (idled s) → s.vacateDevice.pitch j = (idled s).pitch j := by
  obtain ⟨-, -, hk⟩ := idled_apart hn hc
  obtain ⟨hd, ho, -⟩ := steps_apart (P := fun _ => True) (fun s k _ => touches_vacate s k) _ (nearPitches_nodup hk) (idled s) fun _ _ => trivial
  exact ⟨hd, ho⟩

theorem vacated_at {k : Nat} (h : k ∈ nearPitches (idled s)) : ∃ u, SameDevice (idled s) u ∧ u.pitch k = (idled s).pitch k ∧
    s.vacateDevice.pitch k = (u.vacate k).pitch k ∧
    ∀ c, (∀ j ∈ nearPitches (idled s), j ≠ k → ((idled s).pitch j).account = c → ((idled s).pitch j).state ≠ .leased) →
      u.account c = (idled s).account c ∧ s.vacateDevice.account c = (u.vacate k).account c := by
  obtain ⟨-, -, hk⟩ := idled_apart hn hc
  exact steps_at (P := fun _ => True) (fun s k _ => touches_vacate s k) (still := fun p => p.state ≠ .leased)
    (fun s k h c => vacate_account h c) _ (nearPitches_nodup hk) (idled s) (fun _ _ => trivial) k h

theorem vacated_account (c : BitVec 10)
    (h : ∀ j ∈ nearPitches (idled s), ((idled s).pitch j).account = c → ((idled s).pitch j).state ≠ .leased) :
    s.vacateDevice.account c = (idled s).account c := by
  obtain ⟨-, -, hk⟩ := idled_apart hn hc
  exact steps_account (P := fun _ => True) (fun s k _ => touches_vacate s k) (still := fun p => p.state ≠ .leased)
    (fun s k h c => vacate_account h c) _ (nearPitches_nodup hk) (idled s) (fun _ _ => trivial) c h

/-- A pitch of HBM or the far tier is not vacated. -/
theorem vacated_far {k : Nat} (h : 4 ≤ (s.pitch k).tier.toNat) : s.vacateDevice.pitch k = (idled s).pitch k := by
  obtain ⟨-, hm, hk⟩ := idled_apart hn hc
  refine (vacated_apart hn hc).2 k fun hmem => ?_
  have ht := mem_nearPitches hk k hmem
  rw [(hm k).2] at ht
  omega

end

theorem deviceVacated : DeviceVacated := by
  intro s hn hc w kept
  obtain ⟨hdev, hmeta, hkeys⟩ := idled_apart hn hc
  obtain ⟨hdev', hother⟩ := vacated_apart hn hc
  have hd := hdev.trans hdev'
  -- of a kept pitch's account, vacating finds nothing leased
  have hquiet (j : Nat) (hj : j ∈ nearPitches (idled s)) (hk : kept (s.pitch j)) : ((idled s).pitch j).state ≠ .leased := by
    have ht := mem_nearPitches hkeys j hj
    rw [(hmeta j).2] at ht
    rw [idled_idle hn hc hk.1]
    exact (hk.2.resolve_left (by omega)).1
  refine ⟨hd.mem, hd.agents, hd.queues, hd.requests, hd.sent, hd.now, hd.fw, fun acct h => ?_, fun k => ?_⟩
  · rw [vacated_account hn hc acct fun j hj ha => hquiet j hj (h j (by rw [← ha, (hmeta j).1])), idled_account hn hc acct fun j ha => (h j ha).1]
  intro p y c refund
  refine ⟨fun hk => ?_, fun hi ht hs => ?_, fun hi ht hs hothers hfit => ?_, fun hi ht hl he hv => ?_, fun hi ht ho => ?_⟩
  · have hp := idled_idle hn hc hk.1
    by_cases hmem : k ∈ nearPitches (idled s)
    · obtain ⟨u, -, hu, hy, -⟩ := vacated_at hn hc hmem
      have ht : p.tier.toNat ≤ 3 := (hmeta k).2 ▸ mem_nearPitches hkeys k hmem
      obtain ⟨hl, htent⟩ := hk.2.resolve_left (by omega)
      show s.vacateDevice.pitch k = s.pitch k
      rw [hy, vacate_stays (by rwa [hu, hp]) (by rwa [hu, hp]), hu, hp]
    · exact (hother k hmem).trans hp
  · have hp := idled_idle hn hc hi
    have hmem : k ∈ nearPitches (idled s) := nearPitches_of (by rwa [hp]) (by rw [hp]; rcases hs with hs | hs <;> rw [hs] <;> decide)
    obtain ⟨u, -, hu, hy, -⟩ := vacated_at hn hc hmem
    have hup := hu.trans hp
    have hscrub := vacate_scrubs (s := u) (k := k) (by rwa [hup]) (by rwa [hup])
    rw [← hy] at hscrub
    exact hscrub
  · have hp := idled_idle hn hc hi
    have hmem : k ∈ nearPitches (idled s) := nearPitches_of (by rwa [hp]) (by rw [hp, hs]; decide)
    obtain ⟨u, hdu, hu, -, hacct⟩ := vacated_at hn hc hmem
    obtain ⟨hua, hwa⟩ := hacct p.account fun j hj hne ha => hquiet j hj (hothers j hne (by rw [← ha, (hmeta j).1]))
    have hall (j : Nat) (ha : (s.pitch j).account = p.account) : (s.pitch j).inflight = 0 := by
      by_cases hj : j = k
      · rw [hj]
        exact hi
      · exact (hothers j hj ha).1
    have hv := (vacate_moves (s := u) (d := k) (hu.trans hp) hs hi).account
    rw [hua, idled_account hn hc _ hall, (hdev.trans hdu).now] at hv
    show (s.vacateDevice.account p.account).committed.toInt = _
    rw [hwa, hv]
    exact refund_committed hfit.2
  · obtain ⟨u, hdu, hu, hp⟩ := idled_busy hn hc hi
    show s.vacateDevice.pitch k = { s.pitch k with inflight := 0 }
    rw [vacated_far hn hc ht, hp, idlePitch_leased (by rwa [hu]) (by rwa [hu]) (by rwa [expiryDue_same hdu hu]) (by rwa [hu]), hu]
  · obtain ⟨u, hdu, hu, hp⟩ := idled_busy hn hc hi
    have hlapse := idlePitch_overstay (s := u) (k := k) (by rwa [hu]) (by rw [hu]; exact (hc k).resolve_left hi)
      (by rwa [hu, expiryDue_same hdu hu])
    rw [← hp, ← vacated_far hn hc ht] at hlapse
    exact hlapse

end Sys2Proof.Spec
end

section
/-!
PROOFS. FWUPDATE and its timeout (15 R329): the request waits, and once nothing runs the device is reset with the other image.
-/

namespace Sys2Proof.Spec

open Sys2Proof Sys2Proof.Machine

/-! ## What leaves the firmware and the time alone -/

/-- Firmware and time are the same. -/
def SameFirmware (s t : State) : Prop := t.fw = s.fw ∧ t.now = s.now

theorem SameFirmware.refl (s : State) : SameFirmware s s := ⟨rfl, rfl⟩

theorem SameFirmware.trans {s t u : State} (h : SameFirmware s t) (k : SameFirmware t u) : SameFirmware s u :=
  ⟨k.1.trans h.1, k.2.trans h.2⟩

theorem sameFirmware_fold {α : Type} (f : State → α → State) (h : ∀ s x, SameFirmware s (f s x)) (l : List α) (s : State) :
    SameFirmware s (l.foldl f s) := by
  induction l generalizing s with
  | nil => exact .refl s
  | cons x l ih => exact (h s x).trans (ih (f s x))

section
variable (s : State) (n : Nat)

theorem sameFirmware_restore : SameFirmware s (s.restore n) := by
  rw [restore_around]
  exact ⟨rfl, rfl⟩

theorem sameFirmware_discard : SameFirmware s (s.discard n) := (sameFirmware_restore s n).trans ⟨rfl, rfl⟩

theorem sameFirmware_endAgent (code : Byte) : SameFirmware s (s.endAgent n code) := by
  unfold State.endAgent
  dsimp only
  split
  · exact .refl s
  · refine SameFirmware.trans (t := s.markEnded (s.agent n).who code (s.agent n).cause) ?_ (.trans (t := (s.markEnded (s.agent n).who code
      (s.agent n).cause).vacateCore n (s.agent n).who) ?_ ⟨rfl, rfl⟩)
    · rw [markEnded_only]
      exact ⟨rfl, rfl⟩
    · rw [vacateCore_only]
      exact ⟨rfl, rfl⟩

theorem sameFirmware_doubleTrap : SameFirmware s (s.doubleTrap n) :=
  (sameFirmware_fold _ sameFirmware_discard _ _).trans (sameFirmware_fold _ (fun s m => sameFirmware_endAgent s m 0x03) _ _)

theorem sameFirmware_setAgents (ms : List Nat) (f : State → Nat → Agent) : SameFirmware s (ms.foldl (fun s m => s.setAgent m (f s m)) s) :=
  sameFirmware_fold (fun s m => s.setAgent m (f s m)) (fun _ _ => ⟨rfl, rfl⟩) ms s

/-- CAUSE and FADDR are written. -/
theorem sameFirmware_putCause (ms : List Nat) (c f : W64) :
    SameFirmware s (ms.foldl (fun s m => s.setAgent m ((s.agent m).putCause c f)) s) := sameFirmware_setAgents s ms _

theorem sameFirmware_deliverSuper (ms : List Nat) : SameFirmware s (s.deliverSuper n ms) := by
  unfold State.deliverSuper
  split
  · exact sameFirmware_doubleTrap s n
  · exact sameFirmware_setAgents s ms _

theorem sameFirmware_takeTrap (t : Trap) (entry : Bool) : SameFirmware s (s.takeTrap n t entry) := by
  unfold State.takeTrap
  dsimp only
  split
  · exact (sameFirmware_putCause s _ _ _).trans (sameFirmware_doubleTrap _ n)
  · have hr := sameFirmware_fold _ sameFirmware_restore (s.members n) s
    split
    · split
      · exact (hr.trans (sameFirmware_putCause _ _ _ _)).trans (sameFirmware_setAgents _ _ _)
      · exact ((hr.trans (sameFirmware_putCause _ _ _ _)).trans (sameFirmware_putCause _ _ _ _)).trans (sameFirmware_deliverSuper _ n _)
    · exact (hr.trans (sameFirmware_putCause _ _ _ _)).trans (sameFirmware_deliverSuper _ n _)

theorem sameFirmware_releaseWaiters (p : Pitch) : SameFirmware s (s.releaseWaiters p) := by
  have hwaiter (s : State) (m : Nat) : SameFirmware s (State.releaseWaiter p s m) := by
    unfold State.releaseWaiter
    dsimp only
    split
    · split
      · exact sameFirmware_takeTrap s m _ _
      · exact .refl s
    · exact ⟨rfl, rfl⟩
    · exact .refl s
  unfold State.releaseWaiters
  exact (sameFirmware_fold _ hwaiter _ s).trans ((sameFirmware_fold State.expireArm (fun _ _ => ⟨rfl, rfl⟩) _ _).trans ⟨rfl, rfl⟩)

theorem sameFirmware_lapse (k : Nat) : SameFirmware s (s.lapse k) := by
  have hw (t : State) (p : Pitch) : SameFirmware t (t.withdraw p) := by
    rw [withdraw_only]
    exact ⟨rfl, rfl⟩
  have hr (t : State) (p : Pitch) : SameFirmware t (if p.att.getLsbD 0 then t.releaseWaiters p else t) := by
    split
    · exact sameFirmware_releaseWaiters t p
    · exact .refl t
  have hset : SameFirmware s (s.setPitch k (lapsed (s.pitch k) s.now.toNat)) := ⟨rfl, rfl⟩
  unfold State.lapse
  dsimp only
  refine SameFirmware.trans ?_ (hr _ _)
  split
  · exact hset.trans (hw _ _)
  · exact hset

theorem sameFirmware_chargeOverstay (k : Nat) : SameFirmware s (s.chargeOverstay k) :=
  ⟨(touches_chargeOverstay s k).device.fw, (touches_chargeOverstay s k).device.now⟩

theorem sameFirmware_vacate (k : Nat) : SameFirmware s (s.vacate k) := ⟨(touches_vacate s k).device.fw, (touches_vacate s k).device.now⟩

theorem sameFirmware_idlePitch (k : Nat) : SameFirmware s (s.idlePitch k) := by
  have hx (t : State) : SameFirmware t (t.pitchExpiry k) := by
    unfold State.pitchExpiry
    split
    · split
      · exact sameFirmware_lapse t k
      · exact SameFirmware.trans (t := t.modPitch k fun p => { p with state := .overstay }) ⟨rfl, rfl⟩ (sameFirmware_chargeOverstay _ k)
    · exact .refl t
  have ho (t : State) : SameFirmware t (t.overstayTick k) := by
    unfold State.overstayTick
    dsimp only
    split
    · exact sameFirmware_chargeOverstay t k
    · exact .refl t
  have hi (t : State) : SameFirmware t (t.settleIdle k) := by
    unfold State.settleIdle
    dsimp only
    split
    · exact sameFirmware_lapse t k
    · split
      · refine SameFirmware.trans ?_ (sameFirmware_vacate _ k)
        split
        · exact sameFirmware_releaseWaiters t _
        · exact .refl t
      · exact .refl t
    · exact .refl t
  unfold State.idlePitch
  split
  · exact .refl s
  · have htick := (hx s).trans (ho (s.pitchExpiry k))
    exact (htick.trans (t := (s.pitchExpiry k).overstayTick k) ⟨rfl, rfl⟩).trans (hi _)

theorem sameFirmware_vacateDevice : SameFirmware s s.vacateDevice :=
  (sameFirmware_fold _ sameFirmware_idlePitch _ s).trans (sameFirmware_fold _ sameFirmware_vacate _ _)

/-! Queue interfaces. -/

theorem posted_trans {s t u : State}
    (h : t = { s with
      mem := t.mem, poison := t.poison, wcStatus := t.wcStatus, hostLines := t.hostLines, activated := t.activated, queues := t.queues
      sent := t.sent })
    (k : u = { t with
      mem := u.mem, poison := u.poison, wcStatus := u.wcStatus, hostLines := u.hostLines, activated := u.activated, queues := u.queues
      sent := u.sent }) :
    u = { s with
      mem := u.mem, poison := u.poison, wcStatus := u.wcStatus, hostLines := u.hostLines, activated := u.activated, queues := u.queues
      sent := u.sent } := k.trans (by rw [h])

/-- A completion touches records, memory and messages alone. -/
theorem postDone_only (q : BitVec 6) (tag : W64) (st : Byte) (v : W64) : let t := s.postDone q tag st v
    t = { s with
      mem := t.mem, poison := t.poison, wcStatus := t.wcStatus, hostLines := t.hostLines, activated := t.activated, queues := t.queues
      sent := t.sent } := by
  dsimp only
  unfold State.postDone
  dsimp only
  split
  · rfl
  · generalize hostAddr _ = a
    generalize completionBytes _ _ _ _ = bs
    split
    · exact posted_trans (t := s.put a bs) rfl (posted_trans (t := (s.put a bs).setQrec q ((s.qrec q).posted (s.put a bs).now.toNat)) rfl rfl)
    · exact posted_trans (t := s.put a bs) rfl rfl

theorem postDone_pitches (q : BitVec 6) (tag : W64) (st : Byte) (v : W64) : (s.postDone q tag st v).pitches = s.pitches := by
  rw [postDone_only]

theorem postDone_accounts (q : BitVec 6) (tag : W64) (st : Byte) (v : W64) : (s.postDone q tag st v).accounts = s.accounts := by
  rw [postDone_only]

theorem sameFirmware_postDone (q : BitVec 6) (tag : W64) (st : Byte) (v : W64) : SameFirmware s (s.postDone q tag st v) := by
  rw [postDone_only]
  exact ⟨rfl, rfl⟩

theorem sameFirmware_flush (q : BitVec 6) (f : Nat) : SameFirmware s (State.flush q f s) := by
  induction f generalizing s with
  | zero => exact .refl s
  | succ f ih =>
    unfold State.flush
    split
    next r _ =>
      split
      · exact (sameFirmware_postDone (s.dropReq r) q r.tag 0x08 0).trans (ih _)
      · exact .refl s
    next => exact .refl s

theorem sameFirmware_fetchAll : SameFirmware s s.fetchAll := by
  refine sameFirmware_fold _ (fun t k => ?_) _ s
  dsimp only
  split
  · unfold State.fetchRing
    exact SameFirmware.trans ⟨rfl, rfl⟩ (sameFirmware_flush _ _ _)
  · exact .refl t

theorem sameFirmware_postEvent (code : W64) : SameFirmware s (s.postEvent code) := by
  refine sameFirmware_fold _ (fun t k => ?_) _ s
  dsimp only
  split
  · exact sameFirmware_postDone t _ _ _ _
  · exact .refl t

end

/-! ## The reset -/

/-- A table of changed values. -/
theorem get_mapped {α : Type} (d : α) (f : α → α) (hd : f d = d) (t : Tab α) (k : Nat) :
    Tab.get d (t.map (fun e => (e.1, f e.2))) k = f (Tab.get d t k) := by
  induction t with
  | nil => exact hd.symm
  | cons e t ih =>
    obtain ⟨j, v⟩ := e
    rw [List.map_cons, Tab.get, Tab.get]
    dsimp only
    split
    · rfl
    · exact ih

/-- A table of the keys that are kept. -/
theorem get_keys {α : Type} (d : α) (p : Nat → Bool) (t : Tab α) (k : Nat) :
    Tab.get d (t.filter (fun x => p x.1)) k = if p k then Tab.get d t k else d := by
  by_cases hp : p k = true
  · rw [if_pos hp]
    exact Tab.get_filter d t _ k fun x _ hx => by rw [hx]; exact hp
  · rw [if_neg hp]
    refine get_filter_none d t _ k fun x _ hx => ?_
    rw [hx]
    simpa using hp

theorem fwReset_mem (s : State) (y : Nat) : s.fwReset.mem.read y = if y < 2 ^ 60 ∨ 2 ^ 64 ≤ y then s.mem.read y else 0 := by
  refine (get_keys memDefault keptAddr s.mem y).trans ?_
  unfold keptAddr
  simp only [Bool.or_eq_true, decide_eq_true_eq]
  rfl

theorem fwReset_qrec (s : State) (p : BitVec 6) : let y := s.qrec p
    s.fwReset.qrec p = { y with state := y.state && y.layout == 1, tdisp := if y.tdisp = 1 ∨ y.tdisp = 2 then 3 else y.tdisp } := by
  intro y
  refine (get_mapped QRec.reset QRec.restored rfl s.queues p.toNat).trans ?_
  show y.restored = _
  unfold QRec.restored QRec.locked
  simp only [Bool.or_eq_true, beq_iff_eq]

/-! ## The service of FWUPDATE -/

section
variable {s : State} {q : BitVec 6} {r : Req}

theorem exec_fwupdate : exec (.fwupdate q) s = .next (s.serveOp q 0x1D (State.serveUpdate q)).settleUpdate := rfl

/-- With no update asked for, nothing is settled. -/
theorem settleUpdate_none (h : s.fw.updating = none) : s.settleUpdate = s := by
  unfold State.settleUpdate
  rw [h]

/-- An update whose request is still there stands. -/
theorem settleUpdate_kept {p : BitVec 6} {tag : W64} {k : Nat} (h : s.fw.updating = some (p, tag, k))
    (hx : ∃ x ∈ s.requests, x.q = p ∧ x.opcode = 0x1D ∧ x.tag = tag) : s.settleUpdate = s := by
  obtain ⟨x, hm, hq, ho, ht⟩ := hx
  have hany : s.requests.any (fun r => r.q == p && r.opcode == 0x1D && r.tag == tag) = true :=
    List.any_eq_true.mpr ⟨x, hm, by simp [hq, ho, ht]⟩
  unfold State.settleUpdate
  rw [h]
  dsimp only
  rw [if_pos hany]

theorem posed_mem {op : Byte} (h : posed s q r op) : r ∈ s.requests := by
  obtain ⟨⟨rest, h0, -⟩, -⟩ := h
  rw [h0]
  exact List.mem_cons_self

theorem posed_update (h : posed s q r 0x1D) : ∃ x ∈ s.requests, x.q = q ∧ x.opcode = 0x1D ∧ x.tag = r.tag :=
  ⟨r, posed_mem h, h.2.1, h.2.2.1, rfl⟩

theorem answer_fw (st : Byte) (v : W64) : (answer s r st v).fw = s.fw := (sameFirmware_postDone (s.dropReq r) r.q r.tag st v).1

/-- Of an interface's only request, nothing behind it has been fetched. -/
theorem unfetch_posed {op : Byte} (h : posed s q r op) (hh : (s.qrec q).sqhead.toNat < 2 ^ (s.qrec q).sqlog.toNat) (f : Firmware) :
    ({ s with fw := f }).unfetch q r = { s with fw := f, queues := Tab.set QRec.reset s.queues q.toNat (s.qrec q) } := by
  obtain ⟨⟨rest, h0, h1⟩, hq, -⟩ := h
  have hno (x : Req) (hx : x ∈ s.requests) : (x.q == q && decide (r.num < x.num)) = false := by
    rw [h0] at hx
    rcases List.mem_cons.mp hx with rfl | hx
    · simp
    · simp [h1 x hx]
  have hbehind : s.requests.filter (fun x => x.q == q && decide (r.num < x.num)) = [] :=
    List.filter_eq_nil_iff.mpr fun x hx => by rw [hno x hx]; decide
  have hall : s.requests.filter (fun x => !(x.q == q && decide (r.num < x.num))) = s.requests :=
    List.filter_eq_self.mpr fun x hx => by rw [hno x hx]; rfl
  have hhead : BitVec.ofNat 16 (((s.qrec q).sqhead.toNat + 2 ^ (s.qrec q).sqlog.toNat - 0 % 2 ^ (s.qrec q).sqlog.toNat) %
      2 ^ (s.qrec q).sqlog.toNat) = (s.qrec q).sqhead := by
    rw [Nat.zero_mod, Nat.sub_zero, Nat.add_mod_right, Nat.mod_eq_of_lt hh, BitVec.ofNat_toNat, BitVec.setWidth_eq]
  unfold State.unfetch
  dsimp only
  rw [hbehind, hall]
  show State.setQrec { s with fw := f } q { s.qrec q with sqhead := BitVec.ofNat 16 _ } = _
  rw [List.length_nil, show ({ s with fw := f } : State).qrec q = s.qrec q from rfl, hhead]
  rfl

end

section
variable {s : State} {q : BitVec 6} {r : Req}

/-- Where nothing is staged FWUPDATE finds nothing. -/
theorem fwupdate_unstaged (h : posed s q r 0x1D) (hs : s.fw.staged = false) (hu : s.fw.updating = none) :
    exec (.fwupdate q) s = .next (answer s r 0x0C 0) := by
  have hv : State.serveUpdate q r s = .done s 0x0C 0 := by
    unfold State.serveUpdate
    rw [hs]
    rfl
  rw [exec_fwupdate, op_done h _ _ _ _ hv rfl, settleUpdate_none (by rwa [answer_fw])]

/-- The first FWUPDATE stops placement and waits. -/
theorem fwupdate_begins (h : posed s q r 0x1D) (hs : s.fw.staged = true) (hu : s.fw.updating = none)
    (hh : (s.qrec q).sqhead.toNat < 2 ^ (s.qrec q).sqlog.toNat) : exec (.fwupdate q) s = .next { s with
      fw := { s.fw with updating := some (q, r.tag, s.now.toNat + r.a0.toNat) }
      queues := Tab.set QRec.reset s.queues q.toNat (s.qrec q) } := by
  have hv : State.serveUpdate q r s = .wait { s with
      fw := { s.fw with updating := some (q, r.tag, s.now.toNat + r.a0.toNat) }
      queues := Tab.set QRec.reset s.queues q.toNat (s.qrec q) } := by
    unfold State.serveUpdate
    rw [hs, hu]
    exact congrArg Served.wait (unfetch_posed h hh _)
  rw [exec_fwupdate, State.serveOp, serve_wait h _ (by simp [h.2.2.1]) _ _ hv]
  exact congrArg Host.Outcome.next (settleUpdate_kept rfl (posed_update (s := s) h))

/-- A second one is turned away. -/
theorem fwupdate_second {p : BitVec 6} {tag : W64} {k : Nat} (h : posed s q r 0x1D) (hs : s.fw.staged = true)
    (hu : s.fw.updating = some (p, tag, k)) (hp : p ≠ q) (hx : ∃ x ∈ s.requests, x.q = p ∧ x.opcode = 0x1D ∧ x.tag = tag) :
    exec (.fwupdate q) s = .next (answer s r 0x07 0) := by
  have hv : State.serveUpdate q r s = .done s 0x07 0 := by
    unfold State.serveUpdate
    rw [hs, hu]
    dsimp only
    rw [if_neg (by decide), if_neg fun e => hp e.1]
  have hstill : ∃ x ∈ (answer s r 0x07 0).requests, x.q = p ∧ x.opcode = 0x1D ∧ x.tag = tag := by
    obtain ⟨x, hm, hq, hx⟩ := hx
    have hne : x ≠ r := fun e => hp (hq.symm.trans ((congrArg Req.q e).trans h.2.1))
    refine ⟨x, ?_, hq, hx⟩
    rw [answer, postDone_requests]
    exact (List.mem_erase_of_ne hne).mpr hm
  rw [exec_fwupdate, op_done h _ _ _ _ hv rfl, settleUpdate_kept (by rwa [answer_fw]) hstill]

/-- While a task set runs the update waits. -/
theorem fwupdate_waits {k : Nat} (h : posed s q r 0x1D) (hs : s.fw.staged = true) (hu : s.fw.updating = some (q, r.tag, k))
    (hr : s.anyRunning = true) : exec (.fwupdate q) s = .next s := by
  have hv : State.serveUpdate q r s = .wait s := by
    unfold State.serveUpdate
    rw [hs, hu]
    dsimp only
    rw [if_neg (by decide), if_pos ⟨rfl, rfl⟩, if_pos hr]
  rw [exec_fwupdate, State.serveOp, serve_wait h _ (by simp [h.2.2.1]) _ _ hv, settleUpdate_kept hu (posed_update h)]

/-- The firmware once the other image is in use. -/
theorem fwReset_fw (u : State) : u.fwReset.fw = { u.fw with useB := !u.fw.useB, staged := false, patches := [], updating := none } := rfl

theorem finished_fw (u : State) : (u.fwReset.postEvent 0x2).fetchAll.fw.updating = none := by
  rw [((sameFirmware_postEvent u.fwReset 0x2).trans (sameFirmware_fetchAll _)).1, fwReset_fw]

/-- Once none runs it is made. -/
theorem fwupdate_made {k : Nat} (h : posed s q r 0x1D) (hs : s.fw.staged = true) (hu : s.fw.updating = some (q, r.tag, k))
    (hr : s.anyRunning = false) : exec (.fwupdate q) s =
      .next (((s.dropReq r).vacateDevice.postDone q r.tag 0 0).fwReset.postEvent 0x2).fetchAll := by
  have hv : State.serveUpdate q r s = .wait (s.finishUpdate q r) := by
    unfold State.serveUpdate
    rw [hs, hu]
    dsimp only
    rw [if_neg (by decide), if_pos ⟨rfl, rfl⟩, if_neg (by rw [hr]; decide)]
  have hfw : (s.finishUpdate q r).fw.updating = none := by
    unfold State.finishUpdate
    dsimp only
    rw [finished_fw]
  rw [exec_fwupdate, State.serveOp, serve_wait h _ (by simp [h.2.2.1]) _ _ hv, settleUpdate_none hfw]
  rfl

theorem exec_fwupdateTimeout : exec .fwupdateTimeout s = .next s.updateTimeout := rfl

/-- A deadline that passes ends the wait. -/
theorem timeout_late {k : Nat} (h : posed s q r 0x1D) (hu : s.fw.updating = some (q, r.tag, k)) (hr : s.anyRunning = true)
    (hk : k ≤ s.now.toNat) : exec .fwupdateTimeout s =
      .next (answer { s with fw := { s.fw with updating := none } } r 0x07 0).fetchAll := by
  obtain ⟨⟨rest, h0, -⟩, hq, ho, -⟩ := h
  have hfind : s.requests.find? (fun x => x.q == q && x.opcode == 0x1D && x.tag == r.tag) = some r := by
    rw [h0, List.find?_cons_of_pos (by simp [hq, ho])]
  rw [exec_fwupdateTimeout, State.updateTimeout, hu]
  dsimp only
  rw [if_pos ⟨hk, hr⟩, hfind, answer, hq]

theorem timeout_early {k : Nat} (hu : s.fw.updating = some (q, r.tag, k)) (h : s.anyRunning = false ∨ s.now.toNat < k) :
    exec .fwupdateTimeout s = .next s := by
  rw [exec_fwupdateTimeout, State.updateTimeout, hu]
  dsimp only
  rw [if_neg]
  rintro ⟨hk, hr⟩
  rcases h with h | h
  · rw [h] at hr
    cases hr
  · omega

end

theorem firmwareUpdate : FirmwareUpdate := by
  intro s
  refine ⟨fun q r => fwupdate_unstaged, fun q r => fwupdate_begins, fun q r p tag k => fwupdate_second, fun q r k h hs hu =>
    ⟨fwupdate_waits h hs hu, fun hr => ?_⟩, fun q r k h hu => ⟨timeout_late h hu, timeout_early hu⟩, fun hu => ?_⟩
  · intro w u v
    have hfw : u.fw = s.fw := ((sameFirmware_vacateDevice (s.dropReq r)).trans (sameFirmware_postDone w q r.tag 0 0)).1
    have hnow : u.now = s.now := ((sameFirmware_vacateDevice (s.dropReq r)).trans (sameFirmware_postDone w q r.tag 0 0)).2
    have hpitches : u.pitches = w.pitches := postDone_pitches w q r.tag 0 0
    have haccounts : u.accounts = w.accounts := postDone_accounts w q r.tag 0 0
    refine ⟨fwupdate_made h hs hu hr, ?_, rfl, rfl, rfl, rfl, rfl, rfl, hnow, hpitches, haccounts, rfl, postDone_requests w q r.tag 0 0,
      fwReset_qrec u, fwReset_mem u⟩
    rw [fwReset_fw, hfw]
  · rw [exec_fwupdateTimeout, State.updateTimeout, hu]

end Sys2Proof.Spec
end

section
/-!
PROOFS. TDISP and SPDM messages (15 R325, R330): the sets of an interface that leaves CONFIG_LOCKED or RUN are drained without posting, and
its record is cleared once none is left.
-/

namespace Sys2Proof.Spec

open Sys2Proof Sys2Proof.Machine

/-! ## The tasks of a set that is drained -/

theorem closed_self (xs : List LoomTask) : closed xs xs LoomTask.stat :=
  ⟨rfl, fun _ x hx => ⟨x, hx, rfl, fun _ => ⟨rfl, rfl⟩⟩⟩

/-- Slices close one after the other. -/
theorem closed_trans {xs ys zs : List LoomTask} {f : LoomTask → TStat} (h : closed xs ys f) (g : closed ys zs LoomTask.stat) :
    closed xs zs f := by
  refine ⟨g.1.trans h.1, fun j x hx => ?_⟩
  obtain ⟨y, hy, hxy, hkeep⟩ := h.2 j x hx
  obtain ⟨z, hz, hyz, hkeep'⟩ := g.2 j y hy
  have hstat : y.stat = f x := by rw [hxy]
  refine ⟨z, hz, ?_, fun hd => ?_⟩
  · rw [hyz, hxy]
  · obtain ⟨hdue, hheld⟩ := hkeep hd
    obtain ⟨hdue', hheld'⟩ := hkeep' (hd.imp (fun e => hdue.trans e) fun e => hstat.trans e)
    exact ⟨hdue'.trans hdue, hheld'.trans hheld⟩

/-- Tasks that have not started are over. -/
theorem closed_unstarted (xs : List LoomTask) :
    closed xs (xs.map (fun x => if x.stat = .placed ∨ x.stat = .waiting then { x with stat := .ended } else x)) unstarted := by
  refine ⟨List.length_map _, fun j x hx => ⟨{ x with stat := unstarted x }, ?_, rfl, fun _ => ⟨rfl, rfl⟩⟩⟩
  rw [List.getElem?_map, hx, Option.map_some, unstarted]
  split <;> rfl

/-! ## A set that settles -/

/-- Not a conductor's tile. -/
def solo (u : TaskSet) : Prop := ∀ a b c, u.source ≠ .conductor a b c

/-- Between `s` and `t` set `ts` alone changes. -/
structure SetMoves (s t : State) (ts : Nat) : Prop where
  others : ∀ k, k ≠ ts → Tab.get none t.tasksets k = Tab.get none s.tasksets k
  keys : (s.tasksets.map (·.1)).Nodup → (t.tasksets.map (·.1)).Nodup

theorem SetMoves.refl (s : State) (ts : Nat) : SetMoves s s ts := ⟨fun _ _ => rfl, id⟩

theorem SetMoves.trans {s t u : State} {ts : Nat} (h : SetMoves s t ts) (g : SetMoves t u ts) : SetMoves s u ts :=
  ⟨fun k hk => (g.others k hk).trans (h.others k hk), fun hn => g.keys (h.keys hn)⟩

theorem modSet_moves (s : State) (ts : Nat) (f : TaskSet → TaskSet) : SetMoves s (s.modSet ts f) ts :=
  ⟨fun k hk => by rw [modSet_get, if_neg hk], set_keys _ _ _ _⟩

/-- One task of a set that is no tile leaves its loom. -/
theorem settlePass_set (s : State) (ts j : Nat) (u : TaskSet) (hu : Tab.get none s.tasksets ts = some u) (hs : solo u) :
    SetMoves s (s.settlePass ts j) ts ∧ ∃ ys, closed u.tasks ys LoomTask.stat ∧
      Tab.get none (s.settlePass ts j).tasksets ts = some { u with tasks := ys } := by
  have hb : s.bearer ts j = (ts, j) := by
    unfold State.bearer
    rw [hu]
    dsimp only
    split
    next a b c h => exact absurd h (hs a b c)
    next => rfl
  have hstay : SetMoves s s ts ∧ ∃ ys, closed u.tasks ys LoomTask.stat ∧ Tab.get none s.tasksets ts = some { u with tasks := ys } :=
    ⟨.refl s ts, u.tasks, closed_self _, hu⟩
  unfold State.settlePass
  rw [hb]
  dsimp only
  rw [hu]
  dsimp only
  split
  · exact hstay
  next x hx =>
    split
    next hd =>
      obtain ⟨hdue, hheld⟩ := (Bool.and_eq_true _ _).mp hd
      have hrun : x.stat ≠ .running := by
        intro h
        have hholds : s.loomHeld ts j x = true := by
          unfold State.loomHeld LoomTask.holds
          rw [h]
          rfl
        rw [hholds] at hheld
        cases hheld
      have hpass : (s.advancePass u x).tasksets = s.tasksets := by rw [advancePass_only]
      refine ⟨⟨fun k hk => Tab.get_set_ne _ _ _ _ _ hk, set_keys _ _ _ _⟩, _, ⟨List.length_set, fun i y hy => ?_⟩, Tab.get_set _ _ _ _⟩
      by_cases hij : i = j
      · subst hij
        obtain rfl : x = y := Option.some.inj (hx.symm.trans hy)
        have hlt : i < u.tasks.length := (List.getElem?_eq_some_iff.mp hx).1
        refine ⟨_, List.getElem?_set_self hlt, rfl, fun h => ?_⟩
        rcases h with h | h
        · rw [h] at hdue
          cases hdue
        · exact absurd h hrun
      · exact ⟨y, by rw [List.getElem?_set_ne (Ne.symm hij), hy], rfl, fun _ => ⟨rfl, rfl⟩⟩
    next => exact hstay

/-- All of them do. -/
theorem settleSet_set (s : State) (ts : Nat) (t u : TaskSet) (hu : Tab.get none s.tasksets ts = some u) (hs : solo u) :
    SetMoves s (s.settleSet ts t) ts ∧ ∃ ys, closed u.tasks ys LoomTask.stat ∧
      Tab.get none (s.settleSet ts t).tasksets ts = some { u with tasks := ys } := by
  unfold State.settleSet
  generalize List.range t.tasks.length = l
  induction l generalizing s u with
  | nil => exact ⟨.refl s ts, u.tasks, closed_self _, hu⟩
  | cons j l ih =>
    obtain ⟨hm, ys, hc, hg⟩ := settlePass_set s ts j u hu hs
    obtain ⟨hm', zs, hc', hg'⟩ := ih (s.settlePass ts j) { u with tasks := ys } hg hs
    exact ⟨hm.trans hm', zs, closed_trans hc hc', hg'⟩

/-! ## Tiles -/

/-- Every entry of a table with distinct keys is read by its key. -/
theorem mem_tasksets {s : State} (hn : (s.tasksets.map (·.1)).Nodup) {k : Nat} {u : TaskSet} :
    (k, some u) ∈ s.tasksets ↔ Tab.get none s.tasksets k = some u := by
  refine ⟨mem_get none s.tasksets hn k (some u), fun h => ?_⟩
  have hm := get_mem none s.tasksets k (by rw [h]; exact Option.some_ne_none u)
  rwa [h] at hm

/-- Whether a tile of a loom task holds a core, read by keys. -/
theorem tilesHold_iff {s : State} (hn : (s.tasksets.map (·.1)).Nodup) (ts j : Nat) : s.tilesHold ts j = true ↔
    ∃ k u, Tab.get none s.tasksets k = some u ∧ u.tileOf ts j = true ∧ u.tasks.any LoomTask.holds = true := by
  unfold State.tilesHold
  rw [List.any_eq_true]
  constructor
  · rintro ⟨⟨k, o⟩, hm, h⟩
    cases o with
    | none => cases h
    | some u => exact ⟨k, u, (mem_tasksets hn).mp hm, (Bool.and_eq_true _ _).mp h⟩
  · rintro ⟨k, u, hg, h⟩
    exact ⟨(k, some u), (mem_tasksets hn).mpr hg, (Bool.and_eq_true _ _).mpr h⟩

theorem solo_tileOf {u : TaskSet} (h : solo u) (ts j : Nat) : u.tileOf ts j = false := by
  unfold TaskSet.tileOf
  split
  next a b c he => exact absurd he (h a b c)
  next => rfl

/-- A set that is no tile has no part in which tiles hold cores. -/
theorem tilesHold_moves {s t : State} {a : Nat} (hn : (s.tasksets.map (·.1)).Nodup) (h : SetMoves s t a)
    (hs : ∀ u, Tab.get none s.tasksets a = some u → solo u) (ht : ∀ u, Tab.get none t.tasksets a = some u → solo u) (ts j : Nat) :
    t.tilesHold ts j = s.tilesHold ts j := by
  have hkey {v : State} (hv : ∀ u, Tab.get none v.tasksets a = some u → solo u) {k : Nat} {u : TaskSet}
      (hg : Tab.get none v.tasksets k = some u) (ho : u.tileOf ts j = true) : k ≠ a := by
    rintro rfl
    rw [solo_tileOf (hv u hg)] at ho
    cases ho
  rw [Bool.eq_iff_iff, tilesHold_iff (h.keys hn), tilesHold_iff hn]
  constructor
  · rintro ⟨k, u, hg, ho, hh⟩
    exact ⟨k, u, by rw [← h.others k (hkey ht hg ho), hg], ho, hh⟩
  · rintro ⟨k, u, hg, ho, hh⟩
    exact ⟨k, u, by rw [h.others k (hkey hs hg ho), hg], ho, hh⟩

theorem heldLooms_congr {s t : State} {u v : TaskSet} (hu : v.tasks = u.tasks) (ts : Nat) (h : ∀ j, t.tilesHold ts j = s.tilesHold ts j) :
    t.heldLooms ts v = s.heldLooms ts u := by
  unfold State.heldLooms State.loomHeld
  rw [hu]
  simp only [h]

/-! ## A set that is discarded -/

/-- What a drain asks. -/
def drainAsk (z : StopReq) : StopReq := { z with watchdog := some (z.watchdog.getD 0) }

theorem askDrain_eq : StopReq.askDrain = drainAsk := by
  funext z
  unfold StopReq.askDrain drainAsk
  cases z.watchdog <;> rfl

theorem drainAsk_idem (z : StopReq) : drainAsk (drainAsk z) = drainAsk z := rfl

theorem asked_idem (a : Agent) : asked (asked a drainAsk) drainAsk = asked a drainAsk := by
  unfold asked
  cases h : a.task.isSome
  · simp [h]
  · simp [h, drainAsk_idem]

theorem asked_inWait (a : Agent) (f : StopReq → StopReq) : (asked a f).inWait = a.inWait := by
  unfold asked
  split <;> rfl

/-- The set that a discard leaves: it posts nothing, and its tasks that have not started are over. -/
def discardedSet (q : BitVec 6) (u : TaskSet) (xs : List LoomTask) : TaskSet := { u with source := .silent q, overdue := true, tasks := xs }

/-- From `s` to `t` the sets `done` of interface `q` are discarded. -/
structure Discarded (q : BitVec 6) (done : List Nat) (s t : State) : Prop where
  requests : t.requests = s.requests
  queues : t.queues = s.queues
  mem : t.mem = s.mem
  sent : t.sent = s.sent
  keys : (t.tasksets.map (·.1)).Nodup
  others : ∀ k, k ∉ done → Tab.get none t.tasksets k = Tab.get none s.tasksets k
  sets : ∀ ts u, ts ∈ done → Tab.get none s.tasksets ts = some u → ∃ xs, closed u.tasks xs unstarted ∧
    Tab.get none t.tasksets ts = some (discardedSet q u xs)
  tiles : ∀ ts j, t.tilesHold ts j = s.tilesHold ts j
  asks : ∀ m, (∃ ts u l, ts ∈ done ∧ Tab.get none s.tasksets ts = some u ∧ l ∈ s.heldLooms ts u ∧ m ∈ loomAgents l) →
    t.agent m = asked (s.agent m) drainAsk
  rest : ∀ m, ¬ (∃ ts u l, ts ∈ done ∧ Tab.get none s.tasksets ts = some u ∧ l ∈ s.heldLooms ts u ∧ m ∈ loomAgents l) →
    t.agent m = s.agent m

section
variable {q : BitVec 6} {s t v : State} {a : Nat} {l : List Nat}

theorem Discarded.nil (q : BitVec 6) (hn : (s.tasksets.map (·.1)).Nodup) : Discarded q [] s s where
  requests := rfl
  queues := rfl
  mem := rfl
  sent := rfl
  keys := hn
  others _ _ := rfl
  sets _ _ h := absurd h List.not_mem_nil
  tiles _ _ := rfl
  asks _ := fun ⟨_, _, _, h, _⟩ => absurd h List.not_mem_nil
  rest _ _ := rfl

/-- No agent begins to wait. -/
theorem Discarded.inWait (h : Discarded q l s t) (hw : ∀ m, (s.agent m).inWait = false) (m : Nat) : (t.agent m).inWait = false := by
  by_cases hm : ∃ ts u x, ts ∈ l ∧ Tab.get none s.tasksets ts = some u ∧ x ∈ s.heldLooms ts u ∧ m ∈ loomAgents x
  · rw [h.asks m hm, asked_inWait, hw]
  · rw [h.rest m hm, hw]

theorem Discarded.cons (h : Discarded q [a] s t) (g : Discarded q l t v) (ha : a ∉ l) : Discarded q (a :: l) s v := by
  have hne (k : Nat) (hk : k ∈ l) : k ∉ [a] := fun e => ha (List.mem_singleton.mp e ▸ hk)
  have hlooms (ts : Nat) (u : TaskSet) : t.heldLooms ts u = s.heldLooms ts u := heldLooms_congr rfl ts fun j => h.tiles ts j
  -- the agents that the later discards reach, read in the first state
  have hlater (m : Nat) : (∃ ts u x, ts ∈ l ∧ Tab.get none t.tasksets ts = some u ∧ x ∈ t.heldLooms ts u ∧ m ∈ loomAgents x) ↔
      ∃ ts u x, ts ∈ l ∧ Tab.get none s.tasksets ts = some u ∧ x ∈ s.heldLooms ts u ∧ m ∈ loomAgents x := by
    constructor
    · rintro ⟨ts, u, x, hts, hg, hx, hm⟩
      exact ⟨ts, u, x, hts, by rwa [← h.others ts (hne ts hts)], by rwa [← hlooms], hm⟩
    · rintro ⟨ts, u, x, hts, hg, hx, hm⟩
      exact ⟨ts, u, x, hts, by rwa [h.others ts (hne ts hts)], by rwa [hlooms], hm⟩
  refine ⟨g.requests.trans h.requests, g.queues.trans h.queues, g.mem.trans h.mem, g.sent.trans h.sent, g.keys, fun k hk => ?_,
    fun ts u hts hu => ?_, fun ts j => (g.tiles ts j).trans (h.tiles ts j), fun m hm => ?_, fun m hm => ?_⟩
  · rw [List.mem_cons, not_or] at hk
    exact (g.others k hk.2).trans (h.others k fun e => hk.1 (List.mem_singleton.mp e))
  · rcases List.mem_cons.mp hts with rfl | hts
    · obtain ⟨xs, hc, hg⟩ := h.sets ts u (List.mem_singleton.mpr rfl) hu
      exact ⟨xs, hc, (g.others ts ha).trans hg⟩
    · exact g.sets ts u hts ((h.others ts (hne ts hts)).trans hu)
  · obtain ⟨ts, u, x, hts, hu, hx, hmx⟩ := hm
    by_cases hl : ∃ ts u x, ts ∈ l ∧ Tab.get none s.tasksets ts = some u ∧ x ∈ s.heldLooms ts u ∧ m ∈ loomAgents x
    · rw [g.asks m ((hlater m).mpr hl)]
      by_cases h1 : ∃ ts u x, ts ∈ [a] ∧ Tab.get none s.tasksets ts = some u ∧ x ∈ s.heldLooms ts u ∧ m ∈ loomAgents x
      · rw [h.asks m h1, asked_idem]
      · rw [h.rest m h1]
    · have h1 : ts ∈ [a] := by
        rcases List.mem_cons.mp hts with rfl | hts
        · exact List.mem_singleton.mpr rfl
        · exact absurd ⟨ts, u, x, hts, hu, hx, hmx⟩ hl
      rw [g.rest m (mt (hlater m).mp hl), h.asks m ⟨ts, u, x, h1, hu, hx, hmx⟩]
  · rw [g.rest m fun e => hm ?_, h.rest m fun e => hm ?_]
    · obtain ⟨ts, u, x, hts, e⟩ := e
      exact ⟨ts, u, x, List.mem_cons.mpr (.inl (List.mem_singleton.mp hts)), e⟩
    · obtain ⟨ts, u, x, hts, e⟩ := (hlater m).mp e
      exact ⟨ts, u, x, List.mem_cons_of_mem a hts, e⟩

end

/-- The begin of a set's drain, where no agent waits: the set, the passes and the agents of its looms. -/
theorem beginDrain_solo (s : State) (ts : Nat) (u : TaskSet) (hu : Tab.get none s.tasksets ts = some u) (hs : solo u)
    (hw : ∀ m, (s.agent m).inWait = false) : let t := s.beginDrain ts u
    t = { s with tasksets := t.tasksets, passes := t.passes, agents := t.agents } ∧ SetMoves s t ts ∧
      (∃ xs, closed u.tasks xs unstarted ∧ Tab.get none t.tasksets ts = some { u with overdue := true, tasks := xs }) ∧
      ∀ m, t.agent m = if m ∈ (s.heldLooms ts u).flatMap loomAgents then asked (s.agent m) drainAsk else s.agent m := by
  intro t
  -- the set is marked, and its tasks that have not started are over
  let mark (u : TaskSet) : TaskSet := { u with
    overdue := true
    tasks := u.tasks.map (fun x => if x.stat = .placed ∨ x.stat = .waiting then { x with stat := .ended } else x) }
  obtain ⟨hm, xs, hc, hg⟩ := settleSet_set (s.modSet ts mark) ts u (mark u) (by rw [modSet_get, if_pos rfl, hu]; rfl) hs
  have hagents (m : Nat) : ((s.modSet ts mark).settleSet ts u).agent m = s.agent m := by
    rw [settleSet_only]
    rfl
  obtain ⟨hask, honly⟩ := askStop_spec ((s.modSet ts mark).settleSet ts u) ((s.heldLooms ts u).flatMap loomAgents) StopReq.askDrain
    (fun z => by rw [askDrain_eq, drainAsk_idem]) fun m => by rw [hagents, hw]
  have ht : t = ((s.modSet ts mark).settleSet ts u).askStop ((s.heldLooms ts u).flatMap loomAgents) StopReq.askDrain := rfl
  have htasks : t.tasksets = ((s.modSet ts mark).settleSet ts u).tasksets := by rw [ht, honly]
  refine ⟨?_, ⟨fun k hk => ?_, fun hn => ?_⟩, ⟨xs, closed_trans (closed_unstarted u.tasks) hc, ?_⟩, fun m => ?_⟩
  · rw [ht, honly, settleSet_only]
    rfl
  · rw [htasks]
    exact ((modSet_moves s ts mark).trans hm).others k hk
  · rw [htasks]
    exact ((modSet_moves s ts mark).trans hm).keys hn
  · rw [htasks, hg]
  · rw [ht, hask, hagents, askDrain_eq]

/-- A discard of one set. -/
theorem discardSet_discarded (s : State) (q : BitVec 6) (ts : Nat) (u : TaskSet) (tag : W64) (num : Nat)
    (hu : Tab.get none s.tasksets ts = some u) (hq : u.source = .queue q tag num) (hn : (s.tasksets.map (·.1)).Nodup)
    (hw : ∀ m, (s.agent m).inWait = false) : Discarded q [ts] s (s.discardSet ts) := by
  let v : TaskSet := { u with source := .silent q }
  -- the partition that an overdue set has stopped goes on
  have hstart : ∃ parts, s.discardSet ts = ({ s with parts := parts }.modSet ts (fun _ => v)).beginDrain ts v := by
    unfold State.discardSet
    rw [hu]
    dsimp only
    rw [hq]
    split
    · exact ⟨_, rfl⟩
    · exact ⟨s.parts, rfl⟩
  obtain ⟨parts, hstart⟩ := hstart
  generalize hs2 : ({ s with parts := parts } : State).modSet ts (fun _ => v) = s2 at hstart
  have hmove : SetMoves s s2 ts := by
    have hm := modSet_moves { s with parts := parts } ts (fun _ => v)
    rw [← hs2]
    exact ⟨hm.others, hm.keys⟩
  have hg2 : Tab.get none s2.tasksets ts = some v := by
    rw [← hs2, modSet_get, if_pos rfl]
    exact congrArg (Option.map fun _ => v) hu
  have hagents (m : Nat) : s2.agent m = s.agent m := by rw [← hs2]; rfl
  have hsolo : solo u := by
    intro a b c h
    rw [hq] at h
    cases h
  have hsolo' : solo v := fun a b c h => by cases h
  have hfirst : ∀ w, Tab.get none s.tasksets ts = some w → solo w := fun w hw => Option.some.inj (hu.symm.trans hw) ▸ hsolo
  have htiles (k j : Nat) : s2.tilesHold k j = s.tilesHold k j :=
    tilesHold_moves hn hmove hfirst (fun w hw => Option.some.inj (hg2.symm.trans hw) ▸ hsolo') k j
  have hlooms : s2.heldLooms ts v = s.heldLooms ts u := heldLooms_congr rfl ts (htiles ts)
  obtain ⟨honly, hm, ⟨xs, hc, hg⟩, hask⟩ := beginDrain_solo s2 ts v hg2 hsolo' fun m => by rw [hagents, hw]
  rw [← hstart] at honly hm hg hask
  have hall := hmove.trans hm
  have hreach (m : Nat) : m ∈ (s2.heldLooms ts v).flatMap loomAgents ↔
      ∃ k w x, k ∈ [ts] ∧ Tab.get none s.tasksets k = some w ∧ x ∈ s.heldLooms k w ∧ m ∈ loomAgents x := by
    rw [hlooms, List.mem_flatMap]
    constructor
    · rintro ⟨x, hx, hmx⟩
      exact ⟨ts, u, x, List.mem_singleton.mpr rfl, hu, hx, hmx⟩
    · rintro ⟨k, w, x, hk, hkw, hx, hmx⟩
      obtain rfl := List.mem_singleton.mp hk
      obtain rfl := Option.some.inj (hu.symm.trans hkw)
      exact ⟨x, hx, hmx⟩
  have hfields : s2.requests = s.requests ∧ s2.queues = s.queues ∧ s2.mem = s.mem ∧ s2.sent = s.sent := by
    rw [← hs2]
    exact ⟨rfl, rfl, rfl, rfl⟩
  obtain ⟨hreq, hque, hmem, hsent⟩ := hfields
  refine ⟨by rw [honly, ← hreq], by rw [honly, ← hque], by rw [honly, ← hmem], by rw [honly, ← hsent], hall.keys hn,
    fun k hk => hall.others k fun e => hk (List.mem_singleton.mpr e), fun k w hk hkw => ?_, fun k j => ?_, fun m h => ?_, fun m h => ?_⟩
  · obtain rfl := List.mem_singleton.mp hk
    obtain rfl := Option.some.inj (hu.symm.trans hkw)
    exact ⟨xs, hc, hg⟩
  · refine tilesHold_moves hn hall hfirst (fun w hw => ?_) k j
    obtain rfl := Option.some.inj (hg.symm.trans hw)
    exact hsolo'
  · rw [hask, if_pos ((hreach m).mpr h), hagents]
  · rw [hask, if_neg (mt (hreach m).mp h), hagents]

/-- The sets that an interface launched. -/
def launchedBy (q : BitVec 6) (u : TaskSet) : Prop := ∃ tag k, u.source = .queue q tag k

theorem mem_setsOf {s : State} (hn : (s.tasksets.map (·.1)).Nodup) (q : BitVec 6) (ts : Nat) :
    ts ∈ s.setsOf q ↔ ∃ u, Tab.get none s.tasksets ts = some u ∧ launchedBy q u := by
  unfold State.setsOf
  rw [List.mem_filterMap]
  constructor
  · rintro ⟨⟨k, o⟩, hm, h⟩
    cases o with
    | none => cases h
    | some u =>
      dsimp only at h
      split at h
      next p tag num hsrc =>
        split at h
        next hp =>
          obtain rfl := Option.some.inj h
          exact ⟨u, (mem_tasksets hn).mp hm, tag, num, hp ▸ hsrc⟩
        next => cases h
      next => cases h
  · rintro ⟨u, hg, tag, num, hsrc⟩
    refine ⟨(ts, some u), (mem_tasksets hn).mpr hg, ?_⟩
    dsimp only
    rw [hsrc]
    exact if_pos rfl

theorem setsOf_nodup {s : State} (hn : (s.tasksets.map (·.1)).Nodup) (q : BitVec 6) : (s.setsOf q).Nodup := by
  refine hn.sublist ?_
  unfold State.setsOf
  generalize s.tasksets = l
  induction l with
  | nil => exact .slnil
  | cons e l ih =>
    rw [List.filterMap_cons, List.map_cons]
    split
    · exact ih.cons _
    next k hk =>
      have hke : k = e.1 := by
        split at hk
        · split at hk
          · split at hk
            · exact (Option.some.inj hk).symm
            · cases hk
          · cases hk
        · cases hk
      rw [hke]
      exact ih.cons_cons _

/-- All of them are discarded. -/
theorem discardSets (q : BitVec 6) (l : List Nat) (hl : l.Nodup) (s : State) (hn : (s.tasksets.map (·.1)).Nodup)
    (hw : ∀ m, (s.agent m).inWait = false) (h : ∀ ts ∈ l, ∃ u, Tab.get none s.tasksets ts = some u ∧ launchedBy q u) :
    Discarded q l s (l.foldl State.discardSet s) := by
  induction l generalizing s with
  | nil => exact .nil q hn
  | cons a l ih =>
    obtain ⟨ha, hl⟩ := List.nodup_cons.mp hl
    obtain ⟨u, hu, tag, num, hq⟩ := h a List.mem_cons_self
    have h1 := discardSet_discarded s q a u tag num hu hq hn hw
    refine h1.cons (ih hl (s.discardSet a) h1.keys (h1.inWait hw) fun ts hts => ?_) ha
    obtain ⟨w, hw, hs⟩ := h ts (List.mem_cons_of_mem a hts)
    exact ⟨w, (h1.others ts fun e => ha (List.mem_singleton.mp e ▸ hts)).trans hw, hs⟩

/-! ## What another interface's requests leave alone -/

/-- Between `s` and `t` agents, task sets and the record of interface `q` are the same, and it has no new request. -/
structure Elsewhere (q : BitVec 6) (s t : State) : Prop where
  agents : t.agents = s.agents
  tasksets : t.tasksets = s.tasksets
  qrec : t.qrec q = s.qrec q
  requests : ∀ x ∈ t.requests, x.q = q → x ∈ s.requests

theorem Elsewhere.refl (q : BitVec 6) (s : State) : Elsewhere q s s := ⟨rfl, rfl, rfl, fun _ hx _ => hx⟩

theorem Elsewhere.trans {q : BitVec 6} {s t u : State} (h : Elsewhere q s t) (g : Elsewhere q t u) : Elsewhere q s u :=
  ⟨g.agents.trans h.agents, g.tasksets.trans h.tasksets, g.qrec.trans h.qrec, fun x hx hq => h.requests x (g.requests x hx hq) hq⟩

theorem elsewhere_dropReq (q : BitVec 6) (s : State) (r : Req) : Elsewhere q s (s.dropReq r) :=
  ⟨rfl, rfl, rfl, fun _ hx _ => List.mem_of_mem_erase hx⟩

/-- The record of another interface is written. -/
theorem qrec_setQrec_ne (s : State) {p q : BitVec 6} (h : p ≠ q) (r : QRec) : (s.setQrec p r).qrec q = s.qrec q :=
  Tab.get_set_ne _ _ _ _ _ fun e => h (BitVec.eq_of_toNat_eq e.symm)

section
variable {p q : BitVec 6} (s : State) (h : p ≠ q)
include h

theorem qrec_signal_ne : (s.signal p).qrec q = s.qrec q := qrec_setQrec_ne s h _

theorem elsewhere_postDone (tag : W64) (st : Byte) (v : W64) : Elsewhere q s (s.postDone p tag st v) := by
  refine ⟨by rw [postDone_only], by rw [postDone_only], ?_, fun x hx _ => by rwa [postDone_requests] at hx⟩
  cases hs : (s.qrec p).state
  · unfold State.postDone
    dsimp only
    rw [hs]
    rfl
  · rw [postDone_eq s p tag st v hs]
    dsimp only
    generalize hostAddr _ = a
    generalize completionBytes _ _ _ _ = bs
    have hput : ((s.put a bs).setQrec p ((s.qrec p).posted s.now.toNat)).qrec q = s.qrec q := by
      rw [qrec_setQrec_ne _ h, State.qrec, State.qrec, put_only]
    split
    · rw [qrec_signal_ne _ h, hput]
    · exact hput

theorem elsewhere_flush (f : Nat) : Elsewhere q s (State.flush p f s) := by
  induction f generalizing s with
  | zero => exact .refl q s
  | succ f ih =>
    unfold State.flush
    split
    next r _ =>
      split
      · exact ((elsewhere_dropReq q s r).trans (elsewhere_postDone _ h r.tag 0x08 0)).trans (ih _)
      · exact .refl q s
    next => exact .refl q s

theorem elsewhere_fetchRing : Elsewhere q s (s.fetchRing p) := by
  unfold State.fetchRing State.flushAll
  dsimp only
  refine Elsewhere.trans ?_ (elsewhere_flush _ h _)
  refine ⟨rfl, rfl, qrec_setQrec_ne _ h _, fun x hx hq => ?_⟩
  rcases List.mem_append.mp hx with hx | hx
  · exact hx
  · obtain ⟨i, -, rfl⟩ := List.mem_map.mp hx
    exact absurd hq h

end

/-- The rings of the enabled interfaces are fetched: a disabled one gets nothing. -/
theorem elsewhere_fetchAll (q : BitVec 6) (s : State) (h : (s.qrec q).state = false) : Elsewhere q s s.fetchAll := by
  unfold State.fetchAll
  generalize List.range 64 = l
  induction l generalizing s with
  | nil => exact .refl q s
  | cons k l ih =>
    have hone : Elsewhere q s (if (s.qrec (BitVec.ofNat 6 k)).state then s.fetchRing (BitVec.ofNat 6 k) else s) := by
      split
      next hs => exact elsewhere_fetchRing s fun e => by rw [e, h] at hs; cases hs
      next => exact .refl q s
    exact hone.trans (ih _ (by rw [hone.qrec, h]))

theorem elsewhere_settleUpdate (q : BitVec 6) (s : State) (h : (s.qrec q).state = false) : Elsewhere q s s.settleUpdate := by
  unfold State.settleUpdate
  split
  · split
    · exact .refl q s
    · have hf : Elsewhere q s { s with fw := { s.fw with updating := none } } := ⟨rfl, rfl, rfl, fun _ hx _ => hx⟩
      exact hf.trans (elsewhere_fetchAll q _ (by rw [hf.qrec, h]))
  · exact .refl q s

/-! ## An interface that leaves its state -/

/-- Whether task sets that an interface discards are left. -/
theorem silentSet_iff {s : State} (hn : (s.tasksets.map (·.1)).Nodup) (q : BitVec 6) :
    (s.tasksets.any fun e => match e.2 with
      | some t => decide (t.source = .silent q)
      | none => false) = true ↔ ∃ ts u, Tab.get none s.tasksets ts = some u ∧ u.source = .silent q := by
  rw [List.any_eq_true]
  constructor
  · rintro ⟨⟨ts, o⟩, hm, h⟩
    cases o with
    | none => cases h
    | some u => exact ⟨ts, u, (mem_tasksets hn).mp hm, of_decide_eq_true h⟩
  · rintro ⟨ts, u, hg, h⟩
    exact ⟨(ts, some u), (mem_tasksets hn).mpr hg, decide_eq_true h⟩

/-- While one is left nothing settles. -/
theorem settleLeaving_waits {s : State} (hn : (s.tasksets.map (·.1)).Nodup) (q : BitVec 6)
    (h : ∃ ts u, Tab.get none s.tasksets ts = some u ∧ u.source = .silent q) : s.settleLeaving q = s := by
  unfold State.settleLeaving
  dsimp only
  split
  · exact if_pos ((silentSet_iff hn q).mpr h)
  · rfl

/-- Once none is left the record is cleared and the requests are dropped. -/
theorem settleLeaving_clears {s : State} (hn : (s.tasksets.map (·.1)).Nodup) (q : BitVec 6) (st : BitVec 2)
    (hl : (s.qrec q).leaving = some st) (h : ∀ ts u, Tab.get none s.tasksets ts = some u → u.source ≠ .silent q) :
    let t := s.settleLeaving q
    (∀ x ∈ t.requests, x.q ≠ q) ∧ t.qrec q = (s.qrec q).cleared st ∧ t.agents = s.agents ∧ t.tasksets = s.tasksets := by
  intro t
  let u : State := { s.setQrec q ((s.qrec q).cleared st) with requests := s.requests.filter (fun x => x.q != q) }
  have ht : t = u.settleUpdate := by
    show s.settleLeaving q = u.settleUpdate
    unfold State.settleLeaving
    dsimp only
    rw [hl]
    refine if_neg fun e => ?_
    obtain ⟨ts, w, hg, hw⟩ := (silentSet_iff hn q).mp e
    exact h ts w hg hw
  have hrec : u.qrec q = (s.qrec q).cleared st := qrec_setQrec s q _
  have hu : Elsewhere q u t := ht ▸ elsewhere_settleUpdate q u (by rw [hrec]; rfl)
  refine ⟨fun x hx hq => ?_, hu.qrec.trans hrec, hu.agents, hu.tasksets⟩
  have hkept := (List.mem_filter.mp (hu.requests x hx hq)).2
  rw [hq] at hkept
  simp at hkept

/-! ## TDISP messages -/

section
variable {s : State} {q : BitVec 6} {st : BitVec 2}

theorem exec_tdispMessage : exec (.tdispMessage q st) s = .next (s.tdisp q st) := rfl

/-- Under TDISP an interface cannot be reconfigured. -/
theorem locked_iff (r : QRec) : r.locked = true ↔ r.tdisp = 1 ∨ r.tdisp = 2 := by
  unfold QRec.locked
  rw [Bool.or_eq_true, beq_iff_eq, beq_iff_eq]

/-- A state that is not left is replaced at once. -/
theorem tdisp_moves (hl : (s.qrec q).leaving = none) (h : ¬ ((s.qrec q).tdisp = 1 ∨ (s.qrec q).tdisp = 2) ∨ st = 1 ∨ st = 2) :
    s.tdisp q st = s.setQrec q { s.qrec q with tdisp := st } := by
  unfold State.tdisp
  dsimp only
  rw [hl, if_neg (by decide), if_neg]
  intro hc
  obtain ⟨hlock, hout⟩ := (Bool.and_eq_true _ _).mp hc
  rcases h with h | rfl | rfl
  · exact h ((locked_iff _).mp hlock)
  · simp at hout
  · simp at hout

/-- A later message names the state that the interface goes to. -/
theorem tdisp_again {z : BitVec 2} (hl : (s.qrec q).leaving = some z) :
    s.tdisp q st = s.setQrec q { s.qrec q with leaving := some st } := by
  unfold State.tdisp
  dsimp only
  rw [hl]
  rfl

/-- The interface leaves. -/
theorem tdisp_leaves (hl : (s.qrec q).leaving = none) (hk : (s.qrec q).tdisp = 1 ∨ (s.qrec q).tdisp = 2) (h1 : st ≠ 1) (h2 : st ≠ 2) :
    s.tdisp q st =
      ((s.setsOf q).foldl State.discardSet (s.setQrec q { s.qrec q with leaving := some st })).settleLeaving q := by
  unfold State.tdisp
  dsimp only
  rw [hl, if_neg (by decide), if_pos]
  rw [(locked_iff _).mpr hk, Bool.true_and, Bool.not_eq_true', Bool.or_eq_false_iff]
  exact ⟨beq_false_of_ne h1, beq_false_of_ne h2⟩

/-- With no set of hers the record is cleared at once. -/
theorem tdisp_clears (hl : (s.qrec q).leaving = none) (hk : (s.qrec q).tdisp = 1 ∨ (s.qrec q).tdisp = 2) (h1 : st ≠ 1) (h2 : st ≠ 2)
    (hn : (s.tasksets.map (·.1)).Nodup) (hown : ∀ ts u, Tab.get none s.tasksets ts = some u → ¬ launchedBy q u)
    (hsilent : ∀ ts u, Tab.get none s.tasksets ts = some u → u.source ≠ .silent q) : let t := s.tdisp q st
    (∀ x ∈ t.requests, x.q ≠ q) ∧ t.qrec q = (s.qrec q).cleared st ∧ t.agents = s.agents ∧ t.tasksets = s.tasksets := by
  intro t
  have hnone : s.setsOf q = [] := List.eq_nil_iff_forall_not_mem.mpr fun ts hts => by
    obtain ⟨u, hg, hu⟩ := (mem_setsOf hn q ts).mp hts
    exact hown ts u hg hu
  have ht : t = (s.setQrec q { s.qrec q with leaving := some st }).settleLeaving q := by
    show s.tdisp q st = _
    rw [tdisp_leaves hl hk h1 h2, hnone]
    rfl
  have hrec := qrec_setQrec s q { s.qrec q with leaving := some st }
  obtain ⟨hreq, hqrec, hagents, hsets⟩ := settleLeaving_clears (s := s.setQrec q { s.qrec q with leaving := some st }) hn q st
    (by rw [hrec]) hsilent
  rw [ht]
  refine ⟨hreq, hqrec.trans ?_, hagents, hsets⟩
  rw [hrec]
  rfl

/-- With sets of hers they are discarded, and the interface waits. -/
theorem tdisp_discards (hl : (s.qrec q).leaving = none) (hk : (s.qrec q).tdisp = 1 ∨ (s.qrec q).tdisp = 2) (h1 : st ≠ 1) (h2 : st ≠ 2)
    (hn : (s.tasksets.map (·.1)).Nodup) (hw : ∀ m, (s.agent m).inWait = false)
    (hers : ∃ ts u, Tab.get none s.tasksets ts = some u ∧ (launchedBy q u ∨ u.source = .silent q)) :
    Discarded q (s.setsOf q) (s.setQrec q { s.qrec q with leaving := some st }) (s.tdisp q st) := by
  generalize hs1 : s.setQrec q { s.qrec q with leaving := some st } = s1
  have hsets : s1.tasksets = s.tasksets := by rw [← hs1]; rfl
  have hkeys : (s1.tasksets.map (·.1)).Nodup := by rwa [hsets]
  have hd := discardSets q (s.setsOf q) (setsOf_nodup hn q) s1 hkeys (fun m => by rw [← hs1]; exact hw m)
    fun ts hts => by rw [hsets]; exact (mem_setsOf hn q ts).mp hts
  rw [tdisp_leaves hl hk h1 h2, hs1, settleLeaving_waits hd.keys]
  · exact hd
  obtain ⟨ts, u, hg, hu⟩ := hers
  by_cases hmem : ts ∈ s.setsOf q
  · obtain ⟨xs, -, hx⟩ := hd.sets ts u hmem (by rw [hsets, hg])
    exact ⟨ts, _, hx, rfl⟩
  · refine ⟨ts, u, by rw [hd.others ts hmem, hsets, hg], hu.resolve_left fun ho => hmem ?_⟩
    exact (mem_setsOf hn q ts).mpr ⟨u, hg, ho⟩

/-! ## SPDM messages -/

theorem exec_spdmMessage (k : Byte) : exec (.spdmMessage q k) s = .next (s.spdm q k) := rfl

theorem measured_of {k : Byte} {bs : List Byte} (h : (k = 1 ∧ bs = if s.fw.useB then s.fw.imageB else s.fw.imageA) ∨
    (k = 2 ∧ bs = s.fw.patchBytes) ∨ (k = 3 ∧ bs = s.cfg.bytes) ∨ (k = 4 ∧ bs = (s.qrec q).bytes)) : s.measured q k = some bs := by
  rcases h with ⟨rfl, rfl⟩ | ⟨rfl, rfl⟩ | ⟨rfl, rfl⟩ | ⟨rfl, rfl⟩ <;> rfl

theorem measured_none {k : Byte} (h : k = 0 ∨ 4 < k.toNat) : s.measured q k = none := by
  rcases h with rfl | h
  · rfl
  · unfold State.measured
    split
    iterate 4 next hk => omega
    rfl

theorem spdm_measured {k : Byte} {bs : List Byte} (h : s.measured q k = some bs) : let d := Config.sha512 bs
    s.spdm q k = { s with
      sent := s.sent ++ [.spdm k d ((List.range 512).map (Config.signature s.attestKey (k :: bytesOf d 64) s.freeCtr))]
      freeCtr := s.freeCtr + 1 } := by
  unfold State.spdm
  rw [h]
  rfl

theorem spdm_none {k : Byte} (h : s.measured q k = none) : s.spdm q k = s := by
  unfold State.spdm
  rw [h]

end

/-- The sets that the statement calls an interface's own. -/
theorem own_iff (q : BitVec 6) (u : TaskSet) : (match u.source with
    | .queue p _ _ => p == q
    | _ => false) = true ↔ launchedBy q u := by
  unfold launchedBy
  constructor
  · intro h
    split at h
    next p tag k hs => exact ⟨tag, k, by rw [hs, beq_iff_eq.mp h]⟩
    next => cases h
  · rintro ⟨tag, k, hs⟩
    rw [hs]
    exact beq_self_eq_true q

theorem securityMessages : SecurityMessages := by
  intro s q st k r locked own hers cleared
  have hown (u : TaskSet) : own u = true ↔ launchedBy q u := own_iff q u
  refine ⟨fun hl h => ?_, fun z hl => ?_, fun hl hk h1 h2 hn hw => ⟨fun hnone => ?_, fun hsome => ?_⟩, fun bs h => ?_, fun h => ?_⟩
  · rw [exec_tdispMessage, tdisp_moves hl h]
  · rw [exec_tdispMessage, tdisp_again hl]
  · exact ⟨_, rfl, tdisp_clears hl hk h1 h2 hn (fun ts u hg ho => hnone ts u hg (.inl ((hown u).mpr ho)))
      fun ts u hg ho => hnone ts u hg (.inr ho)⟩
  · have hd := tdisp_discards hl hk h1 h2 hn hw (hsome.imp fun ts => .imp fun u h => ⟨h.1, h.2.imp_left (hown u).mp⟩)
    have hnot (ts : Nat) (h : ∀ u, Tab.get none s.tasksets ts = some u → own u = false) : ts ∉ s.setsOf q := fun e => by
      obtain ⟨u, hg, ho⟩ := (mem_setsOf hn q ts).mp e
      exact absurd ((hown u).mpr ho) (by rw [h u hg]; decide)
    have hheld (m : Nat) : (∃ ts u l, Tab.get none s.tasksets ts = some u ∧ own u = true ∧ l ∈ s.heldLooms ts u ∧ m ∈ loomAgents l) ↔
        ∃ ts u l, ts ∈ s.setsOf q ∧ Tab.get none s.tasksets ts = some u ∧ l ∈ s.heldLooms ts u ∧ m ∈ loomAgents l := by
      constructor
      · rintro ⟨ts, u, l, hg, ho, hl⟩
        exact ⟨ts, u, l, (mem_setsOf hn q ts).mpr ⟨u, hg, (hown u).mp ho⟩, hg, hl⟩
      · rintro ⟨ts, u, l, hts, hg, hl⟩
        obtain ⟨w, hg', ho⟩ := (mem_setsOf hn q ts).mp hts
        obtain rfl := Option.some.inj (hg.symm.trans hg')
        exact ⟨ts, u, l, hg, (hown u).mpr ho, hl⟩
    refine ⟨_, rfl, hd.requests, ?_, hd.mem, hd.sent, fun ts hg => ?_, fun ts u hg => ⟨fun ho => ?_, fun ho => ?_⟩, fun m => ⟨fun h => ?_,
      fun h => ?_⟩⟩
    · exact (congrArg (fun t => Tab.get QRec.reset t q.toNat) hd.queues).trans (qrec_setQrec s q _)
    · exact (hd.others ts (hnot ts fun u hu => by rw [hg] at hu; cases hu)).trans hg
    · exact (hd.others ts (hnot ts fun w hw => Option.some.inj (hg.symm.trans hw) ▸ ho)).trans hg
    · exact hd.sets ts u ((mem_setsOf hn q ts).mpr ⟨u, hg, (hown u).mp ho⟩) hg
    · exact hd.asks m ((hheld m).mp h)
    · exact hd.rest m (mt (hheld m).mpr h)
  · rw [exec_spdmMessage, spdm_measured (measured_of h)]
  · rw [exec_spdmMessage, spdm_none (measured_none h)]

/-- Settles O52: an update vacates and resets the device as its parts say, and TDISP and SPDM messages do what they name. -/
theorem firmwareUpdateAndMessages : Obligations.FirmwareUpdateAndMessages :=
  ⟨deviceVacated, firmwareUpdate, securityMessages⟩

end Sys2Proof.Spec
end

section
/-!
PROOFS. Words of slots 3 and 4: near loads and stores and accumulator words do what their rows say (05 R121 to R123, R127, R130 to R137).
-/

namespace Sys2Proof.Spec

open Sys2Proof Sys2Proof.Machine

/-! ## Words of a core's slots -/

/-- A word of a core's slot `k` with row `F`: nothing follows its bundle, which waits for a tile at most, its checks pass where the condition
of the row holds, and its effect on its agent is that of the row. -/
structure CoreRow (k : Nat) (s : State) (n : Nat) (F : Form) (w : Word) : Prop where
  word : w = { Word.base k F.iq with
    writes := w.writes, ops := F.ops, pushes := F.push, hold := w.hold, chk := w.chk, act := w.act }
  form : F = { iq := F.iq, held := onCore (s.agent n) n, ops := F.ops, push := F.push, ok := F.ok, act := F.act }
  once : F.push.Nodup
  free : F.ok → ∀ t, w.hold = .tile t → (s.agent n).busy t = false
  planes : w.hold ≠ .planes
  met : F.ok → w.chk s n = none
  act : w.act s n (s.agent n) = F.act (s.agent n)
  keeps : (F.act (s.agent n)).mode = (s.agent n).mode ∧ (F.act (s.agent n)).r.repn = (s.agent n).r.repn

section

variable {k : Nat} {s : State} {n : Nat} {F : Form} {w : Word}

theorem CoreRow.runs (h : CoreRow k s n F w) (hp : w.prof (viewOf (s.agent n) n) = true) (hc : F.can (s.agent n)) : w.Runs s n := by
  have hrow : w.cmd = F.cmds ∧ w.sto = F.stores ∧ w.ops = F.ops ∧ w.pushes = F.push := by
    rw [h.word, h.form]
    exact ⟨rfl, rfl, rfl, rfl⟩
  have hframe : w.priv s n = false ∧ w.perm s n = false ∧ w.late = none := by
    rw [h.word]
    exact ⟨rfl, rfl, rfl⟩
  obtain ⟨hcmd, hsto, hops, hpush⟩ := hrow
  obtain ⟨hpriv, hperm, hlate⟩ := hframe
  exact runs_of_can w s n F hc hp hpriv hperm (h.free hc.1) h.planes (h.met hc.1) hlate hcmd hsto hops hpush h.once

theorem CoreRow.plain (h : CoreRow k s n F w) (hk : k ≠ 0) : w.Plain s n := by
  refine ⟨?_, fun a h0 => ?_⟩
  · rw [h.act]
    exact h.keeps
  · rw [h.word] at h0
    exact absurd h0 hk

/-- What a selected word does to its agent, as its row says. -/
theorem CoreRow.effect (h : CoreRow k s n F w) (hk : k ≠ 0) :
    w.effect s n (s.agent n) = (F.push.foldl Agent.reserve ((F.act (s.agent n)).taken F.ops)).seqStep := by
  unfold Word.effect
  rw [h.act, h.word]
  simp [Word.base, hk, Agent.popAll, Agent.taken, Word.pops]

/-- A further effect on the agent, which keeps its mode and REPN. -/
theorem CoreRow.andThen (h : CoreRow k s n F w) (after : Agent → Agent) (hafter : ∀ a, (after a).mode = a.mode ∧ (after a).r.repn = a.r.repn) :
    CoreRow k s n { F with act := fun a => after (F.act a) } { w with act := fun s n a => after (w.act s n a) } where
  word := by rw [h.word]
  form := by rw [h.form]
  once := h.once
  free := h.free
  planes := h.planes
  met := h.met
  act := congrArg after h.act
  keeps := ⟨(hafter _).1.trans h.keeps.1, (hafter _).2.trans h.keeps.2⟩

end

/-- Such a word does what its row says. -/
theorem CoreRow.says {k : Nat} {s : State} {F : Form} {w : Word} {i : Instr} (h : CoreRow k s s.cur.toNat F w) (hk : k ≠ 0)
    (hw : wordOf i = some w) (hp : F.held → w.prof (viewOf (s.agent s.cur.toNat) s.cur.toNat) = true) : F.Says i s := by
  have hflow : F.flow = fun _ a => a.seqStep := by rw [h.form]
  refine form_says F i s w (exec_word i w s hw) (by rw [h.word]; rfl) hp (fun hh => h.runs (hp hh)) (h.plain hk) ?_ (by rw [h.word]; rfl)
    (by rw [h.word, h.form]; rfl) (by rw [h.word, h.form]; rfl)
  rw [h.effect hk, hflow]

/-! ## Near words -/

section

variable (s : State) (n : Nat) (iq : BitVec 2) (q ar : BitVec 4) (pi : BitVec 1) (len : Nat) (off : Agent → W64)

/-- A near load passes its checks where they find nothing, and leaves its entry in flight (05 R132). -/
theorem nearLoad_row (entry : Nat → Vec) :
    CoreRow 3 s n (nearLoads s n iq q ar pi len (off (s.agent n)) entry) (nearLoad iq q ar pi len off entry) where
  word := rfl
  form := rfl
  once := List.nodup_singleton q
  free _ _ h := by cases h
  planes h := by cases h
  met hok := by
    obtain ⟨hcheck, hsound⟩ := hok
    simp only [nearLoad, hcheck, hsound, Option.none_or]
  act := rfl
  keeps := by
    obtain ⟨hm, hr⟩ := bumps_keep ar pi (BitVec.ofNat 64 len) (s.agent n)
      ((s.agent n).fly (s.agent n).icyc 6 (.push q (entry (s.mem.num (nearAddr n (off (s.agent n)).toNat) len))))
    exact ⟨hm, congrArg Regs.repn hr⟩

/-- A near store passes its checks where its lines also fit the journal, and leaves its bytes in flight (05 R132). -/
theorem nearStore_row : CoreRow 3 s n (nearStores s n iq q ar pi len (off (s.agent n))) (nearStore iq q ar pi len off) where
  word := rfl
  form := rfl
  once := List.nodup_nil
  free _ _ h := by cases h
  planes h := by cases h
  met hok := by
    obtain ⟨hcheck, hfits⟩ := hok
    simp only [nearStore, hcheck, Option.none_or]
    exact if_neg hfits.not_gt
  act := rfl
  keeps := ⟨(bumps_keep ..).1, congrArg Regs.repn (bumps_keep ..).2⟩

end

/-- Every near row is that of a word of slot 3, with the length and the byte offset of 05 R131. -/
theorem near_rows {s : State} {n : Nat} {i : Instr} {F : Form} (h : near s n i = some F) : ∃ w, wordOf i = some w ∧ CoreRow 3 s n F w := by
  unfold near at h
  split at h <;> cases h
  case h_1 iq q ar pi off => exact ⟨_, rfl, nearLoad_row s n iq q ar pi 512 (offPlain ar off) _⟩
  case h_2 iq q ar pi off => exact ⟨_, rfl, nearLoad_row s n iq q ar pi 256 (offPlain ar off) _⟩
  case h_3 iq q ar pi off => exact ⟨_, rfl, nearLoad_row s n iq q ar pi 64 (offPlain ar off) repeated8⟩
  case h_4 iq q ar pi x off => exact ⟨_, rfl, nearLoad_row s n iq q ar pi 512 (offIndex ar x off) _⟩
  case h_5 iq q ar pi off => exact ⟨_, rfl, nearStore_row s n iq q ar pi 512 (offPlain ar off)⟩
  case h_6 iq q ar pi off => exact ⟨_, rfl, nearStore_row s n iq q ar pi 256 (offPlain ar off)⟩
  case h_7 iq q ar pi x off => exact ⟨_, rfl, nearStore_row s n iq q ar pi 512 (offIndex ar x off)⟩

theorem nearWords : Spec.NearWords := by
  intro i s F h
  obtain ⟨w, hw, hrow⟩ := near_rows h
  exact hrow.says (by decide) hw (word_holders (near_holders s _ i) h hw)

/-! ## Accumulator words -/

section

variable (s : State) (n : Nat) (iq : BitVec 2) (q t ar : BitVec 4) (pi : BitVec 1) (r : BitVec 7)

/-- A read of rows passes its checks where they find nothing, waits for its tile, and leaves its entry in flight (05 R134). -/
theorem rowRead_row {rows : Nat → Nat × Nat} {entry : State → Nat → Agent → Nat → Vec} {first k : Nat} {x : Vec}
    (hrows : rows (row (s.agent n) ar r).toNat = (first, k)) (hx : entry s n (s.agent n) (row (s.agent n) ar r).toNat = x) :
    CoreRow 4 s n (rowReads s n iq q t ar pi r first k x) (rowRead iq q t ar pi r rows entry) where
  word := rfl
  form := rfl
  once := List.nodup_singleton q
  free hok u hu := by
    cases hu
    exact hok.1
  planes h := by cases h
  met hok := by
    obtain ⟨-, hcheck, hsound⟩ := hok
    have hrows : rows (rowIndex (s.agent n) ar r).toNat = (first, k) := hrows
    simp only [rowRead, hrows]
    exact (congrArg₂ Option.or hcheck hsound).trans rfl
  act := by subst hx; rfl
  keeps := ⟨(bumps_keep ..).1, congrArg Regs.repn (bumps_keep ..).2⟩

/-- A write of a row passes its checks where they find nothing, `chk` among them, and leaves the row in flight (05 R135). -/
theorem rowWrite_row (ops : List QOp) {chk : State → Nat → Nat → Option (Byte × W64)} {new : State → Nat → Nat → Vec} {x : Vec}
    (reads : Bool) (hx : new s n (row (s.agent n) ar r).toNat = x)
    (hchk : (reads = true → rowPoison s n (rowNum t (row (s.agent n) ar r).toNat) 1 = none) →
      chk s n (row (s.agent n) ar r).toNat = none) :
    CoreRow 4 s n (rowWrites s n iq ops t ar pi r x reads) (rowWrite iq t ar pi r ops chk new) where
  word := rfl
  form := rfl
  once := List.nodup_nil
  free hok u hu := by
    cases hu
    exact hok.1
  planes h := by cases h
  met hok := by
    obtain ⟨-, hcheck, hsound⟩ := hok
    exact (congrArg₂ Option.or hcheck (hchk hsound)).trans rfl
  act := by subst hx; rfl
  keeps := ⟨(bumps_keep ..).1, congrArg Regs.repn (bumps_keep ..).2⟩

/-- A scale is checked against the block at the port, if one stands there (05 R136). -/
theorem ascl_row : CoreRow 4 s n
    { iq := iq, held := onCore (s.agent n) n, ops := [⟨q, false⟩]
      ok := ∀ b, portBlock (s.agent n) t (s.agent n).icyc = some b →
        s.rentCheck n (s.agent n).who true false 0 n (t.toNat * 65536) (b.rows.length * 512) = none
      act := fun a => { a with blocks := a.blocks.map fun b =>
        if b.tile == t && b.port == a.icyc then b.scale ((a.queue q).headD 0) else b } } (wAscl iq q t) where
  word := rfl
  form := rfl
  once := List.nodup_nil
  free _ _ h := by cases h
  planes h := by cases h
  met hok := by
    dsimp only [wAscl]
    split
    next => rfl
    next b hb => rw [hok b hb]; rfl
  act := rfl
  keeps := ⟨rfl, rfl⟩

end

/-- Every accumulator row is that of a word of slot 4. -/
theorem accumulator_rows {s : State} {n : Nat} {i : Instr} {F : Form} (h : accumulator s n i = some F) :
    ∃ w, wordOf i = some w ∧ CoreRow 4 s n F w := by
  unfold accumulator at h
  split at h <;> cases h
  -- ARD, ARDC, after which the RSR counter rises, and ARDT
  case h_1 iq q t ar pi r => exact ⟨wArd iq q t ar pi r, rfl, rowRead_row s n iq q t ar pi r rfl rfl⟩
  case h_2 iq q t ar pi r =>
    exact ⟨wArdc iq q t ar pi r, rfl, (rowRead_row s n iq q t ar pi r (rows := oneRow)
      (entry := fun s n b e => convertRow s n b (s.accRow n (rowNum t e))) rfl rfl).andThen Agent.drawRsr drawRsr_keep⟩
  case h_3 iq q t ar pi r => exact ⟨wArdt iq q t ar pi r, rfl, rowRead_row s n iq q t ar pi r rfl rfl⟩
  -- AACC reads its row; AWR and AZERO do not
  case h_4 iq q t ar pi r => exact ⟨wAwr iq q t ar pi r, rfl, rowWrite_row s n iq t ar pi r _ false rfl fun _ => rfl⟩
  case h_5 iq q t ar pi r => exact ⟨wAacc iq q t ar pi r, rfl, rowWrite_row s n iq t ar pi r _ true rfl fun hsound => hsound rfl⟩
  case h_6 iq t ar pi r => exact ⟨wAzero iq t ar pi r, rfl, rowWrite_row s n iq t ar pi r _ false rfl fun _ => rfl⟩
  case h_7 iq q t => exact ⟨wAscl iq q t, rfl, ascl_row s n iq q t⟩

theorem accumulatorWords : Spec.AccumulatorWords := by
  intro i s F h
  obtain ⟨w, hw, hrow⟩ := accumulator_rows h
  exact hrow.says (by decide) hw (word_holders (accumulator_holders s _ i) h hw)

/-- Settles O7: near words and accumulator words are words of a core's slots with the rows of R131 to R136 (`near_rows`,
`accumulator_rows`). -/
theorem nearAndAccumulatorWords : Obligations.NearAndAccumulatorWords := by
  unfold Obligations.NearAndAccumulatorWords
  exact ⟨nearWords, accumulatorWords⟩

end Sys2Proof.Spec
end

section
/-!
PROOFS. What a trap brings back: the saved copies of journalled near lines and touched accumulator rows stand at their places again, and no
other byte changes (05 R124, R128, 12 R261).
-/

namespace Sys2Proof.Machine

/-! ## Numbers in memory -/

/-- A number is that of its bytes. -/
theorem num_congr {m m' : Memory} {a k : Nat} (h : ∀ y, a ≤ y → y < a + k → m.read y = m'.read y) : m.num a k = m'.num a k := by
  have hbytes : m.bytes a k = m'.bytes a k := by
    induction k generalizing a with
    | zero => rfl
    | succ k ih => rw [Memory.bytes, Memory.bytes, h a (by omega) (by omega), ih fun y hl hu => h y (by omega) (by omega)]
  rw [Memory.num, Memory.num, hbytes]

/-- A number just written. -/
theorem num_write_all (m : Memory) (a k : Nat) (x : BitVec (8 * k)) : (m.write a (bytesOf x k)).num a k = x.toNat := by
  have h := num_write m a (bytesOf x k) 0 k (by simp)
  have hx : x.toNat < 256 ^ k := (Nat.pow_mul 2 8 k) ▸ x.isLt
  rwa [Nat.add_zero, numAt, List.drop_zero, List.take_of_length_le (by simp), bytesOf, natOfBytes_bytesOfNat, Nat.mod_eq_of_lt hx] at h

/-! ## Saved copies written back -/

/-- The saved copies of a table, `k` bytes each, written back at the place `f` of their keys. -/
def State.writeBack {w : Nat} (s : State) (f : Nat → Nat) (k : Nat) (t : Tab (Option (BitVec w))) : State :=
  t.foldl (fun s x => match x.2 with
    | some v => s.store (f x.1) (bytesOf v k)
    | none => s) s

theorem revertNear_eq (s : State) (n : Nat) (j : Tab (Option (BitVec 512))) :
    s.revertNear n j = s.writeBack (fun l => nearAddr n (64 * l)) 64 j := by
  unfold State.revertNear State.writeBack
  congr 1
  funext s x
  obtain ⟨l, _ | v⟩ := x <;> rfl

theorem revertRows_eq (s : State) (n : Nat) (t : Tab (Option Vec)) :
    s.revertRows n t = s.writeBack (fun r => accAddr n (512 * r)) 512 t := by
  unfold State.revertRows State.writeBack
  congr 1
  funext s x
  obtain ⟨r, _ | v⟩ := x <;> rfl

/-- A byte outside the places of a table's keys stays. -/
theorem writeBack_out {w : Nat} (s : State) (f : Nat → Nat) (k : Nat) (t : Tab (Option (BitVec w))) (y : Nat)
    (h : ∀ x ∈ t, y < f x.1 ∨ f x.1 + k ≤ y) : (s.writeBack f k t).mem.read y = s.mem.read y := by
  induction t generalizing s with
  | nil => rfl
  | cons x t ih =>
    obtain ⟨l, _ | v⟩ := x
    · exact ih s fun x hx => h x (List.mem_cons_of_mem _ hx)
    · refine (ih (s.store (f l) (bytesOf v k)) fun x hx => h x (List.mem_cons_of_mem _ hx)).trans ?_
      exact read_write_out s.mem (f l) (bytesOf v k) y (by simpa using h _ List.mem_cons_self)

/-- Where keys rise and places do not overlap, every saved copy stands at its place. -/
theorem writeBack_num (s : State) (f : Nat → Nat) (k : Nat) (t : Tab (Option (BitVec (8 * k)))) (hf : ∀ l m, l < m → f l + k ≤ f m)
    (ht : t.Pairwise fun x y => x.1 < y.1) {l : Nat} {x : BitVec (8 * k)} (hx : (l, some x) ∈ t) :
    (s.writeBack f k t).mem.num (f l) k = x.toNat := by
  induction t generalizing s with
  | nil => cases hx
  | cons z t ih =>
    obtain ⟨hfirst, ht⟩ := List.pairwise_cons.1 ht
    rcases List.mem_cons.1 hx with rfl | hx
    · have hkeep : (State.writeBack (s.store (f l) (bytesOf x k)) f k t).mem.num (f l) k = (s.mem.write (f l) (bytesOf x k)).num (f l) k :=
        num_congr fun y _ hy => writeBack_out _ f k t y fun z hz => .inl (by have := hf l z.1 (hfirst z hz); omega)
      exact hkeep.trans (num_write_all ..)
    · exact ih _ ht hx

/-! ## Memory after a trap -/

/-- A restore brings no SVEC back: it is no register of the task (12 R261). -/
theorem restore_svec (s : State) (n : Nat) : ((s.restore n).agent n).svec = (s.agent n).svec := by
  obtain ⟨_, _, _, _, _, h⟩ := restore_agent s n
  rw [h]
  rfl

/-- An entry of the supervisor handler that every member can take leaves memory alone. -/
theorem deliverSuper_mem {s : State} {n : Nat} {ms : List Nat} (h : ∀ m ∈ ms, (s.agent m).badSvec = false) :
    (s.deliverSuper n ms).mem = s.mem := by
  have hgood : ¬ ms.any (fun m => (s.agent m).badSvec) = true := by
    rw [List.any_eq_true]
    rintro ⟨m, hm, hb⟩
    rw [h m hm] at hb
    cases hb
  unfold State.deliverSuper
  rw [if_neg hgood]
  exact foldl_mem (fun u m => u.setAgent m ((u.agent m).enterSuper (s.agent (s.lead n)).svec)) (fun _ _ => rfl) ms s

/-- A trap outside the supervisor handler, with a valid SVEC, leaves the memory of the restore. -/
theorem takeTrap_mem {s : State} {n : Nat} (t : Trap) (hm : s.members n = [n]) (hmode : (s.agent n).mode ≠ .super)
    (hs : (s.agent n).badSvec = false) : (s.takeTrap n t false).mem = (s.restore n).mem := by
  have hbad : ((s.restore n).agent n).badSvec = false := by
    unfold Agent.badSvec at hs ⊢
    rwa [restore_svec]
  have hcause (u : State) (hu : (u.agent n).badSvec = false) (c f : W64) :
      ((u.setAgent n ((u.agent n).putCause c f)).agent n).badSvec = false := by
    rw [State.agent_setAgent]
    exact hu
  unfold State.takeTrap
  simp only [hm, List.foldl_cons, List.foldl_nil, if_neg hmode]
  split
  · split
    · rfl
    · exact (deliverSuper_mem (by simpa using hcause _ (hcause _ hbad _ _) _ _)).trans rfl
  · exact (deliverSuper_mem (by simpa using hcause _ hbad _ _)).trans rfl

end Sys2Proof.Machine

namespace Sys2Proof.Spec

open Sys2Proof Sys2Proof.Machine

/-- The saved copies that a canonical table lists are those that it gives at their keys. -/
theorem saved_iff {α : Type} [DecidableEq α] {t : Tab (Option α)} (h : t.wf none = true) {k : Nat} {v : α} :
    (k, some v) ∈ t ↔ Tab.get none t k = some v := by
  have hn : (t.map (·.1)).Nodup := List.pairwise_map.2 (((Tab.wf_iff none t).1 h).1.imp Nat.ne_of_lt)
  refine ⟨mem_get none t hn k (some v), fun hg => ?_⟩
  have hm := get_mem none t k (by rw [hg]; exact Option.some_ne_none v)
  rwa [hg] at hm

/-- Every key of a canonical table gives a saved copy. -/
theorem saved_key {α : Type} [DecidableEq α] {t : Tab (Option α)} (h : t.wf none = true) {x : Nat × Option α} (hx : x ∈ t) :
    Tab.get none t x.1 ≠ none := by
  obtain ⟨k, _ | v⟩ := x
  · exact absurd rfl (((Tab.wf_iff none t).1 h).2 _ hx)
  · rw [(saved_iff h).1 hx]
    exact Option.some_ne_none v

/-- A near line of a core lies below every accumulator row. -/
theorem line_below_rows {n m l r : Nat} (hn : n < 312) (hl : l < 32768) : nearAddr n (64 * l) + 64 ≤ accAddr m (512 * r) := by
  unfold nearAddr accAddr
  omega

/-- A restore reverts what its agent has saved. -/
theorem reverts_restore {s t : State} {n : Nat} (h : saves s n) (ht : t.mem = (s.restore n).mem) : reverts s t n := by
  obtain ⟨-, hjournal, htouched, -, -, hn⟩ := h
  have hmem : t.mem = ((s.writeBack (fun l => nearAddr n (64 * l)) 64 (s.agent n).journal).writeBack
      (fun r => accAddr n (512 * r)) 512 (s.agent n).touched).mem := by rw [ht, restore_mem, revertNear_eq, revertRows_eq]
  refine ⟨fun l hl x hx => ?_, fun r _ x hx => ?_, fun y hy hz => ?_⟩
  · have hrows : t.mem.num (nearAddr n (64 * l)) 64 =
        (s.writeBack (fun l => nearAddr n (64 * l)) 64 (s.agent n).journal).mem.num (nearAddr n (64 * l)) 64 := by
      rw [hmem]
      refine num_congr fun y _ hy => writeBack_out _ _ _ _ y fun z _ => .inl ?_
      exact hy.trans_le (line_below_rows hn hl)
    rw [hrows]
    exact writeBack_num s (fun l => nearAddr n (64 * l)) 64 _ (fun a b hab => by simp only [nearAddr]; omega)
      ((Tab.wf_iff none _).1 hjournal).1 ((saved_iff hjournal).2 hx)
  · rw [hmem]
    exact writeBack_num _ (fun r => accAddr n (512 * r)) 512 _ (fun a b hab => by simp only [accAddr]; omega)
      ((Tab.wf_iff none _).1 htouched).1 ((saved_iff htouched).2 hx)
  · rw [hmem, writeBack_out _ _ _ _ y fun x hx => hz x.1 (saved_key htouched hx)]
    exact writeBack_out s _ _ _ y fun x hx => hy x.1 (saved_key hjournal hx)

/-- Settles O20: memory after the trap is that of the restore (`takeTrap_mem`), which writes the saved copies back (`reverts_restore`). -/
theorem trapRevertsMemory : Obligations.TrapRevertsMemory := by
  unfold Obligations.TrapRevertsMemory
  intro s n c k imm f hm hmode h0 h31 hsaves
  have hs : (s.agent n).badSvec = false := by
    unfold Agent.badSvec askew
    rw [decide_eq_false h0, decide_eq_false (not_not_intro h31)]
    rfl
  exact reverts_restore hsaves (takeTrap_mem _ hm (by rw [hmode]; decide) hs)

end Sys2Proof.Spec
end

section
/-!
PROOFS. NEAR_PERFORM: the bytes of a near store stand in the near store, and the journal gains the old bytes of the lines that it did not hold
(05 R123, R124).
-/

namespace Sys2Proof.Machine

/-! ## First copies -/

/-- The table `t` with a copy of every key of `ls` that it holds none of. -/
def saveFirst {α : Type} [DecidableEq α] (copy : Nat → α) (ls : List Nat) (t : Tab (Option α)) : Tab (Option α) :=
  ls.foldl (fun t l => match Tab.get none t l with
    | some _ => t
    | none => Tab.set none t l (some (copy l))) t

/-- A copy that is held stays, and every other key of the list has its copy. -/
theorem get_saveFirst {α : Type} [DecidableEq α] (copy : Nat → α) (ls : List Nat) (t : Tab (Option α)) (l : Nat) :
    Tab.get none (saveFirst copy ls t) l = if Tab.get none t l = none ∧ l ∈ ls then some (copy l) else Tab.get none t l := by
  induction ls generalizing t with
  | nil => simp [saveFirst]
  | cons m ls ih =>
    have hcons : saveFirst copy (m :: ls) t = saveFirst copy ls (match Tab.get none t m with
      | some _ => t
      | none => Tab.set none t m (some (copy m))) := rfl
    rw [hcons]
    split
    next v hv =>
      rw [ih]
      have hne : Tab.get none t l = none → l ≠ m := by rintro h rfl; rw [h] at hv; cases hv
      by_cases h : Tab.get none t l = none <;> simp [h, hne]
    next hv =>
      rw [ih]
      by_cases h : l = m
      · subst h; simp [hv]
      · simp [Tab.get_set_ne _ _ _ _ _ h, h]

/-! ## A near store lands -/

/-- A plain write changes no agent. -/
@[simp] theorem put_agent (s : State) (a : Nat) (bs : List Byte) (m : Nat) : (s.put a bs).agent m = s.agent m := rfl

/-- The lines of a near access. -/
theorem mem_nearLines {off len l : Nat} : l ∈ nearLines off len ↔ off / 64 ≤ l ∧ l < off / 64 + len / 64 := by
  simp only [nearLines, List.mem_map, List.mem_range]
  constructor
  · rintro ⟨i, hi, rfl⟩
    omega
  · rintro ⟨hl, hu⟩
    exact ⟨l - off / 64, by omega, by omega⟩

/-- The content of a near line. -/
def State.nearLine (s : State) (n l : Nat) : BitVec 512 := BitVec.ofNat 512 (s.mem.num (nearAddr n (64 * l)) 64)

section

variable (s : State) (n : Nat) (x : NearStore)

/-- A landing near store changes the journal of its agent and the poison of the journal. -/
theorem landNear_agent : let b := (s.landNear n x).agent n
    b = { s.agent n with journal := b.journal, journalBad := b.journalBad } := by
  unfold State.landNear
  dsimp only
  rw [put_agent, State.agent_setAgent]

/-- The journal then has the first copy of each of the lines. -/
theorem landNear_journal :
    ((s.landNear n x).agent n).journal = saveFirst (s.nearLine n) (nearLines x.off x.len) (s.agent n).journal := by
  unfold State.landNear saveFirst
  dsimp only
  rw [put_agent, State.agent_setAgent]
  dsimp only
  congr 1
  funext t l
  cases Tab.get none t l <;> rfl

/-- Its bytes are one write. -/
theorem landNear_mem (hq : s.quarantined = []) : (s.landNear n x).mem = s.mem.write (nearAddr n x.off) (bytesOf x.data x.len) :=
  put_mem _ _ _ hq

end

end Sys2Proof.Machine

namespace Sys2Proof.Spec

open Sys2Proof Sys2Proof.Machine

/-- The store at the head of the queue lands once its time has come, or as a QALIGN of the near path waits for it. -/
theorem exec_nearPerform {s : State} {k : BitVec 9} {x : NearStore} {xs : List NearStore} (hx : (s.agent k.toNat).nsq = x :: xs)
    (h : (s.agent k.toNat).lands (2 * x.due) = true ∨ ∃ far cyc, (s.agent k.toNat).wait = .qalign far true cyc ∧ x.due < cyc + 3) :
    exec (.nearPerform k) s = .next ((s.setAgent k.toNat { s.agent k.toNat with nsq := xs }).landNear k.toNat x) := by
  have hlands : ((s.agent k.toNat).lands (2 * x.due) || (s.agent k.toNat).alignsNear x) = true := by
    rcases h with h | ⟨far, cyc, hw, hd⟩
    · rw [h, Bool.true_or]
    · simp [Agent.alignsNear, hw, hd]
  have hexec : exec (.nearPerform k) s = .next (s.nearPerform k.toNat) := rfl
  rw [hexec]
  unfold State.nearPerform
  dsimp only
  rw [hx]
  exact congrArg _ (if_pos hlands)

/-- Settles O23: the store is one write (`landNear_mem`), and the journal keeps the first copy of each of its lines (`get_saveFirst`). -/
theorem nearStoreLanding : Obligations.NearStoreLanding := by
  unfold Obligations.NearStoreLanding
  intro s k x xs n a hx hlands hq _
  have hagent := landNear_agent (s.setAgent n { a with nsq := xs }) n x
  have hjournal := landNear_journal (s.setAgent n { a with nsq := xs }) n x
  have hmem := landNear_mem (s.setAgent n { a with nsq := xs }) n x hq
  rw [State.agent_setAgent] at hagent hjournal
  rw [State.setAgent_mem] at hmem
  refine ⟨_, exec_nearPerform hx hlands, by rw [hagent], by rw [hagent], fun i hi => ?_, fun y hy => ?_, fun l => ?_⟩
  · have hi' : i < (bytesOf x.data x.len).length := by simpa using hi
    have haddr : nearAddr n (x.off + i) = nearAddr n x.off + i := by unfold nearAddr; omega
    rw [hmem, haddr, read_write_in _ _ _ _ hi', bytesOf_getElem]
  · rw [hmem, read_write_out _ _ _ _ (by simpa using hy)]
  · rw [hjournal]
    simp only [get_saveFirst, mem_nearLines]
    rfl

end Sys2Proof.Spec
end

section
/-!
PROOFS. Matrix blocks in the accumulator: a block is added to its rows or written over them, and a stall of a tile ends with every block of the
tile added in issue order (05 R127, R128, 06 R157, 08 R194 to R197).
-/

namespace Sys2Proof.Machine

/-! ## A part of the accumulator changes -/

/-- From `s` to `t` agent `n` has written only to the `k` bytes from `a` on, and saved rows in their shadow banks. -/
structure RowsChange (s t : State) (n a k : Nat) : Prop where
  out : ∀ y, y < a ∨ a + k ≤ y → t.mem.read y = s.mem.read y
  agent : ∃ tc sb, t.agent n = { s.agent n with touched := tc, shadowBad := sb }
  others : ∀ m, m ≠ n → t.agent m = s.agent m
  quarantined : t.quarantined = s.quarantined

section

variable {s t u : State} {n a k : Nat}

theorem RowsChange.refl (s : State) (n a k : Nat) : RowsChange s s n a k := ⟨fun _ _ => rfl, ⟨_, _, rfl⟩, fun _ _ => rfl, rfl⟩

theorem RowsChange.trans (h : RowsChange s t n a k) (g : RowsChange t u n a k) : RowsChange s u n a k where
  out y hy := (g.out y hy).trans (h.out y hy)
  agent := by
    obtain ⟨_, _, ht⟩ := h.agent
    obtain ⟨tc, sb, hu⟩ := g.agent
    exact ⟨tc, sb, by rw [hu, ht]⟩
  others m hm := (g.others m hm).trans (h.others m hm)
  quarantined := g.quarantined.trans h.quarantined

/-- A change of a part is one of the whole. -/
theorem RowsChange.within {b l : Nat} (h : RowsChange s t n a k) (hl : b ≤ a) (hu : a + k ≤ b + l) : RowsChange s t n b l where
  out y hy := h.out y (by omega)
  agent := h.agent
  others := h.others
  quarantined := h.quarantined

/-- Poison is apart from it. -/
theorem RowsChange.poison (h : RowsChange s t n a k) (p : Tab Bool) : RowsChange s { t with poison := p } n a k :=
  ⟨h.out, h.agent, h.others, h.quarantined⟩

@[simp] theorem State.setAgent_accRow (s : State) (m : Nat) (b : Agent) (n j : Nat) : (s.setAgent m b).accRow n j = s.accRow n j := rfl

theorem accRow_poison (t : State) (p : Tab Bool) (n j : Nat) : ({ t with poison := p } : State).accRow n j = t.accRow n j := rfl

/-- A row outside stays. -/
theorem RowsChange.accRow (h : RowsChange s t n a k) {j : Nat} (hj : accAddr n (512 * j) + 512 ≤ a ∨ a + k ≤ accAddr n (512 * j)) :
    t.accRow n j = s.accRow n j :=
  congrArg (BitVec.ofNat 4096) (num_congr fun y hl hu => h.out y (by omega))

end

/-! ## One row -/

section

variable (s : State) (n k : Nat) (x : Vec)

/-- A row that is written is one plain write, once its old content is saved (05 R128). -/
theorem putRow_is : ∃ b : Agent, (∃ tc sb, b = { s.agent n with touched := tc, shadowBad := sb }) ∧
    s.putRow n k x = (s.setAgent n b).put (accAddr n (512 * k)) (bytesOf x 512) := by
  refine ⟨_, ?_, rfl⟩
  split <;> exact ⟨_, _, rfl⟩

/-- It changes its own bytes alone. -/
theorem putRow_change : RowsChange s (s.putRow n k x) n (accAddr n (512 * k)) 512 := by
  obtain ⟨b, hb, h⟩ := putRow_is s n k x
  rw [h]
  refine ⟨fun y hy => ?_, ?_, fun m hm => ?_, ?_⟩
  · rw [put_out _ _ _ y (by simpa using hy), State.setAgent_mem]
  · rwa [put_agent, State.agent_setAgent]
  · rw [put_agent, State.agent_setAgent_ne _ _ _ _ hm]
  · rw [put_quarantined, State.setAgent_quarantined]

/-- It holds what was written. -/
theorem putRow_accRow (hq : s.quarantined = []) : (s.putRow n k x).accRow n k = x := by
  obtain ⟨b, -, h⟩ := putRow_is s n k x
  have hnum : ((s.setAgent n b).put (accAddr n (512 * k)) (bytesOf x 512)).mem.num (accAddr n (512 * k)) 512 = x.toNat :=
    num_put _ _ 512 x hq
  unfold State.accRow
  rw [h, hnum]
  rw [BitVec.ofNat_toNat, BitVec.setWidth_eq]

/-- A sum is written as any row; only the poison of its lines differs (14 R313). -/
theorem sumRow_is : ∃ p, s.sumRow n k x = { s.putRow n k x with poison := p } := ⟨_, rfl⟩

theorem sumRow_change : RowsChange s (s.sumRow n k x) n (accAddr n (512 * k)) 512 := by
  obtain ⟨p, h⟩ := sumRow_is s n k x
  rw [h]
  exact (putRow_change s n k x).poison p

theorem sumRow_accRow (hq : s.quarantined = []) : (s.sumRow n k x).accRow n k = x := by
  obtain ⟨p, h⟩ := sumRow_is s n k x
  rw [h, accRow_poison, putRow_accRow s n k x hq]

end

/-! ## One block -/

/-- A row `old` once a block's row `x` is added to it, or by MMAZ written over it (08 R194, 06 R157). -/
def sumInto (zero : Bool) (old x : Vec) : Vec := if zero then x else mkVec fun j => f32Add (lane old j) (lane x j)

/-- One row of a block goes into row `k`. -/
def State.addRow (s : State) (n k : Nat) (zero : Bool) (x : Vec) : State :=
  if zero then s.putRow n k x else s.sumRow n k (sumInto zero (s.accRow n k) x)

section

variable (s : State) (n k : Nat) (zero : Bool) (x : Vec)

theorem addRow_change : RowsChange s (s.addRow n k zero x) n (accAddr n (512 * k)) 512 := by
  unfold State.addRow
  split
  · exact putRow_change ..
  · exact sumRow_change ..

theorem addRow_accRow (hq : s.quarantined = []) : (s.addRow n k zero x).accRow n k = sumInto zero (s.accRow n k) x := by
  unfold State.addRow
  split
  next h => rw [putRow_accRow s n k x hq, sumInto, if_pos h]
  next => rw [sumRow_accRow s n k _ hq]

/-- The rows of a block from row number `k` on. -/
def State.addRows (s : State) (n : Nat) (zero : Bool) : Nat → List Vec → State
  | _, [] => s
  | k, x :: xs => (s.addRow n k zero x).addRows n zero (k + 1) xs

variable (xs : List Vec)

theorem addRows_change : RowsChange s (s.addRows n zero k xs) n (accAddr n (512 * k)) (512 * xs.length) := by
  induction xs generalizing s k with
  | nil => exact .refl ..
  | cons x xs ih =>
    have hrow := (addRow_change s n k zero x).within (b := accAddr n (512 * k)) (l := 512 * (xs.length + 1)) le_rfl (by omega)
    refine hrow.trans ((ih (s.addRow n k zero x) (k + 1)).within ?_ ?_) <;> simp only [accAddr] <;> omega

theorem addRows_accRow (hq : s.quarantined = []) {j : Nat} {y : Vec} (hj : xs[j]? = some y) :
    (s.addRows n zero k xs).accRow n (k + j) = sumInto zero (s.accRow n (k + j)) y := by
  induction xs generalizing s k j with
  | nil => cases hj
  | cons x xs ih =>
    have hrow := addRow_change s n k zero x
    cases j with
    | zero =>
      obtain rfl : x = y := by simpa using hj
      refine ((addRows_change (s.addRow n k zero x) n (k + 1) zero xs).accRow (.inl ?_)).trans (addRow_accRow s n k zero x hq)
      simp only [accAddr]
      omega
    | succ j =>
      have hkeep : (s.addRow n k zero x).accRow n (k + (j + 1)) = s.accRow n (k + (j + 1)) :=
        hrow.accRow (.inr (by simp only [accAddr]; omega))
      have h := ih (s.addRow n k zero x) (k + 1) (hrow.quarantined.trans hq) (j := j) (by simpa using hj)
      rwa [show k + 1 + j = k + (j + 1) by omega, hkeep] at h

end

/-- A block goes into its rows one by one. -/
theorem addBlock_eq (s : State) (n : Nat) (b : Block) : s.addBlock n b = s.addRows n b.zero (rowNum b.tile 0) b.rows := by
  have hstep (s : State) (k : Nat) (x : Vec) : (if b.zero then s.putRow n k x
      else s.sumRow n k (mkVec fun j => f32Add (lane (s.accRow n k) j) (lane x j))) = s.addRow n k b.zero x := by
    unfold State.addRow sumInto
    by_cases h : b.zero = true
    · rw [if_pos h, if_pos h]
    · rw [if_neg h, if_neg h, if_neg h]
  unfold State.addBlock
  simp only [hstep]
  generalize b.rows = xs, 0 = i
  induction xs generalizing s i with
  | nil => rfl
  | cons x xs ih => exact ih (s.addRow n (rowNum b.tile i) b.zero x) (i + 1)

section

variable (s : State) (n : Nat) (b : Block)

theorem addBlock_change : RowsChange s (s.addBlock n b) n (accAddr n (65536 * b.tile.toNat)) (512 * b.rows.length) := by
  have h := addRows_change s n (rowNum b.tile 0) b.zero b.rows
  rwa [← addBlock_eq, show 512 * rowNum b.tile 0 = 65536 * b.tile.toNat by unfold rowNum; omega] at h

/-- A row of the tile that the block has. -/
theorem addBlock_accRow (hq : s.quarantined = []) {r : Nat} {x : Vec} (hx : b.rows[r]? = some x) :
    (s.addBlock n b).accRow n (128 * b.tile.toNat + r) = sumInto b.zero (s.accRow n (128 * b.tile.toNat + r)) x := by
  rw [addBlock_eq]
  exact addRows_accRow s n (rowNum b.tile 0) b.zero b.rows hq hx

/-- A row of the tile that the block has not. -/
theorem addBlock_beyond {r : Nat} (hr : b.rows[r]? = none) :
    (s.addBlock n b).accRow n (128 * b.tile.toNat + r) = s.accRow n (128 * b.tile.toNat + r) := by
  have hlen := List.getElem?_eq_none_iff.1 hr
  exact (addBlock_change s n b).accRow (.inr (by simp only [accAddr]; omega))

end

end Sys2Proof.Machine

namespace Sys2Proof.Spec

open Sys2Proof Sys2Proof.Machine

/-! ## The oldest block -/

theorem exec_partialSumAdd {s : State} {k : BitVec 9} {b : Block} {bs : List Block} (hb : (s.agent k.toNat).blocks = b :: bs)
    (h : (s.agent k.toNat).lands (2 * b.port + 1) = true) :
    exec (.partialSumAdd k) s = .next ((s.setAgent k.toNat { s.agent k.toNat with blocks := bs }).addBlock k.toNat b) := by
  have hexec : exec (.partialSumAdd k) s = .next (s.partialSumAdd k.toNat) := rfl
  rw [hexec]
  unfold State.partialSumAdd
  dsimp only
  rw [hb]
  exact congrArg _ (if_pos h)

theorem blockAddition : Spec.BlockAddition := by
  intro s k b bs n a hb hlands _ hq
  have hchange := addBlock_change (s.setAgent n { a with blocks := bs }) n b
  obtain ⟨tc, sb, hagent⟩ := hchange.agent
  rw [State.agent_setAgent] at hagent
  refine ⟨_, exec_partialSumAdd hb hlands, by rw [hagent], by rw [hagent], fun r x hx => ?_, hchange.out⟩
  have hrow := addBlock_accRow (s.setAgent n { a with blocks := bs }) n b hq hx
  rwa [State.setAgent_accRow, sumInto] at hrow

/-! ## The blocks of a tile -/

/-- The oldest block of a tile first: its own row, or none where it is shorter. -/
theorem rowAfter_row (bs : List Block) {b : Block} {r : Nat} {y : Vec} (h : b.rows[r]? = some y) (x : Vec) :
    rowAfter (b :: bs) r x = rowAfter bs r (sumInto b.zero x y) := by
  unfold rowAfter
  rw [List.foldl_cons, h]
  rfl

theorem rowAfter_beyond (bs : List Block) {b : Block} {r : Nat} (h : b.rows[r]? = none) (x : Vec) : rowAfter (b :: bs) r x = rowAfter bs r x := by
  unfold rowAfter
  rw [List.foldl_cons, h]

section

variable {u : BitVec 4} (s : State) (n : Nat) (bs : List Block)

theorem addBlocks_change (ht : ∀ b ∈ bs, b.tile = u) (hlen : ∀ b ∈ bs, b.rows.length ≤ 128) :
    RowsChange s (bs.foldl (fun s b => s.addBlock n b) s) n (accAddr n (65536 * u.toNat)) 65536 := by
  induction bs generalizing s with
  | nil => exact .refl ..
  | cons b bs ih =>
    obtain rfl := ht b List.mem_cons_self
    have hb := hlen b List.mem_cons_self
    exact ((addBlock_change s n b).within le_rfl (by omega)).trans
      (ih _ (fun c hc => ht c (List.mem_cons_of_mem _ hc)) fun c hc => hlen c (List.mem_cons_of_mem _ hc))

theorem addBlocks_accRow (ht : ∀ b ∈ bs, b.tile = u) (hq : s.quarantined = []) (r : Nat) :
    (bs.foldl (fun s b => s.addBlock n b) s).accRow n (128 * u.toNat + r) = rowAfter bs r (s.accRow n (128 * u.toNat + r)) := by
  induction bs generalizing s with
  | nil => rfl
  | cons b bs ih =>
    obtain rfl := ht b List.mem_cons_self
    have hbs := ih (s.addBlock n b) (fun c hc => ht c (List.mem_cons_of_mem _ hc)) ((addBlock_change s n b).quarantined.trans hq)
    refine hbs.trans ?_
    cases hr : b.rows[r]? with
    | none => rw [addBlock_beyond s n b hr, rowAfter_beyond bs hr]
    | some x => rw [addBlock_accRow s n b hq hr, rowAfter_row bs hr]

end

/-- Every block of tile `u` of agent `n` is added, and nothing else has changed but what held the agent (05 R127, 08 R197). -/
def tileDone (s t : State) (n : Nat) (u : BitVec 4) : Prop :=
  (t.agent n).blocks = (s.agent n).blocks.filter (fun b => b.tile != u) ∧ (t.agent n).busy u = false ∧ (t.agent n).r = (s.agent n).r ∧
    (∀ m, m ≠ n → t.agent m = s.agent m) ∧
    (∀ r < 128, t.accRow n (128 * u.toNat + r) =
      rowAfter ((s.agent n).blocks.filter (fun b => b.tile == u)) r (s.accRow n (128 * u.toNat + r))) ∧
    ∀ y, (y < accAddr n (65536 * u.toNat) ∨ accAddr n (65536 * u.toNat) + 65536 ≤ y) → t.mem.read y = s.mem.read y

/-- The tile's blocks are added at once on an agent that differs from `s` in what holds it, `b`, which stays as it is. -/
theorem addTile_done {s : State} {n : Nat} {u : BitVec 4} {b : Agent} (hblocks : b.blocks = (s.agent n).blocks)
    (hr : b.r = (s.agent n).r) (hlen : ∀ x ∈ (s.agent n).blocks, x.rows.length ≤ 128) (hq : s.quarantined = []) :
    let t := (s.setAgent n b).addTile n u
    tileDone s t n u ∧ (t.agent n).board = b.board ∧ (t.agent n).mdrain = b.mdrain := by
  intro t
  have ht : t = ((s.agent n).blocks.filter (fun x => x.tile == u)).foldl (fun s x => s.addBlock n x)
      ((s.setAgent n b).setAgent n { b with blocks := (s.agent n).blocks.filter (fun x => x.tile != u) }) := by
    unfold t State.addTile
    simp only [State.agent_setAgent, hblocks]
  rw [State.setAgent_setAgent] at ht
  have hmine : ∀ x ∈ (s.agent n).blocks.filter (fun x => x.tile == u), x.tile = u := fun x hx => beq_iff_eq.1 (List.mem_filter.1 hx).2
  have hchange := addBlocks_change (s.setAgent n { b with blocks := (s.agent n).blocks.filter (fun x => x.tile != u) }) n _ hmine
    fun x hx => hlen x (List.mem_filter.1 hx).1
  have hrows := addBlocks_accRow (s.setAgent n { b with blocks := (s.agent n).blocks.filter (fun x => x.tile != u) }) n _ hmine hq
  rw [← ht] at hchange hrows
  obtain ⟨tc, sb, hagent⟩ := hchange.agent
  rw [State.agent_setAgent] at hagent
  refine ⟨⟨by rw [hagent], ?_, by rw [hagent, hr], fun m hm => ?_, fun r _ => hrows r, hchange.out⟩, by rw [hagent], by rw [hagent]⟩
  · rw [hagent]
    simp [Agent.busy]
  · rw [hchange.others m hm, State.agent_setAgent_ne _ _ _ _ hm]

theorem exec_scoreboardStallEnd {s : State} {k : BitVec 9} {u : BitVec 4} (h : (s.agent k.toNat).board = some u) :
    exec (.scoreboardStallEnd k) s = .next ((s.setAgent k.toNat { s.agent k.toNat with board := none }).addTile k.toNat u) := by
  have hexec : exec (.scoreboardStallEnd k) s = .next (s.scoreboardStallEnd k.toNat) := rfl
  rw [hexec]
  unfold State.scoreboardStallEnd
  rw [h]

theorem exec_mdrainEnd {s : State} {k : BitVec 9} {u : BitVec 4} (h : (s.agent k.toNat).mdrain = some u) :
    exec (.mdrainEnd k) s = .next ((s.setAgent k.toNat { s.agent k.toNat with mdrain := none }).addTile k.toNat u) := by
  have hexec : exec (.mdrainEnd k) s = .next (s.mdrainEnd k.toNat) := rfl
  rw [hexec]
  unfold State.mdrainEnd
  rw [h]

theorem tileStallEnds : Spec.TileStallEnds := by
  intro s k u n a hlen hq fin
  refine ⟨fun hboard => ?_, fun hmdrain => ?_⟩
  · obtain ⟨hdone, hfree, -⟩ := addTile_done (u := u) (b := { a with board := none }) rfl rfl hlen hq
    exact ⟨_, exec_scoreboardStallEnd hboard, hfree, hdone⟩
  · obtain ⟨hdone, -, hfree⟩ := addTile_done (u := u) (b := { a with mdrain := none }) rfl rfl hlen hq
    exact ⟨_, exec_mdrainEnd hmdrain, hfree, hdone⟩

/-- Settles O25: a block goes into its rows one by one (`addBlock_eq`), and the end of a stall adds those of its tile (`addTile_done`). -/
theorem blockAdditionAndStallEnds : Obligations.BlockAdditionAndStallEnds := by
  unfold Obligations.BlockAdditionAndStallEnds
  exact ⟨blockAddition, tileStallEnds⟩

end Sys2Proof.Spec
end

section
/-!
PROOFS. Vector and predicate words put the lanes of their rows in flight (07 R164 to R179); the bytes of a VPACK and the bounds of a VDOT4.
-/

namespace Sys2Proof.Spec

open Sys2Proof Sys2Proof.Machine

/-! ## Signed selections and packed elements -/

section

variable {w : Nat} (x y : BitVec w)

theorem ite_slt_eq_min : (if x.slt y then x else y) = BitVec.ofInt w (min x.toInt y.toInt) := by
  rw [BitVec.slt_eq_decide]
  rcases lt_or_ge x.toInt y.toInt with h | h
  · rw [if_pos (decide_eq_true h), Int.min_eq_left h.le, BitVec.ofInt_toInt]
  · rw [if_neg (by simpa using h), Int.min_eq_right h, BitVec.ofInt_toInt]

theorem ite_slt_eq_max : (if x.slt y then y else x) = BitVec.ofInt w (max x.toInt y.toInt) := by
  rw [BitVec.slt_eq_decide]
  rcases lt_or_ge x.toInt y.toInt with h | h
  · rw [if_pos (decide_eq_true h), Int.max_eq_right h.le, BitVec.ofInt_toInt]
  · rw [if_neg (by simpa using h), Int.max_eq_left h, BitVec.ofInt_toInt]

end

theorem packBits_lt (w : Nat) (xs : List Nat) : packBits w xs < 2 ^ (w * xs.length) := by
  induction xs with
  | nil => exact Nat.one_pos
  | cons x xs ih =>
    have hx : x % 2 ^ w < 2 ^ w := Nat.mod_lt _ (Nat.two_pow_pos w)
    calc x % 2 ^ w + 2 ^ w * packBits w xs < 2 ^ w * (packBits w xs + 1) := by rw [Nat.mul_add_one]; omega
      _ ≤ 2 ^ w * 2 ^ (w * xs.length) := Nat.mul_le_mul_left _ ih
      _ = 2 ^ (w * (xs.length + 1)) := by rw [← Nat.pow_add, Nat.mul_add_one, Nat.add_comm]

/-- Element `j` of packed elements; past the last one stands 0. -/
theorem packBits_element (w : Nat) (xs : List Nat) (j : Nat) : packBits w xs / 2 ^ (w * j) % 2 ^ w = xs.getD j 0 % 2 ^ w := by
  induction xs generalizing j with
  | nil => simp [packBits]
  | cons x xs ih =>
    have hx : x % 2 ^ w < 2 ^ w := Nat.mod_lt _ (Nat.two_pow_pos w)
    cases j with
    | zero => simp [packBits]
    | succ j =>
      have h : packBits w (x :: xs) / 2 ^ w = packBits w xs := by
        rw [packBits, Nat.add_mul_div_left _ _ (Nat.two_pow_pos w), Nat.div_eq_of_lt hx, Nat.zero_add]
      rw [Nat.mul_add_one, Nat.add_comm, Nat.pow_add, ← Nat.div_div_eq_div_mul, h, ih, List.getD_cons_succ]

/-- Byte `j` of packed bytes that all have a place. -/
theorem byteAt_packBits {n : Nat} {xs : List Nat} (hn : 8 * xs.length ≤ n) (j : Nat) :
    byteAt (BitVec.ofNat n (packBits 8 xs)) j = BitVec.ofNat 8 (xs.getD j 0) := by
  have hlt : packBits 8 xs < 2 ^ n := (packBits_lt 8 xs).trans_le (Nat.pow_le_pow_right Nat.two_pos hn)
  apply BitVec.eq_of_toNat_eq
  rw [byteAt, BitVec.extractLsb'_toNat, BitVec.toNat_ofNat, Nat.mod_eq_of_lt hlt, Nat.shiftRight_eq_div_pow, packBits_element,
    BitVec.toNat_ofNat]

/-! ## The words of one result lane per lane -/

section

variable {i : Instr} {iq : BitVec 2} {lat : Nat} {vd va vb : BitVec 5} {ma mb md : BitVec 2} {pg : BitVec 3}

/-- The word of a two-source row computes the lane function of the row. -/
theorem binary_word {f : W32 → W32 → W32} (h : binary i = some (iq, lat, vd, va, vb, ma, mb, pg, md, f)) :
    wordOf i = some (binWord iq lat vd va vb ma mb pg md f) := by
  unfold binary at h
  split at h <;> cases h
  -- least and greatest
  case h_11 => exact congrArg (fun g => some (binWord _ 3 _ _ _ _ _ _ _ g)) (funext₂ ite_slt_eq_min)
  case h_12 => exact congrArg (fun g => some (binWord _ 3 _ _ _ _ _ _ _ g)) (funext₂ ite_slt_eq_max)
  -- shifts by the low five bits of a lane
  case h_16 | h_17 | h_18 => simp only [and31_toNat]; rfl
  -- the others compute the expression of their row
  all_goals rfl

/-- The word of a one-source row computes the lane function of the row. -/
theorem unary_word {f : W32 → W32} (h : unary i = some (iq, lat, vd, va, ma, pg, md, f)) :
    wordOf i = some (unWord iq lat vd va ma pg md f) := by
  unfold unary at h
  split at h <;> cases h
  all_goals rfl

end

/-- A vector word with nothing after its result: its mask and its value are those of its row in the state before the bundle. -/
theorem vecWord_says {i : Instr} {s : State} {iq : BitVec 2} {lat : Nat} {vd : BitVec 5} {md : BitVec 2} {ops : List QOp} {mask : Agent → Vec}
    {val : State → Nat → Agent → Vec} {m x : Vec} (hw : wordOf i = some (vecWord iq lat vd md ops mask val))
    (hm : mask (s.agent s.cur.toNat) = m) (hx : val s s.cur.toNat (s.agent s.cur.toNat) = x) :
    (vec (s.agent s.cur.toNat) s.cur.toNat iq lat vd md ops m x).Says i s :=
  vec_says i s iq lat vd md ops mask val id m x _ (exec_word i _ s hw) rfl (fun _ => ⟨rfl, rfl⟩) hm hx

theorem laneWords : Spec.LaneWords := by
  rintro i s F (h | h)
  · obtain ⟨⟨iq, lat, vd, va, vb, ma, mb, pg, md, f⟩, hb, rfl⟩ := Option.map_eq_some_iff.1 h
    exact vecWord_says (binary_word hb) rfl rfl
  · obtain ⟨⟨iq, lat, vd, va, ma, pg, md, f⟩, hu, rfl⟩ := Option.map_eq_some_iff.1 h
    exact vecWord_says (unary_word hu) rfl rfl

/-! ## Fused words, compares and predicates -/

/-- A compare whose verdict on two lanes is that of its row. -/
theorem compares_says {i : Instr} {s : State} {iq : BitVec 2} {pd : BitVec 3} {va vb : BitVec 5} {ma mb : BitVec 2} {pg : BitVec 3}
    {f : W32 → W32 → Bool} (hw : wordOf i = some (cmpWord iq pd va vb ma mb pg f)) :
    (compares (s.agent s.cur.toNat) s.cur.toNat iq pd va vb ma mb pg f).Says i s :=
  vector_says _ i s _ (exec_word i _ s hw) rfl rfl rfl ⟨rfl, rfl⟩

/-- A predicate word whose predicate is that of its row. -/
theorem predicate_says {i : Instr} {s : State} {iq : BitVec 2} {pd : BitVec 3} {f : Agent → Pred} {p : Pred}
    (hw : wordOf i = some (predWord iq pd f)) (hf : f (s.agent s.cur.toNat) = p) :
    (predicate (s.agent s.cur.toNat) s.cur.toNat iq pd p).Says i s := by
  subst hf
  exact vector_says _ i s _ (exec_word i _ s hw) rfl rfl rfl ⟨rfl, rfl⟩

theorem fusedAndPredicateWords : Spec.FusedAndPredicateWords := by
  intro i s F h
  unfold fusedOrPredicate at h
  split at h <;> cases h
  case h_1 | h_2 | h_3 => exact vecWord_says rfl rfl rfl
  case h_4 | h_5 | h_6 | h_7 | h_8 | h_9 => exact compares_says rfl
  case h_10 | h_11 | h_12 | h_13 | h_14 => exact predicate_says rfl rfl
  -- PCNT writes a scalar
  case h_15 iq d pa => exact vector_says _ _ s (wPcnt iq d pa) rfl rfl rfl rfl ⟨rfl, rfl⟩

/-! ## Permutations, conversions and reductions -/

theorem rearrangingWords : Spec.RearrangingWords := by
  intro i s F h
  unfold rearranges at h
  split at h <;> cases h
  -- VCVT draws the RSR counter after its result
  case h_7 iq vd va ma pg md =>
    exact vec_says _ s iq 3 vd md (modeOps ma va) (cvtMask pg) (fun s n b => cvtVec s n (s.agent n) b.r.rsr.toNat ((s.agent n).source ma va).1)
      Agent.drawRsr _ _ (wVcvt iq vd va ma pg md) rfl rfl drawRsr_keep rfl rfl
  all_goals exact vecWord_says rfl rfl rfl

/-! ## Packed bytes and dot products -/

/-- The bytes that VPACK packs, in order. -/
theorem packVec_bytes (x y : Vec) {j : Nat} (hj : j < 256) :
    byteAt (packVec x y) j = BitVec.ofNat 8 (if j < 128 then (lane x j).toNat else (lane y (j - 128)).toNat) := by
  unfold packVec
  rw [byteAt_packBits (by simp), List.getD_eq_getElem _ _ (by simpa using hj), List.getElem_map, List.getElem_range]

theorem packVec_beyond (x y : Vec) {j : Nat} (hj : 256 ≤ j) : byteAt (packVec x y) j = 0 := by
  unfold packVec
  rw [byteAt_packBits (by simp), List.getD_eq_default _ _ (by simpa using hj)]
  rfl

theorem byte_product_bounds (a b : Byte) : -16256 ≤ a.toInt * b.toInt ∧ a.toInt * b.toInt ≤ 16384 := by
  have ha : -128 ≤ a.toInt ∧ a.toInt ≤ 127 := ⟨a.le_toInt, Int.le_of_lt_add_one a.toInt_lt⟩
  have hb : -128 ≤ b.toInt ∧ b.toInt ≤ 127 := ⟨b.le_toInt, Int.le_of_lt_add_one b.toInt_lt⟩
  constructor <;> nlinarith

theorem packedBytesAndDots : Spec.PackedBytesAndDots := by
  refine ⟨fun x y j _ => ?_, fun x y => ?_⟩
  · by_cases h1 : j < 128
    · rw [packVec_bytes x y (by omega), if_pos h1, if_pos h1]
      rfl
    · rw [if_neg h1]
      by_cases h2 : j < 256
      · rw [packVec_bytes x y h2, if_neg h1, if_pos h2]
        rfl
      · rw [packVec_beyond x y (by omega), if_neg h2]
  · have h := fun k => byte_product_bounds (byteAt x k) (byteAt y k)
    have h0 := h 0
    have h1 := h 1
    have h2 := h 2
    have h3 := h 3
    simp only [List.range, List.range.loop, List.map_cons, List.map_nil, List.sum_cons, List.sum_nil]
    omega

/-- Settles O8: each word of these rows is a word of slot 5 with the lane function, mask and destination of its row (`binary_word`,
`unary_word`), and packed bytes are read back one by one (`byteAt_packBits`). -/
theorem vectorWords : Obligations.VectorWords := by
  unfold Obligations.VectorWords
  exact ⟨laneWords, fusedAndPredicateWords, rearrangingWords, packedBytesAndDots⟩

end Sys2Proof.Spec
end

section
/-!
PROOFS. Interval words put the intervals, bounds and verdicts of their rows in flight (07 R180 to R185).
-/

namespace Sys2Proof.Spec

open Sys2Proof Sys2Proof.Machine

/-! ## Forward forms, bounds and compares -/

section

variable {i : Instr} {s : State} {iq : BitVec 2} {d : BitVec 4}

/-- A word that writes an interval register with the intervals of its row. -/
theorem interval_says {f : Agent → Nat → Option Iv} {g : Nat → Option Iv} (hw : wordOf i = some (ivWord iq d f))
    (hf : f (s.agent s.cur.toNat) = g) : (interval (s.agent s.cur.toNat) s.cur.toNat iq d g).Says i s := by
  subst hf
  exact vector_says _ i s _ (exec_word i _ s hw) rfl rfl rfl ⟨rfl, rfl⟩

/-- A forward form; one of a single source names it twice. -/
theorem forward_says {k : IForm} {ia ib : BitVec 4} (hw : wordOf i = some (fwdWord iq k d ia ib)) :
    (interval (s.agent s.cur.toNat) s.cur.toNat iq d
      (fun l => ivFwd k (ivLane ((s.agent s.cur.toNat).getI ia) l) (ivLane ((s.agent s.cur.toNat).getI ib) l))).Says i s :=
  interval_says hw rfl

/-- A word that writes the lower lanes of a vector register with the bounds of its row. -/
theorem bounds_says {f : Agent → Nat → W32} {g : Nat → W32} (hw : wordOf i = some (ivToVec iq d f))
    (hf : f (s.agent s.cur.toNat) = g) : (bounds (s.agent s.cur.toNat) s.cur.toNat iq d g).Says i s := by
  subst hf
  exact vector_says _ i s _ (exec_word i _ s hw) rfl rfl rfl ⟨rfl, rfl⟩

/-- A compare of two interval registers. -/
theorem verdicts_says {t : BitVec 3} {ia ib : BitVec 4} {f : Option Iv → Option Iv → Bool × Bool}
    (hw : wordOf i = some (ivCmp iq ia ib t f)) : (verdicts (s.agent s.cur.toNat) s.cur.toNat iq t ia ib f).Says i s :=
  vector_says _ i s _ (exec_word i _ s hw) rfl rfl rfl ⟨rfl, rfl⟩

end

theorem intervalRows : Spec.IntervalWords := by
  intro i s F h
  unfold intervals at h
  split at h <;> cases h
  -- ISPLIT may be held where its two destinations differ, and writes both
  case h_15 iq d ia ib =>
    have prof := word_holders (w := wIsplit iq d ia ib) (intervals_holders s s.cur.toNat (.isplit iq d ia ib)) rfl rfl
    exact form_says _ _ s (wIsplit iq d ia ib) rfl rfl prof
      (fun hh hc => runs_unchecked _ s _ _ hc (prof hh) rfl rfl rfl rfl rfl rfl rfl rfl rfl List.nodup_nil)
      ⟨⟨rfl, rfl⟩, fun a _ => seqStep_keeps a⟩ rfl rfl rfl rfl
  case h_16 | h_17 | h_18 | h_19 => exact bounds_says rfl rfl
  case h_20 | h_21 | h_22 | h_23 | h_24 => exact verdicts_says rfl
  case h_12 | h_13 | h_14 => exact interval_says rfl rfl
  all_goals exact forward_says rfl

/-! ## Backward forms -/

/-- The word of a backward form; a form of one operand names it twice. -/
theorem backward_word {i : Instr} {iq : BitVec 2} {k : IForm} {two : Bool} {d ia ib : BitVec 4}
    (h : backward i = some (iq, k, two, d, ia, ib)) : wordOf i = some (backWord iq k two d ia ib) ∧ (two = false → ib = ia) := by
  unfold backward at h
  split at h <;> cases h
  all_goals exact ⟨rfl, by simp⟩

theorem backwardRows : Spec.BackwardWords := by
  intro i s F h
  obtain ⟨⟨iq, k, two, d, ia, ib⟩, hb, rfl⟩ := Option.map_eq_some_iff.1 h
  obtain ⟨hw, hone⟩ := backward_word hb
  have hib : (if two then ib else ia) = ib := by
    cases two
    · exact (hone rfl).symm
    · rfl
  refine vector_says _ i s _ (exec_word i _ s hw) rfl rfl ?_ ?_
  · simp only [backWord, hib]
    rfl
  · dsimp only
    split <;> split <;> exact ⟨rfl, rfl⟩

/-- Settles O9: each word of these rows is a word of slot 5 with the intervals, bounds or verdicts of its row, and a backward form narrows by
the contractor of its row (`backward_word`). -/
theorem intervalWords : Obligations.IntervalWords := by
  unfold Obligations.IntervalWords
  exact ⟨intervalRows, backwardRows⟩

end Sys2Proof.Spec
end

section
/-!
PROOFS. A plane load lands (08 R192): its plane holds the rows of the frame, and MLDBL's landing exchanges the planes.
-/

namespace Sys2Proof.Machine

/-! ## The rows of a plane -/

/-- Writes to the keys of a range leave at each key of it what was written there. -/
theorem get_foldl_set_range {α : Type} [DecidableEq α] (d : α) (f : Nat → α) (k : Nat) (t : Tab α) {r : Nat} (hr : r < k) :
    Tab.get d ((List.range k).foldl (fun t i => Tab.set d t i (f i)) t) r = f r := by
  induction k with
  | zero => exact absurd hr (Nat.not_lt_zero r)
  | succ k ih =>
    rw [List.range_succ, List.foldl_append]
    by_cases h : r = k
    · subst h
      exact Tab.get_set ..
    · exact (Tab.get_set_ne _ _ _ _ _ h).trans (ih (by omega))

/-- A plane loaded from a frame holds its rows (08 R190). -/
theorem frame_rows (s : State) (n f : Nat) {r : Nat} (hr : r < 128) : Tab.get 0 (s.frame n f) r = s.frameRow n f r :=
  get_foldl_set_range 0 (s.frameRow n f) 128 [] hr

@[simp] theorem frameOr_setAgent (s : State) (m : Nat) (b : Agent) (n f : Nat) : (s.setAgent m b).frameOr n f = s.frameOr n f := by
  have hpoison (y k : Nat) : poisonedAt (s.setAgent m b) y k = poisonedAt s y k := rfl
  simp only [State.frameOr, State.frame, State.frameRow, State.setAgent_mem, hpoison]

/-- A frame without poison is read as it stands. -/
theorem frameOr_sound {s : State} {n f : Nat} (h : poisonedAt s (canopyAddr n (32768 * f)) 32768 = none) :
    s.frameOr n f = (s.frame n f, 0) := by
  unfold State.frameOr
  rw [h]
  rfl

/-! ## The landing of a plane load -/

section

variable (a : Agent) (x : PlaneLoad) (y : Tab (BitVec 2048) × Byte)

/-- The plane of the load, its FRAME and its PFAULT are those of the load. -/
theorem loadPlane_plane : let b := a.loadPlane x y
    (if x.plane = 0 then b.plane0 else b.plane1) = y.1 ∧ (if x.plane = 0 then b.r.frame0 else b.r.frame1) = 1#1 ++ x.frame ∧
      (if x.plane = 0 then b.r.pfault0 else b.r.pfault1) = y.2 := by
  dsimp only [Agent.loadPlane]
  split <;> exact ⟨rfl, rfl, rfl⟩

theorem loadPlane_keeps : let b := a.loadPlane x y
    b.planeLoads = a.planeLoads ∧ b.r.active = a.r.active ∧ b.r.kc = a.r.kc := by
  dsimp only [Agent.loadPlane]
  split <;> exact ⟨rfl, rfl, rfl⟩

/-- The exchange changes ACTIVE and KC alone, and for MLDBL alone. -/
theorem swapPlanes_is : a.swapPlanes x =
    { a with r := { a.r with active := if x.swap then x.plane else a.r.active, kc := if x.swap then 0 else a.r.kc } } := by
  unfold Agent.swapPlanes
  split <;> rfl

end

end Sys2Proof.Machine

namespace Sys2Proof.Spec

open Sys2Proof Sys2Proof.Machine

theorem exec_planeLoadLand {s : State} {k : BitVec 9} {x : PlaneLoad} {xs : List PlaneLoad} (hx : (s.agent k.toNat).planeLoads = x :: xs)
    (h : (s.agent k.toNat).lands (2 * x.due) = true) :
    exec (.planeLoadLand k) s = .next ((s.setAgent k.toNat { s.agent k.toNat with planeLoads := xs }).landPlane k.toNat x) := by
  have hexec : exec (.planeLoadLand k) s = .next (s.planeLoadLand k.toNat) := rfl
  rw [hexec]
  unfold State.planeLoadLand
  dsimp only
  rw [hx]
  exact congrArg _ (if_pos h)

/-- Settles O24: an unpoisoned frame is loaded row by row (`frameOr_sound`, `frame_rows`), its plane takes it (`loadPlane_plane`), and the
exchange is MLDBL's alone (`swapPlanes_is`). -/
theorem planeLoadLanding : Obligations.PlaneLoadLanding := by
  unfold Obligations.PlaneLoadLanding
  intro s k x xs n a hx hlands hsound
  obtain ⟨pl, hpl⟩ : ∃ pl, s.frame n x.frame.toNat = pl := ⟨_, rfl⟩
  have hframe : (s.setAgent n { a with planeLoads := xs }).frameOr n x.frame.toNat = (pl, 0) := by
    rw [frameOr_setAgent, frameOr_sound hsound, hpl]
  have hrow (r : Nat) (hr : r < 128) : Tab.get 0 pl r = s.frameRow n x.frame.toNat r := hpl ▸ frame_rows s n _ hr
  obtain ⟨hrows, hnumber, hfault⟩ := loadPlane_plane { a with planeLoads := xs } x (pl, 0)
  obtain ⟨hloads, hactive, hkc⟩ := loadPlane_keeps { a with planeLoads := xs } x (pl, 0)
  refine ⟨_, exec_planeLoadLand hx hlands, rfl, ?_⟩
  dsimp only [State.landPlane]
  rw [State.agent_setAgent, State.agent_setAgent, hframe, swapPlanes_is]
  refine ⟨hloads, fun r hr => ?_, hnumber, hfault, ?_, ?_⟩
  · exact (congrArg (Tab.get 0 · r) hrows).trans (hrow r hr)
  · exact congrArg (fun y => if x.swap then x.plane else y) hactive
  · exact congrArg (fun y => if x.swap then 0 else y) hkc

end Sys2Proof.Spec
end

section
/-!
PROOFS. Matrix words: plane loads, multiplies, the repeat prefix and its repetitions, MDRAIN and MSWB (08 R191 to R198).
-/

namespace Sys2Proof.Machine

/-! ## A bundle of an agent of no gang -/

section

variable {s : State} {n : Nat} {ws : List Word}

/-- A bundle of an agent that belongs to no gang and that passes its checks has its effects. -/
theorem issueReady_solo (he : earlyTrap s n ws = none) (hc : checkTrap s n (selected s n ws) = none) :
    s.issueReady n [n] ws = s.issueDone n [n] ws := by
  unfold State.issueReady
  simp [firstEarly, he, ranksAhead, firstCheck, hc, diverges]

/-- The first check of step 4 of 01 R38 that fails stops it. -/
theorem issueReady_checked {t : Trap} (he : earlyTrap s n ws = none) (hc : checkTrap s n (selected s n ws) = some t) :
    s.issueReady n [n] ws = s.takeTrap n t false := by
  unfold State.issueReady
  simp [firstEarly, he, ranksAhead, firstCheck, hc]

/-- A bundle none of whose words waits for a tile or for plane loads issues at once. -/
theorem issue_unheld (hm : s.members n = [n]) (he : earlyTrap s n ws = none) (hh : ∀ w ∈ selected s n ws, w.hold = .none) :
    s.issue n ws = s.issueReady n [n] ws := by
  have ht : heldTile s n ws = none := List.findSome?_eq_none_iff.2 fun w hw => by rw [hh w hw]
  have hl : holdsPlanes s n ws = false := List.any_eq_false.2 fun w hw => by simp [hh w hw]
  unfold State.issue
  simp [hm, firstEarly, he, ranksAhead, ht, hl]

theorem filter_allWords : (allWords s n ws).filter (fun w => (s.agent n).selects w.iq) = selected s n ws := rfl

/-- What a bundle leaves that nothing follows. -/
theorem issueDone_solo {k m : Nat} {f : Agent → Agent} (hf : Agent.effect s n (selected s n ws) = (f (s.agent n)).retire k m)
    (hp : ∀ w ∈ selected s n ws, w.post = fun s _ => s) : s.issueDone n [n] ws = s.issued n k m f := by
  have hpost (xs : List Word) (hxs : ∀ w ∈ xs, w.post = fun s _ => s) (u : State) : xs.foldl (fun t w => w.post t n) u = u := by
    induction xs generalizing u with
    | nil => rfl
    | cons x xs ih =>
      rw [List.foldl_cons, hxs x (List.mem_cons_self ..)]
      exact ih (fun w hw => hxs w (List.mem_cons_of_mem _ hw)) u
  unfold State.issueDone
  rw [hpost _ hp]
  simp only [List.foldl_cons, List.foldl_nil, State.effect, filter_allWords, hf]
  rfl

/-- A bundle of an agent of no gang that passes its checks, that nothing holds and that nothing follows. -/
theorem issue_passes {k m : Nat} {f : Agent → Agent} {vs : List Word} (hm : s.members n = [n]) (he : earlyTrap s n ws = none)
    (hs : selected s n ws = vs) (hh : ∀ w ∈ vs, w.hold = .none) (hp : ∀ w ∈ vs, w.post = fun s _ => s) (hc : checkTrap s n vs = none)
    (hf : Agent.effect s n vs = (f (s.agent n)).retire k m) : s.issue n ws = s.issued n k m f := by
  subst hs
  exact (issue_unheld hm he hh).trans ((issueReady_solo he hc).trans (issueDone_solo hf hp))

end

/-! ## The bundle of one word beside the repeat prefix -/

/-- A word alone has its effect on its agent; then the repeat prefix steps. -/
theorem effect_alone (s : State) (n : Nat) {w : Word} (ha : w.arm = none) :
    Agent.effect s n [w] = ((w.effect s n (s.agent n)).stepRepeat w.mm).retire w.cmd w.sto := by
  unfold Agent.effect Word.effect Agent.repeatAfter
  rw [countBundle_eq]
  by_cases h0 : w.slot = 0
  · cases hm : w.mm <;> simp [ha, h0, hm]
  · have hb : (w.slot == 0) = false := by simp [h0]
    cases hm : w.mm <;> simp [ha, h0, hb, hm]

/-- A NOP beside other words changes nothing of what they check … -/
theorem checkTrap_nop (s : State) (n : Nat) (ws : List Word) : checkTrap s n (wNop :: ws) = checkTrap s n ws := by
  have hexec : execTrap s n (s.agent n).cmds (s.agent n).stores (wNop :: ws) = execTrap s n (s.agent n).cmds (s.agent n).stores ws := by
    simp [execTrap, wNop, Word.base]
  have hpop : popTrap (s.agent n) [] (wNop :: ws) = popTrap (s.agent n) [] ws := by
    simp [popTrap, wNop, Word.base, Word.pops, Agent.emptyOp]
  have hpops : (s.agent n).popAll (wNop :: ws) = (s.agent n).popAll ws := by
    simp [Agent.popAll, wNop, Word.base, Word.pops]
  have hpush (a : Agent) : pushTrap a [] (wNop :: ws) = pushTrap a [] ws := by
    simp [pushTrap, wNop, Word.base]
  have hlate : lateTrap (s.agent n) (wNop :: ws) = lateTrap (s.agent n) ws := by
    simp [lateTrap, wNop, Word.base]
  simp only [checkTrap, hexec, hpop, hpops, hpush, hlate]

/-- … or do, where none of them is a word of slot 0. -/
theorem effect_nop (s : State) (n : Nat) {ws : List Word} (h : ∀ w ∈ ws, w.slot ≠ 0) : Agent.effect s n (wNop :: ws) = Agent.effect s n ws := by
  have h0 : ws.find? (fun w => w.slot == 0) = none := List.find?_eq_none.2 fun w hw => by simpa using h w hw
  have hpops (a : Agent) : a.popAll (wNop :: ws) = a.popAll ws := by
    simp [Agent.popAll, wNop, Word.base, Word.pops]
  have hcount (a : Agent) : a.countBundle (wNop :: ws) = a.countBundle ws := by
    simp [Agent.countBundle, wNop, Word.base]
  have hrepeat (a : Agent) : a.repeatAfter (wNop :: ws) = a.repeatAfter ws := by
    simp [Agent.repeatAfter, wNop, Word.base]
  simp only [Agent.effect, hcount, hrepeat, hpops]
  simp [h0, wNop, Word.base]

/-! ## Plane loads that land -/

/-- `b` differs from `a` in its weight planes, their registers, and the plane loads in flight alone. -/
def PlanesOnly (a b : Agent) : Prop :=
  ∃ p0 p1 f0 f1 e0 e1 act kc xs, b = { a with
    plane0 := p0, plane1 := p1, planeLoads := xs
    r := { a.r with frame0 := f0, frame1 := f1, pfault0 := e0, pfault1 := e1, active := act, kc := kc } }

theorem PlanesOnly.trans {a b c : Agent} (h : PlanesOnly a b) (g : PlanesOnly b c) : PlanesOnly a c := by
  obtain ⟨_, _, _, _, _, _, _, _, _, rfl⟩ := h
  obtain ⟨_, _, _, _, _, _, _, _, _, rfl⟩ := g
  exact ⟨_, _, _, _, _, _, _, _, _, rfl⟩

/-- A plane load that lands changes its agent's planes. -/
theorem landPlane_only (s : State) (n : Nat) (x : PlaneLoad) : ∃ b, s.landPlane n x = s.setAgent n b ∧ PlanesOnly (s.agent n) b := by
  refine ⟨_, rfl, ?_⟩
  unfold Agent.swapPlanes Agent.loadPlane
  split <;> split <;> exact ⟨_, _, _, _, _, _, _, _, _, rfl⟩

theorem landPlanes_only (s : State) (n : Nat) : ∃ b, s.landPlanes n = s.setAgent n b ∧ PlanesOnly (s.agent n) b := by
  have hfold (xs : List PlaneLoad) (c : Agent) (hc : PlanesOnly (s.agent n) c) :
      ∃ b, xs.foldl (fun t x => t.landPlane n x) (s.setAgent n c) = s.setAgent n b ∧ PlanesOnly (s.agent n) b := by
    induction xs generalizing c with
    | nil => exact ⟨c, rfl, hc⟩
    | cons x xs ih =>
      obtain ⟨d, hd, hcd⟩ := landPlane_only (s.setAgent n c) n x
      rw [State.agent_setAgent] at hcd
      rw [List.foldl_cons, hd, State.setAgent_setAgent]
      exact ih d (hc.trans hcd)
  exact hfold _ _ ⟨_, _, _, _, _, _, _, _, _, rfl⟩

/-- Nothing of what lets an agent issue changes. -/
theorem PlanesOnly.issue {a b : Agent} (h : PlanesOnly a b) : b.task = a.task ∧ b.mode = a.mode ∧ b.r.repn = a.r.repn ∧
    b.bundles = a.bundles ∧ b.hbundles = a.hbundles ∧ ∀ iq, b.selects iq = a.selects iq := by
  obtain ⟨_, _, _, _, _, _, _, _, _, rfl⟩ := h
  exact ⟨rfl, rfl, rfl, rfl, rfl, fun _ => rfl⟩

theorem landPlanes_ready {s : State} {n : Nat} (h : s.ready n) : let t := s.landPlanes n
    t.ready n ∧ (t.agent n).mode = (s.agent n).mode ∧ ∀ iq, (t.agent n).selects iq = (s.agent n).selects iq := by
  obtain ⟨b, ht, hb⟩ := landPlanes_only s n
  obtain ⟨htask, hmode, hrepn, hbundles, hhbundles, hselects⟩ := hb.issue
  dsimp only
  rw [ht, State.agent_setAgent]
  refine ⟨?_, hmode, hselects⟩
  unfold State.ready
  rw [members_setAgent s n n b htask, State.agent_setAgent, hmode, hrepn, hbundles, hhbundles]
  exact h

end Sys2Proof.Machine

namespace Sys2Proof.Spec

open Sys2Proof Sys2Proof.Machine

/-! ## The words -/

/-- A word of a core's slot 6 that a prefix may repeat (08 R198) does what its row says where no prefix is armed. -/
theorem repeatable_says {s : State} {F : Form} {w : Word} {i : Instr} (h : CoreRow 6 s s.cur.toNat F { w with mm := none })
    (hw : wordOf i = some w) (hp : F.held → w.prof (viewOf (s.agent s.cur.toNat) s.cur.toNat) = true) : F.Says i s := by
  have hplain := h.plain (by decide)
  have hrow : w.iq = F.iq ∧ w.post = (fun s _ => s) ∧ w.cmd = F.cmds ∧ w.sto = F.stores := by
    rw [h.form]
    exact ⟨congrArg Word.iq h.word, congrArg Word.post h.word, congrArg Word.cmd h.word, congrArg Word.sto h.word⟩
  obtain ⟨hiq, hpost, hcmd, hsto⟩ := hrow
  have hflow : F.flow = fun _ a => a.seqStep := by rw [h.form]
  refine form_says F i s w (exec_word i w s hw) hiq hp (fun hh hc => ?_) ⟨hplain.act, hplain.flow⟩ ?_ hpost hcmd hsto
  · have hr := h.runs (hp hh) hc
    exact ⟨hr.prof, hr.priv, hr.perm, hr.free, hr.planes, hr.chk, hr.cmds, hr.stores, hr.late, hr.ops, hr.room⟩
  · rw [hflow]
    exact h.effect (by decide)

section

variable (s : State) (n : Nat) (iq : BitVec 2)

/-- A plane load is checked against its frame and joins those in flight (08 R192). -/
theorem planeLoad_row (ar : BitVec 4) (off : BitVec 20) (swap : Bool) :
    CoreRow 6 s n (planeLoads s n iq ar off swap) (planeWord iq ar off swap) where
  word := rfl
  form := rfl
  once := List.nodup_nil
  free _ _ h := by cases h
  planes h := by cases h
  met hok := hok
  act := rfl
  keeps := ⟨rfl, rfl⟩

/-- A multiply forms its block and advances KC (08 R194, R195). -/
theorem multiply_row (zero : Bool) (t q : BitVec 4) (pk : BitVec 1) (rows : BitVec 7) :
    CoreRow 6 s n (multiplies s n iq zero t q pk rows) { mmaWord iq zero t q pk rows with mm := none } where
  word := rfl
  form := rfl
  once := List.nodup_nil
  free _ _ h := by cases h
  planes h := by cases h
  met hok := hok
  act := rfl
  keeps := by
    dsimp only [multiplies]
    split <;> exact ⟨rfl, rfl⟩

/-- MDRAIN names the tile that the next bundle waits for (08 R196). -/
theorem mdrain_row (t : BitVec 4) :
    CoreRow 6 s n { iq := iq, held := onCore (s.agent n) n, act := fun a => { a with mdrain := some t } } (wMdrain iq t) where
  word := rfl
  form := rfl
  once := List.nodup_nil
  free _ _ h := by cases h
  planes h := by cases h
  met _ := rfl
  act := rfl
  keeps := ⟨rfl, rfl⟩

end

/-- MREP arms the prefix after the loop step (08 R198). -/
theorem mrep_says {F : Form} (s : State) (iq : BitVec 2) (k : BitVec 8) (h : matrix s s.cur.toNat (.mrep iq k) = some F) :
    F.Says (.mrep iq k) s := by
  have hp := word_holders (matrix_holders s _ _) h (w := wMrep iq k) rfl
  cases h
  exact form_says _ _ s (wMrep iq k) rfl rfl hp
    (fun hh hc => runs_unchecked _ s _ _ hc (hp hh) rfl rfl rfl rfl rfl rfl rfl rfl rfl List.nodup_nil)
    ⟨⟨rfl, rfl⟩, fun a _ => seqStep_keeps a⟩ rfl rfl rfl rfl

theorem matrixWords : Spec.MatrixWords := by
  intro i s F h
  have hp (w : Word) (hw : wordOf i = some w) := word_holders (matrix_holders s _ i) h hw
  cases i
  all_goals cases h
  case mldb iq ar off => exact (planeLoad_row s _ iq ar off false).says (by decide) rfl (hp _ rfl)
  case mldbl iq ar off => exact (planeLoad_row s _ iq ar off true).says (by decide) rfl (hp _ rfl)
  case mma iq t q pk rows => exact repeatable_says (multiply_row s _ iq false t q pk rows) (w := mmaWord iq false t q pk rows) rfl (hp _ rfl)
  case mmaz iq t q pk rows => exact repeatable_says (multiply_row s _ iq true t q pk rows) (w := mmaWord iq true t q pk rows) rfl (hp _ rfl)
  case mrep iq k => exact mrep_says s iq k rfl
  case mdrain iq t => exact (mdrain_row s _ iq t).says (by decide) rfl (hp _ rfl)

/-! ## MSWB -/

theorem swaps_word {i : Instr} {iq : BitVec 2} (h : swaps i = some iq) : wordOf i = some (mswbWord iq) := by
  cases i <;> cases h <;> rfl

theorem swap_effect (s : State) (n : Nat) (iq : BitVec 2) : (mswbWord iq).effect s n (s.agent n) =
    ({ s.agent n with r := { (s.agent n).r with active := 1 - (s.agent n).r.active, kc := 0 } } : Agent).seqStep := rfl

section

variable {s : State} {n : Nat} {iq : BitVec 2} (h : s.ready n) (hc : onCore (s.agent n) n) (hq : (s.agent n).selects iq = true)

include h hc

theorem early_swap : earlyTrap s n [mswbWord iq] = none := early_one h _ (profCore (k := 6) (by simp) hc) fun _ => ⟨rfl, rfl⟩

include hq

omit hc in
theorem selected_swap : selected s n [mswbWord iq] = [mswbWord iq] := (selected_one h _).trans (if_pos hq)

/-- A selected MSWB lets every plane load land first … -/
theorem issue_swap : s.issue n [mswbWord iq] = (s.landPlanes n).issueReady n [n] [mswbWord iq] := by
  have hsel := selected_swap h hq
  have ht : heldTile s n [mswbWord iq] = none := by
    unfold heldTile
    rw [hsel]
    rfl
  have hl : holdsPlanes s n [mswbWord iq] = true := by
    unfold holdsPlanes
    rw [hsel]
    rfl
  unfold State.issue
  simp [ready_members h, firstEarly, early_swap h hc, ranksAhead, ht, hl]

/-- … and then exchanges the planes (08 R193). -/
theorem issueReady_swap : s.issueReady n [n] [mswbWord iq] =
    s.issued n 0 0 (fun a => ({ a with r := { a.r with active := 1 - a.r.active, kc := 0 } } : Agent).seqStep) := by
  have hsel := selected_swap h hq
  have heffect := effect_one h (mswbWord iq) ⟨⟨rfl, rfl⟩, fun _ h0 => absurd h0 (show ¬ 6 = 0 by decide)⟩
  have hpost (w : Word) (hw : w ∈ selected s n [mswbWord iq]) : w.post = fun s _ => s := by
    rw [hsel, List.mem_singleton] at hw
    rw [hw]
    rfl
  rw [issueReady_solo (early_swap h hc) (by rw [hsel]; rfl),
    issueDone_solo (hsel ▸ heffect) hpost]
  exact issued_congr s n 0 0 _ _ (swap_effect s n iq)

end

theorem planeSwap : Spec.PlaneSwap := by
  intro i s iq hi n hr hc
  rw [exec_word i _ s (swaps_word hi)]
  by_cases hq : (s.agent n).selects iq = true
  · rw [if_pos hq]
    obtain ⟨hready, hmode, hselects⟩ := landPlanes_ready hr
    exact congrArg _ ((issue_swap hr hc hq).trans (issueReady_swap hready ⟨hc.1, hmode.trans hc.2⟩ ((hselects iq).trans hq)))
  · rw [if_neg hq]
    exact issueAlone_skips rfl hr _ (Bool.eq_false_iff.2 hq) (profCore (k := 6) (by simp) hc)

end Sys2Proof.Spec
namespace Sys2Proof.Machine

/-! ## The repeat prefix -/

/-- An agent with REPN and REPW (08 R198). -/
def Agent.armed (k : BitVec 8) (w : W32) (b : Agent) : Agent := { b with r := { b.r with repn := k, repw := w } }

section

variable {b : Agent} (hm : b.mode = .task) (hn : b.r.repn ≠ 0)

include hm hn

/-- An armed prefix takes the word of its bundle … -/
theorem stepRepeat_takes (hw : b.r.repw = 0) (w : W32) :
    b.stepRepeat (some w) = b.armed (b.r.repn - 1) (if b.r.repn - 1 = 0 then 0 else w) := by
  unfold Agent.stepRepeat
  rw [if_neg (not_or.2 ⟨hn, not_not_intro hm⟩)]
  exact if_neg (not_not_intro hw)

/-- … or lapses. -/
theorem stepRepeat_lapses (hw : b.r.repw = 0) : b.stepRepeat none = b.armed 0 0 := by
  unfold Agent.stepRepeat
  rw [if_neg (not_or.2 ⟨hn, not_not_intro hm⟩)]
  exact if_neg (not_not_intro hw)

/-- A repetition counts down. -/
theorem stepRepeat_counts (hw : b.r.repw ≠ 0) (m : Option W32) :
    b.stepRepeat m = b.armed (b.r.repn - 1) (if b.r.repn - 1 = 0 then 0 else b.r.repw) := by
  unfold Agent.stepRepeat
  rw [if_neg (not_or.2 ⟨hn, not_not_intro hm⟩)]
  exact if_pos hw

end

/-- `b` runs under the same prefix as `a`. -/
def SamePrefix (a b : Agent) : Prop := b.mode = a.mode ∧ b.r.repn = a.r.repn ∧ b.r.repw = a.r.repw

theorem samePrefix_seqStep (a : Agent) : SamePrefix a a.seqStep := by
  obtain ⟨_, _, _, _, _, _, h⟩ := LoopOnly.seqStep a
  rw [h]
  exact ⟨rfl, rfl, rfl⟩

theorem samePrefix_taken (a : Agent) (ops : List QOp) : SamePrefix a (a.taken ops) := by
  unfold Agent.taken
  induction (ops.filter fun o => !o.peek).map (·.q) generalizing a with
  | nil => exact ⟨rfl, rfl, rfl⟩
  | cons q qs ih => exact ih (a.pop q)

theorem SamePrefix.trans {a b c : Agent} (h : SamePrefix a b) (g : SamePrefix b c) : SamePrefix a c :=
  ⟨g.1.trans h.1, g.2.1.trans h.2.1, g.2.2.trans h.2.2⟩

end Sys2Proof.Machine

namespace Sys2Proof.Spec

open Sys2Proof Sys2Proof.Machine

/-! ## A multiply as the word that a prefix repeats -/

/-- MMA, or MMAZ where `z`. -/
def multiply (iq : BitVec 2) (z : Bool) (t q : BitVec 4) (pk : BitVec 1) (rows : BitVec 7) : Instr :=
  if z then .mmaz iq t q pk rows else .mma iq t q pk rows

section

variable (iq : BitVec 2) (z : Bool) (t q : BitVec 4) (pk : BitVec 1) (rows : BitVec 7)

theorem multiply_word : wordOf (multiply iq z t q pk rows) = some (mmaWord iq z t q pk rows) := by
  cases z <;> rfl

theorem multiply_mm : (mmaWord iq z t q pk rows).mm = some (encode (multiply iq z t q pk rows)) := by
  cases z <;> rfl

theorem multiply_encode_ne : encode (multiply iq z t q pk rows) ≠ 0 := by
  intro h
  have hrow : rowOf 6 (encode (multiply iq z t q pk rows)) = some (multiply iq z t q pk rows) :=
    rowOf_encode (by cases z <;> rfl) (by cases z <;> nofun)
  rw [h, rowOf_zero] at hrow
  cases hrow

/-- The repeated word is the multiply whose encoding REPW holds, under no qualifier. -/
theorem repeated_multiply {a : Agent} (hm : a.mode = .task) (hn : a.r.repn ≠ 0) (hw : a.r.repw = encode (multiply iq z t q pk rows)) :
    repeated a = [mmaWord 0 z t q pk rows] := by
  unfold repeated
  rw [if_pos ⟨hn, hw ▸ multiply_encode_ne iq z t q pk rows, hm⟩, hw]
  cases z
  all_goals
    simp -index only [multiply, encode, BitVec.extractLsb'_append_eq_of_le, BitVec.extractLsb'_append_eq_of_add_le, BitVec.extractLsb'_eq_self,
      Nat.reduceLeDiff, Nat.reduceSub, Nat.reduceAdd, if_true, Bool.false_eq_true, if_false]
    rfl

theorem repeated_unarmed {a : Agent} (h : a.r.repw = 0) : repeated a = [] := if_neg fun hr => hr.2.1 h

variable (s : State) (n : Nat)

/-- A multiply runs under the prefix that its agent had. -/
theorem multiply_prefix (a : Agent) : SamePrefix a ((multiplies s n iq z t q pk rows).run a) := by
  unfold Form.run
  split
  · refine SamePrefix.trans ?_ ((samePrefix_taken _ _).trans (samePrefix_seqStep _))
    dsimp only [multiplies]
    split <;> exact ⟨rfl, rfl, rfl⟩
  · exact samePrefix_seqStep a

/-- The effect of a selected multiply is that of its row, and the prefix steps. -/
theorem multiply_effect (hq : (s.agent n).selects iq = true) : Agent.effect s n [mmaWord iq z t q pk rows] =
    (((multiplies s n iq z t q pk rows).run (s.agent n)).stepRepeat (some (encode (multiply iq z t q pk rows)))).retire 0 0 := by
  have hrun : (mmaWord iq z t q pk rows).effect s n (s.agent n) = (multiplies s n iq z t q pk rows).run (s.agent n) := by
    have heffect := (multiply_row s n iq z t q pk rows).effect (by decide)
    have hform : (multiplies s n iq z t q pk rows).run (s.agent n) = _ := if_pos hq
    rw [hform]
    exact heffect
  rw [effect_alone s n rfl, hrun, multiply_mm]
  rfl

theorem multiply_runs (hc : onCore (s.agent n) n) (h : (multiplies s n iq z t q pk rows).can (s.agent n)) :
    (mmaWord iq z t q pk rows).Runs s n := by
  have hr := (multiply_row s n iq z t q pk rows).runs (profCore (k := 6) (by simp) hc) h
  exact ⟨hr.prof, hr.priv, hr.perm, hr.free, hr.planes, hr.chk, hr.cmds, hr.stores, hr.late, hr.ops, hr.room⟩

end

/-! ## Bundles under a prefix -/

section

variable {s : State} {n : Nat}

theorem overrun_task {a : Agent} (hm : a.mode = .task) (hb : a.bundles < 4096) (ws : List Word) : overrun a ws = none := by
  unfold overrun
  rw [if_neg (by simp [hm]), if_neg (by simp [hm]), if_neg (by omega)]

/-- A word that an armed prefix does not repeat yet passes steps 1 to 3 of 01 R38. -/
theorem early_unrepeated {w : Word} (hr : repeated (s.agent n) = []) (hm : (s.agent n).mode = .task) (hb : (s.agent n).bundles < 4096)
    (hp : w.prof (viewOf (s.agent n) n) = true) (hv : w.priv s n = false ∧ w.perm s n = false) : earlyTrap s n [w] = none := by
  have hw : allWords s n [w] = [w] := by rw [allWords, hr, withRepeat_nil]
  unfold earlyTrap selected
  by_cases hq : (s.agent n).selects w.iq = true <;> simp [hw, hr, hq, firstSlot, conflictSlot, hp, hv, overrun_task hm hb]

/-- So does a NOP beside the word that a prefix repeats. -/
theorem early_repeating {w : Word} (hr : repeated (s.agent n) = [w]) (hm : (s.agent n).mode = .task) (hb : (s.agent n).bundles < 4096)
    (hv : w.priv s n = false ∧ w.perm s n = false) : earlyTrap s n [wNop] = none := by
  have hw : allWords s n [wNop] = [wNop, w] := by rw [allWords, hr]; rfl
  have hc : clash wNop w = false := by simp [clash, meets, wNop, Word.base, Word.pops]
  have hnop : wNop.prof (viewOf (s.agent n) n) = true ∧ wNop.priv s n = false ∧ wNop.perm s n = false ∧ (wNop.slot == 6) = false :=
    ⟨prof0 _, rfl, rfl, rfl⟩
  have h0 : (s.agent n).selects wNop.iq = true := rfl
  unfold earlyTrap selected
  by_cases hq : (s.agent n).selects w.iq = true <;>
    simp [hw, h0, hq, firstSlot, conflictSlot, hc, hnop, hv, overrun_task hm hb]

/-- A slot-6 word of such a bundle is an illegal encoding. -/
theorem early_second {w v : Word} (hr : repeated (s.agent n) = [w]) (hv : v.slot = 6) : earlyTrap s n [v] =
    some { cause := 0x01, slot := 6, imm := 0, faddr := (s.agent n).r.pc } := by
  have hf : firstSlot (fun x => !x.prof (viewOf (s.agent n) n) || (decide (repeated (s.agent n) ≠ []) && x.slot == 6)) [v] = some 6 := by
    simp [firstSlot, hr, hv]
  unfold earlyTrap
  simp only [hf]

end

section

variable {s : State} {iq : BitVec 2} {z : Bool} {t q : BitVec 4} {pk : BitVec 1} {rows : BitVec 7} {n : Nat}

theorem selected_repeating (hc : onCore (s.agent n) n) (hn : (s.agent n).r.repn ≠ 0)
    (hw : (s.agent n).r.repw = encode (multiply iq z t q pk rows)) : selected s n [wNop] = [wNop, mmaWord 0 z t q pk rows] := by
  simp only [selected, allWords, repeated_multiply iq z t q pk rows hc.2 hn hw]
  rfl

theorem early_again (hc : onCore (s.agent n) n) (hb : (s.agent n).bundles < 4096) (hn : (s.agent n).r.repn ≠ 0)
    (hw : (s.agent n).r.repw = encode (multiply iq z t q pk rows)) : earlyTrap s n [wNop] = none :=
  early_repeating (repeated_multiply iq z t q pk rows hc.2 hn hw) hc.2 hb ⟨rfl, rfl⟩

variable (hm : s.members n = [n]) (hc : onCore (s.agent n) n) (hb : (s.agent n).bundles < 4096) (hn : (s.agent n).r.repn ≠ 0)

include hm hc hb hn

/-- The bundle after an MREP takes its multiply for the word to repeat. -/
theorem issue_first (hw : (s.agent n).r.repw = 0) (hq : (s.agent n).selects iq = true)
    (hcan : (multiplies s n iq z t q pk rows).can (s.agent n)) : let left := (s.agent n).r.repn - 1
    s.issue n [mmaWord iq z t q pk rows] = s.issued n 0 0 (fun b =>
      ((multiplies s n iq z t q pk rows).run b).armed left (if left = 0 then 0 else encode (multiply iq z t q pk rows))) := by
  have hr := repeated_unarmed hw
  have hruns := multiply_runs iq z t q pk rows s n hc hcan
  have hsel : selected s n [mmaWord iq z t q pk rows] = [mmaWord iq z t q pk rows] := by
    simp [selected, allWords, hr, withRepeat_nil, mmaWord, Word.base, hq]
  have he := early_unrepeated hr hc.2 hb hruns.prof ⟨hruns.priv, hruns.perm⟩
  obtain ⟨hmode, hrepn, hrepw⟩ := multiply_prefix iq z t q pk rows s n (s.agent n)
  have heffect := multiply_effect iq z t q pk rows s n hq
  rw [stepRepeat_takes (hmode.trans hc.2) (hrepn ▸ hn) (hrepw.trans hw), hrepn] at heffect
  exact issue_passes hm he hsel (List.forall_mem_singleton.2 rfl) (List.forall_mem_singleton.2 rfl) (checks_one _ hruns) heffect

/-- Without one the prefix lapses. -/
theorem issue_lapse (hw : (s.agent n).r.repw = 0) : s.issue n [wNop] = s.issued n 0 0 (fun b => b.seqStep.armed 0 0) := by
  have hr := repeated_unarmed hw
  have hsel : selected s n [wNop] = [wNop] := by simp only [selected, allWords, hr, withRepeat_nil]; rfl
  obtain ⟨hmode, hrepn, hrepw⟩ := samePrefix_seqStep (s.agent n)
  have heffect : Agent.effect s n [wNop] = (((s.agent n).seqStep).stepRepeat none).retire 0 0 := effect_alone s n rfl
  rw [stepRepeat_lapses (hmode.trans hc.2) (hrepn ▸ hn) (hrepw.trans hw)] at heffect
  exact issue_passes hm (early_unrepeated hr hc.2 hb (prof0 _) ⟨rfl, rfl⟩) hsel (List.forall_mem_singleton.2 rfl)
    (List.forall_mem_singleton.2 rfl) rfl heffect

variable (hw : (s.agent n).r.repw = encode (multiply iq z t q pk rows))

include hw

/-- Each later bundle issues the repeated word. -/
theorem issue_again (hcan : (multiplies s n 0 z t q pk rows).can (s.agent n)) : let left := (s.agent n).r.repn - 1
    s.issue n [wNop] = s.issued n 0 0 (fun b =>
      ((multiplies s n 0 z t q pk rows).run b).armed left (if left = 0 then 0 else encode (multiply iq z t q pk rows))) := by
  have hsel := selected_repeating hc hn hw
  have he := early_again hc hb hn hw
  have hruns := multiply_runs 0 z t q pk rows s n hc hcan
  obtain ⟨hmode, hrepn, hrepw⟩ := multiply_prefix 0 z t q pk rows s n (s.agent n)
  have heffect := (effect_nop s n (ws := [mmaWord 0 z t q pk rows]) (List.forall_mem_singleton.2 (show ¬ 6 = 0 by decide))).trans
    (multiply_effect 0 z t q pk rows s n rfl)
  have hrepeats : ((multiplies s n 0 z t q pk rows).run (s.agent n)).r.repw ≠ 0 :=
    hrepw.trans hw ▸ multiply_encode_ne iq z t q pk rows
  rw [stepRepeat_counts (hmode.trans hc.2) (hrepn ▸ hn) hrepeats, hrepn, hrepw, hw] at heffect
  exact issue_passes hm he hsel (List.forall_mem_cons.2 ⟨rfl, List.forall_mem_singleton.2 rfl⟩)
    (List.forall_mem_cons.2 ⟨rfl, List.forall_mem_singleton.2 rfl⟩) ((checkTrap_nop s n _).trans (checks_one _ hruns)) heffect

/-- A repetition that finds its queue empty is refused in slot 6 (03 R86). -/
theorem issue_again_empty (hok : (multiplies s n 0 z t q pk rows).ok) (hempty : (s.agent n).queue q = []) :
    s.issue n [wNop] = traps s n 0x04 6 0 (q.setWidth 64) := by
  have hsel := selected_repeating hc hn hw
  have he := early_again hc hb hn hw
  have hcheck : checkTrap s n [mmaWord 0 z t q pk rows] = some { cause := 0x04, slot := 6, imm := 0, faddr := q.setWidth 64 } := by
    have hexec : execTrap s n (s.agent n).cmds (s.agent n).stores [mmaWord 0 z t q pk rows] = none := by
      have hcheck : mmaCheck s n t (rows.toNat + 1) = none := hok
      simp [execTrap, hcheck, mmaWord, Word.base]
    have hpop : popTrap (s.agent n) [] [mmaWord 0 z t q pk rows] =
        some { cause := 0x04, slot := 6, imm := 0, faddr := q.setWidth 64 } := by
      simp [popTrap, mmaWord, Word.base, Agent.emptyOp, hempty]
    simp only [checkTrap, hexec, hpop]
  rw [issue_unheld hm he, issueReady_checked he (hsel ▸ (checkTrap_nop s n _).trans hcheck)]
  · rfl
  · rw [hsel]
    exact List.forall_mem_cons.2 ⟨rfl, List.forall_mem_singleton.2 rfl⟩

end

theorem matrix_slot {s : State} {n : Nat} {i : Instr} {F : Form} (h : matrix s n i = some F) : ∃ w, wordOf i = some w ∧ w.slot = 6 := by
  unfold matrix at h
  split at h <;> cases h
  all_goals exact ⟨_, rfl, rfl⟩

theorem repetition : Spec.Repetition := by
  intro s iq z t q pk rows n a i left armed again first more hm hc hb hn
  refine ⟨fun hw => ⟨fun hq hcan => ?_, ?_⟩, fun hw => ⟨fun hcan => ?_, fun hok hempty => ?_, fun j g hg => ?_⟩⟩
  · exact (exec_word i _ s (multiply_word iq z t q pk rows)).trans (congrArg _ (issue_first hm hc hb hn hw hq hcan))
  · exact congrArg _ (issue_lapse hm hc hb hn hw)
  · exact congrArg _ (issue_again hm hc hb hn hw hcan)
  · exact congrArg _ (issue_again_empty hm hc hb hn hw hok hempty)
  · obtain ⟨v, hv, hslot⟩ := matrix_slot hg
    exact (exec_word j v s hv).trans
      (issueAlone_early rfl hm v _ (early_second (repeated_multiply iq z t q pk rows hc.2 hn hw) hslot))

/-- Settles O10: plane loads, multiplies and MDRAIN are words of a core's slot 6 (`planeLoad_row`, `multiply_row`, `mdrain_row`), an MREP
arms REPN for the next bundle (`mrep_says`), MSWB has its effect once the plane loads have landed (`issue_swap`, `issueReady_swap`). Of the
bundles after an MREP the first takes its multiply or lets REPN lapse, and the later ones issue the word again (`issue_first`,
`issue_lapse`, `issue_again`). -/
theorem matrixWordsAndPlaneSwap : Obligations.MatrixWordsAndPlaneSwap := by
  unfold Obligations.MatrixWordsAndPlaneSwap
  exact ⟨matrixWords, planeSwap, repetition⟩

end Sys2Proof.Spec
end

section
/-!
PROOFS. Engine operations move element after element: departures, accesses at their homes, tag checks and the plans of XCOPY and XFILL (09
R211 to R220, 10 R226 to R233, 11 R248 to R257).
-/

namespace Sys2Proof.Machine

/-! ## The operation of a context -/

/-- The operation of a context, where it is the only one that runs. -/
theorem State.runningOn_alone {s : State} {n : Nat} {c : BitVec 3} {r : Running} (hs : s.running = [r]) (hn : r.agent = n)
    (hc : r.op.ctx = c) : s.runningOn n c = some r := by
  simp [State.runningOn, hs, hn, hc]

/-- The only operation that runs changes. -/
theorem State.setRunning_alone {s : State} {r : Running} (hs : s.running = [r]) (x : Running) :
    s.setRunning r x = { s with running := [x] } := by
  simp [State.setRunning, hs]

/-- What a stop makes of an operation (R211). -/
def Running.stopped (r : Running) (i : Nat) (h : Halt) : Running :=
  { r with todo := r.todo.filter (fun y => decide (y.1 < i)), status := h.status, faddr := h.faddr, sub := h.sub }

/-- A stop changes the operation, and takes what travels behind it off its channels. -/
theorem State.stopAt_alone {s : State} {r : Running} (hs : s.running = [r]) (i : Nat) (h : Halt) :
    (s.stopAt r i h).running = [r.stopped i h] ∧ (s.stopAt r i h).mem = s.mem ∧ (s.stopAt r i h).agents = s.agents := by
  refine ⟨?_, rfl, rfl⟩
  exact congrArg State.running (State.setRunning_alone hs (r.stopped i h))

/-- Whether a read is kept under a number. -/
theorem Running.keeps_iff (r : Running) (k : Nat) : r.kept.any (fun x => x.1 == k) = true ↔ ∃ y ∈ r.kept, y.1 = k := by
  simp only [List.any_eq_true, beq_iff_eq]

/-! ## Which accesses may be made -/

section
variable {s : State} {r : Running} {j i : Nat} {m : Micro} {p : Spot × Nat}

/-- An access that has a place is neither a step's mark nor a computation: it may enter behind no closed step, a read at once, and a write
behind writes alone. -/
theorem State.mayEnter_placed (hj : r.todo[j]? = some (i, m)) (hp : m.place = some p) :
    s.mayEnter r j = (!((r.todo.take j).map (·.2)).contains (.gate true) && (m.reads.isSome ||
      (((r.todo.take j).map (·.2)).all (fun x => x.passes p) &&
        ((s.flying r.agent r.op.ctx).filter (fun x => decide (x.1 < i))).all (fun x => x.2.isPut)))) := by
  unfold State.mayEnter
  rw [hj]
  cases m with
  | gate _ | turn _ | judge _ _ _ _ _ | join _ _ => cases hp
  | _ => simp only [hp]

theorem State.mayEnter_turn {u : Turn} (hj : r.todo[j]? = some (i, .turn u)) :
    s.mayEnter r j = (r.kept.any (fun x => x.1 == u.even) && r.kept.any (fun x => x.1 == u.odd)) := by
  unfold State.mayEnter
  rw [hj]

theorem State.mayEnter_join {w : Micro} {ks : List Nat} (hj : r.todo[j]? = some (i, .join w ks)) :
    s.mayEnter r j = ks.all (fun k => r.kept.any (fun x => x.1 == k)) := by
  unfold State.mayEnter
  rw [hj]

/-- A step begins once what is before it is done. -/
theorem State.mayEnter_step (hj : r.todo[j]? = some (i, m))
    (hm : (∃ full, m = .gate full) ∨ ∃ d slot b0 k len, m = .judge d slot b0 k len) :
    s.mayEnter r j = true ↔ j = 0 ∧ ∀ y ∈ s.flying r.agent r.op.ctx, i ≤ y.1 := by
  have hstep : s.mayEnter r j =
      (decide (j = 0) && ((s.flying r.agent r.op.ctx).filter (fun x => decide (x.1 < i))).isEmpty) := by
    unfold State.mayEnter
    rw [hj]
    obtain ⟨_, rfl⟩ | ⟨_, _, _, _, _, rfl⟩ := hm <;> rfl
  rw [hstep]
  simp [List.filter_eq_nil_iff]

/-- A read waits for no access but a closed step. -/
theorem State.mayEnter_read (hj : r.todo[j]? = some (i, m)) (hm : m.reads ≠ none) (hg : ∀ x ∈ r.todo.take j, x.2 ≠ .gate true) :
    s.mayEnter r j = true := by
  obtain ⟨q, hq⟩ := Option.ne_none_iff_exists'.mp hm
  have hgate : ((r.todo.take j).map (·.2)).contains (.gate true) = false := by
    rw [Bool.eq_false_iff]
    intro h
    obtain ⟨x, hx, hgate⟩ := List.mem_map.mp (List.contains_iff_mem.mp h)
    exact hg x hx hgate
  rw [State.mayEnter_placed hj (p := q) (by rw [Micro.place, hq]; rfl), hgate, hq]
  rfl

/-- A write waits for everything ahead of it that is no plain write. -/
theorem State.mayEnter_write (hj : r.todo[j]? = some (i, m)) (hm : m.reads = none) (hp : m.place ≠ none)
    (hx : ∃ x ∈ r.todo.take j, x.2.isPut = false) : s.mayEnter r j = false := by
  obtain ⟨q, hq⟩ := Option.ne_none_iff_exists'.mp hp
  obtain ⟨x, hx, hput⟩ := hx
  have hpass : x.2.passes q = false := by
    cases h : x.2 with
    | put dst bs => rw [h] at hput; cases hput
    | _ => rfl
  have hall : ((r.todo.take j).map (·.2)).all (fun x => x.passes q) = false :=
    List.all_eq_false.mpr ⟨x.2, List.mem_map_of_mem hx, by simp [hpass]⟩
  rw [State.mayEnter_placed hj hq, hm, hall]
  simp

/-! ## What becomes of an access that is made -/

/-- One that has a place enters its route where it and those ahead of it translate. -/
theorem State.makeElement_enters (hp : m.place = some p) (hf : s.firstFault r.agent r.owner (r.todo.take (j + 1)) = none) :
    s.makeElement r j i m = s.sendElement r i m p (r.todo.eraseIdx j) := by
  unfold State.makeElement
  cases m with
  | gate _ | turn _ | judge _ _ _ _ _ | join _ _ => cases hp
  | _ => simp only [hp, hf, Running.without]

/-- Else the first that does not translate stops the operation. -/
theorem State.makeElement_faults {k : Nat} {a : W64} (hp : m.place = some p)
    (hf : s.firstFault r.agent r.owner (r.todo.take (j + 1)) = some (k, a)) :
    s.makeElement r j i m = s.stopAt r k (halted 0x05 a) := by
  unfold State.makeElement
  cases m with
  | gate _ | turn _ | judge _ _ _ _ _ | join _ _ => cases hp
  | _ => simp only [hp, hf]

/-- Accesses of an operation enter their routes and the rest is still to do. -/
def State.enters (s : State) (r : Running) (i : Nat) (todo : List (Nat × Micro)) (ms : List (Point × Micro)) : State :=
  { s with running := [{ r with todo := todo }], transit := s.transit ++ ms.map (fun x => r.entry i x.2 x.1) }

section
variable (hs : s.running = [r]) (rest : List (Nat × Micro))
include hs

theorem State.sendElement_one {x : Point × Nat × Nat} (h : s.partsOf r.agent r.owner.pasid p.1 p.2 = [x]) :
    s.sendElement r i m p rest = s.enters r i rest [(x.1, m)] := by
  unfold State.sendElement
  rw [h]
  dsimp only
  rw [State.setRunning_alone hs]
  rfl

theorem State.sendElement_writes {dst : Spot} {bs : List Byte} (h : (s.partsOf r.agent r.owner.pasid p.1 p.2).length ≠ 1)
    (hm : m.writes = some (dst, bs)) : s.sendElement r i m p rest = s.enters r i rest
      ((s.partsOf r.agent r.owner.pasid p.1 p.2).map (fun x => (x.1, .put (dst.shift x.2.1) ((bs.drop x.2.1).take x.2.2)))) := by
  unfold State.sendElement
  dsimp only
  split
  next x hx => rw [hx] at h; exact absurd rfl h
  next =>
    rw [hm, State.setRunning_alone hs, State.enters, List.map_map]
    rfl

theorem State.sendElement_reads (h : (s.partsOf r.agent r.owner.pasid p.1 p.2).length ≠ 1) (hm : m.writes = none) :
    s.sendElement r i m p rest = s.enters r i
      (insertAt i [.join m ((List.range (s.partsOf r.agent r.owner.pasid p.1 p.2).length).map (partKey i))] rest)
      ((s.partsOf r.agent r.owner.pasid p.1 p.2).zipIdx.map
        (fun x => (x.1.1, .keep (p.1.shift x.1.2.1) x.1.2.2 (partKey i x.2)))) := by
  unfold State.sendElement
  dsimp only
  split
  next x hx => rw [hx] at h; exact absurd rfl h
  next =>
    rw [hm]
    dsimp only
    rw [State.setRunning_alone hs, State.enters, List.map_map]
    rfl

end
end

end Sys2Proof.Machine

namespace Sys2Proof.Spec

open Sys2Proof Sys2Proof.Machine

section
variable {s : State} {k : BitVec 9} {c : BitVec 3} {r : Running} {j i : Nat} {m : Micro}
variable (hs : s.running = [r]) (hn : r.agent = k.toNat) (hc : r.op.ctx = c) (hj : r.todo[j]? = some (i, m))
include hs hn hc hj

/-- DEPART of an access that may be made. -/
theorem exec_depart_made (h : s.mayEnter r j = true) : exec (.depart k (.element c j)) s = .next (s.makeElement r j i m) := by
  show Host.Outcome.next (s.departElement k.toNat c j) = _
  simp only [State.departElement, State.runningOn_alone hs hn hc, hj, if_pos h]

/-- DEPART of an access that must wait. -/
theorem exec_depart_waits (h : s.mayEnter r j = false) : exec (.depart k (.element c j)) s = .next s := by
  show Host.Outcome.next (s.departElement k.toNat c j) = _
  simp only [State.departElement, State.runningOn_alone hs hn hc, hj, h, Bool.false_eq_true, if_false]

end

theorem elementsDepart : ElementsDepart := by
  intro s k c j r i m n hs hn hc hj rest runs
  have made (h : s.mayEnter r j = true) := exec_depart_made hs hn hc hj h
  have runs_of {x : Running} (h : s.mayEnter r j = true) (hm : s.makeElement r j i m = s.setRunning r x) : runs x := by
    dsimp only [runs]
    rw [made h, hm, State.setRunning_alone hs]
  have step (hm : (∃ full, m = .gate full) ∨ ∃ d slot b0 l len, m = .judge d slot b0 l len) :
      s.mayEnter r j = true ↔ j = 0 ∧ ∀ y ∈ s.flying n c, i ≤ y.1 := by
    rw [State.mayEnter_step hj hm, hn, hc]
  refine ⟨fun p len hp henter => ⟨fun hf => ?_, fun l x hf => ?_⟩, State.mayEnter_read hj, fun hm hp hx => ?_,
    fun u hu he ho => ?_, fun src dst l ks hm hk => ?_, fun full hm h0 hfly => ?_, fun d slot b0 l len hm h0 hfly => ?_, fun hm hno => ?_⟩
  · intro parts enters key
    have hsend := (made henter).trans (congrArg _ (State.makeElement_enters hp (hn ▸ hf)))
    have hparts : s.partsOf r.agent r.owner.pasid (p, len).1 (p, len).2 = parts := by rw [hn]
    have hentries (ms : List (Point × Micro)) : ms.map (fun x => r.entry i x.2 x.1) = ms.map (fun x =>
        { agent := n, owner := r.owner, seq := r.seq, load := .element c i x.2, passed := .lop (loomOf n),
          route := (routeTo n x.1).tail, home := x.1 }) := by
      simp only [Running.entry, hn, hc, n]
    refine ⟨fun h o l hone => ?_, fun hmany dst bs hw => ?_, fun hmany hw => ?_⟩
    · dsimp only [enters]
      rw [hsend, State.sendElement_one hs rest (hparts.trans hone), State.enters, hentries]
    · dsimp only [enters]
      rw [hsend, State.sendElement_writes hs rest (by rwa [hparts]) hw, hparts, State.enters, hentries]
    · dsimp only [enters]
      rw [hsend, State.sendElement_reads hs rest (by rwa [hparts]) hw, hparts, State.enters, hentries]
      rfl
  · obtain ⟨hr, hm, ha⟩ := State.stopAt_alone hs l (halted 0x05 x)
    exact ⟨_, (made henter).trans (congrArg _ (State.makeElement_faults hp (hn ▸ hf))), hm, ha, hr⟩
  · exact exec_depart_waits hs hn hc hj (State.mayEnter_write hj hm hp hx)
  · subst hu
    refine runs_of ?_ rfl
    rw [State.mayEnter_turn hj, Bool.and_eq_true, Running.keeps_iff, Running.keeps_iff]
    exact ⟨he, ho⟩
  · subst hm
    have henter : s.mayEnter r j = true := by
      rw [State.mayEnter_join hj]
      simpa using hk
    dsimp only [runs]
    rw [made henter, State.makeElement, State.setRunning_alone hs]
    dsimp only [State.afterRead]
    rw [State.setRunning_alone rfl]
    rfl
  · exact runs_of ((step (.inl ⟨full, hm⟩)).mpr ⟨h0, hfly⟩) (by rw [hm]; rfl)
  · exact runs_of ((step (.inr ⟨d, slot, b0, l, len, hm⟩)).mpr ⟨h0, hfly⟩) (by rw [hm]; rfl)
  · refine exec_depart_waits hs hn hc hj (Bool.eq_false_iff.mpr fun henter => ?_)
    obtain ⟨h0, hfly⟩ := (step hm).mp henter
    obtain hj0 | ⟨y, hy, hlt⟩ := hno
    · exact hj0 h0
    · exact absurd (hfly y hy) (by omega)

end Sys2Proof.Spec

namespace Sys2Proof.Machine

/-! ## An access that arrives at its home -/

section
variable (s : State) (i : Nat) (e : Transit) (n : Nat) (q : Option (BitVec 20)) (p : Spot)

@[simp] theorem State.arrivedAt_running : (s.arrivedAt i e).running = s.running := by rw [State.arrivedAt_only]
@[simp] theorem State.arrivedAt_engineBytes (a k : Nat) : engineBytes (s.arrivedAt i e) a k = engineBytes s a k := by
  induction k generalizing a with
  | zero => rfl
  | succ k ih =>
    rw [engineBytes, engineBytes, ih]
    congr 1
    rw [State.arrivedAt_only]
    rfl
@[simp] theorem State.arrivedAt_agent : (s.arrivedAt i e).agent n = s.agent n := by rw [State.arrivedAt_only]; rfl
@[simp] theorem State.arrivedAt_vaByte (a : Nat) : (s.arrivedAt i e).vaByte n q a = s.vaByte n q a := by
  simp only [State.vaByte, State.arrivedAt_agent, State.arrivedAt_mem, State.arrivedAt_storage]
@[simp] theorem State.arrivedAt_vaBytes (a k : Nat) : (s.arrivedAt i e).vaBytes n q a k = s.vaBytes n q a k := by
  induction k generalizing a with
  | zero => rfl
  | succ k ih =>
    rw [State.vaBytes, State.vaBytes, ih, State.arrivedAt_vaByte]
@[simp] theorem State.arrivedAt_enginePoison (a k : Nat) : enginePoison (s.arrivedAt i e) a k = enginePoison s a k := by
  rw [State.arrivedAt_only]; rfl
@[simp] theorem State.arrivedAt_spotAddr : (s.arrivedAt i e).spotAddr n q p = s.spotAddr n q p := by
  rw [State.arrivedAt_only]; rfl
@[simp] theorem State.arrivedAt_spotBytes (k : Nat) : (s.arrivedAt i e).spotBytes n q p k = s.spotBytes n q p k := by
  unfold State.spotBytes
  simp
@[simp] theorem State.arrivedAt_spotPoison (k : Nat) : (s.arrivedAt i e).spotPoison n q p k = s.spotPoison n q p k := by
  unfold State.spotPoison
  simp

end

section
variable (s : State) (acct : BitVec 10) (t : Option Nat) (k : Nat)

@[simp] theorem State.movedIn_running : (s.movedIn acct t k).running = s.running := by rw [State.movedIn_only]
@[simp] theorem State.movedIn_transit : (s.movedIn acct t k).transit = s.transit := by rw [State.movedIn_only]

end

/-! ## What an access does when it performs -/

section
variable {s : State} {e : Transit} {c : BitVec 3} {x : Nat} {m : Micro} {r : Running} {p : Spot} {k : Nat}
variable (hr : s.runningOn e.agent c = some r)
include hr

/-- An access that reads sound bytes goes on with them. -/
theorem State.performElement_reads (hm : m.reads = some (p, k)) (hp : s.spotPoison e.agent e.owner.pasid p k = none) :
    s.performElement e c x m = (s.movedIn e.owner.account (s.spotTier e.agent p) k).afterRead r x m
      (s.spotBytes e.agent e.owner.pasid p k) := by
  simp only [State.performElement, hr, hm, hp]

/-- One that reads poison stops the operation, with the first poisoned address of the whole that it is a part of. -/
theorem State.performElement_poisoned {z : Spot} {l : Nat} {f : W64} (hm : m.reads = some (p, k))
    (hp : s.spotPoison e.agent e.owner.pasid p k ≠ none) (hw : r.wholePlace m = some (z, l))
    (hf : s.spotPoison r.agent r.owner.pasid z l = some f) : s.performElement e c x m = s.stopAt r x (halted 0x06 f) := by
  obtain ⟨a, ha⟩ := Option.ne_none_iff_exists'.mp hp
  simp only [State.performElement, State.poisonStop, hr, hm, ha, hw, hf, Option.getD_some]

/-- A write puts its bytes. -/
theorem State.performElement_put {d : Spot} {bs : List Byte} : s.performElement e c x (.put d bs) =
    (s.spotPut e.agent e.owner.pasid d bs).movedIn e.owner.account (s.spotTier e.agent d) bs.length := by
  simp only [State.performElement, hr, Micro.reads]

/-- The mark of a stale block writes its entry and stops the operation. -/
theorem State.performElement_stale {elem a : W64} {v : Nat} : s.performElement e c x (.stale elem a v) =
    ((s.spotPut e.agent e.owner.pasid (vaSpot a) (entryBytes v)).movedIn e.owner.account (s.spotTier e.agent (vaSpot a)) 16).stopAt r x
      (halted 0x0B elem) := by
  simp only [State.performElement, hr, Micro.reads]

end

/-- A read that is no part of another stands for itself. -/
theorem Running.wholePlace_own (r : Running) {m : Micro} (h : ¬ ∃ src k key, m = .keep src k key ∧ key % 2 = 1) :
    r.wholePlace m = m.reads := by
  unfold Running.wholePlace
  cases m with
  | keep src k key => exact if_neg fun hk => h ⟨src, k, key, rfl, hk⟩
  | _ => rfl

/-- A part stands for the read that waits for it. -/
theorem Running.wholePlace_part (r : Running) {src z : Spot} {k key l : Nat} {w : Micro} (hk : key % 2 = 1) (hw : r.partOf key = some w)
    (hz : w.reads = some (z, l)) : r.wholePlace (.keep src k key) = some (z, l) := by
  unfold Running.wholePlace
  dsimp only
  rw [if_pos hk, hw, Option.bind_some, hz]

/-! ## The bytes of a dictionary block (08 R203) -/

theorem dictBytes_length (bf16 : Bool) (block : List Byte) : (dictBytes bf16 block).length = 2 * (block.length - 16) := by
  simp [dictBytes]

/-- Element `j` is the dictionary byte that code `j` names, behind a byte 0 for BF16. -/
theorem dictBytes_getElem (bf16 : Bool) (block : List Byte) (j : Nat) (h : j < (dictBytes bf16 block).length) :
    let code := (block.getD (16 + j / 2) 0).toNat / (if j % 2 = 0 then 1 else 16) % 16
    (dictBytes bf16 block)[j] = if bf16 then [0, block.getD code 0] else [block.getD code 0] := by
  have hb := (block.getD (16 + j / 2) 0).isLt
  have hcode : (if j % 2 = 0 then (block.getD (16 + j / 2) 0).toNat % 16 else (block.getD (16 + j / 2) 0).toNat / 16) =
      (block.getD (16 + j / 2) 0).toNat / (if j % 2 = 0 then 1 else 16) % 16 := by
    split <;> omega
  simp only [dictBytes, List.getElem_map, List.getElem_range]
  rw [hcode]

/-! ## A write of an engine -/

/-- The saved copies that receive bytes are those of agents. -/
theorem mergeSaved_only (s : State) (a : Nat) (b : Byte) : mergeSaved s a b = { s with agents := (mergeSaved s a b).agents } := by
  unfold mergeSaved
  repeat' split
  all_goals rfl

theorem agents_trans {s t u : State} (h : t = { s with agents := t.agents }) (k : u = { t with agents := u.agents }) :
    u = { s with agents := u.agents } := k.trans (by rw [h])

theorem mergeBytes_only (s : State) (a : Nat) (bs : List Byte) : mergeBytes s a bs = { s with agents := (mergeBytes s a bs).agents } := by
  induction bs generalizing s a with
  | nil => rfl
  | cons b bs ih => exact agents_trans (mergeSaved_only s a b) (ih (mergeSaved s a b) (a + 1))

theorem cleanSaved_only (s : State) (a k : Nat) : cleanSaved s a k = { s with agents := (cleanSaved s a k).agents } := by
  unfold cleanSaved
  split <;> rfl

/-- An engine's write is a plain write, and touches the saved copies of agents. -/
theorem enginePut_only (s : State) (a : Nat) (bs : List Byte) :
    enginePut s a bs = { s.put a bs with agents := (enginePut s a bs).agents } :=
  agents_trans (mergeBytes_only (s.put a bs) a bs) (cleanSaved_only _ a bs.length)

/-- A write of no byte changes none. -/
theorem vaStore_nil_read (s : State) (n : Nat) (q : Option (BitVec 20)) (va z : Nat) : (s.vaStore n q va []).mem.read z = s.mem.read z := by
  unfold State.vaStore
  generalize pagePieces va _ = ps
  have each (ps : List (Nat × Nat)) (t : State) :
      (ps.foldl (fun t p => t.put (s.storage n q p.1) ((([] : List Byte).drop (p.1 - va)).take p.2)) t).mem.read z = t.mem.read z := by
    induction ps generalizing t with
    | nil => rfl
    | cons p ps ih =>
      rw [List.foldl_cons, ih]
      exact put_out _ _ _ _ (by simp; omega)
  exact each ps s

section
variable (s : State) (n : Nat) (q : Option (BitVec 20)) (d : Spot) (bs : List Byte)

/-- The operations that run and what travels stay. -/
theorem State.spotPut_keeps : (s.spotPut n q d bs).running = s.running ∧ (s.spotPut n q d bs).transit = s.transit := by
  unfold State.spotPut
  split
  · rw [enginePut_only]; exact ⟨rfl, rfl⟩
  · rw [vaStore_only]; exact ⟨rfl, rfl⟩

/-- A write whose place is one range of storage. -/
theorem State.spotPut_read (z : Nat)
    (hd : d.tier.toNat ≤ 3 ∨ (regionOf d.addr.toNat = .rented ∧ d.addr.toNat % 4096 + bs.length ≤ 4096)) :
    (s.spotPut n q d bs).mem.read z = (s.put (s.spotAddr n q d) bs).mem.read z := by
  unfold State.spotPut
  by_cases ht : d.tier.toNat ≤ 3
  · rw [if_pos ht, enginePut_only]
  · have haddr : s.spotAddr n q d = s.storage n q d.addr.toNat := by
      unfold State.spotAddr
      split <;> omega
    obtain ⟨-, hpage⟩ := hd.resolve_left ht
    rw [if_neg ht, haddr]
    cases bs with
    | nil => rw [vaStore_nil_read, put_out _ _ _ _ (by simp; omega)]
    | cons b bs => rw [vaStore_page s n q _ _ (by simp) hpage]

end

end Sys2Proof.Machine

namespace Sys2Proof.Spec

open Sys2Proof Sys2Proof.Machine

/-- PERFORM of an element access. -/
theorem exec_perform_element {s : State} {i : Nat} {e : Transit} {c : BitVec 3} {x : Nat} {m : Micro} (h : atHome s i e)
    (hl : e.load = .element c x m) : exec (.perform i) s = .next ((s.arrivedAt i e).performElement e c x m) := by
  show Host.Outcome.next (s.performAt i) = _
  unfold State.performAt
  rw [atHome_eq h]
  dsimp only
  rw [hl]
  rfl

section
variable {s : State} {i : Nat} {e : Transit} {c : BitVec 3} {x : Nat} {m : Micro} {r : Running}
variable (hh : atHome s i e) (hl : e.load = .element c x m) (hs : s.running = [r]) (hn : r.agent = e.agent) (ho : r.owner = e.owner)
  (hc : r.op.ctx = c)
include hh hl hs hn hc

/-- An access that reads sound bytes goes on with them, in a state whose operation, memory and channels are those of before but for the
access itself. -/
theorem perform_reads {p : Spot} {len : Nat} (hm : m.reads = some (p, len))
    (hp : s.spotPoison e.agent e.owner.pasid p len = none) : ∃ v : State, v.running = [r] ∧ v.mem = s.mem ∧
      v.transit = s.transit.eraseIdx i ∧
      exec (.perform i) s = .next (v.afterRead r x m (s.spotBytes e.agent e.owner.pasid p len)) := by
  have hr : (s.arrivedAt i e).runningOn e.agent c = some r := State.runningOn_alone (by simpa using hs) hn hc
  refine ⟨(s.arrivedAt i e).movedIn e.owner.account ((s.arrivedAt i e).spotTier e.agent p) len, by simpa using hs, by simp, by simp, ?_⟩
  rw [exec_perform_element hh hl, State.performElement_reads hr hm (by simpa using hp), State.arrivedAt_spotBytes]

include ho in
/-- One that reads poison stops the operation. -/
theorem perform_poisoned {p z : Spot} {len l : Nat} {f : W64} (hm : m.reads = some (p, len))
    (hp : s.spotPoison e.agent e.owner.pasid p len ≠ none) (hw : r.wholePlace m = some (z, l))
    (hf : s.spotPoison e.agent e.owner.pasid z l = some f) :
    ∃ t, exec (.perform i) s = .next t ∧ t.mem = s.mem ∧ t.running = [r.stopped x (halted 0x06 f)] := by
  have hr : (s.arrivedAt i e).runningOn e.agent c = some r := State.runningOn_alone (by simpa using hs) hn hc
  obtain ⟨hrun, hmem, -⟩ := State.stopAt_alone (s := s.arrivedAt i e) (r := r) (by simpa using hs) x (halted 0x06 f)
  refine ⟨_, ?_, hmem.trans (by simp), hrun⟩
  rw [exec_perform_element hh hl, State.performElement_poisoned hr hm (by simpa using hp) hw (by simpa [hn, ho] using hf)]

end

theorem elementPerforms : ElementPerforms := by
  intro s i e c x m r n q hh hl hs hn ho hc
  refine ⟨fun d bs hm hq hd => ?_, fun p len hm => ⟨?_, ?_⟩⟩
  · intro y
    subst hm
    have hr : (s.arrivedAt i e).runningOn e.agent c = some r := State.runningOn_alone (by simpa using hs) hn hc
    obtain ⟨hrun, htransit⟩ := State.spotPut_keeps (s.arrivedAt i e) e.agent e.owner.pasid d bs
    have hread (z : Nat) : ((s.arrivedAt i e).spotPut e.agent e.owner.pasid d bs).mem.read z = (s.mem.write y bs).read z := by
      rw [State.spotPut_read _ _ _ _ _ z hd, put_mem _ _ _ (by simpa using hq), State.arrivedAt_mem, State.arrivedAt_spotAddr]
    rw [exec_perform_element hh hl, State.performElement_put hr]
    refine ⟨_, rfl, ?_, ?_, fun j hj => ?_, fun z hz => ?_⟩
    · rw [State.movedIn_running, hrun, State.arrivedAt_running]
    · rw [State.movedIn_transit, htransit, State.arrivedAt_transit]
    · rw [State.movedIn_mem, hread, read_write_in _ _ _ _ hj, List.getD_eq_getElem _ _ hj]
    · rw [State.movedIn_mem, hread, read_write_out _ _ _ _ hz]
  · intro stops part
    refine ⟨fun f hpart hf => ?_, fun src k key w z l f hk hodd hw hz hp hf => ?_⟩
    · exact perform_poisoned hh hl hs hn ho hc hm (Option.ne_none_iff_exists'.mpr ⟨f, hf⟩) ((r.wholePlace_own hpart).trans hm) hf
    · subst hk
      exact perform_poisoned hh hl hs hn ho hc hm hp (r.wholePlace_part hodd hw hz) hf
  · intro hclean bs adds
    obtain ⟨v, hv, hmem, htransit, hexec⟩ := perform_reads hh hl hs hn hc hm hclean
    have keeps (y : Running) : (v.setRunning r y).mem = s.mem ∧ (v.setRunning r y).transit = s.transit.eraseIdx i ∧
        (v.setRunning r y).running = [y] := by
      rw [State.setRunning_alone hv]
      exact ⟨hmem, htransit, rfl⟩
    have adds_of {ms : List Micro} (h : v.afterRead r x m bs = v.setRunning r { r with todo := insertAt x ms r.todo }) : adds ms :=
      ⟨_, hexec.trans (congrArg _ h), keeps _⟩
    refine ⟨fun src dst k h => adds_of (by rw [h]; rfl), fun src dst h => adds_of (by rw [h]; rfl),
      fun y dev wm h => adds_of (by rw [h]; rfl), fun src k key h => ?_, fun src dsts bf16 h hlen => ?_⟩
    · obtain ⟨kmem, -, krun⟩ := keeps { r with kept := r.kept ++ [(key, bs)] }
      exact ⟨_, hexec.trans (by rw [h]; rfl), kmem, krun⟩
    · have hdict : dsts.length ≤ (dictBytes bf16 bs).length := by rwa [dictBytes_length]
      refine ⟨(dsts.zip (dictBytes bf16 bs)).map (fun p => .put { tier := 2, addr := p.1 } p.2), adds_of (by rw [h]; rfl),
        by simpa using hdict, fun j d hd => ?_⟩
      obtain ⟨hj, hd⟩ := List.getElem?_eq_some_iff.mp hd
      intro code
      have hj' : j < (dictBytes bf16 bs).length := by omega
      rw [List.getElem?_map, List.getElem?_eq_getElem (by simp; omega), Option.map_some, List.getElem_zip, hd,
        dictBytes_getElem bf16 bs j hj']

end Sys2Proof.Spec

namespace Sys2Proof.Machine

/-! ## Tag checks (11 R248, R249, R257) -/

/-- A registry entry is current where it holds DOC and VER, its first 80 bits. -/
theorem isCurrent_iff (reg : List Byte) (e : Nat) :
    isCurrent reg (provDoc e) (provVer e) = true ↔ natOfBytes reg % 2 ^ 80 = e % 2 ^ 80 := by
  simp only [isCurrent, provDoc, provVer, Bool.and_eq_true, beq_iff_eq]
  omega

theorem completeFor_iff (e layer : Nat) :
    completeFor e layer = true ↔ e.testBit 109 = false ∨ layer ≤ e / 2 ^ 100 % 2 ^ 8 := by
  rw [completeFor, Bool.or_eq_true, Bool.not_eq_true', decide_eq_true_eq]
  rfl

section
variable {s : State} {r : Running} {i : Nat} {elem entry reg : W64} {layer count : Nat} {strict write : Bool} {bs : List Byte}

/-- A block marked stale stops the operation. -/
theorem State.afterRead_stale (h : provStale (natOfBytes bs) = true) :
    s.afterRead r i (.tag elem entry layer strict reg count write) bs = s.afterTag r i elem entry (natOfBytes bs) write .stale := by
  simp [State.afterRead, tagResult, h]

/-- A spliced one is looked up. -/
theorem State.afterRead_spliced (h : provStale (natOfBytes bs) = false) (hs : provSpliced (natOfBytes bs) = true) :
    s.afterRead r i (.tag elem entry layer strict reg count write) bs = s.setRunning r { r with todo := insertAt i [
      .look elem entry layer strict (regEntry reg count (provDoc (natOfBytes bs))) (natOfBytes bs) write] r.todo } := by
  simp [State.afterRead, h, hs]

/-- One that is neither is judged as it stands. -/
theorem State.afterRead_unspliced (h : provStale (natOfBytes bs) = false) (hs : provSpliced (natOfBytes bs) = false) :
    s.afterRead r i (.tag elem entry layer strict reg count write) bs =
      s.afterTag r i elem entry (natOfBytes bs) write (tagResult (natOfBytes bs) layer strict false) := by
  simp [State.afterRead, h, hs]

end

/-- What a tag check makes of the operation. -/
def Running.checked (r : Running) (i : Nat) (elem entry : W64) (e : Nat) (write : Bool) (g : TagResult) : Running :=
  match g with
  | .pass => r
  | .partly => if r.status = 0 then { r with status := 0x09 } else r
  | .unrepaired => r.stopped i (halted 0x0C elem)
  | .stale =>
    if write then { r with todo := insertAt i [.stale elem entry (setField e 110 1 1)] r.todo } else r.stopped i (halted 0x0B elem)

/-- A tag check changes the operation, and leaves memory. -/
theorem State.afterTag_alone {s : State} {r : Running} (hs : s.running = [r]) (i : Nat) (elem entry : W64) (e : Nat) (write : Bool)
    (g : TagResult) : (s.afterTag r i elem entry e write g).mem = s.mem ∧
      (s.afterTag r i elem entry e write g).running = [r.checked i elem entry e write g] := by
  have hset (x : Running) : (s.setRunning r x).running = [x] := congrArg State.running (State.setRunning_alone hs x)
  have hstop (st : Byte) := (State.stopAt_alone hs i (halted st elem)).1
  cases g with
  | pass => exact ⟨rfl, hs⟩
  | partly => exact ⟨rfl, hset _⟩
  | unrepaired => exact ⟨rfl, hstop 0x0C⟩
  | stale =>
    cases write with
    | true => exact ⟨rfl, hset _⟩
    | false => exact ⟨rfl, hstop 0x0B⟩

/-- A block that is complete for the layer passes; another stops the operation in strict mode, and is PARTIAL else. -/
theorem tagResult_complete {e layer : Nat} (strict : Bool) (h : completeFor e layer = true) : tagResult e layer strict false = .pass := by
  simp [tagResult, h]

theorem tagResult_incomplete {e layer : Nat} (strict : Bool) (h : ¬ completeFor e layer = true) :
    tagResult e layer strict false = if strict then .unrepaired else .partly := by
  simp [tagResult, h]

/-! ## The mark of a stale block -/

/-- A write inside a page of an address space is a plain write. -/
theorem State.spotPut_page (s : State) (n : Nat) (q : Option (BitVec 20)) (a : W64) (bs : List Byte) (h0 : 0 < bs.length)
    (h : a.toNat % 4096 + bs.length ≤ 4096) : s.spotPut n q (vaSpot a) bs = s.put (s.storage n q a.toNat) bs := by
  unfold State.spotPut
  exact (if_neg (show ¬ (4 : BitVec 3).toNat ≤ 3 by decide)).trans (vaStore_page s n q a.toNat bs h0 h)

@[simp] theorem entryBytes_length (e : Nat) : (entryBytes e).length = 16 := by simp [entryBytes]

/-- An entry just written: bit 111 is 0 (R247). -/
theorem num_put_entry (s : State) (a e : Nat) (hq : s.quarantined = []) :
    (s.put a (entryBytes e)).mem.num a 16 = setField e 111 1 0 % 2 ^ 128 := by
  have h := num_write s.mem a (entryBytes e) 0 16 (by simp)
  rw [Nat.add_zero] at h
  rw [put_mem s a _ hq, h, numAt, List.drop_zero, List.take_of_length_le (by simp), entryBytes, natOfBytes_bytesOfNat,
    show (2 : Nat) ^ 128 = 256 ^ 16 by norm_num]

end Sys2Proof.Machine

namespace Sys2Proof.Spec

open Sys2Proof Sys2Proof.Machine

theorem tagChecks : TagChecks := by
  intro s i e c x elem entry layer strict reg count write r n q entryAt hh hs hn ho hc gives stopped stale complete judges
  have gives_of {v : State} {z : Running} (hv : v.mem = s.mem) (hexec : exec (.perform i) s = .next v) (hz : v.running = [z]) : gives z :=
    ⟨v, hexec, hv, hz⟩
  have checks {v : State} {ent : Nat} {g : TagResult} (hv : v.running = [r]) (hmem : v.mem = s.mem)
      (hexec : exec (.perform i) s = .next (v.afterTag r x elem entry ent write g)) : gives (r.checked x elem entry ent write g) := by
    obtain ⟨tmem, trun⟩ := State.afterTag_alone hv x elem entry ent write g
    exact gives_of (tmem.trans hmem) hexec trun
  have judges_of {ent : Nat} (h : gives (r.checked x elem entry ent write (tagResult ent layer strict false))) : judges ent := by
    refine ⟨fun hc => ?_, fun hc hstrict => ?_, fun hc hstrict => ?_⟩
    · rwa [tagResult_complete strict ((completeFor_iff ent layer).mpr hc)] at h
    · rwa [tagResult_incomplete strict (mt (completeFor_iff ent layer).mp hc), hstrict] at h
    · rwa [tagResult_incomplete strict (mt (completeFor_iff ent layer).mp hc), hstrict] at h
  refine ⟨fun hl hp => ?_, fun a ent hl hp => ?_, fun v hl hq hreg hpage => ?_⟩
  · intro ent
    obtain ⟨v, hv, hmem, -, hexec⟩ := perform_reads hh hl hs hn hc rfl hp
    refine ⟨fun h => ?_, fun h hspliced => ?_, fun h hspliced => judges_of (checks hv hmem ?_)⟩
    · exact checks hv hmem (hexec.trans (congrArg _ (State.afterRead_stale h)))
    · rw [State.afterRead_spliced h hspliced] at hexec
      exact gives_of (v := v.setRunning r _) hmem hexec (congrArg State.running (State.setRunning_alone hv _))
    · rw [hexec, State.afterRead_unspliced h hspliced]
  · intro current
    obtain ⟨v, hv, hmem, -, hexec⟩ := perform_reads hh hl hs hn hc rfl hp
    have hlook := isCurrent_iff (s.spotBytes n q (vaSpot a) 16) ent
    refine ⟨fun h => checks (ent := ent) (g := .stale) hv hmem ?_, fun h => judges_of (checks hv hmem ?_)⟩
    · rw [hexec, State.afterRead, Bool.eq_false_iff.mpr (mt hlook.mp h)]
      rfl
    · rw [hexec, State.afterRead, hlook.mpr h]
      rfl
  · intro y
    have hr : (s.arrivedAt i e).runningOn e.agent c = some r := State.runningOn_alone (by simpa using hs) hn hc
    have hput : (s.arrivedAt i e).spotPut e.agent e.owner.pasid (vaSpot entry) (entryBytes v) = (s.arrivedAt i e).put y (entryBytes v) := by
      rw [State.spotPut_page _ _ _ _ _ (by simp) (by simpa using hpage), State.arrivedAt_storage]
    rw [exec_perform_element hh hl, State.performElement_stale hr, hput]
    refine ⟨_, rfl, (State.stopAt_alone ?_ x _).1, ?_, fun z hz => ?_⟩
    · rw [State.movedIn_running, put_only]
      simpa using hs
    · rw [State.stopAt_mem, State.movedIn_mem]
      exact num_put_entry _ y v (by simpa using hq)
    · rw [State.stopAt_mem, State.movedIn_mem, put_out _ _ _ _ (by simpa using hz), State.arrivedAt_mem]

/-! ## The plans of XCOPY and XFILL (09 R218, R219) -/

/-- A check that a start makes and passes. -/
theorem need_bind {α : Type} {c : Bool} {f : Unit → Except Halt α} {p : α} (h : (need c >>= f) = .ok p) : c = true ∧ f () = .ok p := by
  cases c with
  | true => exact ⟨rfl, h⟩
  | false => cases h

/-- What a start has read adds to the count alone. -/
theorem counted_ok {xs : List (Spot × Nat)} {x : Except Halt Plan} {p : Plan} (h : counted xs x = .ok p) :
    ∃ y, x = .ok y ∧ p.todo = y.todo := by
  cases x with
  | error _ => cases h
  | ok y => cases h; exact ⟨y, rfl, rfl⟩

theorem except_bind_ok {α β : Type} {x : Except Halt α} {f : α → Except Halt β} {p : β} (h : (x >>= f) = .ok p) :
    ∃ y, x = .ok y ∧ f y = .ok p := by
  cases x with
  | error _ => cases h
  | ok y => exact ⟨y, rfl, h⟩

/-- The checks from OVERLAP on change no access of a source that is not tag-checked. -/
theorem finishPlan_todo {s : State} {n : Nat} {w : Who} {listed sources targets : List (Spot × Nat)} {todo : List Micro} {p : Plan}
    (h : s.finishPlan n w none listed sources targets todo = .ok p) : p.todo = todo := by
  unfold State.finishPlan at h
  obtain ⟨plan, hplan, h⟩ := except_bind_ok h
  cases hplan
  dsimp only at h
  split at h
  · obtain ⟨_, hmeet, -⟩ := except_bind_ok h
    cases hmeet
  · obtain ⟨_, -, h⟩ := except_bind_ok h
    cases h
    rfl

theorem openArena_unchecked (s : State) (n : Nat) (w : Who) (op : EngOp) (x : Shape) (h : x.flags = 0) : s.openArena n w op x = .ok none := by
  simp [State.openArena, h]

theorem copyAndFillPlans : CopyAndFillPlans := by
  intro s n w e p
  refine ⟨fun hop hflags h => ?_, fun hop h => ?_⟩
  · have hcopy : s.planCopy n w e = .ok p := by rwa [State.planOf, hop] at h
    unfold State.planCopy at hcopy
    obtain ⟨hneed, hcopy⟩ := need_bind hcopy
    rw [openArena_unchecked s n w e e.src hflags] at hcopy
    obtain ⟨y, hy, htodo⟩ := counted_ok hcopy
    simp only [Bool.and_eq_true, beq_iff_eq, decide_eq_true_eq] at hneed
    obtain ⟨⟨-, hfmt⟩, hcount⟩ := hneed
    exact ⟨hfmt, hcount, htodo.trans (finishPlan_todo hy)⟩
  · have hfill : s.planFill n w e = .ok p := by rwa [State.planOf, hop] at h
    unfold State.planFill at hfill
    exact finishPlan_todo (need_bind hfill).2

/-- Settles O31, part by part: departures are the cases of `makeElement`, accesses at their homes those of `performElement`, a tag check is
`Running.checked` of its result, and a plan that passes its checks is its list of accesses. -/
theorem operationsMakeElements : Obligations.OperationsMakeElements :=
  ⟨elementsDepart, elementPerforms, tagChecks, copyAndFillPlans⟩

end Sys2Proof.Spec
end

section
/-!
PROOFS. How an engine operation leaves the ECB and starts as its checks plan it (09 R207, R211, 10 R239, 11 R255, R256).
-/

namespace Sys2Proof.Machine

/-! ## What a start reads and holds -/

/-- The state in which what a start has read is counted and touched (04 R114, R119). -/
def State.startReads (s : State) (n : Nat) (w : Who) (xs : List (Spot × Nat)) : State := (s.movedAll n w xs).touchReads n w xs

theorem State.movedAll_only (s : State) (n : Nat) (w : Who) (xs : List (Spot × Nat)) :
    s.movedAll n w xs = { s with accounts := (s.movedAll n w xs).accounts } := by
  unfold State.movedAll
  induction xs generalizing s with
  | nil => rfl
  | cons x xs ih => exact accounts_trans (State.movedIn_only s w.account (s.spotTier n x.1) x.2) (ih _)

theorem State.startReads_only (s : State) (n : Nat) (w : Who) (xs : List (Spot × Nat)) :
    let t := s.startReads n w xs
    t = { s with accounts := t.accounts, hostLines := t.hostLines, activated := t.activated } := by
  dsimp only
  unfold State.startReads State.touchReads
  rw [touchAll_only, State.movedAll_only]

theorem State.raise_only (s : State) (ks : List Nat) : s.raise ks = { s with pitches := (s.raise ks).pitches } := by
  unfold State.raise
  induction ks generalizing s with
  | nil => rfl
  | cons k ks ih => rw [List.foldl_cons, ih]; rfl

/-- INFLIGHT of a pitch rises once for each time that the list names it (04 R109). -/
theorem State.raise_inflight (s : State) (ks : List Nat) (d : Nat) :
    ((s.raise ks).pitch d).inflight = (s.pitch d).inflight + ks.count d := by
  induction ks generalizing s with
  | nil => rfl
  | cons k ks ih =>
    refine (ih (s.modPitch k fun p => { p with inflight := p.inflight + 1 })).trans ?_
    by_cases hk : d = k
    · subst hk
      rw [State.pitch_modPitch, List.count_cons_self]
      dsimp only
      omega
    · rw [State.modPitch, State.pitch_setPitch_ne _ _ _ _ hk, List.count_cons_of_ne (Ne.symm hk)]

/-! ## An operation that starts -/

/-- An operation that its checks let run: the accesses of its plan, numbered in index order. -/
def Held.planned (h : Held) (n : Nat) (op : EngOp) (p : Plan) (ks : List Nat) : Running :=
  { agent := n, owner := h.owner, op := op, todo := p.todo.zipIdx.map (fun x => (x.2, x.1)), kept := [], status := p.status,
    faddr := 0, sub := false, pitches := ks, slotHdr := p.hdr, seq := h.seq }

/-- An operation that ends with the first check that fails. -/
def Held.halted (h : Held) (n : Nat) (op : EngOp) (x : Halt) : Running :=
  { agent := n, owner := h.owner, op := op, todo := [], kept := [], status := x.status, faddr := x.faddr, sub := x.sub,
    pitches := [], slotHdr := none, seq := h.seq }

section
variable {s : State} {n : Nat} {h : Held} {op : EngOp} {p : Plan} {x : Halt}

theorem State.begin_planned (hp : s.planOf n h.owner op = .ok p) :
    let ks := s.pitchesTouched n p.touched
    s.begin n h op = { (s.startReads n h.owner p.read).raise ks with running := s.running ++ [h.planned n op p ks] } := by
  unfold State.begin
  rw [hp]
  rfl

theorem State.begin_halted (hx : s.planOf n h.owner op = .error x) :
    s.begin n h op = { s.startReads n h.owner x.read with running := s.running ++ [h.halted n op x] } := by
  unfold State.begin
  rw [hx]
  rfl

/-- A plan that passes moves INFLIGHT of its pitches, and no agent. -/
theorem State.begin_planned_holds (hp : s.planOf n h.owner op = .ok p) (d : Nat) : (s.begin n h op).agents = s.agents ∧
    ((s.begin n h op).pitch d).inflight = (s.pitch d).inflight + (s.pitchesTouched n p.touched).count d := by
  rw [State.begin_planned hp]
  refine ⟨?_, ?_⟩
  · rw [State.raise_only, State.startReads_only]
  · refine (State.raise_inflight (s.startReads n h.owner p.read) _ d).trans ?_
    rw [State.startReads_only]
    rfl

/-- A check that fails moves no pitch and no agent. -/
theorem State.begin_halted_keeps (hx : s.planOf n h.owner op = .error x) :
    (s.begin n h op).agents = s.agents ∧ (s.begin n h op).pitches = s.pitches := by
  rw [State.begin_halted hx, State.startReads_only]
  exact ⟨rfl, rfl⟩

end

/-! ## When an operation may start -/

/-- No marker, no operation of its context or slot, and for XDARNC no earlier release of its agent holds the operation at place `j`. -/
def State.mayStart (s : State) (n : Nat) (c : BitVec 3) (j : Nat) (h : Held) (e : EngOp) : Prop :=
  openTo (s.agent n).ecb j = true ∧ s.ctxBusy n c = false ∧ s.slotBusy (s.slotHeader n h.owner e) = false ∧
    (e.op = 0x17 → s.doneBefore n h.seq = true)

/-- The move that starts an operation of context `c`: XDARNC has one of its own (11 R255). -/
def State.startFor (s : State) (e : EngOp) (n : Nat) (c : BitVec 3) : State := if e.op = 0x17 then s.darncStart n c else s.start n c

theorem exec_startFor (s : State) (e : EngOp) (k : BitVec 9) (c : BitVec 3) :
    exec (if e.op = 0x17 then .darncStart k c else .start k c) s = .next (s.startFor e k.toNat c) := by
  unfold State.startFor
  split <;> rfl

section
variable {s : State} {n : Nat} {c : BitVec 3} {j : Nat} {h : Held} {e : EngOp}

section
variable (hn : nextOp c (s.agent n).ecb = some (j, h, e))
include hn

theorem State.darncStart_next : s.darncStart n c =
    if openTo (s.agent n).ecb j ∧ e.op = 0x17 ∧ !s.ctxBusy n c ∧ s.doneBefore n h.seq ∧ !s.slotBusy (s.slotHeader n h.owner e) then
      (s.leaveEcb n j).begin n h e
    else s := by
  unfold State.darncStart
  dsimp only
  rw [hn]

theorem State.start_next (hc : c ≠ 7) : s.start n c =
    if openTo (s.agent n).ecb j ∧ e.op ≠ 0x17 ∧ !s.ctxBusy n c ∧ !s.slotBusy (s.slotHeader n h.owner e) then
      (s.leaveEcb n j).begin n h e
    else s := by
  unfold State.start
  dsimp only
  rw [if_neg hc, hn]

theorem State.startFor_begins (hc : c ≠ 7) (hm : s.mayStart n c j h e) : s.startFor e n c = (s.leaveEcb n j).begin n h e := by
  obtain ⟨hopen, hctx, hslot, hdone⟩ := hm
  unfold State.startFor
  by_cases hop : e.op = 0x17
  · rw [if_pos hop, State.darncStart_next hn]
    exact if_pos ⟨hopen, hop, by simp [hctx], hdone hop, by simp [hslot]⟩
  · rw [if_neg hop, State.start_next hn hc]
    exact if_pos ⟨hopen, hop, by simp [hctx], by simp [hslot]⟩

theorem State.startFor_stays (hc : c ≠ 7) (hm : ¬ s.mayStart n c j h e) : s.startFor e n c = s := by
  unfold State.startFor
  by_cases hop : e.op = 0x17
  · rw [if_pos hop, State.darncStart_next hn]
    refine if_neg fun ⟨hopen, _, hctx, hdone, hslot⟩ => hm ?_
    exact ⟨hopen, by simpa using hctx, by simpa using hslot, fun _ => hdone⟩
  · rw [if_neg hop, State.start_next hn hc]
    refine if_neg fun ⟨hopen, _, hctx, hslot⟩ => hm ?_
    exact ⟨hopen, by simpa using hctx, by simpa using hslot, fun h17 => absurd h17 hop⟩

end

/-- What holds an operation. -/
theorem State.not_mayStart
    (hm : openTo (s.agent n).ecb j = false ∨ s.ctxBusy n c = true ∨ s.slotBusy (s.slotHeader n h.owner e) = true ∨
      (e.op = 0x17 ∧ s.doneBefore n h.seq = false)) : ¬ s.mayStart n c j h e := by
  rintro ⟨hopen, hctx, hslot, hdone⟩
  rcases hm with hm | hm | hm | ⟨hop, hm⟩
  · exact Bool.false_ne_true (hm.symm.trans hopen)
  · exact Bool.false_ne_true (hctx.symm.trans hm)
  · exact Bool.false_ne_true (hslot.symm.trans hm)
  · exact Bool.false_ne_true (hm.symm.trans (hdone hop))

end

theorem State.leaveEcb_ecb (s : State) (n j : Nat) : ((s.leaveEcb n j).agent n).ecb = (s.agent n).ecb.eraseIdx j :=
  congrArg Agent.ecb (State.agent_setAgent ..)

end Sys2Proof.Machine

namespace Sys2Proof.Spec

open Sys2Proof Sys2Proof.Machine

/-- Settles O33: an operation that nothing holds leaves the ECB and begins (`State.startFor_begins`), as its plan or the first failing check
says (`State.begin_planned`, `State.begin_halted`). -/
theorem operationsStart : Obligations.OperationsStart := by
  unfold Obligations.OperationsStart
  intro s k c j h e n ecb i hn hc
  have hexec : exec i s = .next (s.startFor e n c) := exec_startFor s e k c
  refine ⟨fun hm => ?_, fun hopen hctx hslot hdone => ?_⟩
  · rw [hexec, State.startFor_stays hn hc (State.not_mayStart hm)]
  rw [State.startFor_begins hn hc ⟨hopen, hctx, hslot, hdone⟩] at hexec
  have hmem : ((s.leaveEcb n j).begin n h e).mem = s.mem := State.begin_mem ..
  have hecb (t : State) (ht : t.agents = (s.leaveEcb n j).agents) : (t.agent n).ecb = ecb.eraseIdx j := by
    rw [State.agent, ht]
    exact State.leaveEcb_ecb s n j
  cases hp : (s.leaveEcb n j).planOf n h.owner e with
  | ok p =>
    have hagents := (State.begin_planned_holds hp 0).1
    refine ⟨_, h.planned n e p (s.pitchesTouched n p.touched), hexec, hecb _ hagents, ?_, rfl, rfl, rfl, rfl, hmem, rfl, rfl, rfl, fun d => ?_⟩
    · rw [State.begin_planned hp]
      rfl
    · exact (State.begin_planned_holds hp d).2
  | error x =>
    obtain ⟨hagents, hpitches⟩ := State.begin_halted_keeps hp
    refine ⟨_, h.halted n e x, hexec, hecb _ hagents, ?_, rfl, rfl, rfl, rfl, hmem, rfl, rfl, rfl, hpitches⟩
    rw [State.begin_halted hp]
    rfl

end Sys2Proof.Spec
end

section
/-!
PROOFS. What COMPLETE writes of an operation that has nothing left to do (09 R205, R208, R212, R221).
-/

namespace Sys2Proof.Machine

/-! ## The counter and the first faulting completion -/

section
variable (x : EngCtx) (num : W64) (st : Byte) (addr : W64) (sub : Bool)

/-- A completion as the timeline of its context shows it. -/
def EngCtx.completed : EngCtx := (x.advance num st).record num st addr sub

/-- The record of a fault moves no counter. -/
theorem EngCtx.completed_counts : let y := x.completed num st addr sub
    y.count = num.setWidth 56 ∧ y.lastst = st ∧ y.lastf = decide (st ≠ 0) ∧ y.fails = (x.advance num st).fails := by
  dsimp only
  unfold EngCtx.completed EngCtx.record
  split
  · split <;> exact ⟨rfl, rfl, rfl, rfl⟩
  · exact ⟨rfl, rfl, rfl, rfl⟩

/-- Status 0 counts no failure and records none. -/
theorem EngCtx.completed_clean : (x.completed num 0 addr sub).fails = x.fails ∧ (x.completed num 0 addr sub).frec = x.frec := ⟨rfl, rfl⟩

variable {x st}

/-- FAILS below its bound rises (09 R205). -/
theorem EngCtx.completed_fails (hst : st ≠ 0) (hf : x.fails ≠ 127) : (x.completed num st addr sub).fails = x.fails + 1 := by
  obtain ⟨-, -, -, hfails⟩ := x.completed_counts num st addr sub
  rw [hfails]
  exact (if_neg hst).trans (if_neg hf)

/-- The first faulting completion is recorded (09 R212). -/
theorem EngCtx.completed_frec (hst : faulting st = true) (hf : x.frec = none) :
    (x.completed num st addr sub).frec = some { num := num, status := st, addr := addr, sub := sub } := by
  have hadv : (x.advance num st).frec = none := hf
  unfold EngCtx.completed EngCtx.record
  rw [if_pos hst, hadv]

end

/-! ## The note of a completion (09 R221) -/

section
variable {a : Agent} {c : Nat} {num : W64} {st : Byte}

theorem Agent.noteDone_ctxs : (a.noteDone c num st).ctxs = a.ctxs := by
  unfold Agent.noteDone
  dsimp only
  split <;> rfl

/-- A request that COUNT has reached is spent, and its note is pending. -/
theorem Agent.noteDone_reached (hq : Tab.get 0 a.r.noteReq c ≠ 0) (hn : (Tab.get 0 a.r.noteReq c).toNat ≤ num.toNat) :
    Tab.get 0 (a.noteDone c num st).r.noteReq c = 0 ∧
      Tab.get none (a.noteDone c num st).r.notes c = some { num := num, status := st } := by
  unfold Agent.noteDone
  dsimp only
  rw [if_pos ⟨hq, hn⟩]
  exact ⟨Tab.get_set .., Tab.get_set ..⟩

/-- The note of a stopped task is a write of memory. -/
theorem State.noteStopped_put (s : State) (n : Nat) (w : Who) :
    s.noteStopped n w c num st = s ∨ ∃ y bs, s.noteStopped n w c num st = s.put y bs := by
  unfold State.noteStopped
  split
  · split
    · dsimp only
      split
      · exact .inr ⟨_, _, rfl⟩
      · exact .inl rfl
    · exact .inl rfl
  · exact .inl rfl

end

/-! ## The parts of a completion -/

section
variable (s : State) (n : Nat) (c : BitVec 3) (r : Running)

/-- The operation is gone, and its context's timeline shows its completion. -/
def State.advanced : State :=
  let a := s.agent n
  let slot := r.owner.tslot.toNat
  { s with running := s.running.filter (fun x => x ≠ r) }.setAgent n
    (a.setCtx slot c.toNat ((a.ctx slot c.toNat).completed r.op.num r.status r.faddr r.sub))

/-- A note request that is reached becomes a note: in the agent while the owner runs there, else in the owner's save area. -/
def State.noted : State :=
  if s.runs n r.owner then s.setAgent n ((s.agent n).noteDone c.toNat r.op.num r.status)
  else s.noteStopped n r.owner c.toNat r.op.num r.status

/-- The loom counts the operation (23 R375). -/
def State.tallied : State :=
  let l := 288 + loomOf n
  let ev := (s.agent l).loomEvent 0x04 1
  s.setAgent l (if 5 ≤ c.toNat ∧ c.toNat ≤ 6 then ev.loomEvent 0x03 1 else ev)

/-- COMPLETE of an operation that holds no pitch. -/
theorem State.complete_parts (hr : s.runningOn n c = some r) (ht : r.todo = []) (hf : s.flying n c = []) (hp : r.pitches = []) :
    s.complete n c = ((s.advanced n c r).noted n c r).tallied n c := by
  unfold State.complete
  rw [hr]
  dsimp only
  rw [if_pos ⟨ht, hf⟩, hp]
  rfl

theorem State.advanced_ctx : ((s.advanced n c r).agent n).ctx r.owner.tslot.toNat c.toNat =
    ((s.agent n).ctx r.owner.tslot.toNat c.toNat).completed r.op.num r.status r.faddr r.sub := by
  rw [State.advanced, State.agent_setAgent]
  exact Tab.get_set ..

/-- The timeline of a completion is apart from the agent's registers and its task. -/
theorem State.advanced_keeps : ((s.advanced n c r).agent n).r = (s.agent n).r ∧ (s.advanced n c r).runs n r.owner = s.runs n r.owner := by
  unfold State.runs
  rw [State.advanced, State.agent_setAgent]
  exact ⟨rfl, rfl⟩

theorem State.noted_keeps : (s.noted n c r).running = s.running ∧ ((s.noted n c r).agent n).ctxs = (s.agent n).ctxs := by
  unfold State.noted
  split
  · rw [State.agent_setAgent]
    exact ⟨rfl, Agent.noteDone_ctxs⟩
  · rcases s.noteStopped_put (c := c.toNat) (num := r.op.num) (st := r.status) n r.owner with hn | ⟨y, bs, hn⟩ <;> rw [hn] <;>
      exact ⟨rfl, rfl⟩

/-- The count of the loom is apart from every agent's timelines and registers. -/
theorem State.tallied_keeps (m : Nat) : ((s.tallied n c).agent m).ctxs = (s.agent m).ctxs ∧ ((s.tallied n c).agent m).r = (s.agent m).r := by
  unfold State.tallied
  dsimp only
  by_cases hm : m = 288 + loomOf n
  · subst hm
    rw [State.agent_setAgent]
    split <;> exact ⟨rfl, rfl⟩
  · rw [State.agent_setAgent_ne _ _ _ _ hm]
    exact ⟨rfl, rfl⟩

variable {s n r}

theorem State.noted_runs (hr : s.runs n r.owner = true) :
    s.noted n c r = s.setAgent n ((s.agent n).noteDone c.toNat r.op.num r.status) := if_pos hr

end

end Sys2Proof.Machine

namespace Sys2Proof.Spec

open Sys2Proof Sys2Proof.Machine

/-- Settles O34: COMPLETE is the advance of the timeline, the note and the loom's count (`State.complete_parts`), of which the first alone
writes the timeline and the second alone the note. -/
theorem operationsComplete : Obligations.OperationsComplete := by
  unfold Obligations.OperationsComplete
  intro s k c r n a slot x hr ht hf hp
  have hexec : exec (.complete k c) s = .next (s.complete n c) := exec_complete s k c
  obtain ⟨hregs, hruns⟩ := s.advanced_keeps n c r
  obtain ⟨hrunning, hnoted⟩ := (s.advanced n c r).noted_keeps n c r
  obtain ⟨hctxs, htally⟩ := ((s.advanced n c r).noted n c r).tallied_keeps n c n
  rw [← s.complete_parts n c r hr ht hf hp] at hctxs htally
  have hy : ((s.complete n c).agent n).ctx slot c.toNat = x.completed r.op.num r.status r.faddr r.sub := by
    rw [Agent.ctx, hctxs, hnoted]
    exact s.advanced_ctx n c r
  have hdone (h : s.runs n r.owner = true) := State.noted_runs c (hruns.trans h)
  obtain ⟨hcount, hlastst, hlastf, -⟩ := x.completed_counts r.op.num r.status r.faddr r.sub
  refine ⟨_, hexec, ?_, fun h => ?_, ?_⟩
  · rw [s.complete_parts n c r hr ht hf hp]
    exact hrunning
  · rw [s.complete_parts n c r hr ht hf hp, hdone h]
    rfl
  · dsimp only
    rw [hy]
    refine ⟨hcount, hlastst, hlastf, fun h => ?_, EngCtx.completed_fails _ _ _, EngCtx.completed_frec _ _ _, fun h hq hn => ?_⟩
    · rw [h]
      exact x.completed_clean r.op.num r.faddr r.sub
    · rw [htally, hdone h, State.agent_setAgent]
      exact Agent.noteDone_reached (by rwa [hregs]) (by rwa [hregs])

end Sys2Proof.Spec
end

section
/-!
PROOFS. Entries of the FLQ and FSQ depart for the homes of their bytes, markers leave in their order, and entries hop along their route (10
R226 to R241).
-/

namespace Sys2Proof.Machine

/-! ## The elements of one home (R226, R233) -/

/-- Groups of elements by home: each home once, and under it the elements that `f` sends there. -/
def Grouped (f : Elem → Point) (t : List (Point × List Elem)) : Prop :=
  (t.map (·.1)).Nodup ∧ ∀ g ∈ t, g.2 ≠ [] ∧ ∀ e ∈ g.2, f e = g.1

theorem joinHome_homes (h : Point) (e : Elem) (t : List (Point × List Elem)) :
    (joinHome h e t).map (·.1) = if h ∈ t.map (·.1) then t.map (·.1) else t.map (·.1) ++ [h] := by
  induction t with
  | nil => rfl
  | cons g t ih =>
    by_cases hg : g.1 = h
    · simp [joinHome, hg]
    · have hg' : h ≠ g.1 := Ne.symm hg
      by_cases ht : h ∈ t.map (·.1) <;> simp [joinHome, hg, hg', ih, ht, -List.mem_map]

/-- A group after an element has joined: it stood before, or it is that of the element's home. -/
theorem mem_joinHome {h : Point} {e : Elem} {t : List (Point × List Elem)} {g : Point × List Elem} (hg : g ∈ joinHome h e t) :
    g ∈ t ∨ g = (h, [e]) ∨ ∃ es, (h, es) ∈ t ∧ g = (h, es ++ [e]) := by
  induction t with
  | nil => exact .inr (.inl (List.mem_singleton.mp hg))
  | cons x t ih =>
    obtain ⟨p, es⟩ := x
    by_cases hp : p = h
    · subst hp
      simp only [joinHome, if_true, List.mem_cons] at hg
      obtain rfl | hg := hg
      · exact .inr (.inr ⟨es, List.mem_cons_self, rfl⟩)
      · exact .inl (List.mem_cons_of_mem _ hg)
    · simp only [joinHome, if_neg hp, List.mem_cons] at hg
      obtain rfl | hg := hg
      · exact .inl List.mem_cons_self
      · obtain h1 | h2 | ⟨es', hm, he⟩ := ih hg
        · exact .inl (List.mem_cons_of_mem _ h1)
        · exact .inr (.inl h2)
        · exact .inr (.inr ⟨es', List.mem_cons_of_mem _ hm, he⟩)

theorem joinHome_perm (h : Point) (e : Elem) (t : List (Point × List Elem)) :
    ((joinHome h e t).flatMap (·.2)).Perm (t.flatMap (·.2) ++ [e]) := by
  induction t with
  | nil => rfl
  | cons g t ih =>
    by_cases hg : g.1 = h
    · simpa [joinHome, hg] using (List.perm_append_singleton e _).symm.append_left g.2
    · simpa [joinHome, hg] using ih.append_left g.2

section
variable {f : Elem → Point} {t : List (Point × List Elem)}

theorem Grouped.join (ht : Grouped f t) (e : Elem) : Grouped f (joinHome (f e) e t) := by
  obtain ⟨hnodup, hsent⟩ := ht
  refine ⟨?_, fun g hg => ?_⟩
  · rw [joinHome_homes]
    split
    next => exact hnodup
    next hnew =>
      rw [← List.concat_eq_append]
      exact hnodup.concat hnew
  · obtain hold | rfl | ⟨es, hes, rfl⟩ := mem_joinHome hg
    · exact hsent g hold
    · simp
    · refine ⟨by simp, fun x hx => ?_⟩
      obtain hx | rfl := List.mem_append.mp hx |>.imp_right List.mem_singleton.mp
      · exact (hsent _ hes).2 x hx
      · rfl

theorem Grouped.joinAll (ht : Grouped f t) (es : List Elem) : Grouped f (es.foldl (fun t e => joinHome (f e) e t) t) := by
  induction es generalizing t with
  | nil => exact ht
  | cons e es ih => exact ih (ht.join e)

theorem joinAll_perm (f : Elem → Point) (t : List (Point × List Elem)) (es : List Elem) :
    ((es.foldl (fun t e => joinHome (f e) e t) t).flatMap (·.2)).Perm (t.flatMap (·.2) ++ es) := by
  induction es generalizing t with
  | nil => simp
  | cons e es ih =>
    have hjoin := (joinHome_perm (f e) e t).append_right es
    rw [List.append_assoc] at hjoin
    exact (ih _).trans hjoin

end

theorem State.byHome_grouped (s : State) (n : Nat) (es : List Elem) :
    Grouped (fun e => s.homeAt n e.addr.toNat e.phys) (s.byHome n es) :=
  Grouped.joinAll (t := []) ⟨List.nodup_nil, fun _ hg => absurd hg List.not_mem_nil⟩ (es.flatMap s.cut)

theorem State.byHome_perm (s : State) (n : Nat) (es : List Elem) : ((s.byHome n es).flatMap (·.2)).Perm (es.flatMap s.cut) :=
  joinAll_perm _ [] _

/-! ## The cut of an element (R226, R339) -/

/-- Every cell of a range begins in the range. -/
theorem piecesOf_offset_lt {a len : Nat} {p : Nat × Nat} (hlen : len ≠ 0) (hp : p ∈ piecesOf 16 a len) : p.1 < len := by
  obtain ⟨i, hi, rfl⟩ := List.mem_map.mp hp
  have := List.mem_range.mp hi
  dsimp only
  omega

/-- A range of no bytes is one empty cell, or none. -/
theorem piecesOf_empty (a : Nat) : piecesOf 16 a 0 = [] ∨ piecesOf 16 a 0 = [(0, 0)] := by
  by_cases hm : a % 16 = 0
  · exact .inl (by simp [piecesOf, hm])
  · have hone : (a % 16 + 0 + 16 - 1) / 16 = 1 := by omega
    have hstart : max a (16 * (a / 16 + 0)) = a := by omega
    refine .inr ?_
    simp only [piecesOf, hone, List.range_one, List.map_singleton, hstart]
    simp

theorem State.cut_of_noArm {s : State} {e : Elem} (h : ∀ j < e.len, s.isArm (e.addr.toNat + j) = false) : s.cut e = [e] := by
  unfold State.cut
  by_cases hlen : e.len = 0
  · obtain hp | hp := piecesOf_empty e.addr.toNat
    · simp [hlen, hp]
    · obtain ⟨addr, len, off, phys⟩ := e
      cases hlen
      simp [hp]
  · have hany : ((piecesOf 16 e.addr.toNat e.len).any fun p => s.isArm (e.addr.toNat + p.1)) = false :=
      List.any_eq_false.mpr fun p hp => by simp [h p.1 (piecesOf_offset_lt hlen hp)]
    simp [hany]

end Sys2Proof.Machine

namespace Sys2Proof.Spec

open Sys2Proof Sys2Proof.Machine

theorem homesOfElements : HomesOfElements := by
  intro s n es gs
  obtain ⟨hnodup, hsent⟩ := s.byHome_grouped n es
  refine ⟨hnodup, hsent, s.byHome_perm n es, fun h => ?_⟩
  calc
    es.flatMap s.cut = es.flatMap (fun e => [e]) := List.flatMap_congr fun e he => State.cut_of_noArm (h e he)
    _ = es := List.flatMap_singleton' es

theorem entriesHop : EntriesHop := by
  intro s i e p ps hi hroute hfirst
  show Host.Outcome.next (s.hop i) = _
  have hhead : ((s.transit.take i).any fun u => u.passed == e.passed && u.route.head? == some p) = false := by
    simpa [← not_and_or] using hfirst
  simp only [State.hop, hi, hroute, hhead, Bool.false_eq_true, if_false]

end Sys2Proof.Spec

namespace Sys2Proof.Machine

open Sys2Proof.Spec

/-! ## Scopes (R230, R239) -/

theorem homeWithin_iff (n sc : Nat) (h : Point) : homeWithin n sc h = true ↔ inScope n sc h := by
  cases h <;> simp [homeWithin, inScope] <;> omega

theorem scopePoint_eq (n sc : Nat) : scopePoint n sc = pointOf n sc := by
  match sc with
  | 0 | 1 | 2 | 3 | _ + 4 => rfl

theorem Transit.clears_iff (u : Transit) (sc : Nat) : u.clears sc = true ↔ lets u sc := by
  simp [Transit.clears, lets, Transit.hasPassed, ← homeWithin_iff, scopePoint_eq]

/-- The first marker is gone, and nothing else. -/
theorem dropMarker_first {pre post : List Held} {m : Held} (hm : m.isMarker = true) (hpre : ∀ z ∈ pre, z.isMarker = false) :
    dropMarker (pre ++ m :: post) = pre ++ post := by
  induction pre with
  | nil => simp [dropMarker, hm]
  | cons z pre ih =>
    obtain ⟨hz, hpre⟩ := List.forall_mem_cons.mp hpre
    simp [dropMarker, hz, ih hpre]

/-! ## What has departed and not performed -/

section
variable {s : State} {n : Nat}

theorem State.mem_travelling {reads : Bool} {u : Transit} : u ∈ s.travelling n reads ↔
    u ∈ s.transit ∧ u.agent = n ∧ (if reads then u.load.isRead else u.load.isStored) = true := by
  simp [State.travelling]

/-- The model's test for a TSO access ahead of the head of a queue (R234). -/
theorem State.noTsoAhead_iff {reads : Bool} : ((s.travelling n reads).any fun u => s.isTso n u.load) = false ↔
    tsoFree s n (fun l => if reads then l.isRead else l.isStored) := by
  simp only [List.any_eq_false, State.mem_travelling, tsoFree, Bool.not_eq_true]
  exact ⟨fun h u hu ha hk => h u ⟨hu, ha, hk⟩, fun h u ⟨hu, ha, hk⟩ => h u hu ha hk⟩

theorem State.tsoAhead_iff {reads : Bool} : ((s.travelling n reads).any fun u => s.isTso n u.load) = true ↔
    ¬ tsoFree s n (fun l => if reads then l.isRead else l.isStored) := by
  rw [← Bool.not_eq_false, not_iff_not, State.noTsoAhead_iff]

/-- The model's test of a marker (R239). -/
theorem State.allClear_iff {sc : Nat} : (s.travelling n false).all (fun u => u.clears sc) = true ↔
    ∀ u ∈ s.transit, u.agent = n → u.load.isStored = true → lets u sc := by
  simp only [List.all_eq_true, State.mem_travelling, Transit.clears_iff]
  exact ⟨fun h u hu ha hk => h u ⟨hu, ha, hk⟩, fun h u ⟨hu, ha, hk⟩ => h u hu ha hk⟩

/-! ## Entries that enter their routes (R227, R228 M4, R233) -/

/-- The entries as which loads and commands travel. -/
def State.departures (s : State) (n : Nat) (w : Who) (seq : Nat) (ls : List Load) : List Transit :=
  ls.flatMap (fun l => (s.split n w.pasid l).map (departed n w seq))

/-- Commands enter one after the other, and only the channels change. How a command is split reads neither the channels nor an agent's
queues, so each enters as it would have alone. -/
theorem State.enterAll {w : Who} {seq : Nat} {ls : List Load} (hls : ∀ l ∈ ls, l.isRead = false) :
    ls.foldl (fun t l => t.enter n w seq l) s = { s with transit := s.transit ++ s.departures n w seq ls } := by
  induction ls generalizing s with
  | nil => simp [State.departures]
  | cons l ls ih =>
    obtain ⟨hl, hls⟩ := List.forall_mem_cons.mp hls
    have hone : s.enter n w seq l = { s with transit := s.transit ++ (s.split n w.pasid l).map (departed n w seq) } := by
      simp only [State.enter, hl, Bool.false_eq_true, if_false]
      rfl
    rw [List.foldl_cons, ih hls, hone]
    simp only [State.departures, List.flatMap_cons, List.append_assoc]
    rfl

/-! ## The head of a queue departs -/

/-- The state whose FSQ has lost its head. -/
def State.popFsq (s : State) (n : Nat) (xs : List Held) : State := s.setAgent n { s.agent n with fsq := xs }

theorem State.popFsq_fsq (s : State) (n : Nat) (xs : List Held) (ts : List Transit) :
    (({ s.popFsq n xs with transit := ts } : State).agent n).fsq = xs := congrArg Agent.fsq (State.agent_setAgent s n _)

/-- Whether a command leaves the FSQ as entries without regard to what is ahead but R234. -/
def Cmd.travels : Cmd → Bool
  | .marker _ => false
  | .event _ => false
  | _ => true

/-- The entries of a command: the adds of a WCADDV, else itself (R216). -/
def Cmd.entries : Cmd → List Load
  | .wcAddV va fmt x => wcAdds va fmt x
  | c => [.cmd c]

theorem Cmd.entries_isRead (c : Cmd) : ∀ l ∈ c.entries, l.isRead = false := by
  intro l hl
  cases c with
  | wcAddV va fmt x =>
    obtain ⟨i, -, rfl⟩ := List.mem_map.mp hl
    rfl
  | _ =>
    cases List.mem_singleton.mp hl
    rfl

section
variable {h : Held} {xs : List Held} (hq : (s.agent n).fsq = h :: xs)
include hq

theorem State.departStore_travels (hc : h.cmd.travels = true) : s.departStore n =
    if h.cmd.ordered && s.isTso n (.cmd h.cmd) && (s.travelling n false).any (fun u => s.isTso n u.load) then s
    else h.cmd.entries.foldl (fun t l => t.enter n h.owner h.seq l) (s.popFsq n xs) := by
  obtain ⟨owner, cmd, seq⟩ := h
  simp only [State.departStore, hq]
  cases cmd with
  | marker _ | event _ => cases hc
  | _ => rfl

/-- A command that R234 does not hold departs. -/
theorem State.departStore_goes (hc : h.cmd.travels = true)
    (hgo : h.cmd.ordered = false ∨ s.isTso n (.cmd h.cmd) = false ∨ tsoFree s n Load.isStored) :
    s.departStore n = { s.popFsq n xs with transit := s.transit ++ s.departures n h.owner h.seq h.cmd.entries } := by
  have hfree : (h.cmd.ordered && s.isTso n (.cmd h.cmd) && (s.travelling n false).any (fun u => s.isTso n u.load)) = false := by
    obtain hgo | hgo | hgo := hgo
    · rw [hgo]; rfl
    · rw [hgo, Bool.and_false]; rfl
    · rw [State.noTsoAhead_iff.mpr hgo, Bool.and_false]
  rw [State.departStore_travels hq hc, hfree, if_neg Bool.false_ne_true, State.enterAll (Cmd.entries_isRead _)]
  rfl

/-- A TSO access waits behind another of its queue. -/
theorem State.departStore_held (hc : h.cmd.travels = true) (ho : h.cmd.ordered = true) (ht : s.isTso n (.cmd h.cmd) = true)
    (hf : ¬ tsoFree s n Load.isStored) : s.departStore n = s := by
  rw [State.departStore_travels hq hc, ho, ht, State.tsoAhead_iff.mpr hf]
  rfl

theorem State.departStore_marker {sc : BitVec 3} (hc : h.cmd = .marker sc) : s.departStore n =
    if (s.travelling n false).all (fun u => u.clears sc.toNat) then
      s.setAgent n { s.agent n with fsq := xs, ecb := dropMarker (s.agent n).ecb } else s := by
  simp only [State.departStore, hq, hc]

theorem State.departStore_event {b : W64} (hc : h.cmd = .event b) (hb : b.toNat < 312)
    (he : (s.travelling n false).all Transit.letsEvent = true) :
    s.departStore n =
      { s.popFsq n xs with transit := s.transit ++ s.departures n h.owner h.seq [.cmd h.cmd] } := by
  simp only [State.departStore, hq, hc, he, hb, if_true]
  exact State.enterAll (s := s.popFsq n xs) (ls := [.cmd (.event b)]) (by simp [Load.isRead])

end

section
variable {x : FarLoad} {xs : List FarLoad} (hq : (s.agent n).flq = x :: xs)
include hq

theorem State.departLoad_goes (hgo : s.isTso n (.read x) = false ∨ tsoFree s n Load.isRead) : s.departLoad n =
    { s.setAgent n { s.agent n with flq := xs } with
      transit := s.transit ++ s.departures n (s.agent n).who 0 [.read x], loadSeq := s.loadSeq + 1 } := by
  have hfree : (s.isTso n (.read x) && (s.travelling n true).any (fun u => s.isTso n u.load)) = false := by
    obtain hgo | hgo := hgo
    · rw [hgo]; rfl
    · rw [State.noTsoAhead_iff.mpr hgo, Bool.and_false]
  simp only [State.departLoad, hq, hfree, Bool.false_eq_true, if_false, State.departures, List.flatMap_singleton]
  rfl

theorem State.departLoad_held (ht : s.isTso n (.read x) = true) (hf : ¬ tsoFree s n Load.isRead) : s.departLoad n = s := by
  have hahead : ((s.travelling n true).any fun u => s.isTso n u.load) = true := State.tsoAhead_iff.mpr hf
  simp only [State.departLoad, hq, ht, hahead, Bool.and_self, if_true]

end
end

/-! ## The entries of a load or a command -/

section
variable (s : State) (n : Nat) (w : Who) (seq : Nat)

theorem State.departures_read (x : FarLoad) : s.departures n w seq [.read x] = (s.byHome n x.es).map (fun g =>
    departed n w seq (g.1, .read { x with es := g.2, id := s.loadSeq, parts := (s.byHome n x.es).length })) := by
  simp only [State.departures, List.flatMap_singleton, State.split, List.map_map]
  rfl

theorem State.departures_store (es : List Elem) (v : Vec) : s.departures n w seq [.cmd (.store es v)] =
    (s.byHome n (s.placed n w.pasid es)).map (fun g => departed n w seq (g.1, .cmd (.store g.2 v))) := by
  simp only [State.departures, List.flatMap_singleton, State.split, List.map_map]
  rfl

theorem State.departures_wcAddV (va : W64) (fmt : Byte) (x : Vec) : s.departures n w seq (Cmd.entries (.wcAddV va fmt x)) =
    (List.range 128).map (fun l =>
      let c : Load := .cmd (.wcAdd (va + BitVec.ofNat 64 (64 * l)) fmt (BitVec.ofNat 32 (x.toNat / 2 ^ (fmtBits fmt * l) % 2 ^ fmtBits fmt)))
      departed n w seq (s.loadHome n w.pasid c, c)) := by
  simp only [State.departures, Cmd.entries, wcAdds, List.flatMap_map, element, BitVec.extractLsb'_toNat, Nat.shiftRight_eq_div_pow]
  rw [List.map_eq_flatMap]
  rfl

end

end Sys2Proof.Machine

namespace Sys2Proof.Spec

open Sys2Proof Sys2Proof.Machine

theorem exec_depart_load (s : State) (k : BitVec 9) : exec (.depart k .load) s = .next (s.departLoad k.toNat) := rfl

theorem exec_depart_store (s : State) (k : BitVec 9) : exec (.depart k .store) s = .next (s.departStore k.toNat) := rfl

theorem entriesDepart : EntriesDepart := by
  intro s k n a
  have goes {h : Held} {xs : List Held} (hq : a.fsq = h :: xs) (hc : h.cmd.travels = true) hgo :=
    (exec_depart_store s k).trans (congrArg _ (State.departStore_goes hq hc hgo))
  refine ⟨fun x xs hq => ⟨fun hgo => ?_, fun ht hf => ?_⟩, fun ⟨owner, _, seq⟩ xs es v hq hc => ?_,
    fun ⟨owner, cmd, seq⟩ xs hq hc => ?_, fun ⟨owner, _, seq⟩ xs va fmt x hq hc hgo => ?_,
    fun ⟨owner, _, seq⟩ xs b hq hc hb hnone => ?_, fun h xs sc hq hc => ⟨fun hlets => ?_, fun hholds => ?_⟩⟩
  · exact ⟨_, (exec_depart_load s k).trans (congrArg _ (State.departLoad_goes hq hgo)),
      congrArg Agent.flq (State.agent_setAgent s n _), congrArg _ (s.departures_read n a.who 0 x), rfl, rfl,
      fun m hm => State.agent_setAgent_ne s n m _ hm⟩
  · rw [exec_depart_load, State.departLoad_held hq ht hf]
  · cases hc
    refine ⟨fun hgo => ⟨_, goes hq rfl (.inr hgo), s.popFsq_fsq n xs _, congrArg _ (s.departures_store n owner seq es v), rfl,
      fun m hm => State.agent_setAgent_ne s n m _ hm⟩, fun ht hf => ?_⟩
    rw [exec_depart_store, State.departStore_held hq rfl rfl ht hf]
  · have hone : cmd.travels = true ∧
        s.departures n owner seq cmd.entries = [departed n owner seq (s.loadHome n owner.pasid (.cmd cmd), .cmd cmd)] ∧
        (cmd.ordered = false ∨ s.isTso n (.cmd cmd) = false ∨ tsoFree s n Load.isStored) := by
      obtain ⟨⟨_, _, _, _, _, _, rfl⟩ | ⟨_, _, _, rfl⟩, hgo⟩ | ⟨_, _, _, _, rfl⟩ | ⟨_, _, rfl⟩ := hc
      · exact ⟨rfl, rfl, .inr hgo⟩
      · exact ⟨rfl, rfl, .inr hgo⟩
      · exact ⟨rfl, rfl, .inl rfl⟩
      · exact ⟨rfl, rfl, .inl rfl⟩
    obtain ⟨htravels, hentry, hgo⟩ := hone
    exact ⟨_, goes hq htravels hgo, s.popFsq_fsq n xs _, rfl, congrArg _ hentry⟩
  · cases hc
    exact ⟨_, goes hq rfl (.inr hgo), s.popFsq_fsq n xs _, rfl, congrArg _ (s.departures_wcAddV n owner seq va fmt x)⟩
  · cases hc
    have hall : (s.travelling n false).all Transit.letsEvent = true := by
      refine List.all_eq_true.mpr fun u hu => ?_
      obtain ⟨hu, ha, hstored⟩ := State.mem_travelling.mp hu
      exact absurd hstored (by simp [hnone u hu ha])
    exact ⟨_, (exec_depart_store s k).trans (congrArg _ (State.departStore_event hq rfl hb hall)), s.popFsq_fsq n xs _, rfl, rfl⟩
  · refine ⟨_, (exec_depart_store s k).trans (congrArg _ ((State.departStore_marker hq hc).trans (if_pos (State.allClear_iff.mpr hlets)))),
      congrArg Agent.fsq (State.agent_setAgent s n _), rfl, rfl, fun pre m post hecb hm hpre => ?_⟩
    rw [State.agent_setAgent]
    exact (congrArg dropMarker hecb).trans (dropMarker_first hm hpre)
  · obtain ⟨u, hu, ha, hstored, hheld⟩ := hholds
    rw [exec_depart_store, State.departStore_marker hq hc, if_neg fun h => hheld (State.allClear_iff.mp h u hu ha hstored)]

/-- Settles O29, part by part: the head of a queue departs as the entries into which `State.split` cuts it (`State.departLoad_goes`,
`State.departStore_goes`), a marker leaves once `Transit.clears` holds of all that is ahead, a home's elements are a group of
`joinHome`, and HOP moves one entry. -/
theorem entriesTravel : Obligations.EntriesTravel := ⟨entriesDepart, homesOfElements, entriesHop⟩

end Sys2Proof.Spec
end

section
/-!
PROOFS. TRAP and BRK (12 R274): words without an effect or a check of their own, whose trap comes after every check of their bundle.
-/

namespace Sys2Proof.Spec

open Sys2Proof Sys2Proof.Machine

/-- A word of slot 0 that traps with cause `c` and `imm`, and does nothing else. -/
def lateWord (iq : BitVec 2) (c : Byte) (imm : BitVec 16) : Word := { Word.base 0 iq with late := some (c, imm) }

theorem trapping_word {i : Instr} {iq : BitVec 2} {c : Byte} {imm : BitVec 16} (h : trapping i = some (iq, c, imm)) :
    wordOf i = some (lateWord iq c imm) := by
  unfold trapping at h
  split at h <;> cases h <;> rfl

/-- No check of step 4 of 01 R38 comes before the trap of the word itself. -/
theorem checkTrap_late (s : State) (n : Nat) (iq : BitVec 2) (c : Byte) (imm : BitVec 16) :
    checkTrap s n [lateWord iq c imm] = some { cause := c, slot := 0, imm := imm, faddr := (s.agent n).r.pc } := rfl

/-- Settles O17: an unselected word leaves its bundle without effect (`issueAlone_skips`), and a selected one passes every check but its
own (`checkTrap_late`). -/
theorem trapWords : Obligations.TrapWords := by
  unfold Obligations.TrapWords
  intro i s iq c imm hi n hready
  rw [exec_word i (lateWord iq c imm) s (trapping_word hi)]
  cases hq : (s.agent n).selects iq
  · exact issueAlone_skips rfl hready (lateWord iq c imm) hq (prof0 _)
  · exact issueAlone_checked rfl hready (lateWord iq c imm) _ (prof0 _) hq ⟨rfl, rfl⟩ rfl (checkTrap_late s n iq c imm)

end Sys2Proof.Spec
end

section
/-!
PROOFS. PAGE and ATS_INVALIDATION (14 R302, R303, R307, 15 R321): a request waits while a released store to its bytes is pending, then the
frames of its page, or the pages of its range, change and no other.
-/

namespace Sys2Proof.Spec

open Sys2Proof Sys2Proof.Machine

/-! ## Rows of PAGE -/

theorem modPages_repaged (s : State) (lo n : Nat) (g : Nat → Page → Page) : repaged s (s.modPages lo n g) lo n g :=
  ⟨rfl, fun f => foldl_modify_get Page.plain g lo n s.pages f⟩

section
variable {s : State} {q : BitVec 6} {r : Req} {run : Req → State → Served}

/-- A request with the selector of a row is one that the row serves. -/
theorem posed_page (h : posed s q r 0x16) : (r.opcode == 0x16 && r.a2 == r.a2) = true := by
  obtain ⟨-, -, hop, -⟩ := h
  rw [hop, beq_self_eq_true, beq_self_eq_true, Bool.and_self]

theorem pageRow_done (h : posed s q r 0x16) {t : State} {st : Byte} (hr : run r s = .done t st 0) (ht : t.requests = s.requests) :
    s.pageRow q r.a2 run = answer t r st 0 :=
  serve_done h _ (posed_page h) run t st 0 hr ht

theorem pageRow_wait (h : posed s q r 0x16) (hr : run r s = .wait s) : s.pageRow q r.a2 run = s :=
  serve_wait h _ (posed_page h) run s hr

end

/-! ## The change of one page -/

/-- Where the page at an address begins. -/
def pageStart (k va : Nat) : Nat := va / 2 ^ k * 2 ^ k

section
variable {s : State} {r : Req} {p : Pitch} {f : Req → Nat → Page → Page} {fits : Req → Nat → Bool} {k : Nat}

theorem servePage_lost (hc : s.ctxPitch r.a0 r.a1.toNat = none) : State.servePage f fits r s = .done s 0x0C 0 := by
  unfold State.servePage
  simp only [hc]

variable (hc : s.ctxPitch r.a0 r.a1.toNat = some p) (hk : s.pageLogAt p r.a1.toNat = k)
include hc hk

theorem servePage_large (hf : fits r k = false) : State.servePage f fits r s = .done s 0x08 0 := by
  unfold State.servePage
  simp [hc, hk, hf]

theorem servePage_pending (hf : fits r k = true)
    (hp : s.pendingOn (pageStart k r.a1.toNat) (pageStart k r.a1.toNat + 2 ^ k) (fun _ => true) = true) :
    State.servePage f fits r s = .wait s := by
  unfold pageStart at hp
  unfold State.servePage
  simp [hc, hk, hf, hp]

theorem servePage_changes (hf : fits r k = true)
    (hp : s.pendingOn (pageStart k r.a1.toNat) (pageStart k r.a1.toNat + 2 ^ k) (fun _ => true) = false) :
    State.servePage f fits r s = .done (s.modPages (pageStart k r.a1.toNat / 4096) (2 ^ k / 4096) (fun _ => f r k)) 0 0 := by
  unfold pageStart at hp ⊢
  unfold State.servePage
  simp [hc, hk, hf, hp]

end

/-- A row that changes the page at A1 as it stands. -/
def changesPage (q : BitVec 6) (r : Req) (i : Instr) : Prop :=
  (r.a2 = 1 ∧ i = .pageUnmap q) ∨ (r.a2 = 2 ∧ i = .pageReadonly q) ∨ (r.a2 = 3 ∧ i = .pageWritable q) ∨ (r.a2 = 4 ∧ i = .pageDemote q)

section
variable {r : Req} (q : BitVec 6) (s : State)

theorem exec_pageUnmap (h : r.a2 = 1) : exec (.pageUnmap q) s =
    .next (s.pageRow q r.a2 (State.servePage (fun _ _ g => { g with unmapped := true }) (fun _ _ => true))) := by
  rw [h]
  rfl

theorem exec_pageReadonly (h : r.a2 = 2) : exec (.pageReadonly q) s =
    .next (s.pageRow q r.a2 (State.servePage (fun _ _ g => { g with readOnly := true }) (fun _ _ => true))) := by
  rw [h]
  rfl

theorem exec_pageWritable (h : r.a2 = 3) : exec (.pageWritable q) s =
    .next (s.pageRow q r.a2 (State.servePage (fun _ _ g => { g with readOnly := false }) (fun _ _ => true))) := by
  rw [h]
  rfl

theorem exec_pageDemote (h : r.a2 = 4) : exec (.pageDemote q) s =
    .next (s.pageRow q r.a2 (State.servePage (fun r _ g => { g with size := some r.a3.toNat }) (fun r k => decide (r.a3.toNat ≤ k)))) := by
  rw [h]
  rfl

theorem exec_pageShare (h : r.a2 = 5) : exec (.pageShare q) s = .next (s.pageRow q r.a2 State.serveShare) := by
  rw [h]
  rfl

/-- Of the four, DEMOTE alone asks for a size. -/
theorem exec_changesPage {i : Instr} (h : changesPage q r i) :
    ∃ f fits, exec i s = .next (s.pageRow q r.a2 (State.servePage f fits)) ∧
      ∀ k, r.a2 ≠ 4 ∨ r.a3.toNat ≤ k → fits r k = true := by
  rcases h with ⟨h, rfl⟩ | ⟨h, rfl⟩ | ⟨h, rfl⟩ | ⟨h, rfl⟩
  · exact ⟨_, _, exec_pageUnmap q s h, fun _ _ => rfl⟩
  · exact ⟨_, _, exec_pageReadonly q s h, fun _ _ => rfl⟩
  · exact ⟨_, _, exec_pageWritable q s h, fun _ _ => rfl⟩
  · exact ⟨_, _, exec_pageDemote q s h, fun _ hk => decide_eq_true (hk.resolve_left fun hne => hne h)⟩

end

/-! ## Sharing -/

/-- The range that is shared lies in its pitch, and its source in one of tier 4. -/
def sharesWhole (s : State) (r : Req) (p : Pitch) : Prop :=
  r.a1.toNat + r.a4.toNat ≤ p.base + p.length ∧
    ∃ j y, s.findPitch 4 0 r.a5.toNat = some (j, y) ∧ r.a5.toNat + r.a4.toNat ≤ y.base + y.length

/-- A frame that shares the storage behind A5. -/
def sharedFrame (s : State) (r : Req) (i : Nat) (g : Page) : Page :=
  { g with share := some (s.frameOf (r.a5.toNat + 4096 * i)), unmapped := false, size := some 12 }

section
variable {s : State} {r : Req} {p : Pitch}

theorem serveShare_lost (hc : s.ctxPitch r.a0 r.a1.toNat = none) : State.serveShare r s = .done s 0x0C 0 := by
  unfold State.serveShare
  simp only [hc]

theorem serveShare_short (hc : s.ctxPitch r.a0 r.a1.toNat = some p) (hw : ¬ sharesWhole s r p) :
    State.serveShare r s = .done s 0x0C 0 := by
  unfold State.serveShare
  simp only [hc]
  refine if_pos ((Nat.lt_or_ge (p.base + p.length) (r.a1.toNat + r.a4.toNat)).imp id fun hl => ?_)
  cases hs : s.findPitch 4 0 r.a5.toNat with
  | none => rfl
  | some y =>
    have hy : ¬ r.a5.toNat + r.a4.toNat ≤ y.2.base + y.2.length := fun hy => hw ⟨hl, y.1, y.2, hs, hy⟩
    simp [hy]

theorem serveShare_whole (hc : s.ctxPitch r.a0 r.a1.toNat = some p) (hw : sharesWhole s r p) : State.serveShare r s =
    if s.pendingOn r.a1.toNat (r.a1.toNat + r.a4.toNat) (fun _ => true) then .wait s
    else .done (s.modPages (r.a1.toNat / 4096) (r.a4.toNat / 4096) (sharedFrame s r)) 0 0 := by
  obtain ⟨hl, j, y, hs, hy⟩ := hw
  unfold State.serveShare
  simp only [hc, hs, decide_eq_true hy]
  exact if_neg fun h => h.elim (Nat.not_lt.mpr hl) Bool.false_ne_true

end

/-! ## The statements -/

theorem pageCommands_parts : PageCommands := by
  intro s q r p i hr va len k lo fine row whole
  have hrow (h : row) : changesPage q r i ∧ (r.a2 ≠ 4 ∨ r.a3.toNat ≤ k) := by
    rcases h with ⟨h2, hi⟩ | ⟨h2, hi⟩ | ⟨h2, hi⟩ | ⟨h2, hi, hk⟩
    · exact ⟨.inl ⟨h2, hi⟩, .inl (by rw [h2]; decide)⟩
    · exact ⟨.inr (.inl ⟨h2, hi⟩), .inl (by rw [h2]; decide)⟩
    · exact ⟨.inr (.inr (.inl ⟨h2, hi⟩)), .inl (by rw [h2]; decide)⟩
    · exact ⟨.inr (.inr (.inr ⟨h2, hi⟩)), .inr hk⟩
  -- a change of the page at A1, once nothing is pending on it
  have hchange {f fits} (hc : s.ctxPitch r.a0 va = some p) (hp : s.pendingOn lo (lo + 2 ^ k) (fun _ => true) = false)
      (hf : fits r k = true) : fine (.next (s.pageRow q r.a2 (State.servePage f fits))) (f r k) :=
    ⟨_, congrArg _ (pageRow_done hr (servePage_changes hc rfl hf hp) rfl), modPages_repaged s _ _ _⟩
  refine ⟨fun hc h => ?_, fun hc hp h => ?_, fun hc h2 hw => ?_, fun hc h2 hw hp => ?_, fun hc hp => ⟨fun h2 => ?_, fun h2 => ?_,
    fun h2 => ?_, fun h2 hk => ?_, fun h2 hk => ?_⟩, fun hc h2 hw hp => ?_⟩
  · have hlost (h : changesPage q r i) : exec i s = .next (answer s r 0x0C 0) := by
      obtain ⟨f, fits, hexec, -⟩ := exec_changesPage q s h
      rw [hexec, pageRow_done hr (servePage_lost hc) rfl]
    rcases h with h | h | ⟨h2, rfl⟩
    · exact hlost (hrow h).1
    · exact hlost (.inr (.inr (.inr h)))
    · rw [exec_pageShare q s h2, pageRow_done hr (serveShare_lost hc) rfl]
  · obtain ⟨hi, hk⟩ := hrow h
    obtain ⟨f, fits, hexec, hfits⟩ := exec_changesPage q s hi
    rw [hexec, pageRow_wait hr (servePage_pending hc rfl (hfits k hk) hp)]
  · rw [exec_pageShare q s h2, pageRow_done hr (serveShare_short hc hw) rfl]
  · rw [exec_pageShare q s h2, pageRow_wait hr ((serveShare_whole hc hw).trans (if_pos hp))]
  · rw [exec_pageUnmap q s h2]
    exact hchange hc hp rfl
  · rw [exec_pageReadonly q s h2]
    exact hchange hc hp rfl
  · rw [exec_pageWritable q s h2]
    exact hchange hc hp rfl
  · rw [exec_pageDemote q s h2]
    exact hchange hc hp (decide_eq_true hk)
  · rw [exec_pageDemote q s h2, pageRow_done hr (servePage_large hc rfl (decide_eq_false (Nat.not_le.mpr hk))) rfl]
  · rw [exec_pageShare q s h2, pageRow_done hr ((serveShare_whole hc hw).trans (if_neg (ne_true_of_eq_false hp))) rfl]
    exact ⟨_, rfl, modPages_repaged s _ _ _⟩

/-! ## ATS_INVALIDATION -/

/-- The host's answer for page `i` of a range. -/
def hostAnswer (ans : AtsAnswer) (ro : Bool) (i : Nat) : HostPage :=
  match ans with
  | .refused => { refused := true, readOnly := ro, frame := none }
  | .frames phys => { refused := false, readOnly := ro, frame := some (phys.toNat / 4096 + i) }

/-- The translations after an answer for `count` pages from `key` on. -/
def answeredPages (ans : AtsAnswer) (ro : Bool) (key count : Nat) (t : Tab HostPage) : Tab HostPage :=
  (List.range count).foldl (fun t i => Tab.modify HostPage.plain t (key + i) (fun _ => hostAnswer ans ro i)) t

theorem atsInvalidation_eq (s : State) (p : BitVec 20) (a len : W64) (ans : AtsAnswer) (ro : Bool) :
    s.atsInvalidation p a len ans ro =
      if s.pendingOn (0x0100000000000000 + a.toNat) (0x0100000000000000 + a.toNat + len.toNat) (fun w => decide (w.pasid = some p)) then s
      else { s with hostPages :=
        answeredPages ans ro (hostPageKey p a.toNat) ((a.toNat % 4096 + len.toNat + 4095) / 4096) s.hostPages } := by
  cases ans <;> rfl

theorem translationsInvalidated : TranslationsInvalidated := by
  intro s p a len ans ro lo key count
  have hexec : exec (.atsInvalidation p a len ans ro) s = .next (s.atsInvalidation p a len ans ro) := rfl
  rw [hexec, atsInvalidation_eq]
  refine ⟨fun hp => by rw [if_pos hp], fun hp => ⟨answeredPages ans ro key count s.hostPages,
    by rw [if_neg (ne_true_of_eq_false hp)], fun f => ?_⟩⟩
  refine (foldl_modify_get HostPage.plain (fun i _ => hostAnswer ans ro i) key count s.hostPages f).trans ?_
  cases ans <;> rfl

/-- Settles O47: what a row makes of its request (`servePage_changes`, `serveShare_whole`) is its answer or its wait, and the frames and
pages change one by one (`foldl_modify_get`). -/
theorem pageCommands : Obligations.PageCommands := ⟨pageCommands_parts, translationsInvalidated⟩

end Sys2Proof.Spec
end

section
/-!
PROOFS. DEBUG stop and resume (12 R275, R278, 13 R296): the tasks of a set and of its conductors' tiles are held and let go together, and a
stop asks the agents of the running ones.
-/

namespace Sys2Proof.Spec

open Sys2Proof Sys2Proof.Machine

/-! ## Tasks of a set with its tiles -/

/-- Where the same change twice is the change once, a set may be named more than once. -/
theorem fold_modSet_idem {f : TaskSet → TaskSet} (hf : ∀ u, f (f u) = f u) (ks : List Nat) (s : State) (k : Nat) :
    Tab.get none (ks.foldl (fun s k => s.modSet k f) s).tasksets k =
      if k ∈ ks then (Tab.get none s.tasksets k).map f else Tab.get none s.tasksets k := by
  induction ks generalizing s with
  | nil => simp
  | cons a ks ih =>
    rw [List.foldl_cons, ih, modSet_get]
    by_cases h : k = a <;> by_cases hk : k ∈ ks <;> simp [h, hk, hf, Option.map_map, Function.comp_def]

theorem modWith_only (s : State) (ts : Nat) (g : LoomTask → LoomTask) :
    s.modWith ts g = { s with tasksets := (s.modWith ts g).tasksets } :=
  fold_modSet_only _ _ s

@[simp] theorem modWith_mem (s : State) (ts : Nat) (g : LoomTask → LoomTask) : (s.modWith ts g).mem = s.mem := by rw [modWith_only]

@[simp] theorem modWith_requests (s : State) (ts : Nat) (g : LoomTask → LoomTask) : (s.modWith ts g).requests = s.requests := by
  rw [modWith_only]

@[simp] theorem modWith_agents (s : State) (ts : Nat) (g : LoomTask → LoomTask) : (s.modWith ts g).agents = s.agents := by
  rw [modWith_only]

@[simp] theorem modWith_agent (s : State) (ts : Nat) (g : LoomTask → LoomTask) (m : Nat) : (s.modWith ts g).agent m = s.agent m := by
  rw [modWith_only]
  rfl

theorem changed_modWith (s : State) (ts : Nat) {g : LoomTask → LoomTask} (hg : ∀ x, g (g x) = g x) : changed s (s.modWith ts g) ts g :=
  fold_modSet_idem (fun u => by simp [Function.comp_def, hg]) (ts :: s.tileSets ts) s

/-- A task that pre-emption has stopped is held by the debugger. -/
def heldBack (x : LoomTask) : LoomTask := if x.stat = .stopped false then { x with stat := .stopped true } else x

/-- A task that the debugger holds may run again. -/
def letGo (x : LoomTask) : LoomTask := if x.stat = .stopped true then { x with stat := .stopped false } else x

theorem heldBack_idem (x : LoomTask) : heldBack (heldBack x) = heldBack x := by
  by_cases h : x.stat = .stopped false
  · simp [heldBack, h]
  · simp [heldBack, h]

theorem letGo_idem (x : LoomTask) : letGo (letGo x) = letGo x := by
  by_cases h : x.stat = .stopped true
  · simp [letGo, h]
  · simp [letGo, h]

/-! ## DEBUG stop -/

/-- The agents of the running tasks of a set and of its tiles. -/
def runningAgents (s : State) (ts : Nat) : List Nat := (s.tasksWith ts).flatMap (fun x => if x.stat = .running then x.agents else [])

theorem mem_runningAgents {s : State} {ts m : Nat} :
    m ∈ runningAgents s ts ↔ ∃ x ∈ s.tasksWith ts, x.stat = .running ∧ m ∈ x.agents := by
  unfold runningAgents
  rw [List.mem_flatMap]
  refine exists_congr fun x => and_congr_right fun _ => ?_
  split
  next h => simp [h]
  next h => simp [h]

/-- A debugger's request to stop. -/
def debugAsk (z : StopReq) : StopReq := { z with debug := true }

/-- Where no agent waits, a stop request changes agents alone. -/
theorem askStop_keeps (s : State) (ms : List Nat) (f : StopReq → StopReq) (hf : ∀ x, f (f x) = f x)
    (hw : ∀ m, (s.agent m).inWait = false) :
    (s.askStop ms f).mem = s.mem ∧ (s.askStop ms f).requests = s.requests ∧ (s.askStop ms f).tasksets = s.tasksets ∧
      (s.askStop ms f).parts = s.parts := by
  obtain ⟨-, honly⟩ := askStop_spec s ms f hf hw
  exact ⟨by rw [honly], by rw [honly], by rw [honly], by rw [honly]⟩

section
variable {s : State} {r : Req} {ts : Nat} {u : TaskSet}

theorem serveStop_lost (h : s.setOfTag r.a0 = none) : State.serveStop r s = .done s 0x0C 0 := by
  unfold State.serveStop
  simp only [h]

theorem serveStop_asks (h : s.setOfTag r.a0 = some (ts, u)) :
    State.serveStop r s = .done ((s.modWith ts heldBack).askStop (runningAgents s ts) debugAsk) 0 0 := by
  unfold State.serveStop
  simp only [h]
  rfl

/-- A stop request reaches the agents of the running tasks. -/
theorem debugStop_reaches (s : State) (ts : Nat) (hw : ∀ m, (s.agent m).inWait = false) :
    let t := (s.modWith ts heldBack).askStop (runningAgents s ts) debugAsk
    t.mem = s.mem ∧ t.requests = s.requests ∧ changed s t ts heldBack ∧
      ∀ m, t.agent m = if m ∈ runningAgents s ts then asked (s.agent m) debugAsk else s.agent m := by
  intro t
  have hwith : ∀ m, ((s.modWith ts heldBack).agent m).inWait = false := fun m => by rw [modWith_agent, hw]
  obtain ⟨hask, -⟩ := askStop_spec (s.modWith ts heldBack) (runningAgents s ts) debugAsk (fun _ => rfl) hwith
  obtain ⟨hmem, hreq, htasks, -⟩ := askStop_keeps (s.modWith ts heldBack) (runningAgents s ts) debugAsk (fun _ => rfl) hwith
  refine ⟨hmem.trans (modWith_mem ..), hreq.trans (modWith_requests ..), fun k => ?_, fun m => by rw [hask, modWith_agent]⟩
  rw [htasks]
  exact changed_modWith s ts heldBack_idem k

/-! ## DEBUG resume -/

theorem joinPass_only (s : State) (part acct : Nat) : s.joinPass part acct = { s with passes := (s.joinPass part acct).passes } := by
  unfold State.joinPass
  dsimp only
  split
  · rfl
  · split <;> rfl

theorem serveResume_lost (h : s.setOfTag r.a0 = none) : State.serveResume r s = .done s 0x0C 0 := by
  unfold State.serveResume
  simp only [h]

/-- The tasks of a set and of its tiles that the debugger holds. -/
def heldTasks (s : State) (ts : Nat) : List LoomTask := (s.tasksWith ts).filter (fun x => decide (x.stat = .stopped true))

theorem mem_heldTasks {s : State} {ts : Nat} {x : LoomTask} : x ∈ heldTasks s ts ↔ x ∈ s.tasksWith ts ∧ x.stat = .stopped true := by
  unfold heldTasks
  rw [List.mem_filter, decide_eq_true_eq]

/-- Whether every region of the held tasks can be read back. -/
def heldReadable (s : State) (ts : Nat) : Bool :=
  (heldTasks s ts).all (fun x => x.agents.all (fun m => s.areaOk m (x.region m) x.lightLevels))

theorem serveResume_found (h : s.setOfTag r.a0 = some (ts, u)) : State.serveResume r s =
    if heldTasks s ts = [] then .done s 0x0C 0
    else if !heldReadable s ts then .done s 0x01 0
    else .done ((s.joinPass u.part.toNat (hdrAccount u.hdr).toNat).modWith ts letGo) 0 0 := by
  unfold State.serveResume
  simp only [h]
  rfl

/-- Held tasks go on from where they stand; their account joins the others again. -/
theorem debugResume_goes (s : State) (ts part acct : Nat) : let t := (s.joinPass part acct).modWith ts letGo
    t.mem = s.mem ∧ t.requests = s.requests ∧ t.agents = s.agents ∧ changed s t ts letGo := by
  intro t
  have htasks : (s.joinPass part acct).tasksets = s.tasksets := by rw [joinPass_only]
  refine ⟨(modWith_mem ..).trans (State.joinPass_mem s part acct), (modWith_requests ..).trans (by rw [joinPass_only]),
    (modWith_agents ..).trans (by rw [joinPass_only]), fun k => ?_⟩
  have hchanged := changed_modWith (s.joinPass part acct) ts letGo_idem k
  unfold State.tileSets at hchanged
  rwa [htasks] at hchanged

end

/-! ## The statement -/

section
variable {s : State} {q : BitVec 6} {r : Req}

/-- A request of DEBUG with the selector of a row is one that the row serves. -/
theorem posed_debug (h : posed s q r 0x19) {x : W64} (hx : r.a1 = x) : (r.opcode == 0x19 && r.a1 == x) = true := by
  obtain ⟨-, -, hop, -⟩ := h
  rw [hop, hx, beq_self_eq_true, beq_self_eq_true, Bool.and_self]

theorem debugStop_done (h : posed s q r 0x19) (h1 : r.a1 = 1) {t : State} {st : Byte} (hr : State.serveStop r s = .done t st 0)
    (ht : t.requests = s.requests) : exec (.debugStop q) s = .next (answer t r st 0) :=
  congrArg Host.Outcome.next (serve_done h _ (posed_debug h h1) State.serveStop t st 0 hr ht)

theorem debugResume_done (h : posed s q r 0x19) (h1 : r.a1 = 2) {t : State} {st : Byte} (hr : State.serveResume r s = .done t st 0)
    (ht : t.requests = s.requests) : exec (.debugResume q) s = .next (answer t r st 0) :=
  congrArg Host.Outcome.next (serve_done h _ (posed_debug h h1) State.serveResume t st 0 hr ht)

end

theorem debugCommands : DebugCommands := by
  intro s q r hr
  refine ⟨fun hnone => ⟨fun h1 => debugStop_done hr h1 (serveStop_lost hnone) rfl,
    fun h2 => debugResume_done hr h2 (serveResume_lost hnone) rfl⟩,
    fun ts u hfound => ?_⟩
  have hresume := serveResume_found hfound
  have hsome (h : ∃ x ∈ s.tasksWith ts, x.stat = .stopped true) : heldTasks s ts ≠ [] := by
    obtain ⟨x, hx, hheld⟩ := h
    exact List.ne_nil_of_mem (mem_heldTasks.mpr ⟨hx, hheld⟩)
  refine ⟨fun h1 hw => ?_, fun h2 hnone => ?_, fun h2 hheld => ⟨fun hbad => ?_, fun hgood => ?_⟩⟩
  · obtain ⟨hmem, hreq, hchanged, hagent⟩ := debugStop_reaches s ts hw
    refine ⟨_, debugStop_done hr h1 (serveStop_asks hfound) hreq, hmem, fun m => ⟨fun h => ?_, fun h => ?_⟩, hchanged⟩
    · rw [hagent, if_pos (mem_runningAgents.mpr h)]
      rfl
    · rw [hagent, if_neg fun hm => ?_]
      obtain ⟨x, hx, hrun, hmx⟩ := mem_runningAgents.mp hm
      exact h x hx hrun hmx
  · have hnil : heldTasks s ts = [] := List.eq_nil_iff_forall_not_mem.mpr fun x hx =>
      hnone x (mem_heldTasks.mp hx).1 (mem_heldTasks.mp hx).2
    exact debugResume_done hr h2 (hresume.trans (if_pos hnil)) rfl
  · have hfalse : heldReadable s ts = false := by
      obtain ⟨x, hx, hstat, m, hm, hbad⟩ := hbad
      exact List.all_eq_false.mpr ⟨x, mem_heldTasks.mpr ⟨hx, hstat⟩, by simpa using ⟨m, hm, hbad⟩⟩
    rw [if_neg (hsome hheld), hfalse] at hresume
    exact debugResume_done hr h2 hresume rfl
  · have htrue : heldReadable s ts = true := List.all_eq_true.mpr fun x hx => List.all_eq_true.mpr fun m hm =>
      hgood x (mem_heldTasks.mp hx).1 (mem_heldTasks.mp hx).2 m hm
    rw [if_neg (hsome hheld), htrue] at hresume
    obtain ⟨hmem, hreq, hagents, hchanged⟩ := debugResume_goes s ts u.part.toNat (hdrAccount u.hdr).toNat
    exact ⟨_, debugResume_done hr h2 hresume hreq, hmem, hagents, hchanged⟩

end Sys2Proof.Spec
end

section
/-!
PROOFS. Where the tasks of a set stand while an agent is restored and its task ends: the pitches that go leave notes of dependences in the
sets, but no task of a set and no code changes, but for the task that ends (02 R74, 13 R287, R288).
-/

namespace Sys2Proof.Spec

open Sys2Proof Sys2Proof.Machine

/-- The code of a set and where each of its tasks stands. -/
def standing (s : State) (k : Nat) : Option (Byte × List TStat) :=
  (Tab.get none s.tasksets k).map (fun u => (u.code, u.tasks.map LoomTask.stat))

/-- The codes of all sets and where their tasks stand are the same. -/
def SameStanding (s t : State) : Prop := ∀ k, standing t k = standing s k

theorem standing_some {s : State} {k : Nat} {u : TaskSet} (hu : Tab.get none s.tasksets k = some u) :
    standing s k = some (u.code, u.tasks.map LoomTask.stat) := by
  rw [standing, hu]
  rfl

theorem stat_some {l : List LoomTask} {j : Nat} {x : LoomTask} (hx : l[j]? = some x) : (l.map LoomTask.stat)[j]? = some x.stat := by
  rw [List.getElem?_map, hx]
  rfl

theorem standing_task {s : State} {k j : Nat} {c : Byte} {l : List TStat} {st : TStat} (h : standing s k = some (c, l))
    (hj : l[j]? = some st) :
    ∃ v y, Tab.get none s.tasksets k = some v ∧ v.code = c ∧ v.tasks[j]? = some y ∧ y.stat = st := by
  obtain ⟨v, hv, he⟩ := Option.map_eq_some_iff.mp h
  cases he
  rw [List.getElem?_map] at hj
  obtain ⟨y, hy, hst⟩ := Option.map_eq_some_iff.mp hj
  exact ⟨v, y, hv, rfl, hy, hst⟩

theorem SameStanding.refl (s : State) : SameStanding s s := fun _ => rfl

theorem SameStanding.trans {s t u : State} (h : SameStanding s t) (g : SameStanding t u) : SameStanding s u :=
  fun k => (g k).trans (h k)

theorem SameStanding.of_tasksets {s t : State} (h : t.tasksets = s.tasksets) : SameStanding s t := fun k => by
  rw [standing, h]
  rfl

theorem sameStanding_fold {α : Type} (f : State → α → State) (h : ∀ s x, SameStanding s (f s x)) (l : List α) (s : State) :
    SameStanding s (l.foldl f s) := by
  induction l generalizing s with
  | nil => exact .refl s
  | cons x l ih => exact (h s x).trans (ih (f s x))

/-! ## Pitches that go -/

theorem noteDep_standing (s : State) (p : Pitch) (u : TaskSet) :
    (u.noteDep s p).code = u.code ∧ (u.noteDep s p).tasks = u.tasks := by
  unfold TaskSet.noteDep
  split <;> exact ⟨rfl, rfl⟩

section
variable (s : State)

theorem sameStanding_withdraw (p : Pitch) : SameStanding s (s.withdraw p) := fun k => by
  have hget : Tab.get none (s.withdraw p).tasksets k = (Tab.get none s.tasksets k).map (TaskSet.noteDep s p) :=
    get_mapped none (Option.map (TaskSet.noteDep s p)) rfl s.tasksets k
  unfold standing
  rw [hget, Option.map_map]
  refine congrArg (Option.map · _) (funext fun u => ?_)
  obtain ⟨hcode, htasks⟩ := noteDep_standing s p u
  rw [Function.comp_apply, hcode, htasks]

theorem sameStanding_forgetPages (p : Pitch) : SameStanding s (s.forgetPages p) := by
  unfold State.forgetPages
  split
  · exact sameStanding_withdraw s p
  · split
    · exact sameStanding_withdraw s p
    · exact .refl s

theorem sameStanding_vacate (k : Nat) : SameStanding s (s.vacate k) := by
  unfold State.vacate State.vacateNow
  dsimp only
  split
  · exact .of_tasksets rfl
  · split
    · exact SameStanding.trans (.of_tasksets rfl) (sameStanding_forgetPages _ _)
    · exact SameStanding.trans (.of_tasksets rfl) (sameStanding_forgetPages _ _)
    · exact .refl s

theorem sameStanding_vacateCore (n : Nat) (w : Who) : SameStanding s (s.vacateCore n w) := by
  refine sameStanding_fold _ (fun s k => ?_) _ s
  unfold State.endVacate
  split
  · exact .of_tasksets rfl
  · exact sameStanding_vacate s k

theorem sameStanding_cancelAll (wb : List Cmd) : SameStanding s (s.cancelAll wb) := by
  refine sameStanding_fold _ (fun s c => ?_) wb s
  cases c
  case rent r =>
    cases r
    case rent k h => exact SameStanding.trans (.of_tasksets rfl) (sameStanding_forgetPages _ _)
    all_goals exact .of_tasksets rfl
  all_goals exact .of_tasksets rfl

theorem sameStanding_restore (n : Nat) : SameStanding s (s.restore n) := by
  have hbytes := revert_only s n (s.agent n)
  have hcancel := sameStanding_cancelAll (((s.revertNear n (s.agent n).journal).revertRows n (s.agent n).touched).revertPoison n (s.agent n))
    (s.agent n).wb
  exact (SameStanding.of_tasksets (by rw [hbytes])).trans (hcancel.trans (.of_tasksets rfl))

/-! ## The task that ends -/

/-- An entry of a list with the same image may take its place. -/
theorem map_set_same {α β : Type} {f : α → β} {l : List α} {i : Nat} {x y : α} (hx : l[i]? = some x) (hy : f y = f x) :
    (l.set i y).map f = l.map f := by
  obtain ⟨hi, rfl⟩ := List.getElem?_eq_some_iff.mp hx
  rw [List.map_set, hy, ← List.getElem_map f (h := by rwa [List.length_map]), List.set_getElem_self]

/-- A slice that closes moves no task. -/
theorem sameStanding_settlePass (ts j : Nat) : SameStanding s (s.settlePass ts j) := by
  unfold State.settlePass
  dsimp only
  split
  · exact .refl s
  next u hu =>
    split
    · exact .refl s
    next x hx =>
      split
      · intro k
        by_cases hk : k = (s.bearer ts j).1
        · subst hk
          have hset : (u.tasks.set (s.bearer ts j).2 { x with due := false, held := 0 }).map LoomTask.stat = u.tasks.map LoomTask.stat :=
            map_set_same hx rfl
          unfold standing
          dsimp only
          rw [Tab.get_set, hu, Option.map_some, Option.map_some, hset]
        · unfold standing
          dsimp only
          rw [Tab.get_set_ne _ _ _ _ _ hk]
      · exact .refl s

theorem markEnded_standing {w : Who} {u : TaskSet} {x : LoomTask} (hu : Tab.get none s.tasksets w.ts = some u)
    (hx : u.tasks[w.j]? = some x) (hne : x.stat ≠ .ended) (code : Byte) (cause : W64) : ∃ c : Byte, code.toNat ≤ c.toNat ∧
      standing (s.markEnded w code cause) w.ts = some (c, (u.tasks.map LoomTask.stat).set w.j .ended) := by
  unfold State.markEnded
  simp only [hu, hx, if_neg hne]
  refine ⟨if u.code.toNat < code.toNat then code else u.code, ?_, (sameStanding_settlePass _ w.ts w.j w.ts).trans ?_⟩
  · split
    next => exact Nat.le_refl _
    next h => exact Nat.not_lt.mp h
  · unfold standing
    simp only [Tab.get_set, Option.map_some, List.map_set, decide_eq_true_eq]

theorem endAgent_standing {n : Nat} (h : (s.agent n).task ≠ none) (code : Byte) :
    SameStanding (s.markEnded (s.agent n).who code (s.agent n).cause) (s.endAgent n code) := by
  unfold State.endAgent
  dsimp only
  split
  next hnone => exact absurd hnone h
  next => exact (sameStanding_vacateCore _ n _).trans (.of_tasksets rfl)

end

end Sys2Proof.Spec
end

section
/-!
PROOFS. Slice expiry, the watchdog and the forced stop (13 R291, R297, R298): whom a request reaches, and the task that ends without a
checkpoint.
-/

namespace Sys2Proof.Spec

open Sys2Proof Sys2Proof.Machine

/-! ## Slices -/

/-- What the end of a slice asks. -/
def preemptAsk (z : StopReq) : StopReq := { z with preempt := some (z.preempt.getD 0) }

theorem askPreempt_eq : StopReq.askPreempt = preemptAsk := by
  funext z
  unfold StopReq.askPreempt preemptAsk
  cases z.preempt <;> rfl

theorem not_isTile_iff {u : TaskSet} : (!u.isTile) = true ↔ solo u := by
  unfold TaskSet.isTile solo
  split
  next a b c h => simp [h]
  next h => simpa using h

section
variable {s : State} {ts j : Nat} {u : TaskSet} {x : LoomTask}

/-- The slice of a loom task is over: it runs, or its tiles hold its loom still, and it is no tile itself. -/
def sliceOver (s : State) (ts j : Nat) (u : TaskSet) (x : LoomTask) : Prop :=
  (x.stat = .running ∨ s.tilesHold ts j = true) ∧ x.slice ≤ x.held ∧ solo u

variable (hu : Tab.get none s.tasksets ts = some u) (hx : u.tasks[j]? = some x)
include hu hx

theorem sliceExpiry_asks (h : sliceOver s ts j u x) : s.sliceExpiry ts j = s.askStop (loomAgents (loomOf x.agent)) preemptAsk := by
  obtain ⟨hruns, hheld, hsolo⟩ := h
  unfold State.sliceExpiry
  simp only [hu, hx, askPreempt_eq]
  exact if_pos ⟨hruns, hheld, not_isTile_iff.mpr hsolo⟩

theorem sliceExpiry_stays (h : ¬ sliceOver s ts j u x) : s.sliceExpiry ts j = s := by
  unfold State.sliceExpiry
  simp only [hu, hx]
  exact if_neg fun ⟨hruns, hheld, htile⟩ => h ⟨hruns, hheld, not_isTile_iff.mp htile⟩

end

theorem sliceExpiry_reaches {s : State} {ts j : Nat} {u : TaskSet} {x : LoomTask} (hw : ∀ m, (s.agent m).inWait = false)
    (hu : Tab.get none s.tasksets ts = some u) (hx : u.tasks[j]? = some x) (h : sliceOver s ts j u x) :
    ∃ t, exec (.sliceExpiry ts j) s = .next t ∧ t.mem = s.mem ∧ t.tasksets = s.tasksets ∧
      ∀ m, t.agent m = if m ∈ loomAgents (loomOf x.agent) then asked (s.agent m) preemptAsk else s.agent m := by
  obtain ⟨hask, -⟩ := askStop_spec s (loomAgents (loomOf x.agent)) preemptAsk (fun _ => rfl) hw
  obtain ⟨hmem, -, htasks, -⟩ := askStop_keeps s (loomAgents (loomOf x.agent)) preemptAsk (fun _ => rfl) hw
  exact ⟨_, congrArg Host.Outcome.next (sliceExpiry_asks hu hx h), hmem, htasks, hask⟩

/-! ## The watchdog -/

/-- The partition places no tasks while it drains (13 R298 step 2). -/
def stopPlacing (s : State) (part : Nat) : State :=
  { s with parts := Tab.modify Partition.reset s.parts part (fun p => { p with stopping := true }) }

theorem stopPlacing_parts (s : State) (part p : Nat) : Tab.get Partition.reset (stopPlacing s part).parts p =
    { Tab.get Partition.reset s.parts p with stopping := (Tab.get Partition.reset s.parts p).stopping || p == part } := by
  unfold stopPlacing Tab.modify
  by_cases h : p = part
  · subst h
    simp
  · rw [Tab.get_set_ne _ _ _ _ _ h, beq_eq_false_iff_ne.mpr h, Bool.or_false]

theorem stopPlacing_loomsOf (s : State) (part p : Nat) : (stopPlacing s part).loomsOf p = s.loomsOf p := by
  unfold State.loomsOf
  rw [stopPlacing_parts]

section
variable {s : State} {ts : Nat} {u : TaskSet} {q : BitVec 6} {tag : W64} {k : Nat}

theorem drainDue_iff (hq : u.source = .queue q tag k) (ho : u.overdue = false)
    (hp : (Tab.get Partition.reset s.parts u.part.toNat).stopping = false) :
    s.drainDue u = true ↔ (s.qrec q).wdog ≠ 0 ∧ (s.qrec q).wdog.toNat < u.heldTicks := by
  unfold State.drainDue
  simp only [hq, ho, hp]
  simp [BitVec.toNat_eq]

theorem watchdogExpiry_stays (hu : Tab.get none s.tasksets ts = some u) (h : ¬ s.drainDue u = true) : s.watchdogExpiry ts = s := by
  unfold State.watchdogExpiry
  simp only [hu]
  exact if_neg h

/-- The state in which a set's drain has begun, its partition stopped. -/
def drainStarted (s : State) (ts : Nat) (u : TaskSet) : State := (stopPlacing s u.part.toNat).beginDrain ts u

/-- The agents on the partition's looms that the set does not hold. -/
def besideAgents (s : State) (ts : Nat) (u : TaskSet) : List Nat :=
  ((s.loomsOf u.part.toNat).filter (fun l => !(s.heldLooms ts u).contains l)).flatMap loomAgents

variable (hu : Tab.get none s.tasksets ts = some u) (hsolo : solo u) (hw : ∀ m, (s.agent m).inWait = false)
include hu hsolo hw

theorem drainStarted_spec : (drainStarted s ts u).mem = s.mem ∧ (drainStarted s ts u).parts = (stopPlacing s u.part.toNat).parts ∧
    (∃ xs, closed u.tasks xs unstarted ∧
      Tab.get none (drainStarted s ts u).tasksets ts = some { u with overdue := true, tasks := xs }) ∧
    (∀ p, p ≠ ts → Tab.get none (drainStarted s ts u).tasksets p = Tab.get none s.tasksets p) ∧
    ∀ m, (drainStarted s ts u).agent m =
      if m ∈ (s.heldLooms ts u).flatMap loomAgents then asked (s.agent m) drainAsk else s.agent m := by
  obtain ⟨honly, ⟨hothers, -⟩, hset, hdrain⟩ := beginDrain_solo (stopPlacing s u.part.toNat) ts u hu hsolo hw
  unfold drainStarted
  exact ⟨by rw [honly]; rfl, by rw [honly], hset, hothers, hdrain⟩

theorem watchdogExpiry_drains (hd : s.drainDue u = true) :
    s.watchdogExpiry ts = (drainStarted s ts u).askStop (besideAgents s ts u) preemptAsk := by
  obtain ⟨-, hparts, -⟩ := drainStarted_spec hu hsolo hw
  have hlooms : (drainStarted s ts u).loomsOf u.part.toNat = s.loomsOf u.part.toNat := by
    rw [← stopPlacing_loomsOf s u.part.toNat]
    unfold State.loomsOf
    rw [hparts]
  unfold State.watchdogExpiry besideAgents
  simp only [hu]
  rw [if_pos hd, askPreempt_eq, ← hlooms]
  rfl

end

theorem mem_flatMap_loomAgents {ls : List Nat} {m : Nat} :
    m ∈ ls.flatMap loomAgents ↔ ls.any (fun l => (loomAgents l).contains m) = true := by
  simp

theorem mem_filter_loomAgents {ls : List Nat} {p : Nat → Bool} {m : Nat} :
    m ∈ (ls.filter p).flatMap loomAgents ↔ ls.any (fun l => p l && (loomAgents l).contains m) = true := by
  simp [and_assoc]

/-- An agent of the set's looms is asked for the drain, one beside them for a pre-emption. -/
theorem asked_twice (a : Agent) (p q : Prop) [Decidable p] [Decidable q] (mine beside : Bool)
    (hp : p ↔ mine = true) (hq : q ↔ beside = true) :
    (if q then asked (if p then asked a drainAsk else a) preemptAsk else if p then asked a drainAsk else a) =
      asked a (fun z => { z with
        watchdog := if mine then some (z.watchdog.getD 0) else z.watchdog
        preempt := if beside then some (z.preempt.getD 0) else z.preempt }) := by
  simp only [hp, hq]
  unfold asked
  cases h : a.task.isSome
  · simp [h]
  · cases mine <;> cases beside <;> simp [h, drainAsk, preemptAsk]

/-- Steps 1 and 2 of 13 R298. -/
theorem watchdogExpiry_reaches {s : State} {ts : Nat} {u : TaskSet} (hw : ∀ m, (s.agent m).inWait = false)
    (hu : Tab.get none s.tasksets ts = some u) (hsolo : solo u) (hd : s.drainDue u = true) :
    let hers := s.heldLooms ts u
    let mine (m : Nat) : Bool := hers.any (fun l => (loomAgents l).contains m)
    let beside (m : Nat) : Bool := (s.loomsOf u.part.toNat).any (fun l => !hers.contains l && (loomAgents l).contains m)
    ∃ t, exec (.watchdogExpiry ts) s = .next t ∧ t.mem = s.mem ∧
      (∀ p, Tab.get Partition.reset t.parts p = { Tab.get Partition.reset s.parts p with
        stopping := (Tab.get Partition.reset s.parts p).stopping || p == u.part.toNat }) ∧
      (∃ xs, closed u.tasks xs unstarted ∧ Tab.get none t.tasksets ts = some { u with overdue := true, tasks := xs }) ∧
      (∀ p, p ≠ ts → Tab.get none t.tasksets p = Tab.get none s.tasksets p) ∧
      ∀ m, t.agent m = asked (s.agent m) (fun z => { z with
        watchdog := if mine m then some (z.watchdog.getD 0) else z.watchdog
        preempt := if beside m then some (z.preempt.getD 0) else z.preempt }) := by
  intro hers mine beside
  obtain ⟨hmem, hparts, hset, hothers, hdrain⟩ := drainStarted_spec hu hsolo hw
  have hwait (m : Nat) : ((drainStarted s ts u).agent m).inWait = false := by
    rw [hdrain]
    split
    · exact (asked_inWait _ _).trans (hw m)
    · exact hw m
  obtain ⟨hask, -⟩ := askStop_spec (drainStarted s ts u) (besideAgents s ts u) preemptAsk (fun _ => rfl) hwait
  obtain ⟨hmem', -, htasks', hparts'⟩ := askStop_keeps (drainStarted s ts u) (besideAgents s ts u) preemptAsk (fun _ => rfl) hwait
  refine ⟨_, congrArg Host.Outcome.next (watchdogExpiry_drains hu hsolo hw hd), hmem'.trans hmem, fun p => ?_, ?_, fun p hp => ?_,
    fun m => ?_⟩
  · rw [hparts', hparts, stopPlacing_parts]
  · rwa [htasks']
  · rw [htasks', hothers p hp]
  · rw [hask, hdrain]
    exact asked_twice (s.agent m) _ _ (mine m) (beside m) mem_flatMap_loomAgents mem_filter_loomAgents

/-! ## The forced stop -/

theorem drainForceStop_early {s : State} {n c : Nat} (hc : (s.agent n).stop.watchdog = some c) (h : c < 4096) : s.drainForceStop n = s := by
  unfold State.drainForceStop
  simp only [hc]
  exact if_neg (Nat.not_le.mpr h)

theorem drainForceStop_ends {s : State} {n c : Nat} (hm : s.members n = [n]) (hc : (s.agent n).stop.watchdog = some c) (h : 4096 ≤ c) :
    s.drainForceStop n = (s.restore n).endAgent n 0x04 := by
  unfold State.drainForceStop
  simp only [hc, hm]
  exact if_pos h

theorem restore_task (s : State) (n : Nat) : ((s.restore n).agent n).task = (s.agent n).task := by
  obtain ⟨_, _, _, _, _, h⟩ := restore_agent s n
  rw [h]
  rfl

theorem restore_who (s : State) (n : Nat) : ((s.restore n).agent n).who = (s.agent n).who := by
  unfold Agent.who
  rw [restore_task]

/-- A task that ends after a restore leaves nothing of its interval. -/
theorem restored_ended (s : State) (n : Nat) (code : Byte) (ht : (s.agent n).task ≠ none) :
    ended s ((s.restore n).endAgent n code) n := by
  have hagent := endAgent_agent (s.restore n) n code
  rw [if_neg (by rwa [restore_task])] at hagent
  obtain ⟨_, _, _, _, _, hrestored⟩ := restore_agent s n
  rw [hrestored] at hagent
  refine ⟨?_, ?_, ?_, ?_, ?_, ?_, ?_, fun m hm => ?_, fun hsaves => reverts_restore hsaves (endAgent_mem ..)⟩
  case refine_8 => rw [endAgent_agent_ne _ _ _ _ hm, restore_agent_ne _ _ _ hm]
  all_goals rw [hagent]
  all_goals rfl

/-- Its place in its set has ended, with a code no lower. -/
theorem restored_standing {s : State} {n : Nat} {u : TaskSet} {x : LoomTask} (ht : (s.agent n).task ≠ none)
    (hu : Tab.get none s.tasksets (s.agent n).who.ts = some u) (hx : u.tasks[(s.agent n).who.j]? = some x) (hne : x.stat ≠ .ended)
    (code : Byte) : ∃ v y, Tab.get none ((s.restore n).endAgent n code).tasksets (s.agent n).who.ts = some v ∧
      code.toNat ≤ v.code.toNat ∧ v.tasks[(s.agent n).who.j]? = some y ∧ y.stat = .ended := by
  -- the restore leaves the task where it stood
  have hrestore := (sameStanding_restore s n _).trans (standing_some hu)
  obtain ⟨v, z, hv, -, hz, hstat⟩ := standing_task hrestore (stat_some hx)
  obtain ⟨c, hc, hmarked⟩ := markEnded_standing (s.restore n) (w := (s.agent n).who) hv hz (hstat ▸ hne) code ((s.restore n).agent n).cause
  have hended := endAgent_standing (s.restore n) (n := n) (by rwa [restore_task]) code (s.agent n).who.ts
  rw [restore_who, hmarked] at hended
  have hlt : (s.agent n).who.j < (v.tasks.map LoomTask.stat).length := (List.getElem?_eq_some_iff.mp (stat_some hz)).1
  obtain ⟨v, y, hv, rfl, hy, hend⟩ := standing_task hended (List.getElem?_set_self hlt)
  exact ⟨v, y, hv, hc, hy, hend⟩

/-! ## The statement -/

theorem stopRequests : StopRequests := by
  intro s hw
  refine ⟨?slice, ?watchdog, ?forced⟩
  case slice =>
    intro ts j u x hu hx goes
    exact ⟨sliceExpiry_reaches hw hu hx, fun h => congrArg Host.Outcome.next (sliceExpiry_stays hu hx h)⟩
  case watchdog =>
    intro ts u q tag k hu hq ho hp
    have hdue := drainDue_iff (s := s) hq ho hp
    refine ⟨fun h => congrArg Host.Outcome.next (watchdogExpiry_stays hu fun hd => ?_), fun h0 h1 => ?_⟩
    · obtain ⟨h0, h1⟩ := hdue.mp hd
      exact h.elim h0 (Nat.not_le.mpr h1)
    · exact watchdogExpiry_reaches hw hu (fun a b c e => by rw [hq] at e; cases e) (hdue.mpr ⟨h0, h1⟩)
  case forced =>
    intro k c n hm ht hc
    refine ⟨fun h => congrArg Host.Outcome.next (drainForceStop_early hc h), fun h => ?_⟩
    exact ⟨_, congrArg Host.Outcome.next (drainForceStop_ends hm hc h), restored_ended s n 0x04 ht,
      fun u x hu hx hne => restored_standing ht hu hx hne 0x04⟩

/-- Settles O50: a stop request reaches the agents it names and no other (`askStop_spec`); a drain begins with the sets' looms
(`beginDrain_solo`); and the task of a forced stop ends as after any restore (`restored_ended`, `restored_standing`). -/
theorem debugAndStopRequests : Obligations.DebugAndStopRequests := ⟨debugCommands, stopRequests⟩

end Sys2Proof.Spec
end
